-- ==== Sys2Proof/Word.lean ====
section
/-! DEFINITION. The word types of the model: bytes, 32-bit register words and 64-bit addresses. -/

namespace Sys2Proof

/-- One byte of host memory, of a frame or of a buffer. -/
abbrev Byte := BitVec 8

/-- One register of the control window, and one binary32 pattern (00_scope.md, R14). -/
abbrev Word := BitVec 32

/-- A byte that may be doubted: `none` stands for a byte whose word failed its check (R329, R333). -/
abbrev OByte := Option Byte

end Sys2Proof
end

