-- ==== Sys2Proof/Machine/Bits.lean ====
section
/-! DEFINITION. Bit fields, little-endian byte order (R12) and list helpers shared by every family. -/

namespace Sys2Proof.Machine

/-- Bits [lo + len - 1 : lo] of a number. -/
def bits (w lo len : Nat) : Nat := (w >>> lo) % 2 ^ len

/-- One bit of a number as a Bool. -/
def bit (w i : Nat) : Bool := w.testBit i

/-- 1 for true, 0 for false. -/
def b2n (b : Bool) : Nat := if b then 1 else 0

/-- The number that little-endian bytes spell (R12). -/
def leNat : List Byte → Nat
  | [] => 0
  | b :: bs => b.toNat + 256 * leNat bs

/-- `n` bytes of a number, least significant first (R12). -/
def leBytes : Nat → Nat → List Byte
  | 0, _ => []
  | n + 1, v => BitVec.ofNat 8 v :: leBytes n (v / 256)

/-- `len` bytes from offset `off`. -/
def slice (bs : List α) (off len : Nat) : List α := (bs.drop off).take len

/-- The little-endian field of `len` bytes at offset `off` (R12). -/
def fld (bs : List Byte) (off len : Nat) : Nat := leNat (slice bs off len)

/-- The byte at offset `off`, as a number; 0 past the end. -/
def byteAt (bs : List Byte) (off : Nat) : Nat := (bs.getD off 0).toNat

/-- `n` zero bytes. -/
def zeros (n : Nat) : List Byte := List.replicate n 0

/-- Whether every byte of the range is zero. -/
def allZero (bs : List Byte) (off len : Nat) : Bool := (slice bs off len).all (· == 0)

/-- Replace `new.length` bytes at offset `off`. -/
def patch (bs : List α) (off : Nat) (new : List α) : List α :=
  bs.take off ++ new ++ bs.drop (off + new.length)

/-- Apply `f` to element `i`, where there is one. -/
def modAt (l : List α) (i : Nat) (f : α → α) : List α := l.modify i f

/-- The bytes of a list of possibly doubted bytes, when none is doubted (R329). -/
def sound : List OByte → Option (List Byte)
  | [] => some []
  | none :: _ => none
  | some b :: bs => (sound bs).map (b :: ·)

/-- Two's complement reading of a field of `n` bits. -/
def signed (n v : Nat) : Int := if bit v (n - 1) then (v : Int) - 2 ^ n else v

/-- Increment that stays at `top` (saturating counters). -/
def satInc (top n : Nat) : Nat := if n < top then n + 1 else top

/-- Saturating addition at 0xFFFF_FFFF (R133). -/
def satAdd32 (a b : Nat) : Nat := min (a + b) 0xFFFFFFFF

/-- A 32-bit counter plus `n`, saturating. -/
def cntSat (w : Word) (n : Nat) : Word := BitVec.ofNat 32 (satAdd32 w.toNat n)

/-- A 32-bit counter plus `n`, modulo 2^32. -/
def cntMod (w : Word) (n : Nat) : Word := BitVec.ofNat 32 (w.toNat + n)

/-- `a - b` modulo 2^32, the distance between two ring indices (R136, R239, R257, R350). -/
def dist32 (a b : Word) : Nat := (a - b).toNat

/-- A word with bit `i` set. -/
def setBit (w : BitVec n) (i : Nat) : BitVec n := w ||| BitVec.ofNat n (2 ^ i)

/-- A word with bit `i` cleared. -/
def clrBit (w : BitVec n) (i : Nat) : BitVec n := w &&& ~~~ BitVec.ofNat n (2 ^ i)

/-- The effect of a write on a W1C field: each 1 clears that bit (R14). -/
def w1c (old data : BitVec n) : BitVec n := old &&& ~~~ data

/-- Ceiling of a quotient. -/
def ceilDiv (a b : Nat) : Nat := (a + b - 1) / b

/-- Cut a list into chunks of `n` (the last may be shorter); `fuel` bounds the number of chunks. -/
def chunksAux (n : Nat) : Nat → List α → List (List α)
  | 0, _ => []
  | _ + 1, [] => []
  | k + 1, l => l.take n :: chunksAux n k (l.drop n)

/-- Cut a list into chunks of `n`. -/
def chunks (n : Nat) (l : List α) : List (List α) := chunksAux n l.length l

/-- Insert into an ascending list, keeping it without repeats. -/
def insertNat (x : Nat) : List Nat → List Nat
  | [] => [x]
  | y :: ys => if x < y then x :: y :: ys else if x = y then y :: ys else y :: insertNat x ys

/-- The ascending list, without repeats, of the members of a list. -/
def sortNats (l : List Nat) : List Nat := l.foldr insertNat []

/-- Insertion sort by a given order (`lt a b` puts `a` first); equal elements keep their order. -/
def insertBy (lt : α → α → Bool) (x : α) : List α → List α
  | [] => [x]
  | y :: ys => if lt y x then y :: insertBy lt x ys else x :: y :: ys

/-- Insertion sort by a given order. -/
def sortBy (lt : α → α → Bool) (l : List α) : List α := l.foldr (insertBy lt) []

/-- The index of the first element that satisfies `p`. -/
def firstIdx (p : α → Bool) (l : List α) : Option Nat := l.findIdx? p

/-- The largest member of a list of numbers, 0 when empty. -/
def maxNat (l : List Nat) : Nat := l.foldl max 0

/-- The sum of a list of numbers. -/
def sumNat (l : List Nat) : Nat := l.foldl (· + ·) 0

end Sys2Proof.Machine
end

