-- ==== Sys2Proof/Machine/Checks.lean ====
section
/-! DEFINITION. The checks of the T5: CRC-16 of scale lines (R66), CRC-32C (R308), SHA-384 (R367) and the G16 guard code (R326, R391, R392). -/

namespace Sys2Proof.Machine

/-! ## CRC-16 of a scale line (R66) -/

def crc16Bit : Nat → Nat → Nat
  | 0, c => c
  | k + 1, c => crc16Bit k (if bit c 15 then (c * 2 % 65536) ^^^ 0x1021 else c * 2 % 65536)

/-- CRC-16: polynomial 0x1021, initial 0xFFFF, no reflection, no final XOR (R66). -/
def crc16 (bs : List Byte) : Nat :=
  bs.foldl (fun c b => crc16Bit 8 (c ^^^ (b.toNat * 256))) 0xFFFF

/-- The check of a scale line: bytes 0 to 5, the bank byte, bytes 8 to 63 (R66). -/
def lineCheck (line : List Byte) (bank side : Nat) : Nat :=
  crc16 (line.take 6 ++ [BitVec.ofNat 8 (2 * bank + side)] ++ slice line 8 56)

/-! ## CRC-32C (R308) -/

def crc32Bit : Nat → Nat → Nat
  | 0, c => c
  | k + 1, c => crc32Bit k (if bit c 0 then (c / 2) ^^^ 0x82F63B78 else c / 2)

/-- CRC-32C: Castagnoli, reflected, initial and final XOR 0xFFFF_FFFF (R308). -/
def crc32c (bs : List Byte) : Nat :=
  (bs.foldl (fun c b => crc32Bit 8 (c ^^^ b.toNat)) 0xFFFFFFFF) ^^^ 0xFFFFFFFF

/-- A structure followed by its CRC-32C. -/
def withCrc (bs : List Byte) : List Byte := bs ++ leBytes 4 (crc32c bs)

/-- Whether the last four of `n` bytes hold the CRC-32C of those before them. -/
def crcOk (bs : List Byte) (n : Nat) : Bool := fld bs (n - 4) 4 == crc32c (bs.take (n - 4))

/-! ## SHA-384 (R367, FIPS 180-4) -/

/-- The `k`-th root of `n` rounded down, its bits below bit `b` found from the highest on, `r` holding those above. -/
def rootBits (k n : Nat) : Nat → Nat → Nat
  | 0, r => r
  | b + 1, r => rootBits k n b (if (r + 2 ^ b) ^ k ≤ n then r + 2 ^ b else r)

/-- The first 64 bits of the fractional part of the `k`-th root of `p`, for roots below 32. -/
def rootFrac (k p : Nat) : BitVec 64 := BitVec.ofNat 64 (rootBits k (p * 2 ^ (64 * k)) 69 0)

/-- The first eighty primes. -/
def primes80 : List Nat :=
  (List.range 410).filter (fun n => decide (2 ≤ n) && [2, 3, 5, 7, 11, 13, 17, 19].all (fun d => d == n || n % d != 0))

/-- The round constants: from the cube roots of the first eighty primes. -/
def shaK : List (BitVec 64) := primes80.map (rootFrac 3)

/-- The first hash value of SHA-384: from the square roots of the ninth to the sixteenth prime. -/
def sha384Init : List (BitVec 64) := ((primes80.drop 8).take 8).map (rootFrac 2)

/-- A mixing function of FIPS 180-4: the exclusive or of two turns and of a third turn or a shift. -/
def shaMix (x : BitVec 64) (i j : Nat) (last : BitVec 64) : BitVec 64 := x.rotateRight i ^^^ (x.rotateRight j ^^^ last)

/-- The last sixteen words of the message schedule, oldest first, and the word that comes into the rounds with its constant. -/
structure Sha where
  win : List (BitVec 64)
  /-- The eight working words: the newest of the first four first, then of the other four. -/
  lo : List (BitVec 64)
  hi : List (BitVec 64)

/-- One round, with its constant: the window of the schedule moves on by a word. -/
def shaStep (x : Sha) (k : BitVec 64) : Sha :=
  let w := fun (i : Nat) => x.win.getD i 0
  let a := x.lo.headD 0
  let e := x.hi.headD 0
  let pick := (x.hi.getD 2 0) ^^^ (e &&& (x.hi.getD 1 0 ^^^ x.hi.getD 2 0))
  let vote := (a &&& (x.lo.getD 1 0 ||| x.lo.getD 2 0)) ||| (x.lo.getD 1 0 &&& x.lo.getD 2 0)
  let t := w 0 + k + pick + shaMix e 14 18 (e.rotateRight 41) + x.hi.getD 3 0
  { win := x.win.drop 1 ++ [w 0 + w 9 + shaMix (w 1) 1 8 (w 1 >>> 7) + shaMix (w 14) 19 61 (w 14 >>> 6)]
    lo := (t + vote + shaMix a 28 34 (a.rotateRight 39)) :: x.lo.take 3
    hi := (t + x.lo.getD 3 0) :: x.hi.take 3 }

/-- The number that big-endian bytes spell. -/
def beNat (bs : List Byte) : Nat := bs.foldl (fun n b => n * 256 + b.toNat) 0

/-- A block of 128 bytes joins the hash value. -/
def shaBlock (h : List (BitVec 64)) (blk : List Byte) : List (BitVec 64) :=
  let words := (chunks 8 blk).map (fun c => BitVec.ofNat 64 (beNat c))
  let x := shaK.foldl shaStep ⟨words, h.take 4, h.drop 4⟩
  (h.zip (x.lo ++ x.hi)).map (fun p => p.1 + p.2)

/-- The padding of FIPS 180-4 for 1,024-bit blocks. -/
def shaPad (bs : List Byte) : List Byte :=
  bs ++ [0x80] ++ zeros ((239 - bs.length % 128) % 128) ++ (leBytes 16 (8 * bs.length)).reverse

/-- The SHA-384 digest, byte 0 first (R367, R368). -/
def sha384 (bs : List Byte) : List Byte :=
  let h := (chunks 128 (shaPad bs)).foldl shaBlock sha384Init
  (h.take 6).flatMap (fun w => (leBytes 8 w.toNat).reverse)

/-! ## The G16 guard code (R326, R391, R392) -/

def gmulAux : Nat → Nat → Nat → Nat → Nat
  | 0, _, _, acc => acc
  | k + 1, a, b, acc =>
    gmulAux k (if bit a 7 then (2 * a % 256) ^^^ 0x1D else 2 * a) (b / 2)
      (if bit b 0 then acc ^^^ a else acc)

/-- Product in GF(2^8) with polynomial 0x11D (R391). -/
def gmul (a b : Nat) : Nat := gmulAux 8 a b 0

/-- The locators of symbols 0 to 17 (R391). -/
def g16Loc : List Nat := [0x00, 0x01, 0x98, 0x4E, 0x0A, 0x99, 0xD6, 0x44, 0x93, 0x4F, 0x92, 0xD7,
  0xDC, 0xDD, 0x45, 0x0B, 0x02, 0x04]

def xorAll (l : List Nat) : Nat := l.foldl (· ^^^ ·) 0

/-- The guard bits of sixteen data bytes (R391). -/
def g16Guard (d : List Byte) : BitVec 16 :=
  let ds := d.map (·.toNat)
  let d0 := xorAll ds
  let d1 := xorAll (List.zipWith gmul g16Loc ds)
  let g17 := gmul 0x7A (d1 ^^^ gmul 0x02 d0)
  BitVec.ofNat 16 (g17 * 256 + (d0 ^^^ g17))

/-- One guarded word of a port: sixteen data bytes and sixteen guard bits (R390). -/
structure GWord where
  data : List Byte
  guard : BitVec 16
  deriving DecidableEq, Repr, Inhabited

/-- How a checker classifies a word (R392). -/
inductive Checked where
  | good (data : List Byte)
  | corrected (data : List Byte)
  | uncorrectable
  deriving DecidableEq, Repr

/-- The syndrome bytes S0 and S1 of a guarded word (R392). -/
def g16Syndrome (w : GWord) : Nat × Nat :=
  let sy := w.data.map (·.toNat) ++ [w.guard.toNat % 256, w.guard.toNat / 256]
  (xorAll sy, xorAll (List.zipWith gmul g16Loc sy))

/-- Check a guarded word and correct one symbol (R392). -/
def g16Check (w : GWord) : Checked :=
  let s := g16Syndrome w
  if s.1 = 0 ∧ s.2 = 0 then .good w.data
  else if s.1 = 0 then .uncorrectable
  else match firstIdx (fun l => gmul l s.1 == s.2) g16Loc with
    | none => .uncorrectable
    | some i => .corrected (modAt w.data i (fun b => b ^^^ BitVec.ofNat 8 s.1))

/-- A word with the guard bits a correct sender generates (R390). -/
def guarded (d : List Byte) : GWord := ⟨d, g16Guard d⟩

end Sys2Proof.Machine
end

