-- ==== Sys2Proof/Machine/Exact.lean ====
section
/-! DEFINITION. Exact numbers (R17) and the one rounding, to nearest with ties to even, into the wide formats (R13, R57, R111). -/

namespace Sys2Proof.Machine

/-- An exact rational number `num / den`, not reduced; `den` is at least 1 in every value the model forms (R17). -/
structure Q where
  num : Int
  den : Nat
  deriving DecidableEq, Repr, Inhabited

def Q.zero : Q := ⟨0, 1⟩
def Q.ofInt (n : Int) : Q := ⟨n, 1⟩
def Q.add (a b : Q) : Q :=
  if a.den = b.den then ⟨a.num + b.num, a.den⟩ else ⟨a.num * b.den + b.num * a.den, a.den * b.den⟩
def Q.neg (a : Q) : Q := ⟨-a.num, a.den⟩
def Q.sub (a b : Q) : Q := a.add b.neg
def Q.mul (a b : Q) : Q := ⟨a.num * b.num, a.den * b.den⟩
def Q.abs (a : Q) : Q := ⟨a.num.natAbs, a.den⟩
def Q.isZero (a : Q) : Bool := a.num == 0
def Q.isNeg (a : Q) : Bool := a.num < 0
/-- Exact comparison. -/
def Q.lt (a b : Q) : Bool := a.num * b.den < b.num * a.den
def Q.le (a b : Q) : Bool := a.num * b.den ≤ b.num * a.den
def Q.eq (a b : Q) : Bool := a.num * b.den == b.num * a.den
def Q.max (a b : Q) : Q := if a.lt b then b else a
def Q.min (a b : Q) : Q := if b.lt a then b else a
/-- Exact reciprocal of a non-zero number. -/
def Q.inv (a : Q) : Q := if a.num < 0 then ⟨-(a.den : Int), a.num.natAbs⟩ else ⟨a.den, a.num.natAbs⟩
def Q.div (a b : Q) : Q := a.mul b.inv
/-- Floor of a non-negative number. -/
def Q.floor (a : Q) : Nat := a.num.toNat / a.den
/-- The exact power of two. -/
def pow2 (e : Int) : Q := if 0 ≤ e then ⟨2 ^ e.toNat, 1⟩ else ⟨1, 2 ^ (-e).toNat⟩

/-- floor(log2 x) of a positive number. -/
def floorLog2 (x : Q) : Int :=
  let d : Int := (Nat.log2 x.num.toNat : Int) - Nat.log2 x.den
  if (pow2 d).le x then d else d - 1

/-- The smallest j with 2^j at least x, for a positive number (R124, R310). -/
def ceilLog2 (x : Q) : Int :=
  let d := floorLog2 x
  if (pow2 d).eq x then d else d + 1

/-- The integer nearest to a non-negative number, ties to even. -/
def rneNat (x : Q) : Nat :=
  let n := x.num.toNat / x.den
  let r := x.num.toNat % x.den
  if 2 * r < x.den then n else if x.den < 2 * r then n + 1 else n + n % 2

/-- A binary format: precision, smallest and largest normal exponent, width (R13). -/
structure Fmt where
  prec : Nat
  emin : Int
  emax : Int
  width : Nat
  deriving DecidableEq, Repr

def binary32 : Fmt := ⟨24, -126, 127, 32⟩
def bf16 : Fmt := ⟨8, -126, 127, 16⟩
def binary16 : Fmt := ⟨11, -14, 15, 16⟩

/-- The wide format of a type code (R57); code 3 is reserved and read as binary32. -/
def wideFmt (code : Nat) : Fmt := if code = 1 then bf16 else if code = 2 then binary16 else binary32

/-- The size in bytes of an element of a type code (R57). -/
def wideSize (code : Nat) : Nat := if code = 1 ∨ code = 2 then 2 else 4

/-- The pattern of +infinity of a format: the first magnitude that is not finite. -/
def Fmt.infPat (f : Fmt) : Nat := (f.emax - f.emin + 2).toNat * 2 ^ (f.prec - 1)

/-- The poison pattern that the T5 writes in a wide format (R57). -/
def poisonPat (f : Fmt) : Nat := 2 ^ (f.width - 1) + f.infPat + 2 ^ (f.prec - 2)

/-- The magnitude pattern of a positive exact number rounded once with RNE; at or above `infPat` it overflows (R111). -/
def roundMag (f : Fmt) (x : Q) : Nat :=
  let e := floorLog2 x
  let e' := if e < f.emin then f.emin else e
  let n := rneNat (x.mul (pow2 ((f.prec : Int) - 1 - e')))
  if e < f.emin then n else (e - f.emin).toNat * 2 ^ (f.prec - 1) + n

/-- The pattern of an exact number rounded once with RNE; `none` when it overflows (R111). A zero is +0. -/
def roundTo (f : Fmt) (x : Q) : Option Nat :=
  if x.isZero then some 0
  else
    let m := roundMag f x.abs
    if f.infPat ≤ m then none
    else if m = 0 then some 0
    else some (if x.isNeg then 2 ^ (f.width - 1) + m else m)

/-- Rounding that saturates to the largest finite value with the sign of the number; the Bool says whether it did (R111). -/
def roundSat (f : Fmt) (x : Q) : Nat × Bool :=
  match roundTo f x with
  | some p => (p, false)
  | none => ((if x.isNeg then 2 ^ (f.width - 1) else 0) + (f.infPat - 1), true)

/-- The exact value of a pattern; `none` for an infinity or a NaN (R84). -/
def valueOf (f : Fmt) (pat : Nat) : Option Q :=
  let m := pat % 2 ^ (f.width - 1)
  if f.infPat ≤ m then none
  else
    let e := m / 2 ^ (f.prec - 1)
    let frac := m % 2 ^ (f.prec - 1)
    let sig : Int := if e = 0 then frac else frac + 2 ^ (f.prec - 1)
    let sig := if bit pat (f.width - 1) then -sig else sig
    let ex : Int := (if e = 0 then 1 else e) - 1 + f.emin - (f.prec - 1)
    some ((Q.ofInt sig).mul (pow2 ex))

/-- A current value: a finite binary32 pattern, or a NaN pattern, which is poison (R84, R177).
Every format of R57 embeds exactly into binary32. -/
abbrev Val := Word

/-- The poison value (R57). -/
def poison : Val := 0xFFC00000

def Val.isPoison (v : Val) : Bool := binary32.infPat ≤ v.toNat % 2 ^ 31

/-- The exact number a value stands for; `none` for poison. -/
def Val.q (v : Val) : Option Q := valueOf binary32 v.toNat

/-- An element read under R84: infinities and NaNs are poison, zeros are +0, the rest keeps its exact value. -/
def readElem (f : Fmt) (pat : Nat) : Val :=
  match valueOf f pat with
  | none => poison
  | some x => match roundTo binary32 x with
    | some p => BitVec.ofNat 32 p
    | none => poison

/-- fp32(x) as a value; `none` when x overflows binary32 (R17, R111). -/
def fp32 (x : Q) : Option Val := (roundTo binary32 x).map (BitVec.ofNat 32)

/-- fp32(x) with poison on overflow (R183, R314). -/
def fp32P (x : Q) : Val := (fp32 x).getD poison

/-- A value rounded into a format of R57 under R176: the value again, and whether it saturated. -/
def roundVal (code : Nat) (x : Q) : Val × Bool :=
  let r := roundSat (wideFmt code) x
  (readElem (wideFmt code) r.1, r.2)

/-- The bytes a value takes in the wide type of a code: rounded once, poison as R57 (R193); and whether it saturated. -/
def storeVal (code : Nat) (v : Val) : List Byte × Bool :=
  match v.q with
  | none => (leBytes (wideSize code) (poisonPat (wideFmt code)), false)
  | some x => let r := roundSat (wideFmt code) x; (leBytes (wideSize code) r.1, r.2)

/-- The smallest BF16 pattern at or above a non-negative number, at most the largest finite BF16 (R124). -/
def bf16Up (x : Q) : Nat :=
  if x.isZero then 0
  else
    let m := roundMag bf16 x
    let up := match valueOf bf16 m with
      | some y => if y.lt x then m + 1 else m
      | none => m
    min up 0x7F7F

/-- The exact value of a BF16 pattern, 0 where it has none. -/
def bf16Val (p : Nat) : Q := (valueOf bf16 p).getD Q.zero

/-- Whether a binary32 pattern is a valid tensor scale: positive, finite and normal (R51). -/
def validScale (t : Word) : Bool := 0x00800000 ≤ t.toNat && t.toNat < 0x7F800000

/-- Whether a binary32 pattern is a finite value. -/
def isFinite (t : Word) : Bool := t.toNat % 2 ^ 31 < 0x7F800000

/-- The exact value of a word read as binary32, 0 where it is not finite. -/
def wordQ (t : Word) : Q := (Val.q t).getD Q.zero

/-- Whether a zero point is +0 or keeps the limits of R100. -/
def validZero (z : Word) : Bool :=
  z == 0 || (isFinite z && z.toNat % 65536 == 0 &&
    (pow2 (-32)).le (wordQ z).abs && (wordQ z).abs.le (pow2 32))

/-- Integer square root by bits, from bit `k - 1` down: the largest r with r * r at most n, given r0. -/
def isqrtAux (n : Nat) : Nat → Nat → Nat
  | 0, r => r
  | k + 1, r => let r' := r + 2 ^ k; if r' * r' ≤ n then isqrtAux n k r' else isqrtAux n k r

/-- floor of the square root. -/
def isqrt (n : Nat) : Nat := isqrtAux n (Nat.log2 n / 2 + 1) 0

/-- fp32(1 / sqrt m) of a positive number: the root is formed to 2^-200 of its size with its inexactness kept as one more
bit, so that rounding once decides as the exact value would (R198). -/
def rsqrt32 (m : Q) : Option Val :=
  -- 1 / sqrt (a / b) = sqrt (b / a); scaled by 2^k with k even
  let sh : Nat := 2 * (200 + Nat.log2 m.num.toNat)
  let n := m.den * 2 ^ sh / m.num.toNat
  let exact := m.den * 2 ^ sh % m.num.toNat == 0
  let r := isqrt n
  let r2 : Nat := 2 * r + (if exact && r * r == n then 0 else 1)
  fp32 ((Q.ofInt r2).mul (pow2 (-(sh / 2 : Nat) - 1)))

end Sys2Proof.Machine
end

