-- ==== Sys2Proof/Machine/Codebook.lean ====
section
/-! DEFINITION. Codebooks, scale codes, the L20 word and the format word (02_codebooks_and_formats.md, R39 to R69). -/

namespace Sys2Proof.Machine

/-- One side of a codebook bank: a descriptor and a table of 256 binary32 entries (R70, R71). -/
structure Side where
  desc : Word
  tab : List Word
  deriving DecidableEq, Repr, Inhabited

def Side.empty : Side := ⟨0, List.replicate 256 0⟩

/-- Code width w (R70). -/
def Side.width (s : Side) : Nat := bits s.desc.toNat 0 4
/-- 0 = mirrored, 1 = free (R70). -/
def Side.free (s : Side) : Bool := bit s.desc.toNat 4
def Side.codeMap (s : Side) : Bool := bit s.desc.toNat 5
def Side.magCount (s : Side) : Nat := bits s.desc.toNat 8 8
def Side.entry (s : Side) (k : Nat) : Word := s.tab.getD k 0

/-- The sign bit of a binary32 word. -/
def signBit (w : Word) : Bool := w.getLsbD 31

/-- The order of finite binary32 values, as integers. -/
def ordKey (w : Word) : Int := if signBit w then -(w.toNat % 2 ^ 31 : Nat) else (w.toNat : Int)

/-- The examined entries (R43). -/
def Side.examined (s : Side) : List Word :=
  s.tab.take (if s.free then 2 ^ s.width else s.magCount)

/-- Strictly ascending (R43 rule 0x7). -/
def ascends : List Word → Bool
  | a :: b :: r => ordKey a < ordKey b && ascends (b :: r)
  | _ => true

/-- Rule 0x1 of R43. -/
def Side.widthOk (s : Side) : Bool :=
  (s.width == 2 || s.width == 3 || s.width == 4 || s.width == 8) &&
  (s.free || (2 ≤ s.magCount && s.magCount ≤ 2 ^ (s.width - 1)))

/-- The load-time check: 0x0 accepted, else the code of the first rule that fails (R43). -/
def Side.check (s : Side) : Nat :=
  let ex := s.examined
  let nz := ex.filter (fun w => w.toNat % 2 ^ 31 != 0)
  if !s.widthOk then 1
  else if ex.any (fun w => !isFinite w) then 2
  else if ex.any (fun w => w == 0x80000000 || (!s.free && signBit w)) then 3
  else if !(if s.free then ex.any (· == 0) else s.entry 0 == 0) then 4
  else if nz.any (fun w => w.toNat % 2 ^ 31 < 0x2F800000 || 0x4F800000 < w.toNat % 2 ^ 31) then 5
  else if nz.any (fun w => w.toNat % 65536 != 0) then 6
  else if !ascends ex then 7
  else 0

/-- The binary exponents of the non-zero examined magnitudes (R44). -/
def Side.exps (s : Side) : List Int :=
  (s.examined.filter (fun w => w.toNat % 2 ^ 31 != 0)).map (fun w => (bits w.toNat 23 8 : Int) - 127)

/-- EMIN of an accepted side (R44). -/
def Side.emin (s : Side) : Int := s.exps.foldl min 32
/-- EMAX of an accepted side (R44). -/
def Side.emax (s : Side) : Int := s.exps.foldl max (-32)
/-- E8_LO = max(1 - EMIN, 0x00) (R44). -/
def Side.e8lo (s : Side) : Nat := (1 - s.emin).toNat
/-- E8_HI = min(254 - EMAX, 0xFE) (R44). -/
def Side.e8hi (s : Side) : Nat := min (254 - s.emax).toNat 0xFE

/-- The value of CB_RANGE for a live side (R74). -/
def Side.range (s : Side) : Word :=
  BitVec.ofNat 32 (s.e8hi * 2 ^ 24 + s.e8lo * 2 ^ 16 + (s.emax % 256).toNat * 2 ^ 8 + (s.emin % 256).toNat)

/-- Decode a code to its binary32 value; `none` is void (R39). -/
def Side.decode (s : Side) (c : Nat) : Option Word :=
  if s.free then
    some (s.entry (if s.codeMap then c ^^^ 2 ^ (s.width - 1) else c))
  else
    let k := c % 2 ^ (s.width - 1)
    if s.magCount ≤ k then none
    else if k = 0 then some 0
    else if bit c (s.width - 1) then some (s.entry k ||| 0x80000000) else some (s.entry k)

/-- The index of the +0 entry of a free table. -/
def Side.zeroIdx (s : Side) : Nat := (firstIdx (· == 0) s.examined).getD 0

/-- The zero code (R41). -/
def Side.zeroCode (s : Side) : Nat :=
  if s.free then (if s.codeMap then s.zeroIdx ^^^ 2 ^ (s.width - 1) else s.zeroIdx) else 0

/-- Whether the codebook has a void code (R59). -/
def Side.hasVoid (s : Side) : Bool := !s.free && s.magCount < 2 ^ (s.width - 1)

/-- The void code written as a mark: sign 0 and index 2^(w-1) - 1 (R69). -/
def Side.voidMark (s : Side) : Nat := 2 ^ (s.width - 1) - 1

/-- One value of the line V: its exact value, its code and its position (R42, R86). -/
structure Entry where
  val : Q
  code : Nat
  pos : Nat
  deriving DecidableEq, Repr, Inhabited

/-- The ascending line of values V (R86). -/
def Side.line (s : Side) : List Entry :=
  if s.free then
    s.examined.mapIdx (fun i w =>
      ⟨wordQ w, if s.codeMap then i ^^^ 2 ^ (s.width - 1) else i,
       if s.zeroIdx ≤ i then i - s.zeroIdx else s.zeroIdx - i⟩)
  else
    let pos := ((List.range s.magCount).drop 1).map (fun k => (⟨wordQ (s.entry k), k, k⟩ : Entry))
    let neg := pos.map (fun e => (⟨e.val.neg, 2 ^ (s.width - 1) + e.pos, e.pos⟩ : Entry))
    neg.reverse ++ [⟨Q.zero, 0, 0⟩] ++ pos

/-- The upper limit `top` of a line. -/
def lineTop (v : List Entry) : Q := (v.getLastD ⟨Q.zero, 0, 0⟩).val
/-- The lower limit `bot` of a line. -/
def lineBot (v : List Entry) : Q := (v.headD ⟨Q.zero, 0, 0⟩).val.neg

/-! ## Presets (R45) -/

/-- The binary32 word of an exact value that binary32 holds. -/
def exactWord (x : Q) : Word := (fp32 x).getD 0

def presetE4M3 (k : Nat) : Word :=
  let e := k / 8; let m := k % 8
  exactWord (if e = 0 then (Q.ofInt m).mul (pow2 (-9)) else (⟨8 + m, 8⟩ : Q).mul (pow2 (e - 7)))
def presetE5M2 (k : Nat) : Word :=
  let e := k / 4; let m := k % 4
  exactWord (if e = 0 then (Q.ofInt m).mul (pow2 (-16)) else (⟨4 + m, 4⟩ : Q).mul (pow2 (e - 15)))
def presetInt8 (k : Nat) : Word := exactWord ((Q.ofInt ((k : Int) - 128)).mul (pow2 (-6)))

/-- A table of `n` entries of a function, filled to 256 with zeros. -/
def tableOf (n : Nat) (f : Nat → Word) : List Word :=
  (List.range n).map f ++ List.replicate (256 - n) 0

/-- The preset side of a PRESET_ID; `none` for an unknown one (R45). DEDUCED, unsafe (notes/assumptions/89.md). -/
def preset (id : Nat) : Option Side :=
  match id with
  | 1 => some ⟨0x804, [0x00000000, 0x3F000000, 0x3F800000, 0x3FC00000, 0x40000000, 0x40400000,
      0x40800000, 0x40C00000] ++ List.replicate 248 0⟩
  | 2 => some ⟨0x7F08, tableOf 127 presetE4M3⟩
  | 3 => some ⟨0x7C08, tableOf 124 presetE5M2⟩
  | 4 => some ⟨0x38, tableOf 256 presetInt8⟩
  | _ => none

/-! ## Scale codes -/

/-- The three scale modes (R58); code 3 is reserved. -/
inductive ScaleMode where
  | unscaled | ue5m3 | e8m0
  deriving DecidableEq, Repr, Inhabited

/-- The value of a UE5M3 byte below 0xF8 (R47). -/
def ue5m3Val (b : Nat) : Q :=
  let e := b / 8; let m := b % 8
  if e = 0 then (Q.ofInt m).mul (pow2 (-17)) else (⟨8 + m, 8⟩ : Q).mul (pow2 ((e : Int) - 15))

/-- The value of a scale byte; `none` when the byte reads as poison for a core (R48 to R50, R112). -/
def scaleVal (m : ScaleMode) (b : Nat) : Option Q :=
  match m with
  | .unscaled => some (Q.ofInt 1)
  | .ue5m3 => if 0xF8 ≤ b then none else some (ue5m3Val b)
  | .e8m0 => if b = 0xFF then none else some (pow2 ((b : Int) - 127))

/-! ## The format word (R58) -/

/-- A format word. -/
structure FmtWord where
  raw : Nat
  deriving DecidableEq, Repr, Inhabited

def FmtWord.bank (f : FmtWord) : Nat := bits f.raw 12 4
def FmtWord.scaleCode (f : FmtWord) : Nat := bits f.raw 10 2
def FmtWord.furrow (f : FmtWord) : Nat := if bit f.raw 9 then 32 else 16
def FmtWord.axis (f : FmtWord) : Bool := bit f.raw 8
def FmtWord.bare (f : FmtWord) : Bool := bit f.raw 7
def FmtWord.rsv (f : FmtWord) : Nat := bits f.raw 0 7
def FmtWord.mode (f : FmtWord) : ScaleMode :=
  if f.scaleCode = 1 then .ue5m3 else if f.scaleCode = 2 then .e8m0 else .unscaled
/-- Whether the tensor has scale lines (R58, R65). -/
def FmtWord.lines (f : FmtWord) : Bool := f.mode != .unscaled && !f.bare

/-- Bytes per furrow of codes (R62). -/
def furrowBytes (fl w : Nat) : Nat := fl * w / 8

/-- Furrow index and position of element (r, c) of an R x C view (R60). -/
def furrowOf (axis : Bool) (fl cols r c : Nat) : Nat × Nat :=
  if axis then (r / fl * cols + c, r % fl)
  else (r * ceilDiv cols fl + c / fl, c % fl)

/-- Number of furrows of an R x C view (R60, R64). -/
def furrowCount (axis : Bool) (fl rows cols : Nat) : Nat :=
  if axis then ceilDiv rows fl * cols else rows * ceilDiv cols fl

/-- The bytes of a furrow's codes: a little-endian bit stream (R62). -/
def packCodes (w : Nat) (codes : List Nat) : List Byte :=
  leBytes (codes.length * w / 8) (codes.foldr (fun c n => c % 2 ^ w + n * 2 ^ w) 0)

/-- The codes that a bit stream holds (R62). -/
def unpackCodes (w n : Nat) (bs : List Byte) : List Nat :=
  let v := leNat bs
  (List.range n).map (fun j => bits v (w * j) w)

/-- A scale line: first furrow, stream tag, check and 56 scale bytes, padded with 0x00 (R65 to R67). -/
def scaleLine (first tag bank side : Nat) (scales : List Nat) : List Byte :=
  let body := (scales.map (BitVec.ofNat 8)) ++ zeros (56 - scales.length)
  let head := leBytes 4 first ++ leBytes 2 tag
  let check := lineCheck (head ++ zeros 2 ++ body) bank side
  head ++ leBytes 2 check ++ body

/-! ## The L20 word (R53) -/

def l20Poison : BitVec 20 := 0x7F800

/-- The L20 word of an exact value that L20 holds (R53, R54). -/
def l20 (x : Q) : BitVec 20 :=
  if x.isZero then 0
  else
    let e := floorLog2 x.abs
    let m := rneNat (x.abs.mul (pow2 (11 - e))) - 2048
    BitVec.ofNat 20 ((if x.isNeg then 2 ^ 19 else 0) + (e + 127).toNat * 2 ^ 11 + m)

/-- What one lane of a lift slice gives (R212). -/
def liftLane (s : Side) (mode : ScaleMode) (sByte : Nat) (poisoned : Bool) (c : Nat) : BitVec 20 :=
  if poisoned then l20Poison
  else
    let sv : Option (Option Q) := match mode with
      | .ue5m3 => if sByte = 0 then none else some (scaleVal .ue5m3 sByte)
      | .e8m0 => if sByte = 0xFF || sByte < s.e8lo || s.e8hi < sByte then some none
                 else some (scaleVal .e8m0 sByte)
      | .unscaled => some (some (Q.ofInt 1))
    match sv with
    | none => 0
    | some none => l20Poison
    | some (some q) => match s.decode c with
      | none => l20Poison
      | some v => l20 ((wordQ v).mul q)

end Sys2Proof.Machine
end

