-- ==== Sys2Proof/Machine/TypesPort.lean ====
section
/-! DEFINITION. What is built (R19, R29 to R33), the outputs of a step, cluster ports, control-island accesses and the health
block's data (14_ports_and_integration.md, 12_resilience.md). -/

namespace Sys2Proof.Machine

/-! ## The build (01_architecture.md, Sizes by configuration) -/

/-- The five configurations. -/
inductive Config8 where
  | t5x8 | t5x64 | t5x128 | t5x256 | t5x512
  deriving DecidableEq, Repr, Inhabited

/-- What an integration builds: its configuration row and the number of lift slices (R32, R33). -/
structure Build where
  cfg : Config8
  liftBuilt : Nat
  deriving DecidableEq, Repr, Inhabited

/-- Number of regions. -/
def Build.regions (b : Build) : Nat :=
  match b.cfg with
  | .t5x8 | .t5x64 => 1
  | .t5x128 => 2
  | .t5x256 => 4
  | .t5x512 => 8

/-- Clusters of a region (R19). -/
def Build.clustersPerRegion (b : Build) : Nat := if b.cfg = .t5x8 then 1 else 8
/-- Clusters of the instance (R377). -/
def Build.clusters (b : Build) : Nat := b.regions * b.clustersPerRegion
/-- Logical positions of a region (12_resilience.md: on a T5-8 positions 8 to 63 are reserved). -/
def Build.positions (b : Build) : Nat := b.clustersPerRegion * 8
def Build.activeCores (b : Build) : Nat := b.regions * b.positions
/-- Tracker slots (R30). -/
def Build.slots (b : Build) : Nat :=
  match b.cfg with
  | .t5x8 => 1024
  | .t5x64 => 8192
  | .t5x128 => 16384
  | .t5x256 => 32768
  | .t5x512 => 65536
/-- Maximum number of lift slices (R31). -/
def Build.liftMax (b : Build) : Nat :=
  match b.cfg with
  | .t5x8 => 16
  | .t5x64 => 128
  | .t5x128 => 256
  | .t5x256 => 512
  | .t5x512 => 1024
def Build.linkPorts (b : Build) : Nat :=
  match b.cfg with
  | .t5x8 => 1
  | .t5x64 => 2
  | .t5x128 => 4
  | .t5x256 => 8
  | .t5x512 => 16
def Build.contexts (b : Build) : Nat :=
  match b.cfg with
  | .t5x8 => 8
  | .t5x64 => 16
  | .t5x128 => 32
  | .t5x256 | .t5x512 => 64
def Build.headlandMib (b : Build) : Nat := b.activeCores / 8
def Build.dmaChannels (b : Build) : Nat := 32 * b.regions
/-- The region of a cluster (R377). -/
def Build.regionOf (b : Build) (cluster : Nat) : Nat := cluster / b.clustersPerRegion
/-- The cluster of a position of a region (12_resilience.md: position p belongs to cluster p // 8). -/
def Build.clusterOf (b : Build) (r p : Nat) : Nat := r * b.clustersPerRegion + p / 8
/-- The home region of a tracker slot (R23). DESIGN CHOICE, unsafe (notes/assumptions/63.md). -/
def Build.homeRegion (b : Build) (slot : Nat) : Nat := slot / (b.slots / b.regions)

/-- ID_PARAMS0 (R29). -/
def Build.params0 (b : Build) : Word :=
  BitVec.ofNat 32 (b.regions * 2 ^ 24 + b.activeCores * 2 ^ 14 + b.regions * 2 ^ 10 + b.headlandMib)
/-- ID_PARAMS1 (R30). -/
def Build.params1 (b : Build) : Word := BitVec.ofNat 32 (b.slots * 2 ^ 15 + b.dmaChannels * 2 ^ 6)
/-- ID_PARAMS2 (R31). -/
def Build.params2 (b : Build) : Word :=
  BitVec.ofNat 32 (b.liftMax * 2 ^ 21 + b.linkPorts * 2 ^ 16 + b.contexts * 2 ^ 9)
/-- ID_PARAMS3 (R32). -/
def Build.params3 (b : Build) : Word := BitVec.ofNat 32 (b.liftBuilt * 2 ^ 21)

/-! ## Outputs -/

/-- What the T5 drives at its ports in one step, in order (R358, R368, R382, R385, R386, R205, R322, R396, R400). -/
inductive Out where
  /-- `cp_ack` with `cp_err` (R383). -/
  | cpAck (err : Bool)
  /-- `cp_ack` of a read with `cp_err` and `cp_rdata` (R383). -/
  | cpRead (err : Bool) (data : Word)
  /-- A read request on a lane of a cluster port (R385). -/
  | read (cluster addr len tag : Nat)
  /-- A WR beat (R385, R387). -/
  | write (cluster addr len tag : Nat) (words : List GWord)
  /-- SOPEN, SDATA, SLINE and SCLOSE beats of a stream id (R385, R393). -/
  | sopen (cluster sid route : Nat) (words : List GWord)
  | sdata (cluster sid len : Nat) (words : List GWord)
  | sline (cluster sid : Nat) (words : List GWord)
  | sclose (cluster sid : Nat)
  /-- Inbound stream credits returned (R388). -/
  | istCredits (cluster n : Nat)
  /-- A toggle of `clu_alive` to a level (R395). -/
  | cluAlive (cluster : Nat) (level : Bool)
  /-- A read of the flash (R359): command and its extension, address, dummy cycles, and the bytes of the one transfer. -/
  | xspiRead (cmd ext : Byte) (addr : Word) (dummy len : Nat)
  /-- A presentation on the verify handshake (R368). -/
  | vfyPresent (digest : List Byte) (type target sect : Nat)
  /-- A transfer of the control island to a lift slice (R396): the words of a window load. -/
  | lclWindow (slice window : Nat) (words : List Word)
  /-- A code or line credit of a lift slice (R205). -/
  | liftCredit (slice : Nat) (line : Bool)
  /-- An output beat of a lift slice: its lanes, group bits and flags (R205, R209). -/
  | liftBeat (slice : Nat) (lanes : List (BitVec 20)) (groups : Nat) (poison first last : Bool)
  | liftAlive (slice : Nat) (level : Bool)
  /-- A frame handed to the link controller (R322). -/
  | lnkFrame (port : Nat) (bytes : List Byte)
  | lnkAlive (port : Nat) (level : Bool)
  /-- The functional outputs as the boundary register drives them (R400). -/
  | boundary (bits : List Byte)
  /-- What leaves the wrapper at `wso`: the bit of the bypass register, or the bytes of another data register (R400). -/
  | wrapper (bits : List Byte)
  /-- What leaves the scan chains at `wpo` (R400). -/
  | wpo (bits : List Byte)
  deriving DecidableEq, Repr

/-- An octal DDR read of the flash: its address has 4 bytes (R359). DEDUCED, unsafe (notes/assumptions/147.md). -/
def flashRead (addr len : Nat) : Out := .xspiRead 0xEE 0x11 (BitVec.ofNat 32 addr) 20 len

/-! ## Cluster ports (R385 to R395) -/

/-- Who presented a request. `dma` names the region, the channel and the channel's own number for the burst; `core` the
region, the logical position, the lease epoch that the request carries (R335) and the physical core; `ctl` an access of
the control island. All name the access (`job`) that the burst belongs to. -/
inductive Owner where
  | ctl (job : Nat)
  | core (region pos : Nat) (epoch : BitVec 16) (phys job : Nat)
  | dma (region chan burst : Nat)
  deriving DecidableEq, Repr, Inhabited

/-- One read or write burst: its bytes lie in one 256-byte window (R387); `off` is their place in the access. -/
structure Burst where
  owner : Owner
  wr : Bool
  addr : Nat
  len : Nat
  off : Nat
  /-- Attempts already made (R330, R332, R350). -/
  tries : Nat
  /-- The bytes of a write. -/
  data : List Byte
  deriving DecidableEq, Repr, Inhabited

/-- A burst that has been presented, with its tag. -/
structure Req where
  tag : Nat
  burst : Burst
  deriving DecidableEq, Repr, Inhabited

/-- The kinds of stream beats (R385). -/
inductive BeatOp where
  | sopen | sdata | sline | sclose
  deriving DecidableEq, Repr, Inhabited

/-- An outbound stream beat. -/
structure Beat where
  op : BeatOp
  sid : Nat
  route : Nat
  data : List Byte
  /-- The core that sends it: region, position and lease epoch (R335). -/
  region : Nat
  pos : Nat
  epoch : BitVec 16
  deriving DecidableEq, Repr, Inhabited

/-- A receive or send stream open on a cluster port (R393); `swath` is the id of the swath that opened it, `stage` the
place in its program that consumes it. -/
structure OpenStream where
  sid : Nat
  recv : Bool
  region : Nat
  pos : Nat
  swath : Nat
  stage : Nat
  /-- The band of the swath that a PRODUCT exchanges on it (R195); 0 for any other stage. -/
  band : Nat
  /-- Bytes of elements queued for sending. -/
  bytes : Nat
  /-- Its SCLOSE has been presented or has arrived. -/
  closed : Bool
  deriving DecidableEq, Repr, Inhabited

/-- A cluster port pair. -/
structure Port where
  /-- Credit counters (R388). -/
  rd : Nat
  wr : Nat
  st : Nat
  /-- Presented, not yet answered. -/
  out : List Req
  /-- Core bursts that wait for a credit, oldest first. -/
  wait : List Burst
  /-- Stream beats that wait for a credit, oldest first. -/
  beats : List Beat
  streams : List OpenStream
  /-- The level of `clu_alive` (R395). -/
  alive : Bool
  /-- The partner of the pair is lost (R395). -/
  lost : Bool
  /-- The last read burst, and the last write burst, was the DMA engine's (R22). -/
  lastDmaRd : Bool
  lastDmaWr : Bool
  /-- Class (a write or not) and tag of the requests that timed out: an answer that still comes is discarded (R331). -/
  late : List (Bool × Nat)
  deriving DecidableEq, Repr, Inhabited

/-- A port at reset. DESIGN CHOICE, unsafe (notes/assumptions/14.md). -/
def Port.reset : Port := ⟨0, 0, 0, [], [], [], [], false, false, true, true, []⟩

/-! ## The fault log and the health registers (R348 to R353) -/

/-- A fault-log entry without its index and CRC (R348). -/
structure LogEntry where
  code : Nat
  kind : Nat
  region : Nat
  unit : Nat
  ctx : Nat
  d0 : Nat
  a : Nat
  time : Nat
  deriving DecidableEq, Repr, Inhabited

/-- Where the write of the first entry in the queue stands. -/
inductive LogPhase where
  | idle
  /-- Bytes 4 to 31 are being written. -/
  | body
  /-- They are acknowledged; SEQ is next. -/
  | bodyDone
  /-- SEQ is being written. -/
  | seq
  deriving DecidableEq, Repr, Inhabited

/-- The health block (R351, R350). -/
structure Health where
  ctxStop : Bool
  fenced : Bool
  coreLost : Bool
  cfg : Word
  memTmo : Word
  wedgedSeq : Bool
  wedgedRecipes : Bool
  ceCount : Word
  ueCount : Word
  fenceDrop : Word
  coreCtrl : Word
  logBaseLo : Word
  logBaseHi : Word
  logLog2 : Nat
  logWrite : Word
  logRelease : Word
  logLost : Word
  /-- Entries in order: held before the ring is set up, or waiting to be written. -/
  queue : List LogEntry
  phase : LogPhase
  deriving DecidableEq, Repr, Inhabited

def Health.reset : Health where
  ctxStop := false
  fenced := false
  coreLost := false
  cfg := 0x23
  memTmo := 0x10000
  wedgedSeq := false
  wedgedRecipes := false
  ceCount := 0
  ueCount := 0
  fenceDrop := 0
  coreCtrl := 0
  logBaseLo := 0
  logBaseHi := 0
  logLog2 := 0
  logWrite := 0
  logRelease := 0
  logLost := 0
  queue := []
  phase := .idle

/-- HLT_CFG.RETRY (R351). -/
def Health.retry (h : Health) : Nat := bits h.cfg.toNat 0 4
/-- HLT_CFG.UE_LIMIT; 0 acts as 1 (R351). -/
def Health.ueLimit (h : Health) : Nat := max (bits h.cfg.toNat 4 4) 1
def Health.logCe (h : Health) : Bool := bit h.cfg.toNat 8

end Sys2Proof.Machine
end

