-- ==== Sys2Proof/Machine/TypesDma.lean ====
section
/-! DEFINITION. The data of a region's DMA engine and its channels (10_region_dma.md). -/

namespace Sys2Proof.Machine

/-- A node of the graph in a slot of a context. -/
structure NodeRef where
  ctx : Nat
  graph : Nat
  node : Nat
  deriving DecidableEq, Repr, Inhabited

/-- DMA_STAT.STATE (R301). `ending`: the outcome of the run is decided and no further burst is presented. -/
inductive ChanState where
  | idle | active | ending
  deriving DecidableEq, Repr, Inhabited

/-- What a presented burst of a channel is for: a source read, a destination write or a descriptor fetch. -/
inductive FlightKind where
  | read | write | fetch
  deriving DecidableEq, Repr, Inhabited

/-- A presented burst of a channel: its units are at stream offset `pos` on; `desc` when they lie at falling addresses (R281). -/
structure Flight where
  id : Nat
  kind : FlightKind
  block : Nat
  pos : Nat
  len : Nat
  width : Nat
  desc : Bool
  deriving DecidableEq, Repr, Inhabited

/-- Where the completion record of a direct channel stands (R294). -/
inductive RecPhase where
  | none | body | bodyDone | seq
  deriving DecidableEq, Repr, Inhabited

/-- The current block of a channel (R277): its widths, swap and walks, decoded from the register image. -/
structure Block where
  src : Nat
  dst : Nat
  sw : Nat
  dw : Nat
  swap : Nat
  barrier : Bool
  sn0 : Nat
  dn0 : Nat
  n1 : Nat
  n2 : Nat
  ss0 : Int
  ds0 : Int
  ss1 : Int
  ds1 : Int
  ss2 : Int
  ds2 : Int
  next : Nat
  deriving DecidableEq, Repr, Inhabited

/-- A DMA channel. -/
structure Chan where
  /-- The registers at offsets 0x00 to 0x38 (R301). -/
  regs : List Word
  cfg : Word
  cplLo : Word
  cplHi : Word
  state : ChanState
  status : Nat
  cause : Nat
  blkf : Nat
  wrDrop : Bool
  seqErr : Bool
  pos : Nat
  hops : Nat
  run : Word
  /-- The node it runs, `none` for a direct run (R296). -/
  node : Option NodeRef
  /-- The priority of the run (R301). -/
  prio : Nat
  /-- Address of the current descriptor, 0 for the register block (R294). -/
  blockAddr : Nat
  /-- A block is current and may move data. -/
  running : Bool
  /-- A descriptor fetch that may be presented. -/
  fetchAt : Option Nat
  /-- Number of the current block in the run. -/
  block : Nat
  /-- Units of each side already put into presented bursts. -/
  srcIdx : Nat
  dstIdx : Nat
  /-- Source bytes that have arrived, by stream offset. -/
  buf : List (Nat × List Byte)
  /-- Acknowledged stream ranges of the current block beyond `pos`. -/
  acked : List (Nat × Nat)
  /-- Blocks whose bursts are all presented, with their sizes. -/
  doneBlocks : List (Nat × Nat)
  badBlocks : List Nat
  flights : List Flight
  nextFlight : Nat
  /-- The decided outcome, status and cause. -/
  outcome : Option (Nat × Nat)
  /-- The rule that the run's faulty block breaks, which DMA_STAT shows when the run has ended (R283, R289). -/
  fault : Nat
  recPh : RecPhase
  deriving DecidableEq, Repr, Inhabited

/-- A DMA channel at reset. DESIGN CHOICE, unsafe (notes/assumptions/14.md). -/
def Chan.reset : Chan where
  regs := List.replicate 15 0
  cfg := 0
  cplLo := 0
  cplHi := 0
  state := .idle
  status := 0
  cause := 0
  blkf := 0
  wrDrop := false
  seqErr := false
  pos := 0
  hops := 0
  run := 0
  node := none
  prio := 0
  blockAddr := 0
  running := false
  fetchAt := none
  block := 0
  srcIdx := 0
  dstIdx := 0
  buf := []
  acked := []
  doneBlocks := []
  badBlocks := []
  flights := []
  nextFlight := 0
  outcome := none
  fault := 0
  recPh := .none

/-- A channel whose burst failed, with the cause and the failed address of the first of them (R297). -/
structure Culprit where
  chan : Nat
  cause : Nat
  addr : Nat
  /-- The lowest cause of its failed bursts, which the run ends with (R256). -/
  low : Nat
  deriving DecidableEq, Repr, Inhabited

/-- The DMA engine of a region (R300). -/
structure Dma where
  stopped : Bool
  draining : Bool
  ownDrop : Bool
  seqErr : Bool
  errCh : Nat
  errCause : Nat
  autoResume : Bool
  own : Word
  hoplim : Word
  errAddr : Nat
  event : Word
  evmask : Word
  stops : Word
  /-- The channel granted last at each priority, for reads and for writes (R290). -/
  lastRead : List Nat
  lastWrite : List Nat
  culprits : List Culprit
  chans : List Chan
  deriving DecidableEq, Repr, Inhabited

/-- A DMA engine at reset. DESIGN CHOICE, unsafe (notes/assumptions/14.md). -/
def Dma.reset : Dma where
  stopped := false
  draining := false
  ownDrop := false
  seqErr := false
  errCh := 0
  errCause := 0
  autoResume := true
  own := 0
  hoplim := 0x10000
  errAddr := 0
  event := 0
  evmask := 0
  stops := 0
  lastRead := List.replicate 8 31
  lastWrite := List.replicate 8 31
  culprits := []
  chans := List.replicate 32 Chan.reset

end Sys2Proof.Machine
end

