-- ==== Sys2Proof/Machine/TypesBoot.lean ====
section
/-! DEFINITION. The data of reset, loader, verify handshake, live update, stores, codebook banks, the test port of the
random-bit generator and the test wrapper (13_bringup_and_image.md, 02_codebooks_and_formats.md, 08_random_bits.md,
14_ports_and_integration.md). -/

namespace Sys2Proof.Machine

/-! ## Reset -/

/-- Whether and why a full reset is in force (R354). -/
inductive Rst where
  | run
  /-- `t5_reset_b` is 0. -/
  | pin
  /-- Requested through RDY_RESET. -/
  | requested
  deriving DecidableEq, Repr, Inhabited

/-! ## Sections (R361, R362) -/

/-- A section-table entry with its raw bytes. -/
structure Section where
  raw : List Byte
  deriving DecidableEq, Repr, Inhabited

def Section.type (e : Section) : Nat := byteAt e.raw 0
def Section.target (e : Section) : Nat := fld e.raw 2 2
def Section.offset (e : Section) : Nat := fld e.raw 4 4
def Section.length (e : Section) : Nat := fld e.raw 8 4
def Section.crc (e : Section) : Nat := fld e.raw 12 4
def Section.param (e : Section) : Nat := fld e.raw 16 4

/-- IMG_STAT.STATE (R376). -/
inductive LdrState where
  | header | early | selftest | sections | done | noImage
  deriving DecidableEq, Repr, Inhabited

/-- What the loader's read in flight covers (R359). -/
inductive LdrRead where
  | none | header | table (hdr : List Byte) | sect (idx tries : Nat)
  deriving DecidableEq, Repr, Inhabited

/-- A row repair in force (R364): the store, its row and the spare row. -/
structure RowRepair where
  region : Nat
  unit : Nat
  row : Nat
  spare : Nat
  deriving DecidableEq, Repr, Inhabited

/-- A row that fails self-test (R364, R400). -/
structure FailRow where
  region : Nat
  unit : Nat
  row : Nat
  deriving DecidableEq, Repr, Inhabited

/-- The loader (R355 to R370). -/
structure Loader where
  state : LdrState
  slot : Nat
  read : LdrRead
  table : List Section
  /-- IMG_RES, one code per section of the table (R370). -/
  res : List Nat
  imageId : Word
  /-- Sections of the current step not yet taken, by index. -/
  todo : List Nat
  /-- Sections read and not yet presented. -/
  ready : List (Nat × List Byte)
  /-- Sections accepted whose application has not ended (a codebook under check). -/
  applying : List Nat
  selftestDone : Bool
  imageOk : Bool
  bootDone : Bool
  trims : List (BitVec 16)
  repairs : List RowRepair
  deriving DecidableEq, Repr, Inhabited

/-- The loader at reset. DESIGN CHOICE, unsafe (notes/assumptions/14.md). -/
def Loader.reset : Loader where
  state := .header
  slot := 0
  read := .header
  table := []
  res := []
  imageId := 0
  todo := []
  ready := []
  applying := []
  selftestDone := false
  imageOk := false
  bootDone := false
  trims := List.replicate 16 0
  repairs := []

/-- What is presented on the verify handshake (R368): a section of the image or a live update. -/
inductive Presented where
  | boot (idx : Nat)
  | live
  deriving DecidableEq, Repr, Inhabited

/-- The verify handshake (R368): the levels of its outputs and the section presented, with its bytes and whether a time-out
was in force when it was presented (R376). -/
structure Verify where
  req : Bool
  digest : List Byte
  type : Nat
  target : Nat
  sect : Nat
  presented : Option Presented
  bytes : List Byte
  timed : Bool
  tmo : Word
  deriving DecidableEq, Repr, Inhabited

def Verify.reset : Verify := ⟨false, zeros 48, 0, 0, 0, none, [], false, 0x4000000⟩

/-- Stages of a live update (R371, R372). -/
inductive LiveStage where
  | idle | readEntry | readSection
  /-- Read and checked, waiting for the handshake to be free. -/
  | waitVerify
  | presented
  /-- Accepted, waiting for its bank to be OPEN, VALID or REJECTED. -/
  | waitBank
  /-- The bank is checking the new side. -/
  | checking
  /-- Accepted sequencer code in the shadow. -/
  | shadow
  deriving DecidableEq, Repr, Inhabited

/-- A live update (R371, R376). -/
structure Live where
  addrLo : Word
  addrHi : Word
  result : Nat
  stage : LiveStage
  /-- The buffer the running update was started with. -/
  buf : Nat
  entry : Section
  bytes : List Byte
  deriving DecidableEq, Repr, Inhabited

def Live.reset : Live := ⟨0, 0, 0, .idle, 0, ⟨[]⟩, []⟩

/-! ## Stores -/

/-- A sequencer slot (R362): the operations it provides and its code. -/
structure SeqSlot where
  opset : BitVec 64
  code : List Byte
  deriving DecidableEq, Repr, Inhabited

/-- CB_STAT.STATE (R73). -/
inductive CbState where
  | opn | checking | valid | rejected | switching
  deriving DecidableEq, Repr, Inhabited

/-- The actions of one CB_CTRL write (R77). -/
inductive CbAct where
  | load | commit | switch
  deriving DecidableEq, Repr, Inhabited

/-- A consumer of a bank (R78): a physical core of a region or a lift slice. -/
inductive Consumer where
  | core (region phys : Nat)
  | slice (s : Nat)
  deriving DecidableEq, Repr, Inhabited

/-- Who had the check in progress started: software, a section of the image or the live update. -/
inductive CbUser where
  | sw | boot (idx : Nat) | live
  deriving DecidableEq, Repr, Inhabited

/-- A codebook bank (R70 to R79). -/
structure Bank where
  side0 : Side
  side1 : Side
  /-- CB_CTRL.LIVE: side 1 is live. -/
  live : Bool
  liveValid : Bool
  presetId : Nat
  gen : Nat
  wrDrop : Bool
  seqErr : Bool
  state : CbState
  reject : Nat
  /-- Actions of the same write that start when the one before has finished (R77). -/
  todo : List CbAct
  /-- Consumers that have not yet taken the new side into use (R78). -/
  flip : List Consumer
  user : CbUser
  /-- The BANKSWITCH node that started the switch in progress (R80). -/
  node : Option NodeRef
  /-- The BANKSWITCH nodes that wait for the switch in progress, which CB_CTRL has requested, to complete (R80). -/
  waits : List NodeRef
  wedged : Bool
  deriving DecidableEq, Repr, Inhabited

def Bank.reset : Bank where
  side0 := Side.empty
  side1 := Side.empty
  live := false
  liveValid := false
  presetId := 0
  gen := 0
  wrDrop := false
  seqErr := false
  state := .opn
  reject := 0
  todo := []
  flip := []
  user := .sw
  node := none
  waits := []
  wedged := false

/-- One side of a bank. -/
def Bank.side (b : Bank) (one : Bool) : Side := if one then b.side1 else b.side0
def Bank.liveSide (b : Bank) : Side := b.side b.live
/-- The writable side (R75). -/
def Bank.writable (b : Bank) : Bool := if b.liveValid then !b.live else b.live
def Bank.setSide (b : Bank) (one : Bool) (s : Side) : Bank := if one then { b with side1 := s } else { b with side0 := s }
/-- CB_STAT.LIVE_VALID as it reads: 0 while the bank is wedged (R340). -/
def Bank.ready (b : Bank) : Bool := b.liveValid && !b.wedged

/-! ## The test port of the random-bit generator (R236) -/

structure RngTest where
  seedLo : Word
  seedHi : Word
  sid : Word
  step : Word
  subLo : Word
  subHi : Word
  drawIdx : Word
  busy : Bool
  wrDrop : Bool
  outLo : Word
  outHi : Word
  deriving DecidableEq, Repr, Inhabited

def RngTest.reset : RngTest := ⟨0, 0, 0, 0, 0, 0, 0, false, false, 0, 0⟩

/-! ## The wrapper (R400, R401) -/

/-- The IEEE 1500 wrapper: `wir` the instruction register, `bypass` the 1-bit bypass register, `boundary` the boundary
register, `chains` the bits last shifted into the scan chains, the self-test status and the failing rows it found. -/
structure Wrapper where
  testEn : Bool
  wir : Nat
  bypass : Bool
  boundary : List Byte
  mbistRun : Bool
  mbistDone : Bool
  mbistFail : Bool
  rows : List FailRow
  deriving DecidableEq, Repr, Inhabited

def Wrapper.reset : Wrapper := ⟨false, 0, false, [], false, false, false, []⟩

end Sys2Proof.Machine
end

