-- ==== Sys2Proof/Machine/TypesLift.lean ====
section
/-! DEFINITION. The data of a lift slice (07_lift_slices.md). -/

namespace Sys2Proof.Machine

/-- A code beat as taken (R205): 64 codes as raw bytes. `ue`: an uncorrectable word struck it in the code buffer (R329). -/
structure CodeBeat where
  data : List Byte
  fidx : Nat
  nfur : Nat
  opn : Bool
  fmt : FmtWord
  tag : Nat
  last : Bool
  ue : Bool
  deriving DecidableEq, Repr, Inhabited

/-- A scale line as taken (R205, R65), with the lift cycle in which it was taken. -/
structure LiftLine where
  raw : List Byte
  first : Bool
  ue : Bool
  at' : Nat
  deriving DecidableEq, Repr, Inhabited

def LiftLine.furrow (l : LiftLine) : Nat := fld l.raw 0 4
def LiftLine.tag (l : LiftLine) : Nat := fld l.raw 4 2

/-- A buffered code beat with the lift cycle in which it was taken. -/
structure BufBeat where
  beat : CodeBeat
  at' : Nat
  deriving DecidableEq, Repr, Inhabited

/-- The line currently held (R214): the furrow it covers from, its scale bytes, whether it is bad, its tag, and the side of
the codebook it was taken under (R218). -/
structure CurLine where
  first : Nat
  bytes : List Nat
  bad : Bool
  tag : Nat
  side : Side
  deriving DecidableEq, Repr, Inhabited

/-- An open emission (R205, R210). -/
structure Emission where
  fmt : FmtWord
  tag : Nat
  refused : Bool
  tookFirst : Bool
  /-- The furrow index just past the previous beat's last furrow (R211). -/
  endF : Nat
  /-- A MISMATCH of this emission has been logged (R216). -/
  logged : Bool
  cur : Option CurLine
  deriving DecidableEq, Repr, Inhabited

/-- What the furrows of the beat in front have given so far. -/
structure Partial where
  /-- Lanes lifted, furrow by furrow. -/
  lanes : List (BitVec 20)
  done : Nat
  /-- The latest cycle in which one of its furrows was resolved (R209). -/
  k : Nat
  /-- The cycle in which the next furrow began to wait for a line. -/
  waitFrom : Option Nat
  /-- The cycle in which the last furrow of the beat ahead was resolved (R215). -/
  prev : Nat
  deriving DecidableEq, Repr, Inhabited

/-- A window (R217): loaded, the number and contents of the side in use, and a side that a switch has broadcast. -/
structure Window where
  loaded : Bool
  sideNo : Bool
  side : Side
  next : Option Side
  deriving DecidableEq, Repr, Inhabited

def Window.reset : Window := ⟨false, false, Side.empty, none⟩

/-- A beat in the output pipeline (R209). -/
structure LiftOut where
  due : Nat
  lanes : List (BitVec 20)
  groups : Nat
  poison : Bool
  first : Bool
  last : Bool
  /-- A beat that breaks the emission protocol and has no trusted furrow count: `lift_out_last` stays 0 (R211). -/
  proto : Bool
  deriving DecidableEq, Repr, Inhabited

/-- A lift slice (R205 to R224). -/
structure Slice where
  cfg : Word
  flags : Nat
  poisonCnt : Word
  mismatchCnt : Word
  dropCnt : Word
  emitCnt : Word
  lastFidx : Word
  lastTags : Word
  inReset : Bool
  /-- The slice has left reset since the full reset, so that LFT_GSTAT.NOT_READY can count it (R224, notes/assumptions/83.md). -/
  seen : Bool
  lost : Bool
  /-- A buffer or window failed self-test: the slice never becomes ready (R357). -/
  failed : Bool
  wins : List Window
  beats : List BufBeat
  lines : List LiftLine
  em : Option Emission
  part : Partial
  out : List LiftOut
  /-- A protocol beat of the present run of beats outside an emission has been logged (R216). -/
  strayLogged : Bool
  alive : Bool
  /-- The free-running counter of the lift island (R35). -/
  time : Nat
  lastBeat : Nat
  lastLine : Nat
  lastOut : Nat
  deriving DecidableEq, Repr, Inhabited

def Partial.empty : Partial := ⟨[], 0, 0, none, 0⟩

/-- A lift slice at reset. DESIGN CHOICE, unsafe (notes/assumptions/14.md). -/
def Slice.reset : Slice where
  cfg := 0
  flags := 0
  poisonCnt := 0
  mismatchCnt := 0
  dropCnt := 0
  emitCnt := 0
  lastFidx := 0
  lastTags := 0
  inReset := true
  seen := false
  lost := false
  failed := false
  wins := List.replicate 4 Window.reset
  beats := []
  lines := []
  em := none
  part := Partial.empty
  out := []
  strayLogged := false
  alive := false
  time := 0
  lastBeat := 0
  lastLine := 0
  lastOut := 0

/-- Bank of window n (R224). -/
def Slice.bank (s : Slice) (n : Nat) : Nat := bits s.cfg.toNat (16 + 4 * n) 4
/-- Whether window n is enabled. -/
def Slice.enabled (s : Slice) (n : Nat) : Bool := bit s.cfg.toNat n
def Slice.win (s : Slice) (n : Nat) : Window := s.wins.getD n Window.reset
/-- The enabled window that holds a bank. -/
def Slice.winOf (s : Slice) (bank : Nat) : Option Nat :=
  (List.range 4).find? (fun n => s.enabled n && s.bank n == bank)
/-- R220. -/
def Slice.ready (s : Slice) : Bool :=
  !s.inReset && !s.lost && !s.failed && (List.range 4).all (fun n => !s.enabled n || (s.win n).loaded)
/-- LFT_STAT.OPEN: an emission is open, or its beats wait in the code buffer. -/
def Slice.opn (s : Slice) : Bool := s.em.isSome || !s.beats.isEmpty

end Sys2Proof.Machine
end

