-- ==== Sys2Proof/Syntax.lean ====
section
/-! DEFINITION. The commands of the T5: one constructor per row of the table of operations and events
(95_what_each_step_holds.md). The table gives its rows no fields; the arguments are what the event itself brings. -/

namespace Sys2Proof
open Machine

/-- A bit that the wrapper shifts through its bypass register, under one of the codes that act as BYPASS (R400). -/
structure WsBit where
  code : BitVec 4
  wsi : Bool
  deriving DecidableEq, Repr, Inhabited

/-- The source of a word or an event, as KIND, REGION and UNIT of a log entry name it (R348). -/
inductive Src where
  | control
  | core (region phys : Nat)
  | channel (region chan : Nat)
  | tracker (region : Nat)
  | slice (i : Nat)
  | link (port : Nat)
  | loader
  deriving DecidableEq, Repr, Inhabited

/-- Where a link port's buffer holds the furrows that a failing word reaches (R329). -/
inductive LinkHold where
  /-- In the frame that arrives. -/
  | arriving
  /-- Furrows that the session has received and not yet acted on. -/
  | received
  /-- Local elements that no furrow has used yet; furrows are counted from the next one. -/
  | locals
  /-- Furrows gathered for the session's next frame. -/
  | gathered
  /-- The frame at place `k` of the port's queue to be sent. -/
  | sending (k : Nat)
  deriving DecidableEq, Repr, Inhabited

/-- An on-chip word that fails its guard check when it is read, or is corrected (R328, R329, R340, R342). -/
inductive Upset where
  /-- A corrected word of a store: 1 headland, 2 control stores, 3 buffers (R349), of the unit that holds it. -/
  | corrected (store : Nat) (src : Src)
  /-- A word of the headland slice of a position, and the swath that owns it, where one does (R329). -/
  | headland (region pos : Nat) (swath : Option Nat)
  | slot (slot : Nat)
  /-- The cached entry of a node of a graph slot (R249). -/
  | scoreboard (ctx slot node : Nat)
  | context (ctx : Nat)
  /-- Entry `k` of the agreement buffer. -/
  | agreement (k : Nat)
  /-- A word of a port's buffer that holds a part of `n` furrows, from the one numbered `first` on, of those that the session holds at
  a place. -/
  | linkBuffer (port session : Nat) (place : LinkHold) (first n : Nat)
  | snapshot (port session : Nat)
  | bank (n : Nat)
  | recipes
  | seqCode
  | dmaBuffer (region chan : Nat)
  | liftWindow (slice window : Nat)
  deriving DecidableEq, Repr, Inhabited

/-- A store that fails self-test (R357), with its failing row. -/
inductive FailStore where
  | headland (phys : Nat)
  | dmaBuffer (chan : Nat)
  | slot (slot : Nat)
  | scoreboard (line : Nat)
  | bank (n : Nat)
  | recipes
  | seqCode
  | context (ctx : Nat)
  | agreement (entry : Nat)
  deriving DecidableEq, Repr, Inhabited

/-- A store that fails self-test and its failing row. -/
structure SelfFail where
  store : FailStore
  row : Nat
  deriving DecidableEq, Repr, Inhabited

/-- A request of the control port presented at the end of a full reset (R383). -/
structure CpReq where
  we : Bool
  addr : BitVec 22
  data : Word
  deriving DecidableEq, Repr, Inhabited

/-- Whose record's SEQ is written (R257, R294, R348). -/
inductive RecSrc where
  | ctx (c : Nat)
  | log
  | dma (region chan : Nat)
  deriving DecidableEq, Repr, Inhabited

/-- Where an inbound stream beat comes from: the inbound port of a cluster, or the delivery queue of a link port (R394). -/
inductive StreamSrc where
  | cluster (c sid : Nat)
  | link (port session : Nat)
  deriving DecidableEq, Repr, Inhabited

/-- The commands, one constructor a row of the table, with what the event brings as its operands.
DESIGN CHOICE, safe (notes/assumptions/6.md). -/
inductive Instr where
  -- reset and boot
  | t5ResetAssert
  | t5ResetRelease (dieIndex dieCountM1 : BitVec 4) (held : Option CpReq)
  | rdyResetFull (key : BitVec 16)
  | requestedResetEnd (dieIndex dieCountM1 : BitVec 4) (held : Option CpReq)
  | registerWrite (addr : BitVec 22) (data : Word)
  | ldrHeaderReadDone (data : List Byte)
  | ldrTableReadDone (data : List Byte)
  | ldrSectionReadDone (data : List Byte)
  | ldrReadTimeout
  | verifyAnswer (accept : Bool)
  | verifyTimeout
  | regionSelftestDone (region : Nat) (fails : List SelfFail)
  | controlSelftestDone (fails : List SelfFail)
  | imgLiveGo
  | liveCodebookApply
  | seqCodeShadowSwap
  -- codebook banks
  | cbLoadPreset (bank : Nat) (preset : BitVec 4) (commit switch : Bool)
  | cbCommit (bank : Nat) (preset : BitVec 4) (switch : Bool)
  | cbCheckDone (bank : Nat)
  | cbSwitch (bank : Nat) (preset : BitVec 4) (ue : Option Upset)
  | cbSideWrite (bank : Nat) (offset : BitVec 12) (data : Word)
  -- rings and nodes
  | ringSubProdWrite (ctx : Nat) (data : Word)
  | acceptEntry (ctx : Nat) (ue : Option Upset)
  | acceptancePoint (ctx : Nat)
  | nodeDispatch (ctx graph node : Nat) (ue : Option Upset)
  | commitHeaderWrite (ctx : Nat)
  | agreedValueArrival (ctx stream : Nat) (step : Word) (value : BitVec 16)
  | agreeTimeout (ctx stream : Nat)
  | agreeDeliver
  | agreeLocal
  | fbForce
  | fbRelease
  | slotEvict (slot : Nat)
  | swathDispatch (ctx graph node region pos rows : Nat) (ue : Option Upset)
  | twoPassSecondPass (ctx graph node : Nat)
  | swathComplete (region pos swath : Nat)
  | taskComplete (ctx graph node : Nat)
  | nodeEmit (ctx : Nat)
  | recordSeqWrite (src : RecSrc)
  | ringCplReleaseWrite (ctx : Nat) (data : Word)
  | glnReleaseWrite (ctx : Nat) (data : Word)
  -- contexts
  | ctxEnable (ctx : Nat)
  | ctxDisable (ctx : Nat)
  | ctxCancel (ctx : Nat)
  | ctxSave (ctx : Nat)
  | ctxRestore (ctx : Nat)
  | contextDrained (ctx : Nat)
  | slicedModeEnter
  | slicedModeExit
  | sliceEnd
  | contextStall (ctx : Nat)
  -- cluster ports
  | cpiRdata (cluster tag : Nat) (err : Bool) (words : List GWord) (ue : Option Upset)
  | cpiSdata (src : StreamSrc) (len : Nat) (words : List GWord)
  | cpiSclose (cluster sid : Nat) (err : Bool)
  | cpiWriteAck (cluster tag : Nat) (err : Bool)
  | creditReturn (cluster rd wr st : Nat)
  | memResponseTimeout (cluster tag : Nat) (wr : Bool)
  | cluAliveToggle (cluster : Nat)
  | clusterPartnerLost (cluster : Nat)
  | clusterPartnerReturn (cluster : Nat)
  -- regions and health
  | regionParkRequest (region : Nat)
  | regionParkAck (region : Nat)
  | regionUnpark (region : Nat)
  | coreAliveTimeout (region pos : Nat)
  | hltRetire (data : Word)
  | coreFenceSettled (region pos : Nat)
  | zombieRequest (region phys pos : Nat) (epoch : BitVec 16) (addr : Nat) (wr : Bool)
  | zombieAliveToggle (region phys : Nat)
  | hltLogSizeWrite (data : Word)
  -- DMA
  | dmaOwnWrite (region : Nat) (data : Word)
  | dmaStart (region chan : Nat)
  | dmaDisable (region chan : Nat)
  | dmaBurstGrant (region : Nat) (wr : Bool)
  | dmaHop (region chan : Nat)
  | dmaRunEnd (region chan : Nat)
  | dmaEngineStopped (region : Nat)
  | dmaAutoResume (region : Nat)
  | dmaResume (region : Nat)
  -- random bits
  | rngTestGo
  | rngTestDone
  -- lift
  | liftResetAssert (slice : Nat)
  | liftResetRelease (slice : Nat) (fails : List Nat)
  | liftCfgWrite (slice : Nat) (data : Word)
  | liftWindowLoad (slice window : Nat)
  | lclTransferTimeout (slice : Nat)
  | liftCodeBeat (slice : Nat) (beat : CodeBeat)
  | liftScaleLine (slice : Nat) (line : List Byte) (first ue : Bool)
  | liftLineTimeout (slice : Nat)
  | liftOutputBeat (slice : Nat)
  | liftAliveToggle (slice : Nat)
  | liftPartnerLost (slice : Nat)
  | liftPartnerReturn (slice : Nat)
  | lftClrCounters (slice : Nat)
  -- link
  | lnkArm (port session : Nat)
  | lnkDisarm (port session : Nat)
  | lnkSessionIdle (port session : Nat)
  | lnkLocalElements (port : Nat)
  | lnkFrameTransmit (port : Nat)
  | lnkFrameReceive (port : Nat) (frame : List Byte) (err : Bool) (ue : Option Upset)
  | lnkFrameTimeout (port session : Nat)
  | lnkAliveToggle (port : Nat)
  | lnkPartnerLost (port : Nat)
  | lnkPartnerReturn (port : Nat)
  | lnkPortResetAssert (port : Nat)
  | lnkPortResetRelease (port : Nat) (fails : List Nat)
  | lnkPClrCounters (port : Nat)
  | lnkAgrCfgWrite (offset : BitVec 12) (data : Word)
  -- test
  | testModeEnter
  | wrstnReset
  | wsBypass (bit : WsBit)
  | wsExtest (drive inputs : List Byte)
  | wsIntest (drive : List Byte)
  | wsScan (bits : List Byte)
  | wsMbist
  | wsMbistDone (rows : List FailRow)
  | wsMbistRead
  | testModeExit
  deriving DecidableEq, Repr

end Sys2Proof
end

