-- ==== Sys2Proof/WellFormed.lean ====
section
/-! DEFINITION. Which commands are well formed for what is built: every index is that of a built unit, and every datum has the size
its signal has. A command that is not well formed has no effect in the model or only the effect of what it names. -/

namespace Sys2Proof
open Machine

def ctxOk (b : Build) (c : Nat) : Bool := c < b.contexts
def regionOk (b : Build) (r : Nat) : Bool := r < b.regions
def posOk (b : Build) (r p : Nat) : Bool := r < b.regions && p < b.positions
def chanOk (b : Build) (r ch : Nat) : Bool := r < b.regions && ch < 32
def clusterOk (b : Build) (c : Nat) : Bool := c < b.clusters
def sliceOk (b : Build) (i : Nat) : Bool := i < b.liftBuilt
def portOk (b : Build) (p : Nat) : Bool := p < b.linkPorts
def sessOk (b : Build) (p i : Nat) : Bool := p < b.linkPorts && i < 16
def slotOk (b : Build) (i : Nat) : Bool := i < b.slots
def tagOk (t : Nat) : Bool := t < 1024

/-- A node of a graph in a slot of a context (R238, R240). -/
def nodeOk (b : Build) (c g k : Nat) : Bool := ctxOk b c && g < 4 && k < 65536

def srcOk (b : Build) : Src → Bool
  | .control | .loader => true
  | .core r p => regionOk b r && p < 65
  | .channel r ch => chanOk b r ch
  | .tracker r => regionOk b r
  | .slice i => sliceOk b i
  | .link p => portOk b p

def upsetOk (b : Build) : Upset → Bool
  | .corrected store src => store < 4 && srcOk b src
  | .headland r p _ => posOk b r p
  | .slot i => slotOk b i
  | .scoreboard c slot node => nodeOk b c slot node
  | .context c => ctxOk b c
  | .agreement _ | .recipes | .seqCode => true
  | .linkBuffer p i _ _ _ | .snapshot p i => sessOk b p i
  | .bank n => n < 16
  | .dmaBuffer r ch => chanOk b r ch
  | .liftWindow i w => sliceOk b i && w < 4

def upsetsOk (b : Build) (u : Option Upset) : Bool :=
  match u with
  | some u => upsetOk b u
  | none => true

/-- A half of an inbound port has 16 guarded words (R386). -/
def halfOk (words : List GWord) : Bool := words.length == 16

/-- Well-formedness of a command. -/
def Instr.wf (b : Build) : Instr → Bool
  | .regionSelftestDone r _ | .dmaOwnWrite r _ | .dmaBurstGrant r _ | .dmaEngineStopped r | .dmaAutoResume r | .dmaResume r
  | .regionParkRequest r | .regionParkAck r | .regionUnpark r => regionOk b r
  | .cbLoadPreset n _ _ _ | .cbCommit n _ _ | .cbCheckDone n => n < 16
  | .cbSwitch n _ u => n < 16 && upsetsOk b u
  | .cbSideWrite n off _ => n < 16 && off.toNat % 4 == 0
  | .ringSubProdWrite c _ | .acceptancePoint c | .commitHeaderWrite c | .nodeEmit c | .ringCplReleaseWrite c _
  | .glnReleaseWrite c _ | .ctxEnable c | .ctxDisable c | .ctxCancel c | .ctxSave c | .ctxRestore c | .contextDrained c
  | .contextStall c => ctxOk b c
  | .acceptEntry c u => ctxOk b c && upsetsOk b u
  | .nodeDispatch c g k u => nodeOk b c g k && upsetsOk b u
  | .agreedValueArrival c stream _ _ | .agreeTimeout c stream => ctxOk b c && stream < 65536
  | .slotEvict i => slotOk b i
  | .swathDispatch c g k r p rows u => nodeOk b c g k && posOk b r p && 1 ≤ rows && upsetsOk b u
  | .twoPassSecondPass c g k | .taskComplete c g k => nodeOk b c g k
  | .swathComplete r p _ | .coreAliveTimeout r p | .coreFenceSettled r p => posOk b r p
  | .recordSeqWrite src => match src with
    | .ctx c => ctxOk b c
    | .log => true
    | .dma r ch => chanOk b r ch
  | .cpiRdata c tag _ words u => clusterOk b c && tagOk tag && halfOk words && upsetsOk b u
  | .cpiSdata src len words => 1 ≤ len && len ≤ 256 && (match src with
    | .cluster c sid => clusterOk b c && sid < 256 && halfOk words
    | .link p i => sessOk b p i)
  | .cpiSclose c sid _ => clusterOk b c && sid < 256
  | .cpiWriteAck c tag _ | .memResponseTimeout c tag _ => clusterOk b c && tagOk tag
  | .creditReturn c rd wr st => clusterOk b c && rd ≤ 2 && wr ≤ 1 && st ≤ 1
  | .cluAliveToggle c | .clusterPartnerLost c | .clusterPartnerReturn c => clusterOk b c
  | .zombieRequest r phys pos _ _ _ => posOk b r pos && phys < 65
  | .zombieAliveToggle r phys => regionOk b r && phys < 65
  | .dmaStart r ch | .dmaDisable r ch | .dmaHop r ch | .dmaRunEnd r ch => chanOk b r ch
  | .liftResetAssert i | .liftResetRelease i _ | .liftCfgWrite i _ | .lclTransferTimeout i | .liftLineTimeout i | .liftOutputBeat i
  | .liftAliveToggle i | .liftPartnerLost i | .liftPartnerReturn i | .lftClrCounters i => sliceOk b i
  | .liftWindowLoad i w => sliceOk b i && w < 4
  | .liftCodeBeat i beat => sliceOk b i && beat.data.length == 64
  | .liftScaleLine i line _ _ => sliceOk b i && line.length == 64
  | .lnkArm p i | .lnkDisarm p i | .lnkSessionIdle p i | .lnkFrameTimeout p i => sessOk b p i
  | .lnkLocalElements p | .lnkFrameTransmit p | .lnkAliveToggle p | .lnkPartnerLost p | .lnkPartnerReturn p
  | .lnkPortResetAssert p | .lnkPortResetRelease p _ | .lnkPClrCounters p => portOk b p
  | .lnkFrameReceive p _ _ u => portOk b p && upsetsOk b u
  | .lnkAgrCfgWrite off _ => off.toNat % 4 == 0
  | .t5ResetAssert | .t5ResetRelease _ _ _ | .rdyResetFull _ | .requestedResetEnd _ _ _ | .registerWrite _ _
  | .ldrHeaderReadDone _ | .ldrTableReadDone _ | .ldrSectionReadDone _ | .ldrReadTimeout | .verifyAnswer _ | .verifyTimeout
  | .controlSelftestDone _ | .imgLiveGo | .liveCodebookApply | .seqCodeShadowSwap | .agreeDeliver | .agreeLocal | .fbForce
  | .fbRelease | .slicedModeEnter | .slicedModeExit | .sliceEnd | .hltRetire _ | .hltLogSizeWrite _ | .rngTestGo | .rngTestDone
  | .testModeEnter | .wrstnReset | .wsExtest _ _ | .wsIntest _ | .wsScan _ | .wsMbist | .wsMbistDone _
  | .wsMbistRead | .testModeExit => true
  | .wsBypass b => b.code == 0 || 6 ≤ b.code.toNat

end Sys2Proof
end

