-- ==== Sys2Proof/Decode.lean ====
section
/-! DEFINITION. The commands have no encoding: the table of operations and events gives its rows no bits, so no word spells one. -/

namespace Sys2Proof

/-- The command that a word spells: none, for every word. DESIGN CHOICE, safe (notes/assumptions/5.md). -/
def decodeTableWord (_nbits _w : Nat) : Option Instr := none

end Sys2Proof
end

