-- ==== Sys2Proof/Machine/Rng.lean ====
section
/-! DEFINITION. The random-bit generator: draws and the keys and positions of its consumers (08_random_bits.md, R225 to R232). -/

namespace Sys2Proof.Machine

def rngA : Nat := 0x9E6C63D0676A9A99
def rngMix : Nat := 0xA3B195E46D27C0F1

/-- The output function of R225. -/
def mix (z : Nat) : Nat :=
  let z := z ^^^ (z >>> 31)
  let z := z * rngMix % 2 ^ 64
  z ^^^ (z >>> 29)

def jumpAux : Nat → Nat → Nat → Nat → Nat → Nat → Nat × Nat
  | 0, _, _, _, ra, rb => (ra, rb)
  | k + 1, n, a, b, ra, rb =>
    let r := if n % 2 = 1 then (ra * a % 2 ^ 64, (rb * a + b) % 2 ^ 64) else (ra, rb)
    jumpAux k (n / 2) (a * a % 2 ^ 64) ((b * a + b) % 2 ^ 64) r.1 r.2

/-- The state after `n` advances x -> A x + c (R225); `n` is below 2^64. -/
def jump (x n c : Nat) : Nat :=
  let r := jumpAux 64 n rngA c 1 0
  (r.1 * x + r.2) % 2 ^ 64

/-- One 64-bit draw (R225). -/
def draw (seed sid step f k : Nat) : Nat :=
  let c := (2 * sid + 1) % 2 ^ 64
  let base := mix (seed ^^^ mix (sid * 2 ^ 32 + step))
  mix (jump base (f * 2 ^ 24 + k) c)

/-- Share `s` of a draw (R105, R229). -/
def share (d s : Nat) : Nat := bits d (16 * s) 16

/-- What fixes a consumer's draws: seed, stream identifier and step (R226, R227). -/
structure RngKey where
  seed : Nat
  sid : Nat
  step : Nat
  deriving DecidableEq, Repr, Inhabited

/-- The stream identifier: PURPOSE, SLOT and KEY (R226). -/
def rngSid (purpose slot key : Nat) : Nat := purpose * 2 ^ 22 + slot % 64 * 2 ^ 16 + key % 65536

/-- The share of element j of substream f for ROUND (R105, R228). -/
def roundShare (k : RngKey) (f j : Nat) : Nat := share (draw k.seed k.sid k.step f (j / 4)) (j % 4)

/-- The share of position p for MASK (R228). -/
def maskShare (k : RngKey) (p : Nat) : Nat :=
  share (draw k.seed k.sid k.step (p / 64) (p % 64 / 4)) (p % 4)

/-- Share i of position p for INIT (R228, R232). -/
def initShare (k : RngKey) (p i : Nat) : Nat :=
  share (draw k.seed k.sid k.step (p / 64) (p % 64 / 4 + 16 * i)) (p % 4)

/-- Whether a MASK keeps position p under keep probability P0 (R231). -/
def maskKeep (k : RngKey) (p0 : Word) (p : Nat) : Bool :=
  (Q.ofInt (maskShare k p)).lt ((wordQ p0).mul (Q.ofInt 65536))

/-- The exact value of a random-fill element (R232): DIST 0 UNIFORM, 1 SUM4. -/
def fillValue (dist : Nat) (p0 p1 : Q) (k : RngKey) (p : Nat) : Q :=
  if dist = 0 then
    p0.add ((p1.sub p0).mul ⟨2 * (initShare k p 0 : Int) + 1, 131072⟩)
  else
    let u : Int := initShare k p 0 + initShare k p 1 + initShare k p 2 + initShare k p 3
    p0.add (p1.mul ⟨u - 131070, 37837⟩)

end Sys2Proof.Machine
end

