-- ==== Sys2Proof/Machine/Drill.lean ====
section
/-! DEFINITION. Drill arithmetic: block scales, rounding to codes, statistics and expansion (03_drill_arithmetic.md, R83 to R113). -/

namespace Sys2Proof.Machine

/-! ## Statistics of a pass (R109, R133) -/

/-- The counters of a glean record (R109, R133); `xmax` and `xmin` are `none` where no element qualifies. -/
structure Stats where
  amax : Nat := 0
  xmax : Option Word := none
  xmin : Option Word := none
  elems : Nat := 0
  furrows : Nat := 0
  sat : Nat := 0
  under : Nat := 0
  bso : Nat := 0
  zero : Nat := 0
  flush : Nat := 0
  const : Nat := 0
  poisoned : Nat := 0
  spill : Nat := 0
  deriving DecidableEq, Repr, Inhabited

def Stats.none : Stats := {}

/-- The larger of two optional values, by value. -/
def maxWord : Option Word → Option Word → Option Word
  | .none, b => b
  | a, .none => a
  | some a, some b => some (if ordKey a < ordKey b then b else a)

def minWord : Option Word → Option Word → Option Word
  | .none, b => b
  | a, .none => a
  | some a, some b => some (if ordKey b < ordKey a then b else a)

/-- The fold of two parts: exact maximum of amax values, exact addition of counters (R24). -/
def Stats.fold (a b : Stats) : Stats where
  amax := max a.amax b.amax
  xmax := maxWord a.xmax b.xmax
  xmin := minWord a.xmin b.xmin
  elems := a.elems + b.elems
  furrows := a.furrows + b.furrows
  sat := a.sat + b.sat
  under := a.under + b.under
  bso := a.bso + b.bso
  zero := a.zero + b.zero
  flush := a.flush + b.flush
  const := a.const + b.const
  poisoned := a.poisoned + b.poisoned
  spill := a.spill + b.spill

/-! ## Candidates (R87, R88) -/

/-- An eligible candidate: its byte, its value s and the reciprocal r = fp32(1 / (s T)). -/
structure Cand where
  byte : Nat
  s : Q
  r : Q
  deriving DecidableEq, Repr, Inhabited

/-- The candidate bytes of a mode under a side, ascending (R87). -/
def candBytes (mode : ScaleMode) (cb : Side) : List Nat :=
  match mode with
  | .ue5m3 => (List.range 0xF8).drop 1
  | .e8m0 => (List.range (cb.e8hi + 1)).drop cb.e8lo
  | .unscaled => [0]

/-- The eligible candidates of a pass, ascending (R88). -/
def candidates (mode : ScaleMode) (cb : Side) (t : Word) : List Cand :=
  (candBytes mode cb).filterMap fun b =>
    match scaleVal mode b with
    | none => none
    | some s =>
      let y := (s.mul (wordQ t)).inv
      if (pow2 (-126)).le y && y.le ((Q.ofInt (2 ^ 24 - 1)).mul (pow2 104)) then
        some ⟨b, s, wordQ ((fp32 y).getD 0)⟩
      else none

/-- The first candidate that fits, else the last one, clamped (R89). -/
def chooseCand (top bot p n : Q) : List Cand → Option (Cand × Bool)
  | [] => none
  | [c] => some (c, !fits c)
  | c :: cs => if fits c then some (c, false) else chooseCand top bot p n cs
where
  fits (c : Cand) : Bool :=
    (top.isZero || (p.mul c.r).le top) && (bot.isZero || (n.mul c.r).le bot)

/-! ## Rounding an element (R91, R107) -/

/-- The neighbours around q in an ascending line: the last entry below or at q, and the one after it. -/
def bracket (q : Q) : List Entry → Option (Entry × Option Entry)
  | [] => none
  | [e] => if e.val.le q then some (e, none) else none
  | e :: e' :: r =>
    if e'.val.le q then bracket q (e' :: r)
    else if e.val.le q then some (e, some e') else none

/-- R91 and R107: the entry that q maps to, and whether it saturated; `u` is the share under stochastic rounding. -/
def roundToV (q : Q) (v : List Entry) (u : Option Nat) : Entry × Bool :=
  let lowest := v.headD ⟨Q.zero, 0, 0⟩
  let highest := v.getLastD ⟨Q.zero, 0, 0⟩
  if highest.val.lt q then (highest, true)
  else if q.lt lowest.val then (lowest, true)
  else match bracket q v with
    | none => (lowest, false)
    | some (lo, none) => (lo, false)
    | some (lo, some hi) =>
      if lo.val.eq q then (lo, false)
      else match u with
        | some u =>
          let near := if lo.val.abs.lt hi.val.abs then lo else hi
          let far := if lo.val.abs.lt hi.val.abs then hi else lo
          let t := (q.abs.sub near.val.abs).div (far.val.abs.sub near.val.abs)
          (if u < (t.mul (Q.ofInt 65536)).floor then far else near, false)
        | none =>
          let m := (lo.val.add hi.val).mul ⟨1, 2⟩
          if q.lt m then (lo, false)
          else if m.lt q then (hi, false)
          else (if lo.pos % 2 = 0 then lo else hi, false)

/-! ## Drilling a furrow (R99) -/

/-- What a drill pass fixes for all its furrows (R83, R99). -/
structure Pass where
  cb : Side
  line : List Entry
  mode : ScaleMode
  fl : Nat
  t : Word
  z : Word
  cands : List Cand
  /-- Stochastic rounding: the key of the draws (R104, R226). -/
  sr : Option RngKey
  /-- The spill threshold exponent, under an enabled plan (R159). -/
  thr : Option Int
  deriving DecidableEq, Repr, Inhabited

/-- Fix a pass. -/
def mkPass (cb : Side) (mode : ScaleMode) (fl : Nat) (t z : Word) (sr : Option RngKey) (thr : Option Int) : Pass :=
  ⟨cb, cb.line, mode, fl, t, z, if validScale t then candidates mode cb t else [], sr, thr⟩

/-- What drilling one furrow gives: the scale byte, the codes, whether its elements are doubted one by one, the
counters, and each real element's channel contribution bf16_up(|d|) (R99, R109, R157). -/
structure Drilled where
  byte : Nat
  codes : List Nat
  doubted : List Bool
  stats : Stats
  chv : List (Option Nat)
  /-- Elements that saturated, in a flushed furrow too: what a link port counts (R91, R310). -/
  sats : Nat
  deriving DecidableEq, Repr, Inhabited

/-- The mark of a poisoned furrow or element (R69, R95 to R97). An invalid tensor scale marks every element, those of listed channels too.
DEDUCED, unsafe (notes/assumptions/86.md). DEDUCED, unsafe (notes/assumptions/138.md). -/
def poisonFurrow (p : Pass) (xs : List (Val × Bool)) : Drilled :=
  let real := (xs.filter (fun x => !x.2)).length
  let n := p.fl - xs.length
  if p.mode = .unscaled then
    { byte := 0, codes := xs.map (fun _ => p.cb.voidMark) ++ List.replicate n p.cb.zeroCode,
      doubted := xs.map (fun _ => true) ++ List.replicate n false,
      stats := { elems := real, furrows := 1, poisoned := xs.length }, chv := xs.map (fun _ => none), sats := 0 }
  else
    { byte := 0xFF, codes := List.replicate p.fl p.cb.zeroCode, doubted := List.replicate p.fl true,
      stats := { elems := real, furrows := 1, poisoned := 1 }, chv := xs.map (fun _ => none), sats := 0 }

/-- One element of a furrow that is drilled: the input, whether its channel is listed, and d (R102, R156);
padding is `(+0, true)` with d = 0. -/
structure Elem where
  x : Val
  listed : Bool
  pad : Bool
  d : Q
  deriving DecidableEq, Repr, Inhabited

def Elem.live (e : Elem) : Bool := !e.x.isPoison

/-- The counters of the elements of a furrow that are neither padding, listed nor poison (R109); a flushed furrow adds nothing to
SAT and UNDER. DEDUCED, unsafe (notes/assumptions/17.md). -/
def elemStats (p : Pass) (es : List (Elem × Entry × Bool)) (flushed : Bool) : Stats :=
  es.foldl (fun st e =>
    let el := e.1
    if el.pad || el.listed then
      (if el.listed && el.x.isPoison then { st with poisoned := st.poisoned + 1 } else st)
    else if el.x.isPoison then { st with elems := st.elems + 1, poisoned := st.poisoned + 1 }
    else
      let mag := el.x.toNat % 2 ^ 31
      { st with
        amax := max st.amax mag
        xmax := maxWord st.xmax (some el.x)
        xmin := minWord st.xmin (some el.x)
        elems := st.elems + 1
        sat := st.sat + b2n (!flushed && e.2.2)
        under := st.under + b2n (!flushed && !e.2.2 && !el.d.isZero && e.2.1.val.isZero)
        spill := st.spill + b2n (match p.thr with
          | some t => (pow2 t).le el.d.abs
          | none => false) }) {}

/-- Whether a furrow is constant: all F values, padding included, the same non-zero d (R94). -/
def isConst (es : List Elem) : Bool :=
  match es with
  | [] => false
  | e :: r => e.live && !e.d.isZero && r.all (fun f => f.live && f.d.eq e.d)

/-- Drill one furrow: real inputs with their listed mark, and the substream and place of each element (R99, R156, R228). Of the
furrow counters a flushed furrow adds to FLUSH only (R109). DEDUCED, unsafe (notes/assumptions/17.md). -/
def drillFurrow (p : Pass) (xs : List (Val × Bool)) (pos : Nat → Nat × Nat) : Drilled :=
  if !validScale p.t || p.cands.isEmpty || (p.mode != .unscaled && xs.any (fun x => Val.isPoison x.1)) then
    poisonFurrow p xs
  else
    let z := wordQ p.z
    let es : List Elem := xs.map (fun x =>
        ⟨x.1, x.2, false, if x.2 || Val.isPoison x.1 then Q.zero else (wordQ x.1).sub z⟩) ++
      List.replicate (p.fl - xs.length) ⟨0, false, true, Q.zero⟩
    let pm := es.foldl (fun m e => if e.live then m.max e.d else m) Q.zero
    let nm := es.foldl (fun m e => if e.live then m.max e.d.neg else m) Q.zero
    match chooseCand (lineTop p.line) (lineBot p.line) pm nm p.cands with
    | none => poisonFurrow p xs
    | some (c, clamped) =>
      let rs := es.mapIdx (fun j e =>
        (e, roundToV (e.d.mul c.r) p.line (p.sr.map (fun k => roundShare k (pos j).1 (pos j).2))))
      let codes := rs.map (fun r => if r.1.live then r.2.1.code else p.cb.voidMark)
      let zeroF := pm.isZero && nm.isZero
      let scaled := p.mode != .unscaled
      let flushed := scaled && !zeroF && codes.all (· == p.cb.zeroCode)
      let byte := if p.mode = .ue5m3 && (zeroF || flushed) then 0 else c.byte
      let st := elemStats p rs flushed
      { byte := byte, codes := codes, doubted := es.map (fun e => !e.live),
        stats := { st with
          furrows := 1
          bso := b2n (scaled && clamped && !flushed)
          zero := b2n (scaled && zeroF)
          flush := b2n flushed
          const := b2n (!flushed && isConst es) },
        chv := xs.map (fun x => if Val.isPoison x.1 then none else some (bf16Up ((wordQ x.1).sub z).abs))
        sats := (elemStats p rs false).sat }

/-- The represented values d = decode(code) s T of a drilled furrow, `poison` where it is doubted (R52, R191). -/
def represented (p : Pass) (dr : Drilled) : List (Option Q) :=
  let s := scaleVal p.mode dr.byte
  List.zipWith (fun c doubt =>
    if doubt then none
    else match s, p.cb.decode c with
      | some s, some v => some (((wordQ v).mul s).mul (wordQ p.t))
      | _, _ => none) dr.codes dr.doubted

/-! ## Expansion (R110 to R113) -/

/-- The exact value of a coded element, `none` where it expands to poison (R110, R112): its code (`none` when
doubted), its scale byte (`none` when doubted), T and Z. DEDUCED, unsafe (notes/assumptions/88.md). -/
def expandQ (cb : Side) (mode : ScaleMode) (code : Option Nat) (sByte : Option Nat) (t z : Word) : Option Q :=
  if !validScale t || !validZero z then none
  else match code, sByte with
    | some c, some b => match scaleVal mode b with
      | none => none
      | some s =>
        if mode = .ue5m3 ∧ b = 0 then some (wordQ z)
        else match cb.decode c with
          | none => none
          | some v => some ((((wordQ v).mul s).mul (wordQ t)).add (wordQ z))
    | _, _ => none

/-! ## The frame scale of a link port (R310) -/

/-- The frame scale for amax A and codebook limit TOP (R310). -/
def frameScale (a top : Q) : Word :=
  if a.isZero then 0x3F800000
  else
    let k := ceilLog2 (a.div top) - 15
    exactWord (pow2 (min (max k (-126)) 127))

end Sys2Proof.Machine
end

