-- ==== Sys2Proof/Machine/TypesRegion.lean ====
section
/-! DEFINITION. The data of a region: logical positions, physical cores, fences and parking (12_resilience.md, 14_ports_and_integration.md). -/

namespace Sys2Proof.Machine

/-- A physical core of a region (R334, R338, R339). -/
structure Phys where
  retired : Bool
  /-- Fenced since the last full reset, so still a possible zombie (R338). -/
  fenced : Bool
  /-- The first dropped request after the latest fence has been logged (R338). -/
  logged : Bool
  /-- Uncorrectable errors of its headland slice (R334). -/
  ue : Nat
  /-- Its alive toggle has been seen while fenced, and its reset asserted again (R338). -/
  held : Bool
  deriving DecidableEq, Repr, Inhabited

def Phys.reset : Phys := ⟨false, false, false, 0, false⟩

/-- A lease entry (R353). -/
structure Pos where
  vacant : Bool
  phys : Nat
  epoch : BitVec 16
  deriving DecidableEq, Repr, Inhabited

/-- A core-death procedure under way (R336): the position, the physical core and the epoch it held, and the cause. -/
structure Fence where
  pos : Nat
  phys : Nat
  epoch : BitVec 16
  cause : Nat
  deriving DecidableEq, Repr, Inhabited

/-- A region. -/
structure Region where
  pos : List Pos
  /-- Physical cores 0 to 64; the fallow spare is 64. -/
  phys : List Phys
  spareFree : Bool
  fences : List Fence
  /-- RDY_REGIONS (R355). -/
  ready : Bool
  parkReq : Bool
  parkAck : Bool
  ce : Word
  ue : Word
  dma : Dma
  /-- Channels whose buffer failed self-test (R357). -/
  badChans : List Nat
  /-- Nodes of scheduler runs discarded by a stop, to be rerun (R297). -/
  requeued : List NodeRef
  /-- The free-running counter of the region island (R35). -/
  time : Nat
  deriving DecidableEq, Repr, Inhabited

def Region.reset (positions : Nat) : Region where
  pos := (List.range positions).map (fun p => ⟨false, p, 1⟩)
  phys := List.replicate 65 Phys.reset
  spareFree := true
  fences := []
  ready := false
  parkReq := false
  parkAck := false
  ce := 0
  ue := 0
  dma := Dma.reset
  badChans := []
  requeued := []
  time := 0

/-- HLT_RG_STAT.ACTIVE: occupied positions (R352). -/
def Region.active (r : Region) : Nat := (r.pos.filter (fun p => !p.vacant)).length
/-- HLT_RG_STAT.RETIRED (R352). -/
def Region.retired (r : Region) : Nat := (r.phys.filter (·.retired)).length

end Sys2Proof.Machine
end

