-- ==== Sys2Proof/Machine/TypesLink.lean ====
section
/-! DEFINITION. The data of the link codec: sessions, ports and the amax exchange (11_link_codec.md). -/

namespace Sys2Proof.Machine

/-- LNK_S_STAT.STATE (R325). -/
inductive SessState where
  | idle | armed | ending
  deriving DecidableEq, Repr, Inhabited

/-- A furrow that a session has accounted for on its receive side and not yet acted on (R313, R314): lost furrows, or one
furrow with its exact values (`none` is poison) and the HOPS of its frame. -/
inductive RxItem where
  | lost (n : Nat)
  | fur (vals : List (Option Q)) (poisoned : Bool) (hops : Nat)
  deriving DecidableEq, Repr, Inhabited

/-- A frame ready to be sent: the session that sends it (or a level of the exchange), its header fields but SEQ and CRC,
and its payload (R307). -/
structure TxFrame where
  port : Nat
  session : Nat
  kind : Nat
  tag : Nat
  first : Nat
  tile : Nat
  nfur : Nat
  hops : Nat
  wide : Bool
  last : Bool
  t : Word
  cbsum : Word
  payload : List Byte
  deriving DecidableEq, Repr, Inhabited

/-- A session of a port (R302 to R306, R325). -/
structure Session where
  cfg : Word
  fmt : Word
  tag : Word
  elems : Word
  dcols : Word
  route : Word
  /-- LNK_S_TILE: the tile not yet complete. -/
  tile : Word
  state : SessState
  armErr : Nat
  loss : Bool
  cbsumBad : Bool
  sat : Bool
  seqErr : Bool
  cbsum : Word
  lostfur : Word
  satcnt : Word
  poisfur : Word
  tiles : Word
  /-- The snapshot of the codebook (R305), and whether an uncorrectable word struck it (R329). -/
  snap : Side
  snapBad : Bool
  /-- Frames sent since it was armed (R307). -/
  seq : Word
  /-- The receive side's current tile and next furrow (R313). -/
  rxTile : Word
  rxNext : Nat
  rxq : List RxItem
  /-- Furrows of the tile `tile` that are complete. -/
  doneF : Nat
  /-- Local elements taken and not yet consumed. -/
  loc : List Val
  /-- The furrows of which a word in error held local elements, counted from the next one on: they are lost when they are formed
  (R329). -/
  locLost : List Nat
  /-- Furrows gathered for the next frame of its send side, with the mark that they have been counted as poison. -/
  enc : List (List Val × Bool)
  encFirst : Nat
  encHops : Nat
  /-- Delivered elements that no swath has taken yet, and the index of the first of them since ARM (R304, R394). -/
  dq : List Val
  dqPos : Nat
  deriving DecidableEq, Repr, Inhabited

/-- A link session at reset. DESIGN CHOICE, unsafe (notes/assumptions/14.md). -/
def Session.reset : Session where
  cfg := 0
  fmt := 0
  tag := 0
  elems := 0
  dcols := 0
  route := 0
  tile := 0
  state := .idle
  armErr := 0
  loss := false
  cbsumBad := false
  sat := false
  seqErr := false
  cbsum := 0
  lostfur := 0
  satcnt := 0
  poisfur := 0
  tiles := 0
  snap := Side.empty
  snapBad := false
  seq := 0
  rxTile := 0
  rxNext := 0
  rxq := []
  doneF := 0
  loc := []
  locLost := []
  enc := []
  encFirst := 0
  encHops := 0
  dq := []
  dqPos := 0

def Session.mode (s : Session) : Nat := bits s.cfg.toNat 30 2
def Session.fwd (s : Session) : Bool := bit s.cfg.toNat 29
def Session.deliv (s : Session) : Bool := bit s.cfg.toNat 28
def Session.wide (s : Session) : Bool := bit s.cfg.toNat 27
def Session.fwdPort (s : Session) : Nat := bits s.cfg.toNat 16 5
def Session.inType (s : Session) : Nat := bits s.cfg.toNat 8 2
def Session.delivType (s : Session) : Nat := bits s.cfg.toNat 0 2
def Session.fmtw (s : Session) : FmtWord := ⟨bits s.fmt.toNat 0 16⟩
def Session.fpf (s : Session) : Nat := bits s.fmt.toNat 16 12
def Session.rxTag (s : Session) : Nat := bits s.tag.toNat 16 16
def Session.txTag (s : Session) : Nat := bits s.tag.toNat 0 16
def Session.fl (s : Session) : Nat := s.fmtw.furrow
/-- Furrows of a tile (11_link_codec.md, Sessions). -/
def Session.tileFurrows (s : Session) : Nat := ceilDiv s.elems.toNat s.fl
/-- Real elements of furrow f of a tile. -/
def Session.furElems (s : Session) (f : Nat) : Nat := min s.fl (s.elems.toNat - f * s.fl)
/-- Whether it receives frames. -/
def Session.receives (s : Session) : Bool := s.state = .armed && (s.mode == 1 || s.mode == 2)

/-- Elements sent to a session's tile-in channel, in the bytes the EMIT stage wrote (R303). -/
structure TileChunk where
  session : Nat
  bytes : List Byte
  deriving DecidableEq, Repr, Inhabited

/-- A link codec port (R324). -/
structure LinkPort where
  cfg : Word
  inReset : Bool
  lost : Bool
  failed : Bool
  noSess : Bool
  wrDrop : Bool
  badFrame : Bool
  lostSeen : Bool
  txFrames : Word
  rxFrames : Word
  bad : Word
  unk : Word
  stale : Word
  txDrop : Word
  sessions : List Session
  tileIn : List TileChunk
  txq : List TxFrame
  /-- The rotation: the place of the session served last (R311). -/
  lastServed : Nat
  alive : Bool
  /-- The free-running counter of the link island (R35). -/
  time : Nat
  deriving DecidableEq, Repr, Inhabited

/-- A link port at reset. DESIGN CHOICE, unsafe (notes/assumptions/14.md). -/
def LinkPort.reset : LinkPort where
  cfg := 0x14
  inReset := true
  lost := false
  failed := false
  noSess := false
  wrDrop := false
  badFrame := false
  lostSeen := false
  txFrames := 0
  rxFrames := 0
  bad := 0
  unk := 0
  stale := 0
  txDrop := 0
  sessions := List.replicate 16 Session.reset
  tileIn := []
  txq := []
  lastServed := 0
  alive := false
  time := 0

/-- The key of an exchange entry (R319). -/
structure AgrKey where
  domain : Nat
  stream : Nat
  step : Word
  level : Nat
  deriving DecidableEq, Repr, Inhabited

/-- A key under way: the member's own value, and whether its collect entry has been sent (R320). -/
structure AgrOpen where
  key : AgrKey
  x : Nat
  sent : Bool
  deriving DecidableEq, Repr, Inhabited

/-- An exchange entry to be sent on a level (R319). -/
structure AgrEntry where
  key : AgrKey
  value : Nat
  phase : Nat
  deriving DecidableEq, Repr, Inhabited

/-- An agreed value on its way to the tracker (R148, R320). -/
structure Arrival where
  ctx : Nat
  stream : Nat
  step : Word
  value : Nat
  deriving DecidableEq, Repr, Inhabited

/-- The amax exchange (R320, R321, R323). -/
structure Exchange where
  cfg0 : Word
  cfg1 : Word
  pos1 : Word
  tag : Word
  drop : Bool
  sentCount : Word
  doneCount : Word
  /-- The agreement buffer: collect entries whose key has no local value yet (R321). -/
  buf : List AgrEntry
  opn : List AgrOpen
  /-- Entries waiting to be sent. -/
  tx : List AgrEntry
  /-- Frames the exchange has sent since it was reset (R307). -/
  seq : Word
  /-- The refusal of level 0 has been logged since the full reset (R28). -/
  refLogged : Bool
  /-- Agreed values handed on and not yet taken by the tracker. -/
  arrivals : List Arrival
  /-- Entries of a frame that wait while the agreement buffer is full (R321). -/
  rest : List AgrEntry
  /-- Entries of the agreement buffer that failed self-test: they are never used (R357). -/
  bad : List Nat
  /-- The keys of which a collect entry has been taken, until a local value opens the key anew: a second one is discarded (R321).
  DEDUCED, unsafe (notes/assumptions/133.md). -/
  collected : List AgrKey
  deriving DecidableEq, Repr, Inhabited

/-- An exchange at reset. DESIGN CHOICE, unsafe (notes/assumptions/14.md). -/
def Exchange.reset : Exchange := ⟨0, 0, 0, 0, false, 0, 0, [], [], [], 0, false, [], [], [], []⟩

end Sys2Proof.Machine
end

