-- ==== Sys2Proof/Machine/TypesGraph.lean ====
section
/-! DEFINITION. The data of contexts, graphs, nodes, tasks, swaths, the tracker and the scheduler (04_scale_tracking.md,
05_outliers_and_fallback.md, 06_fused_chains.md, 09_work_graphs.md). -/

namespace Sys2Proof.Machine

/-! ## Glean records, granary entries, plans -/

/-- A glean record without SEQ and CRC (R133): scalars and counters as stored. -/
structure GRec where
  step : Nat
  stream : Nat
  node : Nat
  dest : Nat
  flags : Nat
  recipe : Nat
  amax : Nat
  xmax : Nat
  xmin : Nat
  t : Nat
  z : Nat
  elems : Nat
  furrows : Nat
  sat : Nat
  under : Nat
  bso : Nat
  zero : Nat
  flush : Nat
  const : Nat
  poison : Nat
  spill : Nat
  deriving DecidableEq, Repr, Inhabited

/-- A granary entry without STREAM and CRC (R138). -/
structure GEntry where
  step : Nat
  recipe : Nat
  valid : Bool
  hcount : Nat
  tnext : Word
  znext : Word
  hist : List Nat
  lastAmax : Nat
  hold : Nat
  ovf : Nat
  cold : Nat
  corr : Nat
  deriving DecidableEq, Repr, Inhabited

/-- The zero entry: a stream never drilled, or one whose history is lost (R142). -/
def GEntry.zero : GEntry := ⟨0, 0, false, 0, 0, 0, [], 0, 0, 0, 0, 0⟩

/-- A plan entry as read (R152), with the list at its AREA; a plan that is not enabled has no list. -/
structure Plan where
  stream : Nat
  raw : List Byte
  list : List Nat
  /-- Whether it is valid under R154. -/
  ok : Bool
  deriving DecidableEq, Repr, Inhabited

/-! ## The tracker (R144 to R149, R169) -/

/-- Where the loading of a slot stands. -/
inductive SlotPh where
  | loading | ready
  deriving DecidableEq, Repr, Inhabited

/-- A resident stream: the slot's index, the stream's granary entry, its DRILL_TRACKED records in the ring since
GLN_COMMIT, the scale of its newest correcting CHECK, and one early agreed value with its step (R144, R148). -/
structure Slot where
  idx : Nat
  ctx : Nat
  stream : Nat
  ph : SlotPh
  entry : GEntry
  recs : List GRec
  corr : Option Word
  early : Option (Nat × Nat)
  deriving DecidableEq, Repr, Inhabited

/-- A pending request of R169. -/
structure FbReq where
  ctx : Nat
  stream : Nat
  force : Bool
  deriving DecidableEq, Repr, Inhabited

/-- A request whose plan entry is being read, by the access that reads it, and whether the entry's ENABLE read 1. Requests are
settled in the order they were made (R169). -/
structure FbAsk where
  id : Nat
  req : FbReq
  ans : Option Bool
  deriving DecidableEq, Repr, Inhabited

/-- The tracker's registers and tables (R150, R172). -/
structure Tracker where
  agreeTmo : Word
  sel : Word
  agreeAmax : Word
  agreeStep : Word
  agreeLow : Bool
  agreeDrop : Bool
  reqDrop : Bool
  /-- Resident streams by ascending slot index. -/
  slots : List Slot
  fbReqs : List FbReq
  fbAsks : List FbAsk
  deriving DecidableEq, Repr, Inhabited

def Tracker.reset : Tracker := ⟨0x1000000, 0, 0, 0, false, false, false, [], [], []⟩

/-! ## Tasks -/

/-- Where a TASK or FILL node stands between its dispatch and its completion. -/
inductive TaskPh where
  /-- The operand block is being read. -/
  | ops
  /-- Its first swath may be dispatched: its program is read first, then its holds must have ended. -/
  | ready
  /-- The header and the stage words of the program and the PWL tables are being read. -/
  | header | stages | tables
  /-- Its first swath is at a core, or a cause of rejection has been found; its scale words and plans are being read. -/
  | setup
  | run
  /-- The first pass has folded all its swaths (R129). -/
  | folded
  /-- Every swath has completed; vectors are merged and scale words written. -/
  | tail
  deriving DecidableEq, Repr, Inhabited

/-- How a drill destination without history is drilled (R129, R130). -/
inductive Cold where
  | warm | twoPass | seeded
  deriving DecidableEq, Repr, Inhabited

/-- What a drill destination's scale and recipe were read as (R83, R116, R129, R130, R372). -/
structure DestScale where
  t : Word
  z : Word
  cold : Cold
  corrected : Bool
  /-- The words of its recipe; none of an untracked destination. -/
  rcp : List Word
  deriving DecidableEq, Repr, Inhabited

/-- What an abandoned swath had sent on a stream (R337): the port and stream id (none for a link), its stage, the bytes of
elements presented, and whether it was closed. -/
structure Sent where
  port : Option (Nat × Nat)
  stage : Nat
  /-- The band that a PRODUCT sends (R195). -/
  band : Nat
  bytes : Nat
  closed : Bool
  deriving DecidableEq, Repr, Inhabited

/-- A swath to be dispatched again (R337). -/
structure Rerun where
  row0 : Nat
  rows : Nat
  poison : Bool
  /-- The streams it had opened for sending. -/
  sent : List Sent
  deriving DecidableEq, Repr, Inhabited

/-- Elements that an EMIT has formed for a link session and that rows before them must precede (R303). -/
structure TileOut where
  stage : Nat
  row : Nat
  rows : Nat
  bytes : List Byte
  deriving DecidableEq, Repr, Inhabited

/-- A dispatched TASK or FILL node. -/
structure Task where
  id : Nat
  ph : TaskPh
  /-- The operand block and the program block as read (R174, R246); empty before, and where they could not be read. -/
  ops : List Byte
  prog : List Byte
  /-- PWL tables: stage and 96 words (R179). -/
  tables : List (Nat × List Word)
  /-- Readings of the first swath's dispatch that are outstanding. -/
  left : Nat
  /-- Lowest cause of a rejection that has been found so far. -/
  bad : Option Nat
  /-- The region, position and rows for which the first swath is asked while the program is read. -/
  ask : Option (Nat × Nat × Nat)
  plans : List Plan
  /-- Scale words read: address, T and Z, which one that could not be read has none of (R119, R330). -/
  swords : List (Nat × Option (Word × Word))
  scales : List DestScale
  /-- The second pass, or the only one, is under way. -/
  final : Bool
  /-- Rows dispatched and rows of completed swaths in this pass. -/
  next : Nat
  done : Nat
  reruns : List Rerun
  stats : List Stats
  /-- Channel-vector maxima, by destination (R157). -/
  chv : List (List Nat)
  poisoned : Bool
  tagMis : Bool
  fallback : Bool
  heldSpilled : Bool
  /-- The cause of a failed write (R332). -/
  stop : Option Nat
  /-- Channel vectors still to be merged: destination indices. -/
  merges : List Nat
  /-- Tail accesses outstanding. -/
  tailLeft : Nat
  /-- A swath of the task has been dispatched (R261). -/
  started : Bool
  /-- Elements that wait for those of earlier rows, and the next row that each EMIT stage hands to its session (R303). -/
  tileQ : List TileOut
  tileRow : List (Nat × Nat)
  deriving DecidableEq, Repr, Inhabited

/-! ## Graphs and nodes -/

/-- A node's progress. -/
inductive NodeStat where
  | waiting | dispatched | completed
  deriving DecidableEq, Repr, Inhabited

/-- A node of an accepted graph (R249 to R252). -/
structure Node where
  desc : List Byte
  succ : List Nat
  remaining : Nat
  doomed : Bool
  stat : NodeStat
  status : Nat
  cause : Nat
  info : Nat
  recs : List GRec
  task : Option Task
  /-- The streams that it named, kept from its completion until it has been emitted (R145). -/
  named : List Nat
  deriving DecidableEq, Repr, Inhabited

/-- A graph in a slot of a context: accepted, or refused and waiting for its record (R238 to R241, R269). -/
structure Graph where
  refused : Bool
  base : Nat
  succBase : Nat
  succLen : Nat
  count : Nat
  gid : Nat
  accSeq : Word
  accCpl : Word
  flags : Nat
  emitted : Nat
  /-- The descriptors have been read. -/
  loaded : Bool
  nodes : List Node
  /-- The graph slot, 0 to 3, and with it the place of the scoreboard (R249). -/
  slot : Nat
  deriving DecidableEq, Repr, Inhabited

/-- The slot of a graph: ACC_SEQ modulo 4, which acceptance waits for; of an image whose graphs contradict that, the lowest free slot
(R240, R249, R271). DEDUCED, unsafe (notes/assumptions/9.md). -/
def graphSlot (gs : List Graph) (accSeq : Word) : Nat :=
  if gs.any (fun g => g.slot == accSeq.toNat % 4) then
    ((List.range 4).find? (fun i => !gs.any (fun g => g.slot == i))).getD 0
  else accSeq.toNat % 4

/-! ## Context engines -/

/-- The accept pass (R240). -/
inductive AcceptPh where
  | idle
  | entry
  | image (entry : List Byte)
  /-- The scoreboard slot of an accepted graph is being initialised. -/
  | score (g : Graph)
  /-- Bytes 48 to 63 are being written, or are acknowledged. -/
  | fields (g : Graph)
  | acked (g : Graph)
  deriving DecidableEq, Repr, Inhabited

/-- The emission of the next node (R257). -/
inductive EmitPh where
  | idle
  /-- The node's status is being written to the scoreboard (R249). -/
  | score
  /-- Glean record k waits for room, its body is being written or acknowledged, its SEQ is being written. -/
  | glnWait (k : Nat)
  | glnBody (k : Nat)
  | glnBodyDone (k : Nat)
  | glnSeq (k : Nat)
  | cplWait
  | cplBody
  | cplBodyDone
  | cplSeq
  deriving DecidableEq, Repr, Inhabited

/-- A read of the context's structures by ENABLE or CANCEL (R259, R260). -/
inductive LoadPh where
  | idle
  /-- The commit header. -/
  | header
  /-- The images, successor tables and scoreboards of the accepted graphs. -/
  | images (left : Nat) (bad : Bool)
  /-- The images alone, for CANCEL. -/
  | cancel (left : Nat)
  deriving DecidableEq, Repr, Inhabited

/-- Where a stream stands in a commit (R140, R147, R162). -/
inductive CommitPh where
  /-- Waits for a slot, or its slot is loading. -/
  | slot
  /-- Every slot is pinned, and a CHECK reads the stream's entry and records for itself. -/
  | reads
  /-- Its plan entry, its list or its channel vector is being read. -/
  | plan | planList | vector
  /-- Its plan entry and list, its zeroed vector or its granary entry is being written. -/
  | planWr | zeroWr
  /-- It waits for its agreed value. -/
  | agree
  | entryWr
  | done
  deriving DecidableEq, Repr, Inhabited

/-- A stream of a commit. -/
structure CommitStream where
  stream : Nat
  ph : CommitPh
  plan : Plan
  /-- What the fold reads of the stream, once: its granary entry, its tracked records of the step, the number of its correcting CHECK
  records, and its recipe with the recipe's index (R124, R144, R372). -/
  old : GEntry
  recs : List GRec
  corrs : Nat
  rcpIdx : Nat
  rcp : List Word
  /-- The granary entry to be written. -/
  new : GEntry
  overflow : Bool
  changed : Bool
  own : Nat
  late : Bool
  deriving DecidableEq, Repr, Inhabited

/-- A COMMIT or CHECK node under way. -/
structure Fold where
  node : NodeRef
  check : Bool
  step : Nat
  /-- The records of the ring are being read, to find the streams of a commit. -/
  reading : Bool
  streams : List CommitStream
  /-- CHECK records made so far, by stream (R127). -/
  recs : List GRec
  /-- The recipes that it has read, each once, by index (R372). -/
  rcps : List (Nat × List Word)
  /-- The commit header is being written. -/
  header : Bool
  /-- Waits for the wedged recipe store (R417). -/
  held : Bool
  deriving DecidableEq, Repr, Inhabited

/-- SCH_CTX_STAT.STATE (R274). -/
inductive CtxState where
  | disabled | enabled | draining | stopped | saving | restoring
  deriving DecidableEq, Repr, Inhabited

/-- A context: its registers (R151, R173, R237, R272, R274), graphs and engines. -/
structure Ctx where
  state : CtxState
  subBaseLo : Word
  subBaseHi : Word
  subSize : Word
  subProd : Word
  subCons : Word
  cplBaseLo : Word
  cplBaseHi : Word
  cplSize : Word
  cplWrite : Word
  cplRelease : Word
  subErr : Bool
  cfg : Word
  errImg : Bool
  errCfg : Bool
  errSeq : Bool
  errStall : Bool
  errRefused : Bool
  scoreLo : Word
  scoreHi : Word
  imgLo : Word
  imgHi : Word
  debt : Word
  glnBaseLo : Word
  glnBaseHi : Word
  glnSize : Word
  glnWrite : Word
  glnCommit : Word
  glnRelease : Word
  granLo : Word
  granHi : Word
  sctStep : Word
  granBad : Bool
  histLost : Bool
  rcpRej : Bool
  lostCount : Word
  oplanLo : Word
  oplanHi : Word
  fbChange : Bool
  spilled : Bool
  arenaShort : Bool
  planBad : Bool
  fbEntered : Word
  seedLo : Word
  seedHi : Word
  /-- COMMITS of the commit header (R139). -/
  commits : Word
  /-- Accepted graphs not yet retired and refused ones not yet emitted, in order. -/
  graphs : List Graph
  accept : AcceptPh
  emit : EmitPh
  load : LoadPh
  fold : Option Fold
  /-- Stopped by a write failure or a lost context store entry: nothing further is emitted (R332, R342). -/
  quiet : Bool
  /-- Draining because of CANCEL (R259). -/
  cancelling : Bool
  /-- DISABLE has been written in STOPPED (R259). -/
  leaving : Bool
  /-- Slices that have ended with swaths of them still running, and when (R265). -/
  overrun : List (Nat × Nat)
  deriving DecidableEq, Repr, Inhabited

/-- A context at reset. DESIGN CHOICE, unsafe (notes/assumptions/14.md). -/
def Ctx.reset : Ctx where
  state := .disabled
  subBaseLo := 0
  subBaseHi := 0
  subSize := 0
  subProd := 0
  subCons := 0
  cplBaseLo := 0
  cplBaseHi := 0
  cplSize := 0
  cplWrite := 0
  cplRelease := 0
  subErr := false
  cfg := 0x64
  errImg := false
  errCfg := false
  errSeq := false
  errStall := false
  errRefused := false
  scoreLo := 0
  scoreHi := 0
  imgLo := 0
  imgHi := 0
  debt := 0
  glnBaseLo := 0
  glnBaseHi := 0
  glnSize := 0
  glnWrite := 0
  glnCommit := 0
  glnRelease := 0
  granLo := 0
  granHi := 0
  sctStep := 0
  granBad := false
  histLost := false
  rcpRej := false
  lostCount := 0
  oplanLo := 0
  oplanHi := 0
  fbChange := false
  spilled := false
  arenaShort := false
  planBad := false
  fbEntered := 0
  seedLo := 0
  seedHi := 0
  commits := 0
  graphs := []
  accept := .idle
  emit := .idle
  load := .idle
  fold := none
  quiet := false
  cancelling := false
  leaving := false
  overrun := []

/-! ## The scheduler (R273, R262 to R265) -/

structure Sched where
  stallTmo : Word
  contend : Word
  latRsv : Word
  event0 : Word
  event1 : Word
  evmask0 : Word
  evmask1 : Word
  sliced : Bool
  holder : Option Nat
  /-- The context that held the slice last, and the context served last. -/
  lastHolder : Nat
  lastServed : Nat
  /-- The length set for the holder's slice (R265). -/
  sliceLen : Nat
  /-- The number of the slice, counted by the model. -/
  sliceNo : Nat
  deriving DecidableEq, Repr, Inhabited

/-- The scheduler at reset. DESIGN CHOICE, unsafe (notes/assumptions/14.md). -/
def Sched.reset : Sched := ⟨0x1000000, 0x1000, 0, 0, 0, 0, 0, false, none, 63, 63, 0, 0⟩

/-! ## Swaths -/

/-- Current values of a swath, by row. -/
abbrev Matrix := List (List Val)

/-- Where a swath stands. -/
inductive SwathPh where
  /-- Its task's readings are outstanding. -/
  | setup
  /-- Index vectors, then inputs, are being read. -/
  | gather | reads
  /-- It waits for a host result band. -/
  | band
  /-- A PRODUCT's next band waits until the streams of the band before it have closed (R393). -/
  | bandNext
  /-- Held rows are being written to the spill area, or read back (R199). -/
  | spillWr | spillRd
  /-- Its last writes are outstanding. -/
  | writes
  /-- Row-form slots or reduction partials are being read, and their results written (R184, R189). -/
  | slots | tree | treeWr
  /-- It may complete. -/
  | done
  deriving DecidableEq, Repr, Inhabited

/-- A swath at a core. -/
structure Swath where
  id : Nat
  region : Nat
  pos : Nat
  /-- The lease epoch and the physical core it was dispatched under (R335). -/
  epoch : BitVec 16
  phys : Nat
  node : NodeRef
  task : Nat
  row0 : Nat
  rows : Nat
  poison : Bool
  /-- The slice during which the holder dispatched it (R265). -/
  slice : Option Nat
  /-- Headland allocation in KiB (R181). -/
  kib : Nat
  /-- The side of each bank it uses, from start to end (R79): bank, side, contents. -/
  sides : List (Nat × Bool × Side)
  ph : SwathPh
  /-- Index vector and inputs, as read. -/
  idx : List OByte
  data : List OByte
  /-- The next stage, the current values, and saturations counted by the stages so far (R176). -/
  stage : Nat
  cur : Matrix
  sat : Nat
  /-- Bytes received on the open receive stream, and bytes it shall receive. -/
  got : List OByte
  need : Nat
  /-- The band that its PRODUCT exchanges: bands are B rows of the swath, from its first row on (R195). -/
  band : Nat
  /-- Chained operands, each destination's in the order of the bands: destination, wide or coded bytes, scale lines (R194). -/
  chain : List (Nat × List Byte × List (List Byte))
  /-- What it hands on when it completes (R337). -/
  stats : List Stats
  chv : List (List Nat)
  poisoned : Bool
  tagMis : Bool
  fallback : Bool
  heldSpilled : Bool
  /-- Writes that the swath has formed and not yet issued. -/
  out : List (Nat × List Byte)
  /-- It has formed the trees of its task's divided reductions (R184). -/
  treed : Bool
  /-- Streams that earlier runs of these rows had opened for sending (R337). -/
  skip : List Sent
  deriving DecidableEq, Repr, Inhabited

end Sys2Proof.Machine
end

