-- ==== Sys2Proof/Machine/State.lean ====
section
/-! DEFINITION. The state of the T5: every register, store, buffer, counter, mode and pin the spec gives it, and the queue of
commands that wait. -/

namespace Sys2Proof.Machine

/-- What an access of the control island, of a core or of a DMA record is for: where its answer goes. -/
inductive JobKind where
  /-- Bytes 4 to 31 of a fault-log entry, then its SEQ (R348). -/
  | log
  | logSeq
  /-- Bytes 4 to 31 of a DMA completion record, then its SEQ (R294). -/
  | dmaRec (region chan : Nat)
  | dmaSeq (region chan : Nat)
  /-- The entry and the section of a live update (R371). -/
  | liveEntry
  | liveSection
  /-- The accept pass of a context (R240). -/
  | accEntry (c : Nat)
  | accImage (c : Nat)
  | accFields (c : Nat)
  /-- The commit header, and the structures of graph `slot`, at ENABLE and at CANCEL (R259, R260). -/
  | enHeader (c : Nat)
  | enImage (c slot : Nat)
  | cancelImage (c slot : Nat)
  /-- A context image (R268, R270). -/
  | save (c : Nat)
  | restore (c : Nat)
  /-- The emission of a node (R249, R257). -/
  | score (c : Nat)
  | glnBody (c : Nat)
  | glnSeq (c : Nat)
  | cplBody (c : Nat)
  | cplSeq (c : Nat)
  /-- The scoreboard slot of a graph that is being accepted (R240, R249). -/
  | accScore (c : Nat)
  /-- The descriptors of a task (R174, R179, R246). -/
  | taskOps (n : NodeRef) (task : Nat)
  | taskHdr (n : NodeRef) (task : Nat)
  | taskStages (n : NodeRef) (task : Nat)
  | taskTable (n : NodeRef) (task stage : Nat)
  /-- The readings of a task's first swath (R119, R154). -/
  | sword (n : NodeRef) (task addr : Nat)
  | plan (n : NodeRef) (task stream : Nat)
  | planList (n : NodeRef) (task stream : Nat)
  /-- The granary entry and the open step's records of a stream (R144). -/
  | slotLoad (idx : Nat)
  /-- The same, of a stream that a CHECK reads for itself (R127). -/
  | checkRead (c stream : Nat)
  /-- The end of a task: channel vectors and scale words (R118, R157). -/
  | merge (n : NodeRef) (task dest : Nat)
  | mergeWr (n : NodeRef) (task dest : Nat)
  | tail (n : NodeRef) (task : Nat)
  /-- A commit (R140, R162). -/
  | foldRecs (c : Nat)
  | cmPlan (c stream : Nat)
  | cmList (c stream : Nat)
  | cmVec (c stream : Nat)
  | cmPlanWr (c stream : Nat)
  | cmZero (c stream : Nat)
  | cmEntry (c stream : Nat)
  | cmHeader (c : Nat)
  /-- The plan entry of a stream for which fallback is requested (R169). -/
  | fbPlan (id : Nat)
  /-- The reread of a scoreboard entry whose word in the cache failed (R329). -/
  | scoreRead (c : Nat)
  /-- Reads and writes of a swath. -/
  | swathRd (id : Nat)
  | swathWr (id : Nat) (n : NodeRef) (task : Nat)
  deriving DecidableEq, Repr, Inhabited

/-- An access of the control island (or of a core, or of a DMA record): its bursts, what has arrived, and how many are open. -/
structure Job where
  id : Nat
  kind : JobKind
  wr : Bool
  /-- Bytes read; `none` where a byte is doubted. -/
  buf : List OByte
  left : Nat
  /-- The final failure of a burst: the fault-log code of R330 or R332 and its address. -/
  fail : Option (Nat × Nat)
  deriving DecidableEq, Repr, Inhabited

/-- The state. -/
structure State where
  /-- What is built: constant through every step. DESIGN CHOICE, unsafe (notes/assumptions/1.md). -/
  build : Build
  /-- Commands waiting, first in, first out. -/
  pending : List Instr
  rst : Rst
  dieIndex : BitVec 4
  dieCountM1 : BitVec 4
  /-- Free-running counters of the control and loader islands (R35). -/
  ctlTime : Nat
  ldrTime : Nat
  loader : Loader
  verify : Verify
  live : Live
  banks : List Bank
  recipes : List (List Word)
  /-- Recipes that a section has applied (R370). -/
  rcpApplied : List Nat
  seqSlots : List (Option SeqSlot)
  /-- The shadow slot: the slot it replaces and its contents (R372). -/
  seqShadow : Option (Nat × SeqSlot)
  rng : RngTest
  wrapper : Wrapper
  regions : List Region
  ports : List Port
  /-- Bursts of the control island that wait for a port with a credit. -/
  ctlWait : List Burst
  jobs : List Job
  nextJob : Nat
  health : Health
  lftCtrl : Word
  slices : List Slice
  lnk : List LinkPort
  exch : Exchange
  /-- LNK_DOM of each context (R323). -/
  lnkDom : List (BitVec 16)
  ctxs : List Ctx
  sched : Sched
  trk : Tracker
  swaths : List Swath
  nextTask : Nat
  nextSwath : Nat
  /-- Contexts whose store entry failed self-test (R357). -/
  badCtx : List Nat
  /-- Tracker slots that failed self-test (R357). -/
  badSlots : List Nat
  /-- What has been driven at the ports since the model began, in order: the model's own record of outputs.
  DESIGN CHOICE, safe (notes/assumptions/32.md). -/
  outs : List Out
  /-- The model's own counter for free values. DESIGN CHOICE, safe (notes/assumptions/16.md). -/
  freeCtr : Nat
  deriving DecidableEq, Repr

/-- The state right after the release of a full reset of a T5: every register at its reset value, the loader at the
read of the header of the primary slot (R355), the straps as sampled (R27), nothing in the queue.
DESIGN CHOICE, unsafe (notes/assumptions/1.md). -/
def State.resetOf (b : Build) (dieIndex dieCountM1 : BitVec 4) : State where
  build := b
  pending := []
  rst := .run
  dieIndex := dieIndex
  dieCountM1 := dieCountM1
  ctlTime := 0
  ldrTime := 0
  loader := Loader.reset
  verify := Verify.reset
  live := Live.reset
  banks := List.replicate 16 Bank.reset
  recipes := List.replicate 256 (List.replicate 8 0)
  rcpApplied := []
  seqSlots := List.replicate 16 none
  seqShadow := none
  rng := RngTest.reset
  wrapper := Wrapper.reset
  regions := List.replicate b.regions (Region.reset b.positions)
  ports := List.replicate b.clusters Port.reset
  ctlWait := []
  jobs := []
  nextJob := 0
  health := Health.reset
  lftCtrl := 0x10
  slices := List.replicate b.liftBuilt Slice.reset
  lnk := List.replicate b.linkPorts LinkPort.reset
  exch := Exchange.reset
  lnkDom := List.replicate b.contexts 0xFFFF
  ctxs := List.replicate b.contexts Ctx.reset
  sched := Sched.reset
  trk := Tracker.reset
  swaths := []
  nextTask := 0
  nextSwath := 0
  badCtx := []
  badSlots := []
  outs := [flashRead 0 32]
  freeCtr := 0

/-- The machine right after reset. What is built and the straps are the model's choice (notes/assumptions/1.md): a T5-8 with
two lift slices and straps of zero. -/
def State.reset : State := State.resetOf ⟨.t5x8, 2⟩ 0 0

/-- Reasons for which the machine stops with a fault. The spec gives the block no command that stops it, so no meaning raises
this one; it is kept so that the type has a member. Safe: it allows nothing. -/
inductive Fault where
  /-- Never raised. -/
  | none
  deriving DecidableEq, Repr

/-- Reasons for which a command is refused. -/
inductive Refusal where
  /-- The command has no meaning yet: raised by the arms of Dispatch.lean only. Safe: nothing can be proved of a next state. -/
  | notModelled (mnemonic : String)
  deriving DecidableEq, Repr

end Sys2Proof.Machine
end

