-- ==== Sys2Proof/Machine/Records.lean ====
section
/-! DEFINITION. Glean records, granary entries, recipes and plans: their bytes and the computations of a commit
(04_scale_tracking.md R120 to R142, 05_outliers_and_fallback.md R152 to R162). -/

namespace Sys2Proof.Machine

/-! ## Glean records (R133, R134) -/

/-- The 128 bytes of record i (R133). -/
def GRec.bytes (i : Word) (r : GRec) : List Byte :=
  withCrc (leBytes 4 i.toNat ++ leBytes 4 r.step ++ leBytes 2 r.stream ++ leBytes 2 r.node ++ leBytes 1 r.dest ++
    leBytes 1 r.flags ++ leBytes 1 r.recipe ++ [0] ++
    ([r.amax, r.xmax, r.xmin, r.t, r.z, r.elems, r.furrows, r.sat, r.under, r.bso, r.zero, r.flush, r.const, r.poison,
      r.spill].flatMap (leBytes 4)) ++ zeros 48)

/-- The fields of a record. -/
def GRec.parse (b : List Byte) : GRec :=
  let w := fun k => fld b (16 + 4 * k) 4
  ⟨fld b 4 4, fld b 8 2, fld b 10 2, byteAt b 12, byteAt b 13, byteAt b 14, w 0, w 1, w 2, w 3, w 4, w 5, w 6, w 7, w 8,
    w 9, w 10, w 11, w 12, w 13, w 14⟩

/-- Record i as it is read back: `none` when it is damaged (R144). -/
def GRec.read (i : Word) (b : List OByte) : Option GRec :=
  match sound b with
  | none => none
  | some bs => if fld bs 0 4 == i.toNat && crcOk bs 128 then some (GRec.parse bs) else none

/-- KIND (R134). -/
def GRec.kind (r : GRec) : Nat := r.flags % 4
def GRec.tracked (r : GRec) : Bool := r.kind == 0
def GRec.corrected (r : GRec) : Bool := bit r.flags 5
/-- A cold record: TWO_PASS or SEEDED. -/
def GRec.cold (r : GRec) : Bool := bit r.flags 3 || bit r.flags 4

/-- What the counters of records add up to (R24, R133). -/
def sumCounter (f : GRec → Nat) (rs : List GRec) : Nat := rs.foldl (fun n r => satAdd32 n (f r)) 0

/-- The largest and the smallest of the words of records, by value. -/
def maxOf (f : GRec → Nat) (rs : List GRec) : Word :=
  (rs.foldl (fun m r => maxWord m (some (BitVec.ofNat 32 (f r)))) none).getD 0
def minOf (f : GRec → Nat) (rs : List GRec) : Word :=
  (rs.foldl (fun m r => minWord m (some (BitVec.ofNat 32 (f r)))) none).getD 0

/-- The record of a drill, expansion or check from its statistics (R133): XMAX and XMIN follow Z_USED. -/
def recOf (step stream node dest flags recipe : Nat) (t z : Word) (st : Stats) : GRec where
  step := step
  stream := stream
  node := node
  dest := dest
  flags := flags
  recipe := recipe
  amax := st.amax
  xmax := if z == 0 then z.toNat else (st.xmax.getD z).toNat
  xmin := if z == 0 then z.toNat else (st.xmin.getD z).toNat
  t := t.toNat
  z := z.toNat
  elems := min st.elems 0xFFFFFFFF
  furrows := min st.furrows 0xFFFFFFFF
  sat := min st.sat 0xFFFFFFFF
  under := min st.under 0xFFFFFFFF
  bso := min st.bso 0xFFFFFFFF
  zero := min st.zero 0xFFFFFFFF
  flush := min st.flush 0xFFFFFFFF
  const := min st.const 0xFFFFFFFF
  poison := min st.poisoned 0xFFFFFFFF
  spill := min st.spill 0xFFFFFFFF

/-! ## Granary entries (R138, R142) -/

/-- The 64 bytes of an entry (R138). -/
def GEntry.bytes (stream : Nat) (e : GEntry) : List Byte :=
  withCrc (leBytes 4 e.step ++ leBytes 2 stream ++ leBytes 1 e.recipe ++
    leBytes 1 ((if e.valid then 0x80 else 0) + e.hcount) ++ leBytes 4 e.tnext.toNat ++ leBytes 4 e.znext.toNat ++
    ((List.range 16).flatMap (fun k => leBytes 2 (e.hist.getD k 0))) ++ leBytes 4 e.lastAmax ++ leBytes 1 e.hold ++ [0] ++
    leBytes 2 e.ovf ++ leBytes 2 e.cold ++ leBytes 2 e.corr)

/-- An entry as it is read: the entry, and whether it is a history loss (R142). -/
def GEntry.read (stream : Nat) (b : List OByte) : GEntry × Bool :=
  match sound b with
  | none => (GEntry.zero, true)
  | some bs =>
    if allZero bs 0 64 then (GEntry.zero, false)
    else
      let hc := byteAt bs 7 % 32
      if crcOk bs 64 && fld bs 4 2 == stream && hc ≤ 16 && bits (byteAt bs 7) 5 2 == 0 && bits (byteAt bs 52) 4 4 == 0 &&
          byteAt bs 53 == 0 && allZero bs (16 + 2 * hc) (2 * (16 - hc)) then
        ({ step := fld bs 0 4, recipe := byteAt bs 6, valid := bit (byteAt bs 7) 7, hcount := hc
           tnext := BitVec.ofNat 32 (fld bs 8 4), znext := BitVec.ofNat 32 (fld bs 12 4)
           hist := (List.range hc).map (fun k => fld bs (16 + 2 * k) 2), lastAmax := fld bs 48 4
           hold := byteAt bs 52, ovf := fld bs 54 2, cold := fld bs 56 2, corr := fld bs 58 2 }, false)
      else (GEntry.zero, true)

/-- A commit header as it is read (R139, R142): STEP, COMMITS and GLN_COMMIT; `none` when it fails its check. -/
def headerRead (b : List OByte) : Option (Word × Word × Word) :=
  match sound b with
  | none => none
  | some bs =>
    if allZero bs 0 64 then some (0, 0, 0)
    else if crcOk bs 64 && fld bs 4 2 == 0xFFFF && allZero bs 6 2 && allZero bs 16 44 then
      some (BitVec.ofNat 32 (fld bs 0 4), BitVec.ofNat 32 (fld bs 8 4), BitVec.ofNat 32 (fld bs 12 4))
    else none

/-- The 64 bytes of a commit header (R139). -/
def headerBytes (step commits glnCommit : Word) : List Byte :=
  withCrc (leBytes 4 step.toNat ++ leBytes 2 0xFFFF ++ zeros 2 ++ leBytes 4 commits.toNat ++ leBytes 4 glnCommit.toNat ++
    zeros 44)

/-! ## Recipes (R121 to R123) -/

/-- A recipe: its eight words. -/
structure Recipe where
  w : List Word
  deriving DecidableEq, Repr, Inhabited

def Recipe.word (r : Recipe) (k : Nat) : Word := r.w.getD k 0
def Recipe.mode (r : Recipe) : Nat := bits (r.word 0).toNat 30 2
def Recipe.zpMode (r : Recipe) : Nat := bits (r.word 0).toNat 28 2
def Recipe.shared (r : Recipe) : Bool := bit (r.word 0).toNat 27
def Recipe.pow2 (r : Recipe) : Bool := bit (r.word 0).toNat 26
/-- Cold policy SEED. -/
def Recipe.seed (r : Recipe) : Bool := bit (r.word 0).toNat 25
def Recipe.window (r : Recipe) : Nat := bits (r.word 0).toNat 20 5
def Recipe.headroom (r : Recipe) : Nat := bits (r.word 0).toNat 16 4
def Recipe.boost (r : Recipe) : Nat := bits (r.word 0).toNat 12 3
def Recipe.hold (r : Recipe) : Nat := bits (r.word 0).toNat 8 4
def Recipe.targetExp (r : Recipe) : Int := signed 8 (bits (r.word 0).toNat 0 8)
def Recipe.satLimit (r : Recipe) : Nat := (r.word 1).toNat
def Recipe.topRef (r : Recipe) : Word := r.word 2
def Recipe.tMin (r : Recipe) : Word := r.word 3
def Recipe.tMax (r : Recipe) : Word := r.word 4
def Recipe.tSeed (r : Recipe) : Word := r.word 5
def Recipe.zFixed (r : Recipe) : Word := r.word 6

/-- R123. -/
def Recipe.valid (r : Recipe) : Bool :=
  r.mode < 2 && r.zpMode < 3 && 1 ≤ r.window && r.window ≤ 16 &&
  validScale r.topRef && validScale r.tMin && validScale r.tMax && validScale r.tSeed &&
  r.tMin.toNat ≤ r.tSeed.toNat && r.tSeed.toNat ≤ r.tMax.toNat &&
  (r.zpMode == 0 || (r.zFixed != 0 && validZero r.zFixed)) &&
  !(r.shared && r.zpMode == 2) && !bit (r.word 0).toNat 15 && r.word 7 == 0

/-! ## The scale of the next step (R124) -/

/-- z8 of R124: the nearest value with a significand of at most 8 bits, clamped, with the sign kept. -/
def z8 (v : Q) : Word :=
  if v.isZero then exactWord (pow2 (-32))
  else
    let a := v.abs
    let e := floorLog2 a
    let m := (Q.ofInt (rneNat (a.mul (pow2 (7 - e))))).mul (pow2 (e - 7))
    let c := (m.max (pow2 (-32))).min (pow2 32)
    exactWord (if v.isNeg then c.neg else c)

/-- tensor_scale of R124: `ref` is a BF16 pattern. -/
def tensorScale (ref : Nat) (r : Recipe) (boost : Nat) (prev : Word) : Word :=
  if r.mode = 1 then r.tSeed
  else if ref = 0 then prev
  else
    let raw := ((bf16Val ref).mul (pow2 ((r.headroom : Int) + boost - r.targetExp))).div (wordQ r.topRef)
    let raw := if r.pow2 then pow2 (ceilLog2 raw) else raw
    (fp32 ((raw.max (wordQ r.tMin)).min (wordQ r.tMax))).getD 0

/-- The span of R124 about a zero point, from XMAX and XMIN. -/
def spanAbout (xmax xmin z : Word) : Q :=
  ((wordQ xmax).sub (wordQ z)).max ((wordQ z).sub (wordQ xmin))

/-- The overflow test of R124. -/
def overflowed (recs : List GRec) (r : Recipe) : Bool :=
  0 < sumCounter (·.bso) recs || r.satLimit < sumCounter (·.sat) recs

/-- The zero point and the local entry (R124): `none` for Z keeps the one in force. -/
def foldSpan (e : GEntry) (recs : List GRec) (r : Recipe) : Word × Nat :=
  let z := if e.valid then e.znext else if r.zpMode = 0 then 0 else r.zFixed
  if r.zpMode = 0 then (z, bf16Up (wordQ (maxOf (·.amax) recs)))
  else
    let xmax := maxOf (·.xmax) recs
    let xmin := minOf (·.xmin) recs
    let z := if r.zpMode = 2 then z8 (((wordQ xmax).add (wordQ xmin)).mul ⟨1, 2⟩) else z
    (z, bf16Up (spanAbout xmax xmin z))

def sat16 (n : Nat) : Nat := min n 0xFFFF

/-- commit_stream of R124 for a stream with records that is not yet at step n. `corrs`: correcting CHECK records. -/
def commitStream (e : GEntry) (n : Nat) (recs : List GRec) (corrs : Nat) (rcpIdx : Nat) (r : Recipe)
    (agreed : Option Nat) : GEntry :=
  let zs := foldSpan e recs r
  let entry := match r.shared, agreed with
    | true, some a => max zs.2 a
    | _, _ => zs.2
  let bad := overflowed recs r
  let hist := entry :: (if e.valid then (e.hist.take 15) else [])
  let hc := min ((if e.valid then e.hcount else 0) + 1) 16
  let hold := if bad then r.hold else if e.valid then e.hold else 0
  let boost := if 0 < hold then r.boost else 0
  let ref := maxNat (hist.take (min r.window hc))
  let prev := if e.valid then e.tnext else r.tSeed
  { step := n, recipe := if e.valid then e.recipe else rcpIdx, valid := true, hcount := hc
    tnext := tensorScale ref r boost prev, znext := zs.1, hist := hist.take hc
    lastAmax := (maxOf (·.amax) recs).toNat, hold := hold - 1
    ovf := sat16 (e.ovf + b2n bad), cold := sat16 (e.cold + b2n (recs.any GRec.cold)), corr := sat16 (e.corr + corrs) }

/-- The correction of R127 steps 2 to 4: the corrected scale, or `none` when nothing changes. `t` is the scale in force. -/
def checkScale (e : GEntry) (recs : List GRec) (r : Recipe) (t : Word) : Option Word :=
  if !e.valid || r.shared || r.mode = 1 || recs.isEmpty || !overflowed recs r then none
  else
    let span :=
      if r.zpMode = 0 then wordQ (maxOf (·.amax) recs)
      else spanAbout (maxOf (·.xmax) recs) (minOf (·.xmin) recs) e.znext
    let ref := max (bf16Up span) (maxNat (e.hist.take (min r.window e.hcount)))
    let t' := tensorScale ref r r.boost t
    if t.toNat < t'.toNat then some t' else none

/-- The CHECK record of a stream (R127 step 5): the fold of `recs`, the scale in force after the node and Z.
DEDUCED, unsafe (notes/assumptions/90.md). -/
def checkRec (step stream node : Nat) (recs : List GRec) (recipe : Nat) (t z : Word) (corrected : Bool) : GRec :=
  let f := fun g => sumCounter g recs
  { step := step, stream := stream, node := node, dest := 0, flags := 3 + (if corrected then 0x20 else 0), recipe := recipe
    amax := (maxOf (·.amax) recs).toNat
    xmax := if recs.isEmpty || z == 0 then z.toNat else (maxOf (·.xmax) recs).toNat
    xmin := if recs.isEmpty || z == 0 then z.toNat else (minOf (·.xmin) recs).toNat
    t := t.toNat, z := z.toNat, elems := f (·.elems), furrows := f (·.furrows), sat := f (·.sat), under := f (·.under)
    bso := f (·.bso), zero := f (·.zero), flush := f (·.flush), const := f (·.const), poison := f (·.poison)
    spill := f (·.spill) }

/-! ## Plan entries (R152 to R154) -/

def Plan.enabled (p : Plan) : Bool := bit (byteAt p.raw 6) 7
def Plan.fallen (p : Plan) : Bool := bit (byteAt p.raw 6) 6
def Plan.mark (p : Plan) : Bool := bit (byteAt p.raw 6) 5
/-- Wide type code of the arena (R153). -/
def Plan.fbType (p : Plan) : Nat := if bit (byteAt p.raw 6) 4 then 0 else 1
def Plan.short (p : Plan) : Bool := bit (byteAt p.raw 6) 3
def Plan.step (p : Plan) : Nat := fld p.raw 0 4
def Plan.budget (p : Plan) : Nat := fld p.raw 8 2
def Plan.count (p : Plan) : Nat := fld p.raw 10 2
def Plan.chans (p : Plan) : Nat := fld p.raw 12 2 + 1
def Plan.enter (p : Plan) : Nat := byteAt p.raw 14
def Plan.stay (p : Plan) : Nat := byteAt p.raw 15
def Plan.thrExp (p : Plan) : Int := signed 16 (fld p.raw 16 2)
def Plan.fbEnter (p : Plan) : Nat := byteAt p.raw 20
def Plan.fbExit (p : Plan) : Nat := byteAt p.raw 21
def Plan.streak (p : Plan) : Nat := byteAt p.raw 22
def Plan.rows (p : Plan) : Nat := fld p.raw 24 4
def Plan.area (p : Plan) : Nat := fld p.raw 32 8
def Plan.side (p : Plan) : Nat := fld p.raw 40 8
def Plan.arena (p : Plan) : Nat := fld p.raw 48 8

/-- The zero entry: no plan (R154). -/
def Plan.zero (stream : Nat) : Plan := ⟨stream, zeros 64, [], true⟩

/-- Strictly ascending. -/
def ascNat : List Nat → Bool
  | a :: b :: r => a < b && ascNat (b :: r)
  | _ => true

/-- The checks of R154 that the entry alone decides. -/
def Plan.entryOk (p : Plan) : Bool :=
  !p.enabled ||
    (p.raw.length == 64 && crcOk p.raw 64 && fld p.raw 4 2 == p.stream && p.budget ≤ 256 && p.budget ≤ p.chans && p.count ≤ p.budget &&
      1 ≤ p.enter && p.enter ≤ 31 && p.stay ≤ p.enter && 1 ≤ p.fbExit &&
      p.area % 64 == 0 && p.side % 64 == 0 && p.arena % 64 == 0 && (p.budget == 0 || p.side != 0) &&
      byteAt p.raw 6 % 8 == 0 && byteAt p.raw 7 == 0 && byteAt p.raw 23 == 0 && allZero p.raw 56 4)

/-- The checks of R154 on the list. -/
def Plan.listOk (p : Plan) (l : List Nat) : Bool := l.length == p.count && ascNat l && l.all (· < p.chans)

/-! ## Choosing the channels and committing a plan (R160, R161) -/

/-- bits [14:7] of a BF16 pattern (R160). -/
def expf (v : Nat) : Nat := bits v 7 8

/-- select of R160: the list, the number left off, and the threshold exponent. -/
def selectChans (p : Plan) (chv : List Nat) : List Nat × Nat × Int :=
  let es := sortBy (fun a b : Nat => a < b) (chv.map expf)
  let m := max (es.getD ((p.chans - 1) / 2) 0) 1
  let ent := pow2 ((m : Int) - 127 + p.enter)
  let sty := pow2 ((m : Int) - 127 + p.stay)
  let q := (chv.zipIdx).filter (fun v => ent.le (bf16Val v.1) || (p.list.contains v.2 && sty.le (bf16Val v.1)))
  let ranked := sortBy (fun a b : Nat × Nat => b.1 < a.1 || (a.1 == b.1 && a.2 < b.2)) q
  let chosen := sortNats ((ranked.take p.budget).map (·.2))
  (chosen, q.length - chosen.length, (m : Int) - 127 + p.enter)

/-- What the commit of a plan changed (R162). -/
structure PlanCommit where
  plan : Plan
  fbChange : Bool
  spilled : Bool
  short : Bool
  entered : Bool
  deriving DecidableEq, Repr, Inhabited

/-- commit_plan of R161 for an enabled plan of a stream with records that is not yet at step n. `req`: the pending request,
`some true` for FORCE. -/
def commitPlan (p : Plan) (n : Nat) (overflow : Bool) (chv : List Nat) (req : Option Bool) : PlanCommit :=
  let sel := selectChans p chv
  let bad := overflow || 0 < sel.2.1
  let streak :=
    if p.fallen then (if bad then 0 else min (p.streak + 1) 255)
    else if bad then min (p.streak + 1) 255 else 0
  let fs : Bool × Nat := match req with
    | some true => (true, 0)
    | some false => (false, 0)
    | none =>
      if p.fallen && p.fbExit ≤ streak then (false, 0)
      else if !p.fallen && p.fbEnter != 0 && p.fbEnter ≤ streak then (true, 0)
      else (p.fallen, streak)
  let short := fs.1 && !p.fallen && p.arena == 0
  let fs := if short then (false, 0) else fs
  let entered := fs.1 && !p.fallen
  let flags := byteAt p.raw 6 &&& 0xB7 ||| (if fs.1 then 0x40 else 0) ||| (if p.short || short then 8 else 0)
  let body := leBytes 4 n ++ leBytes 2 p.stream ++ leBytes 1 flags ++ [0] ++ leBytes 2 p.budget ++
    leBytes 2 sel.1.length ++ slice p.raw 12 4 ++ leBytes 2 (sel.2.2 % 65536).toNat ++ leBytes 2 (sat16 sel.2.1) ++
    slice p.raw 20 2 ++ leBytes 1 fs.2 ++ [0] ++ slice p.raw 24 4 ++
    leBytes 2 (sat16 (fld p.raw 28 2 + b2n entered)) ++ leBytes 2 (sat16 (fld p.raw 30 2 + b2n (0 < sel.2.1))) ++
    slice p.raw 32 24 ++ zeros 4
  { plan := ⟨p.stream, withCrc body, sel.1, true⟩
    fbChange := fs.1 != p.fallen, spilled := 0 < sel.2.1, short := short, entered := entered }

/-- The 512 bytes of a list (05_outliers_and_fallback.md: unused entries are 0x0000). -/
def listBytes (l : List Nat) : List Byte := (List.range 256).flatMap (fun k => leBytes 2 (l.getD k 0))

/-- Size of a channel vector in host memory (R157, R168). -/
def vecBytes (p : Plan) : Nat := ceilDiv (2 * p.chans) 64 * 64

end Sys2Proof.Machine
end

