-- ==== Sys2Proof/Machine/Operands.lean ====
section
/-! DEFINITION. Node descriptors, operand blocks and program blocks, and the checks that they alone decide
(09_work_graphs.md R243 to R248, R418; 06_fused_chains.md R174 to R180, R186, R196 to R199; 14_ports_and_integration.md R394). -/

namespace Sys2Proof.Machine

/-! ## Node descriptors (R243 to R245, R296) -/

def Node.type (n : Node) : Nat := byteAt n.desc 0 % 16
def Node.irq (n : Node) : Bool := bit (byteAt n.desc 1) 0
def descDeps (d : List Byte) : Nat := fld d 2 2
def descSuccN (d : List Byte) : Nat := fld d 4 2
def descSuccOff (d : List Byte) : Nat := fld d 8 4
def Node.step (n : Node) : Nat := fld n.desc 12 4
def Node.prog (n : Node) : Nat := fld n.desc 16 8
def Node.opsAt (n : Node) : Nat := fld n.desc 24 8
def Node.rows (n : Node) : Nat := fld n.desc 32 4
def Node.rowOff (n : Node) : Nat := fld n.desc 36 4
def Node.cols (n : Node) : Nat := fld n.desc 40 4
def Node.band (n : Node) : Nat := fld n.desc 44 2
def Node.rkey (n : Node) : Nat := fld n.desc 46 2
def Node.gpart (n : Node) : Nat := fld n.desc 48 2
def Node.spart (n : Node) : Nat := fld n.desc 50 2
def Node.routeP (n : Node) : Nat := fld n.desc 52 2
def Node.routeE (n : Node) : Nat := fld n.desc 54 2
def Node.grows (n : Node) : Nat := fld n.desc 56 8
/-- CHECK: the stream named (R244). -/
def Node.stream (n : Node) : Nat := fld n.desc 16 2
/-- BANKSWITCH: the bank named (R244). -/
def Node.bank (n : Node) : Nat := byteAt n.desc 16 % 16
/-- DMA: the fields of R296. -/
def Node.chain (n : Node) : Nat := fld n.desc 16 8
def Node.hint (n : Node) : Nat := byteAt n.desc 24
def Node.dmaPrio (n : Node) : Nat := byteAt n.desc 25 % 8

def Node.isTask (n : Node) : Bool := n.type == 1 || n.type == 2
def Node.isFill (n : Node) : Bool := n.type == 2

/-- A reserved type, or a reserved bit or byte of the header or of a body that reserves some (R244). -/
def Node.reserved (n : Node) : Bool :=
  7 ≤ n.type || 16 ≤ byteAt n.desc 0 || 2 ≤ byteAt n.desc 1 || !allZero n.desc 6 2 ||
  !(match n.type with
    | 0 | 4 => allZero n.desc 16 48
    | 3 => byteAt n.desc 25 < 8 && allZero n.desc 26 38
    | 5 => allZero n.desc 18 46
    | 6 => byteAt n.desc 16 < 16 && allZero n.desc 17 47
    | _ => true)

/-! ## Operand records (R246, R247) -/

/-- An input record, or a destination record. -/
structure Rec where
  raw : List Byte
  dest : Bool
  deriving DecidableEq, Repr, Inhabited

/-- The primary input (0), the second input (1), or destination d (R246). -/
def inRec (ops : List Byte) (k : Nat) : Rec := ⟨slice ops (32 * k) 32, false⟩
def destRec (ops : List Byte) (d : Nat) : Rec := ⟨slice ops (64 + 48 * d) 48, true⟩

def Rec.flags (r : Rec) : Nat := if r.dest then byteAt r.raw 31 else byteAt r.raw 30
def Rec.coded (r : Rec) : Bool := bit r.flags 7
def Rec.used (r : Rec) : Bool := bit r.flags (if r.dest then 4 else 6)
def Rec.sr (r : Rec) : Bool := bit r.flags 6
def Rec.sidex (r : Rec) : Bool := bit r.flags 5
def Rec.wide (r : Rec) : Nat := r.flags % 4
def Rec.addr (r : Rec) : Nat := fld r.raw 0 8
def Rec.saddr (r : Rec) : Nat := fld r.raw 8 8
def Rec.stride (r : Rec) : Nat := fld r.raw 8 4
def Rec.sword (r : Rec) : Nat := fld r.raw 16 8
def Rec.cols (r : Rec) : Nat := if r.dest then fld r.raw 40 4 else fld r.raw 24 4
def Rec.fmt (r : Rec) : FmtWord := ⟨if r.dest then fld r.raw 24 2 else fld r.raw 28 2⟩
def Rec.tag (r : Rec) : Nat := fld r.raw 26 2
def Rec.stream (r : Rec) : Nat := fld r.raw 28 2
def Rec.recipe (r : Rec) : Nat := byteAt r.raw 30
def Rec.t (r : Rec) : Word := BitVec.ofNat 32 (fld r.raw 32 4)
def Rec.z (r : Rec) : Word := BitVec.ofNat 32 (fld r.raw 36 4)
def Rec.dist (r : Rec) : Nat := byteAt r.raw 44
/-- A destination that names a stream (R116, R247), also one of a DRILL that is not CODED, which R248 rejects; a record that could not be
read names none. DEDUCED, unsafe (notes/assumptions/82.md). -/
def Rec.named (r : Rec) : Bool := !r.raw.isEmpty && r.stream != 0xFFFF
/-- A tracked drill destination (R116). -/
def Rec.tracked (r : Rec) : Bool := r.coded && r.named

/-- Faults of one record with cause 0x0D (R246 to R248): what R248 lists, and the other breaches of the two tables. `fill`: destination 0 of
a FILL. DEDUCED, unsafe (notes/assumptions/115.md). -/
def Rec.fault (r : Rec) (fill : Bool) : Bool :=
  let n := if r.dest then 48 else 32
  if !r.used then !allZero r.raw 0 n
  else
    r.cols == 0 ||
    (if r.dest then bits r.flags 2 2 != 0 || !allZero r.raw 45 3 || (!fill && r.dist != 0)
     else bits r.flags 2 4 != 0 || byteAt r.raw 31 != 0) ||
    (if r.coded then r.sword % 16 != 0
     else
      r.wide == 3 || r.addr % wideSize r.wide != 0 || !allZero r.raw 12 4 || r.sword != 0 ||
      r.stride % wideSize r.wide != 0 || r.stride < r.cols * wideSize r.wide ||
      (r.dest && !fill && (r.t != 0 || r.z != 0)))

/-- Furrows of a coded tensor of R rows. -/
def Rec.furrows (r : Rec) (rows : Nat) : Nat := furrowCount r.fmt.axis r.fmt.furrow rows r.cols

/-- The furrow at which row `row` of the view begins, where rows of a furrow begin together (R60). -/
def Rec.furrowAt (r : Rec) (row : Nat) : Nat :=
  if r.fmt.axis then row / r.fmt.furrow * r.cols else row * ceilDiv r.cols r.fmt.furrow

/-- Faults of a coded record with cause 0x03 that the record alone shows (R59, R63): the format word, and the alignment of its arrays. -/
def Rec.fmtFault (r : Rec) : Bool :=
  r.fmt.scaleCode == 3 || r.fmt.rsv != 0 || r.addr % 64 != 0 || (r.fmt.lines && r.saddr % 64 != 0)

/-- A coded tensor of `rows` rows has too many furrows (R64). -/
def Rec.sizeFault (r : Rec) (rows : Nat) : Bool := r.used && r.coded && 2 ^ 32 < r.furrows rows

/-- The USED coded records of an operand block, whether or not a stage names them: the task's coded inputs and destinations.
DEDUCED, unsafe (notes/assumptions/85.md). -/
def codedRecs (ops : List Byte) : List Rec :=
  ([inRec ops 0, inRec ops 1] ++ (List.range 4).map (destRec ops)).filter (fun r => r.used && r.coded)

/-- Placement of a drill destination's rows in its whole view (R418). -/
def Rec.placeFault (r : Rec) (rowOff rows : Nat) : Bool :=
  (r.fmt.axis && rowOff % r.fmt.furrow != 0) || (r.fmt.lines && r.furrowAt rowOff % 56 != 0) ||
    2 ^ 32 < r.furrowAt rowOff + r.furrows rows

/-! ## Programs (R174, R175, R178) -/

/-- A stage word. -/
structure Stage where
  op : Nat
  fmt : Nat
  va : Nat
  vb : Nat
  dest : Nat
  mode : Nat
  p0 : Word
  p1 : Word
  /-- Bytes 6 to 7. -/
  rsv : Nat
  deriving DecidableEq, Repr, Inhabited

def Stage.parse (w : List Byte) : Stage :=
  ⟨byteAt w 0, byteAt w 1, byteAt w 2, byteAt w 3, byteAt w 4, byteAt w 5,
    BitVec.ofNat 32 (fld w 8 4), BitVec.ofNat 32 (fld w 12 4), fld w 6 2⟩

def opLoad : Nat := 0x01
def opTranspose : Nat := 0x02
def opGather : Nat := 0x03
def opDrill : Nat := 0x08
def opStore : Nat := 0x09
def opEmit : Nat := 0x0A
def opProduct : Nat := 0x0B
def opScale : Nat := 0x10
def opSide : Nat := 0x11
def opRowrep : Nat := 0x12
def opZpc : Nat := 0x13
def opAxpb : Nat := 0x18
def opAddin : Nat := 0x19
def opMulin : Nat := 0x1A
def opClamp : Nat := 0x1B
def opPwl : Nat := 0x1C
def opMask : Nat := 0x1D
def opRsum : Nat := 0x20
def opCsum : Nat := 0x21
def opNorm : Nat := 0x28

/-- The operation codes of R178. -/
def opCodes : List Nat := [0x01, 0x02, 0x03, 0x08, 0x09, 0x0A, 0x0B, 0x10, 0x11, 0x12, 0x13, 0x18, 0x19, 0x1A, 0x1B, 0x1C,
  0x1D, 0x20, 0x21, 0x28]

def Stage.is (s : Stage) (op : Nat) : Bool := s.op == op
/-- A tap (R175). -/
def Stage.tap (s : Stage) : Bool := [opDrill, opStore, opEmit, opRsum, opCsum].contains s.op
/-- A DRILL or STORE tap that keeps its result for a PRODUCT. -/
def Stage.chains (s : Stage) : Bool := (s.is opDrill || s.is opStore) && bit s.mode 2

/-- A program block as read: header and stage words. -/
structure Prog where
  raw : List Byte
  deriving DecidableEq, Repr, Inhabited

def Prog.count (p : Prog) : Nat := byteAt p.raw 0
def Prog.stages (p : Prog) : List Stage := (List.range (min p.count 16)).map (fun i => Stage.parse (slice p.raw (128 + 16 * i) 16))
def Prog.tileKib (p : Prog) : Nat := byteAt p.raw 2
def Prog.chainKib (p : Prog) : Nat := byteAt p.raw 3
def Prog.holdKib (p : Prog) : Nat := byteAt p.raw 4
def Prog.kib (p : Prog) : Nat := p.tileKib + p.chainKib + p.holdKib
def Prog.rowLen (p : Prog) : Nat := fld p.raw 8 4
def Prog.scratch (p : Prog) : Nat := fld p.raw 16 8
def Prog.holdSpill (p : Prog) : Nat := fld p.raw 24 8
def Prog.vec (p : Prog) (k : Nat) : Nat := fld p.raw (32 + 8 * k) 8
def Prog.has (p : Prog) (op : Nat) : Bool := p.stages.any (·.is op)
/-- The primary input is a host result band (R178). -/
def Prog.loadsBand (p : Prog) : Bool :=
  match p.stages with
  | s :: _ => s.is opLoad && bit s.mode 0
  | [] => false

/-- The stage of an index; a stage beyond the program has no operation. -/
def Prog.stage (p : Prog) (i : Nat) : Stage := p.stages.getD i ⟨0, 0, 0xF, 0xF, 0xF, 0, 0, 0, 0⟩

/-! ## Stage words (R175, R179, R180 rules 9 and 11, R231) -/

/-- Whether a stage reads VA and VB under its MODE (R178). -/
def Stage.reads (s : Stage) : Bool × Bool :=
  if [opGather, opPwl, opRsum, opCsum, opRowrep].contains s.op then (true, false)
  else if s.is opScale || s.is opZpc then (true, true)
  else if s.is opDrill || s.is opAxpb then (bit s.mode 0, bit s.mode 1)
  else (false, false)

/-- MODE as R180 rule 11 allows it. -/
def Stage.modeOk (s : Stage) : Bool :=
  if s.is opLoad || s.is opRowrep then s.mode < 2
  else if s.is opDrill || s.is opAxpb then s.mode < 8
  else if s.is opStore then s.mode == 0 || s.mode == 4
  else if s.is opRsum || s.is opCsum then s.mode < 3
  else if s.is opNorm then s.mode < 2
  else if s.is opPwl then 2 ≤ s.mode && s.mode ≤ 32
  else s.mode == 0

/-- A keep probability (R231): a value from 0 to 1 and a multiple of 2^-16; the negative zero has the value 0. -/
def probOk (w : Word) : Bool :=
  w == 0 || w == 0x80000000 || (isFinite w && !signBit w && (wordQ w).le (Q.ofInt 1) &&
    (let x := (wordQ w).mul (Q.ofInt 65536); x.num.toNat % x.den == 0))

/-- Parameters of a stage (R179, R184, R187, R198, R231). A P1 of a reduction, or of a DRILL that writes column K-sums, that is no multiple
of 64 makes the program invalid. DEDUCED, unsafe (notes/assumptions/101.md). -/
def Stage.paramsOk (s : Stage) : Bool :=
  if s.is opClamp then isFinite s.p0 && isFinite s.p1 && (wordQ s.p0).le (wordQ s.p1)
  else if s.is opAxpb then (bit s.mode 0 || isFinite s.p0) && (bit s.mode 1 || isFinite s.p1)
  else if s.is opMask then probOk s.p0 && isFinite s.p1
  else if s.is opGather then s.p0 != 0
  else if s.is opNorm then s.p0 == 0 || validScale s.p0
  else if s.is opRsum || s.is opCsum || (s.is opDrill && bit s.mode 1) then s.p1.toNat % 64 == 0
  else true

/-- A vector slot that the operation reads (R175). -/
def slotOk (p : Prog) (s : Stage) (v : Nat) (read : Bool) : Bool :=
  if read then (v < 12 && p.vec v != 0) || (v == 0xE && s.is opScale) else v == 0xF

/-- A stage word that is well formed (R175, R178, R180 rules 9 and 11). -/
def stageOk (p : Prog) (s : Stage) : Bool :=
  opCodes.contains s.op && s.rsv == 0 && (if s.tap then s.fmt == 0 else s.fmt < 3) && s.modeOk && s.paramsOk &&
  slotOk p s s.va s.reads.1 && slotOk p s s.vb s.reads.2 &&
  (if s.is opDrill || s.is opStore || s.is opEmit || s.is opProduct || (s.is opScale && (s.va == 0xE || s.vb == 0xE))
   then s.dest < 4 else s.dest == 0xF)

/-! ## Program rules (R180) -/

/-- Rule 5: the length of an epilogue head at the start of a list of stages. -/
def headLen (l : List Stage) : Nat :=
  match l with
  | s :: r =>
    if s.is opScale then
      let r1 := match r with
        | t :: q => if t.is opSide || t.is opRowrep then q else r
        | [] => []
      let n := r.length - r1.length
      1 + n + (match r1 with
        | t :: _ => if t.is opZpc then 1 else 0
        | [] => 0)
    else 0
  | [] => 0

/-- Rule 5: SCALE, SIDE, ROWREP and ZPC appear only in the heads; `skip` stages of a head are still to come. -/
def headsOk : Nat → List Stage → Bool
  | _, [] => true
  | skip, s :: r =>
    if (s.is opLoad && bit s.mode 0) || s.is opProduct then headsOk (headLen r) r
    else if 0 < skip then headsOk (skip - 1) r
    else !(s.is opScale || s.is opSide || s.is opRowrep || s.is opZpc) && headsOk 0 r

/-- Rule 4: each PRODUCT names a chained tap that stands earlier and that no other PRODUCT names. -/
def productsOk : List Nat → List Nat → List Stage → Bool
  | _, _, [] => true
  | chained, named, s :: r =>
    if s.is opProduct then
      chained.contains s.dest && !named.contains s.dest && productsOk chained (s.dest :: named) r
    else if s.chains then productsOk (s.dest :: chained) named r
    else productsOk chained named r

/-- Rule 7: no destination is used by two taps. -/
def destsOnce : List Nat → List Stage → Bool
  | _, [] => true
  | seen, s :: r =>
    if s.is opDrill || s.is opStore || s.is opEmit then !seen.contains s.dest && destsOnce (s.dest :: seen) r
    else destsOnce seen r

/-- Rule 12: a SCALE slot of 0xE names an earlier DRILL tap of the same DEST. -/
def ownScalesOk : List Nat → List Stage → Bool
  | _, [] => true
  | drilled, s :: r =>
    if s.is opDrill then ownScalesOk (s.dest :: drilled) r
    else (!(s.is opScale && (s.va == 0xE || s.vb == 0xE)) || drilled.contains s.dest) && ownScalesOk drilled r

def countOp (p : Prog) (op : Nat) : Nat := (p.stages.filter (·.is op)).length

/-- The header (R174, R180 rule 1). -/
def headerFault (raw : List Byte) : Bool :=
  byteAt raw 0 == 0 || 16 < byteAt raw 0 || byteAt raw 1 != 0 || !allZero raw 5 3 || !allZero raw 12 4 ||
    fld raw 16 8 % 64 != 0 || fld raw 24 8 % 64 != 0

/-- The rules of R180 with cause 0x07. `wideIn`: the primary input is wide. -/
def Prog.ok (p : Prog) (ops : List Byte) : Bool :=
  let st := p.stages
  !headerFault p.raw && st.all (stageOk p) &&
  (match st with
    | s :: r => (s.is opLoad || s.is opGather) && !r.any (fun t => t.is opLoad || t.is opGather)
    | [] => false) &&
  (!p.has opTranspose || (countOp p opTranspose == 1 && (p.stage 1).is opTranspose && (p.stage 0).is opLoad &&
    !bit (p.stage 0).mode 0 && !(inRec ops 0).coded)) &&
  countOp p opProduct ≤ 2 && productsOk [] [] st && headsOk 0 st &&
  countOp p opNorm ≤ 1 && (if p.has opNorm then 1 ≤ p.rowLen && p.rowLen ≤ 1048576 else p.rowLen == 0) &&
  destsOnce [] st && ownScalesOk [] st &&
  (match st.getLast? with
    | some s => s.tap
    | none => false)

/-! ## Widths (R185, R194 to R199) -/

/-- The columns of the result band that stage i begins with: those of the next chained operand, else COLS of the task. -/
def bandCols (p : Prog) (ops : List Byte) (n : Node) (i : Nat) : Nat :=
  match ((p.stages.drop (i + 1)).find? (·.is opProduct)) with
  | some s => (destRec ops s.dest).cols
  | none => n.cols

/-- Columns of the current value before stage i, i at least 1. -/
def colsAt (p : Prog) (ops : List Byte) (n : Node) (i : Nat) : Nat :=
  ((p.stages.take i).zipIdx).foldl (fun c s =>
    if s.1.is opLoad then (if bit s.1.mode 0 then bandCols p ops n s.2 else (inRec ops 0).cols)
    else if s.1.is opGather then (inRec ops 0).cols
    else if s.1.is opTranspose then (destRec ops 0).cols
    else if s.1.is opProduct then bandCols p ops n s.2
    else c) 0

/-- Rows of the primary input in memory (R186, R187, R246). -/
def inRows (p : Prog) (ops : List Byte) (n : Node) : Nat :=
  if p.has opTranspose then (destRec ops 0).cols
  else if (p.stage 0).is opGather then (p.stage 0).p0.toNat
  else n.rows

/-- The intermediate format before stage i: that of the value stage that stands before it (R199). -/
def fmtBefore (p : Prog) (i : Nat) : Nat :=
  match ((p.stages.take i).reverse).find? (fun s => !s.tap) with
  | some s => s.fmt
  | none => 0

/-- The index of the NORM stage. -/
def normAt (p : Prog) : Option Nat := firstIdx (fun s : Stage => s.is opNorm) p.stages

/-- The band height of R196 and R199: BAND, or 1, which R199 states of a task that holds rows and R196 does not of one that chains.
DEDUCED, unsafe (notes/assumptions/109.md). -/
def bandHeight (n : Node) : Nat := if n.band = 0 then 1 else n.band

/-- The rows of a band that are held in the headland (R199). -/
def heldRows (p : Prog) (n : Node) (i : Nat) : Nat :=
  min (bandHeight n) (p.holdKib * 1024 / (p.rowLen * wideSize (fmtBefore p i)))

/-- Whether the task spills held rows (R199). -/
def spills (p : Prog) (n : Node) : Bool :=
  match normAt p with
  | none => false
  | some i => heldRows p n i < min (bandHeight n) n.rows

/-- The minimum of CHAIN_KIB in bytes for a chained tap (R196), a part of a byte taken whole; `w` is the code width of its bank.
DEDUCED, unsafe (notes/assumptions/143.md). -/
def chainBytes (s : Stage) (r : Rec) (n : Node) (w : Nat) : Nat :=
  let e := bandHeight n * r.cols
  if s.is opStore then e * wideSize r.wide
  else if r.fmt.lines || r.fmt.mode != .unscaled then ceilDiv (e * w) 8 + ceilDiv e (r.fmt.furrow * 56) * 64
  else ceilDiv (e * w) 8

/-- Whether the task chains (R195, R196). -/
def Prog.chaining (p : Prog) : Bool := p.stages.any Stage.chains

/-! ## Routes (R394) -/

def routeOk (ports kind1 kind2 : Bool) (linkPorts route : Nat) : Bool :=
  match bits route 14 2 with
  | 0 => true
  | 1 => kind1 && ports && bits route 12 2 == 0 && bits route 0 4 == 0 && bits route 8 4 < linkPorts
  | 2 => kind2
  | _ => false

/-- The routes that a program uses (R393, R394). -/
def routesOk (p : Prog) (n : Node) (linkPorts : Nat) : Bool :=
  (!(p.loadsBand || p.has opProduct) || routeOk true false (p.loadsBand && !p.has opProduct) linkPorts n.routeP) &&
  (!p.has opEmit || routeOk true true false linkPorts n.routeE)

/-! ## All causes that the descriptors decide (R248, R256) -/

/-- Which destination records taps name, with the tap. -/
def Prog.taps (p : Prog) : List Stage := p.stages.filter (fun s => s.is opDrill || s.is opStore || s.is opEmit)

/-- A route of a body that is reserved, or that names a link port at or above LINK_PORTS, whether or not a stage uses it (R394). -/
def routeFault (linkPorts route : Nat) : Bool :=
  bits route 14 2 == 3 ||
    (bits route 14 2 == 1 && (bits route 12 2 != 0 || bits route 0 4 != 0 || linkPorts ≤ bits route 8 4))

/-- Causes found in the body alone (R245, R394). -/
def bodyCauses (n : Node) (linkPorts : Nat) : List Nat :=
  (if routeFault linkPorts n.routeP || routeFault linkPorts n.routeE || n.rows = 0 || (n.isFill && (n.prog != 0 || n.band != 0)) || n.opsAt % 64 != 0 || n.grows % 64 != 0 ||
      ((n.grows == 0) != (n.gpart == 0xFFFF)) then [0x0D] else []) ++
  (if !n.isFill && n.prog % 64 != 0 then [0x07] else [])

/-- The rows that destination d has: those of a band where a tap chains it, else the task's (R195, R247). -/
def destRows (n : Node) (p : Prog) (d : Nat) : Nat :=
  if p.stages.any (fun s => s.dest == d && s.chains) then bandHeight n else n.rows

/-- A USED coded record has too many furrows (R64); without a program, as in a FILL, every tensor has the task's rows. -/
def sizeCauses (n : Node) (ops : List Byte) (p : Prog) : List Nat :=
  if (inRec ops 0).sizeFault (inRows p ops n) || (inRec ops 1).sizeFault n.rows ||
      (List.range 4).any (fun d => (destRec ops d).sizeFault (destRows n p d)) then [0x03] else []

/-- Causes found in the operand block alone (R59, R63, R232, R248). A reserved DIST has P0 and P1 judged as SUM4 has them.
DEDUCED, unsafe (notes/assumptions/82.md). -/
def opsCauses (n : Node) (ops : List Byte) : List Nat :=
  (if (codedRecs ops).any Rec.fmtFault then [0x03] else []) ++
  (if (inRec ops 0).fault false || (inRec ops 1).fault false ||
      (List.range 4).any (fun d => (destRec ops d).fault (n.isFill && d == 0)) then [0x0D] else []) ++
  (if n.isFill then
    let r := destRec ops 0
    (if !r.used || r.coded || 1 < r.dist then [0x0D] else []) ++
    (if !isFinite r.t || !isFinite r.z || (if r.dist = 0 then !(wordQ r.t).le (wordQ r.z) else signBit r.z && r.z != 0x80000000) ||
        2 ^ 40 ≤ ((n.rowOff + n.rows) * r.cols - 1) / 64 then [0x09] else [])
  else [])

/-- Causes found in the program with its operand block (R180 to R199, R228, R394, R418).
DEDUCED, unsafe (notes/assumptions/82.md). DEDUCED, unsafe (notes/assumptions/139.md). -/
def progCauses (n : Node) (ops : List Byte) (p : Prog) (linkPorts : Nat) : List Nat :=
  let rd := fun d => destRec ops d
  (if !p.ok ops || p.taps.any (fun s => !(rd s.dest).used) then [0x07] else []) ++
  (if ((p.loadsBand) != (n.band != 0)) || !routesOk p n linkPorts ||
      (!p.loadsBand && !(inRec ops 0).used) ||
      ((p.has opAddin || p.has opMulin || p.has opRowrep) && !(inRec ops 1).used) ||
      p.taps.any (fun s => !(rd s.dest).used || (rd s.dest).coded != s.is opDrill) ||
      ((p.has opSide || p.has opRowrep) && n.spart == 0xFFFF) || (p.has opSide && n.gpart == 0xFFFF) then [0x0D] else []) ++
  (if p.taps.any (fun s => s.is opDrill && !s.chains && (rd s.dest).coded && (rd s.dest).placeFault n.rowOff n.rows) then [0x03] else []) ++
  (if p.taps.any (fun s => s.is opDrill && !(rd s.dest).named &&
      (!validZero (rd s.dest).z || ((rd s.dest).coded && (rd s.dest).z != 0 && (rd s.dest).fmt.mode == .e8m0))) then [0x04] else []) ++
  (if (match normAt p with
      | some i => colsAt p ops n i != p.rowLen
      | none => false) then [0x07] else []) ++
  (if 120 < p.kib ||
      (p.has opTranspose && p.tileKib < 8 * wideSize (inRec ops 0).wide) ||
      p.stages.any (fun s => s.chains && s.is opStore && p.chainKib * 1024 < chainBytes s (rd s.dest) n 0) ||
      (spills p n && p.holdSpill == 0) then [0x08] else []) ++
  (if (p.stages.zipIdx).any (fun s => s.1.is opMask &&
        2 ^ 40 ≤ ((n.rowOff + n.rows - 1) * n.cols + colsAt p ops n s.2 - 1) / 64) ||
      p.taps.any (fun s => s.is opDrill && (rd s.dest).coded && (rd s.dest).sr && 2 ^ 40 < (rd s.dest).furrows (n.rowOff + n.rows))
    then [0x09] else [])

/-- R179: a PWL table of 96 words that may be used with its number of segments. -/
def pwlOk (segs : Nat) (t : List Word) : Bool :=
  t.length == 96 && (slice t 1 (segs - 1)).all isFinite && (slice t 32 segs).all isFinite && (slice t 64 segs).all isFinite &&
  ascends (slice t 1 (segs - 1))

/-- The streams that a task concerns: drilled, gathered and side-product partners (R117, R154, R155).
DEDUCED, unsafe (notes/assumptions/125.md). -/
def taskStreams (n : Node) (ops : List Byte) (p : Prog) : List Nat :=
  sortNats ((p.taps.filterMap (fun s =>
      let r := destRec ops s.dest
      if r.named && (s.is opDrill || r.sidex) then some r.stream else none)) ++
    (if n.gpart != 0xFFFF then [n.gpart] else []) ++ (if n.spart != 0xFFFF then [n.spart] else []))

/-- The streams that a task drills. -/
def drillStreams (ops : List Byte) (p : Prog) : List Nat :=
  sortNats (p.taps.filterMap (fun s => if s.is opDrill && (destRec ops s.dest).named then some (destRec ops s.dest).stream else none))

/-- The banks that a task names (R82): those of its USED coded records. DEDUCED, unsafe (notes/assumptions/85.md). -/
def taskBanks (ops : List Byte) : List Nat := sortNats ((codedRecs ops).map (·.fmt.bank))

/-- The scale words that a task reads: of its coded inputs and of its SCALE stages (R119, R188). -/
def taskWords (ops : List Byte) (p : Prog) : List Nat :=
  sortNats (((if p.loadsBand then [] else [inRec ops 0]) ++ [inRec ops 1]).filterMap (fun r =>
      if r.used && r.coded then some r.sword else none) ++
    p.stages.flatMap (fun s => if s.is opScale then
      ((if s.va < 12 then [p.vec s.va] else []) ++ (if s.vb < 12 then [p.vec s.vb] else [])) else []))

end Sys2Proof.Machine
end

