-- ==== Sys2Proof/Machine/DmaWalk.lean ====
section
/-! DEFINITION. Blocks and walks of a DMA channel, what it has ready, and the channel that the arbiter grants (10_region_dma.md). -/

namespace Sys2Proof.Machine

/-! ## Blocks (R277 to R284) -/

def word64 (lo hi : Word) : Nat := hi.toNat * 2 ^ 32 + lo.toNat

/-- The block that fifteen register words describe (R277, R284, R301). -/
def blockOf (ws : List Word) : Block :=
  let w := fun i => (ws.getD i 0)
  let m := (w 12).toNat
  { src := word64 (w 0) (w 1)
    dst := word64 (w 2) (w 3)
    sn0 := bits (w 4).toNat 0 16 + 1
    dn0 := bits (w 4).toNat 16 16 + 1
    n1 := bits (w 5).toNat 0 16 + 1
    n2 := bits (w 5).toNat 16 16 + 1
    ss0 := (w 6).toInt
    ds0 := (w 7).toInt
    ss1 := (w 8).toInt
    ds1 := (w 9).toInt
    ss2 := (w 10).toInt
    ds2 := (w 11).toInt
    sw := 2 ^ bits m 0 2
    dw := 2 ^ bits m 4 2
    swap := bits m 8 3
    barrier := bit m 11
    next := word64 (w 13) (w 14) }

/-- The address of unit k of a walk (R277). -/
def walkAddr (base n0 n1 : Nat) (s0 s1 s2 : Int) (k : Nat) : Int :=
  base + (k / n0 / n1 : Nat) * s2 + (k / n0 % n1 : Nat) * s1 + (k % n0 : Nat) * s0

def Block.srcAddr (b : Block) (k : Nat) : Int := walkAddr b.src b.sn0 b.n1 b.ss0 b.ss1 b.ss2 k
def Block.dstAddr (b : Block) (k : Nat) : Int := walkAddr b.dst b.dn0 b.n1 b.ds0 b.ds1 b.ds2 k
def Block.srcUnits (b : Block) : Nat := b.sn0 * b.n1 * b.n2
def Block.dstUnits (b : Block) : Nat := b.dn0 * b.n1 * b.n2
/-- Bytes of the block's stream (R278). -/
def Block.size (b : Block) : Nat := b.srcUnits * b.sw

/-- Whether a SWAP is valid for a destination width (R280). -/
def swapOk (swap dw : Nat) : Bool :=
  match swap with
  | 0 => true
  | 1 => 2 ≤ dw
  | 2 => 4 ≤ dw
  | 3 => dw == 8
  | 4 => 4 ≤ dw
  | 5 => dw == 8
  | _ => false

/-- The extremes of a walk lie between 0 and 2^64 - width (R283 rule 0x4). -/
def walkInside (base n0 n1 n2 w : Nat) (s0 s1 s2 : Int) : Bool :=
  let e0 := (n0 - 1 : Nat) * s0
  let e1 := (n1 - 1 : Nat) * s1
  let e2 := (n2 - 1 : Nat) * s2
  let lo := (base : Int) + min e0 0 + min e1 0 + min e2 0
  let hi := (base : Int) + max e0 0 + max e1 0 + max e2 0
  0 ≤ lo && hi ≤ (2 ^ 64 : Int) - w

/-- The reserved bits of DMA_MODE (R301). -/
def modeRsv : Word := 0xFFFFF0CC

/-- The first rule of R283 that a block breaks, 0 for none; `crc` says whether a descriptor's CRC matches. Low bits of NEXT break rule 0x7
alone. DEDUCED, unsafe (notes/assumptions/117.md). -/
def blockFault (ws : List Word) (crc : Bool) : Nat :=
  let b := blockOf ws
  let mul := fun (x : Int) (w : Nat) => x % (w : Int) == 0
  if !swapOk b.swap b.dw then 1
  else if !(mul b.src b.sw && mul b.dst b.dw && mul b.ss0 b.sw && mul b.ss1 b.sw && mul b.ss2 b.sw &&
      mul b.ds0 b.dw && mul b.ds1 b.dw && mul b.ds2 b.dw) then 2
  else if b.sn0 * b.sw != b.dn0 * b.dw then 3
  else if !(walkInside b.src b.sn0 b.n1 b.n2 b.sw b.ss0 b.ss1 b.ss2 &&
      walkInside b.dst b.dn0 b.n1 b.n2 b.dw b.ds0 b.ds1 b.ds2) then 4
  else if !crc then 5
  else if ws.getD 12 0 &&& modeRsv != 0 then 6
  else if b.next % 64 != 0 then 7
  else 0

/-- The fifteen words as the registers hold them: reserved bits read 0 (R301). -/
def regWords (ws : List Word) : List Word :=
  modAt (modAt ws 12 (fun w => w &&& ~~~ modeRsv)) 13 (fun w => w &&& 0xFFFFFFC0)

/-- Rearrange groups of g bytes of a unit. -/
def swapGroups (g : Nat) (f : List Byte → List Byte) (u : List Byte) : List Byte := (chunks g u).flatMap f

/-- The swap of a destination unit (R280). -/
def swapUnit (swap : Nat) (u : List Byte) : List Byte :=
  match swap with
  | 1 => swapGroups 2 List.reverse u
  | 2 => swapGroups 4 List.reverse u
  | 3 => swapGroups 8 List.reverse u
  | 4 => swapGroups 4 (fun g => g.drop 2 ++ g.take 2) u
  | 5 => swapGroups 8 (fun g => (chunks 2 g).reverse.flatten) u
  | _ => u

/-! ## Bursts (R281) -/

/-- Grow a burst of `n` units of width w from unit `start`; `dir`: 0 not yet known, 1 ascending, 2 descending. -/
def growBurst (addr : Nat → Int) (w total start : Nat) : Nat → Nat → Nat → Nat × Nat
  | 0, n, dir => (n, dir)
  | fuel + 1, n, dir =>
    let prev := addr (start + n - 1)
    let next := addr (start + n)
    let d := if next = prev + w then 1 else if next = prev - w then 2 else 0
    if start + n < total && d != 0 && (dir == 0 || dir == d) && (n + 1) * w ≤ 256 &&
        (addr start).toNat / 256 == next.toNat / 256 then
      growBurst addr w total start fuel (n + 1) d
    else (n, dir)

/-- The burst that starts at unit `start`: number of units, whether descending, lowest address (R281). -/
structure Span where
  units : Nat
  desc : Bool
  addr : Nat
  deriving DecidableEq, Repr, Inhabited

def spanAt (addr : Nat → Int) (w total start : Nat) : Span :=
  let g := growBurst addr w total start 256 1 0
  ⟨g.1, g.2 == 2, (if g.2 = 2 then addr (start + g.1 - 1) else addr start).toNat⟩

/-- Turn the bytes of a burst between address order and walk order. -/
def orderUnits (desc : Bool) (w : Nat) (bs : List Byte) : List Byte :=
  if desc then (chunks w bs).reverse.flatten else bs

/-- The stream byte at an offset that has arrived. -/
def bufByte (buf : List (Nat × List Byte)) (off : Nat) : Option Byte :=
  match buf.find? (fun x => x.1 ≤ off && off < x.1 + x.2.length) with
  | none => none
  | some x => x.2[off - x.1]?

/-- Stream bytes from an offset, where all have arrived. -/
def bufBytes (buf : List (Nat × List Byte)) (off len : Nat) : Option (List Byte) :=
  (List.range len).foldr (fun i acc => match bufByte buf (off + i), acc with
    | some b, some l => some (b :: l)
    | _, _ => none) (some [])

/-! ## What a channel has ready (R285, R288, R290, R291) -/

/-- The next read burst of a channel: a descriptor fetch, or a source burst for which the buffer has room. -/
def readReady (c : Chan) : Option (FlightKind × Span × Nat) :=
  if c.state != .active then none
  else match c.fetchAt with
    | some a => some (.fetch, ⟨1, false, a⟩, 64)
    | none =>
      let b := blockOf c.regs
      if !c.running || b.srcUnits ≤ c.srcIdx then none
      else
        let sp := spanAt b.srcAddr b.sw b.srcUnits c.srcIdx
        if (c.srcIdx + sp.units) * b.sw - c.dstIdx * b.dw ≤ 512 then some (.read, sp, sp.units * b.sw) else none

/-- The next write burst of a channel, with its bytes in address order: all its source bytes have been read (R279). -/
def writeReady (c : Chan) : Option (Span × List Byte) :=
  if c.state != .active || !c.running then none
  else
    let b := blockOf c.regs
    if b.dstUnits ≤ c.dstIdx then none
    else
      let sp := spanAt b.dstAddr b.dw b.dstUnits c.dstIdx
      match bufBytes c.buf (c.dstIdx * b.dw) (sp.units * b.dw) with
      | none => none
      | some bs => some (sp, orderUnits sp.desc b.dw ((chunks b.dw bs).flatMap (swapUnit b.swap)))

def chanReady (c : Chan) (wr : Bool) : Bool := if wr then (writeReady c).isSome else (readReady c).isSome

/-- The channel that the arbiter grants: highest priority, then the next after the one granted last at that level (R290). -/
def arbiter (d : Dma) (wr : Bool) : Option Nat :=
  let rs := (List.range 32).filter (fun c => chanReady (d.chans.getD c Chan.reset) wr)
  let prio := fun c => (d.chans.getD c Chan.reset).prio
  let top := maxNat (rs.map prio)
  let lvl := rs.filter (fun c => prio c == top)
  let last := (if wr then d.lastWrite else d.lastRead).getD top 31
  match lvl.find? (fun c => last < c) with
  | some c => some c
  | none => lvl.head?

end Sys2Proof.Machine
end

