-- ==== Sys2Proof/Machine/Ops.lean ====
section
/-! DEFINITION. Shared operations: access to the parts of the state, the fault log (R348 to R350), accesses of the control island
with their retries (R330 to R332), and presentation on the cluster ports (R385 to R393). -/

namespace Sys2Proof.Machine

/-! ## Parts of the state -/

/-- Record what is driven at an output. DESIGN CHOICE, safe (notes/assumptions/32.md). -/
def emit (o : Out) (s : State) : State := { s with outs := s.outs ++ [o] }
def emits (os : List Out) (s : State) : State := { s with outs := s.outs ++ os }

def region (s : State) (r : Nat) : Region := s.regions.getD r (Region.reset 0)
def modRegion (r : Nat) (f : Region → Region) (s : State) : State := { s with regions := modAt s.regions r f }
def modDma (r : Nat) (f : Dma → Dma) (s : State) : State := modRegion r (fun x => { x with dma := f x.dma }) s
def chan (s : State) (r ch : Nat) : Chan := (region s r).dma.chans.getD ch Chan.reset
def modChan (r ch : Nat) (f : Chan → Chan) (s : State) : State :=
  modDma r (fun d => { d with chans := modAt d.chans ch f }) s
def posOf (s : State) (r p : Nat) : Pos := (region s r).pos.getD p ⟨true, 0, 0⟩
def modPos (r p : Nat) (f : Pos → Pos) (s : State) : State := modRegion r (fun x => { x with pos := modAt x.pos p f }) s
def modPhys (r c : Nat) (f : Phys → Phys) (s : State) : State := modRegion r (fun x => { x with phys := modAt x.phys c f }) s
def port (s : State) (c : Nat) : Port := s.ports.getD c Port.reset
def modPort (c : Nat) (f : Port → Port) (s : State) : State := { s with ports := modAt s.ports c f }
def bank (s : State) (n : Nat) : Bank := s.banks.getD n Bank.reset
def modBank (n : Nat) (f : Bank → Bank) (s : State) : State := { s with banks := modAt s.banks n f }
def liftSlice (s : State) (i : Nat) : Slice := s.slices.getD i Slice.reset
def modSlice (i : Nat) (f : Slice → Slice) (s : State) : State := { s with slices := modAt s.slices i f }
def linkPort (s : State) (p : Nat) : LinkPort := s.lnk.getD p LinkPort.reset
def modLnk (p : Nat) (f : LinkPort → LinkPort) (s : State) : State := { s with lnk := modAt s.lnk p f }
def session (s : State) (p i : Nat) : Session := (linkPort s p).sessions.getD i Session.reset
def modSess (p i : Nat) (f : Session → Session) (s : State) : State :=
  modLnk p (fun l => { l with sessions := modAt l.sessions i f }) s
def modHealth (f : Health → Health) (s : State) : State := { s with health := f s.health }
def modLoader (f : Loader → Loader) (s : State) : State := { s with loader := f s.loader }

/-! ## Outcomes -/

abbrev Answer := Host.Outcome State Fault Refusal

/-- While a full reset is in force or the T5 is in test mode, its functional logic is held in reset and nothing happens in it
(R354, R383, R400). DESIGN CHOICE, safe (notes/assumptions/3.md). DESIGN CHOICE, safe (notes/assumptions/76.md). -/
def inRun (s : State) (a : Answer) : Answer := if s.rst = .run then a else .next s

/-! ## Bursts and accesses -/

/-- Cut a range of addresses at the 256-byte windows (R387): (address, length, offset) of each burst. -/
def splitAux : Nat → Nat → Nat → Nat → List (Nat × Nat × Nat)
  | 0, _, _, _ => []
  | k + 1, addr, len, off =>
    if len = 0 then []
    else
      let n := min len (256 - addr % 256)
      (addr, n, off) :: splitAux k (addr + n) (len - n) (off + n)

def splitBursts (addr len : Nat) : List (Nat × Nat × Nat) := splitAux (len / 256 + 2) addr len 0

/-- The bytes of a burst in the positions of a beat of 16 guarded words (R387, R390). -/
def beatWords (pos : Nat) (data : List Byte) : List GWord :=
  (chunks 16 (zeros pos ++ data ++ zeros (256 - pos - data.length))).map guarded

/-- A burst of 256 bytes at most from position `pos`, checked word by word (R390, R392): the bytes (`none` where doubted),
the positions of the words corrected, and of the words that are uncorrectable. -/
structure Taken where
  bytes : List OByte
  corrected : List Nat
  bad : List Nat
  deriving DecidableEq, Repr

/-- Check the words of an inbound half and take `len` bytes from position `pos`. -/
def takeBeat (words : List GWord) (pos len : Nat) : Taken :=
  let first := pos / 16
  let last := (pos + len - 1) / 16
  let used := (List.range (last + 1)).drop first
  let cs := used.map (fun i => (i, g16Check (words.getD i (guarded (zeros 16)))))
  let bytes := cs.flatMap (fun c => match c.2 with
    | .good d => d.map some
    | .corrected d => d.map some
    | .uncorrectable => List.replicate 16 none)
  { bytes := slice bytes (pos % 16) len
    corrected := (cs.filter (fun c => match c.2 with | .corrected _ => true | _ => false)).map (·.1)
    bad := (cs.filter (fun c => match c.2 with | .uncorrectable => true | _ => false)).map (·.1) }

/-- Whether a cluster port may present anything: its partner is not lost (R395) and its region is not parked (R380). -/
def portOpen (s : State) (c : Nat) : Bool :=
  !(port s c).lost && !(region s (s.build.regionOf c)).parkAck

/-- The smallest tag that no outstanding request of the class uses on the port (R387), nor one that timed out and may still be answered
(R331) while there is another. DESIGN CHOICE, unsafe (notes/assumptions/7.md). -/
def freeTag (p : Port) (wr : Bool) : Option Nat :=
  let used := (p.out.filter (fun q => q.burst.wr == wr)).map (·.tag)
  let late := (p.late.filter (fun t => t.1 == wr)).map (·.2)
  ((List.range (used.length + late.length + 1)).find? (fun t => !used.contains t && (!late.contains t && t < 1024))).or
    ((List.range (used.length + 1)).find? (fun t => !used.contains t && t < 1024))

def credits (p : Port) (wr : Bool) : Nat := if wr then p.wr else p.rd

/-- Whether a burst can be presented on a port now (R388). -/
def canPresent (s : State) (c : Nat) (wr : Bool) : Bool :=
  portOpen s c && 0 < credits (port s c) wr && (freeTag (port s c) wr).isSome

/-- Present a burst: one credit, a tag, and the request at the port (R385, R388). -/
def present (c : Nat) (b : Burst) (s : State) : State :=
  match freeTag (port s c) b.wr with
  | none => s
  | some t =>
    let s := modPort c (fun p => { p with
      rd := if b.wr then p.rd else p.rd - 1
      wr := if b.wr then p.wr - 1 else p.wr
      out := p.out ++ [⟨t, b⟩] }) s
    emit (if b.wr then .write c b.addr b.len t (beatWords (b.addr % 256) b.data) else .read c b.addr b.len t) s

/-- Among some ports the one with the most free credits of a direction, the lowest index on ties (R287).
DESIGN CHOICE, unsafe (notes/assumptions/7.md). -/
def bestPort (s : State) (cs : List Nat) (wr : Bool) : Option Nat :=
  (cs.filter (fun c => canPresent s c wr)).foldl (fun best c =>
    match best with
    | none => some c
    | some d => if credits (port s d) wr < credits (port s c) wr then some c else some d) none

/-- The ports that a control-island burst may use: any cluster, or a region's own for a DMA record (R21, R294).
DESIGN CHOICE, unsafe (notes/assumptions/7.md). -/
def ctlPorts (s : State) (kind : JobKind) : List Nat :=
  match kind with
  | .dmaRec r _ | .dmaSeq r _ => (List.range s.build.clustersPerRegion).map (fun k => r * s.build.clustersPerRegion + k)
  | _ => List.range s.build.clusters

def jobOf (s : State) (id : Nat) : Option Job := s.jobs.find? (fun j => j.id == id)
def modJob (id : Nat) (f : Job → Job) (s : State) : State :=
  { s with jobs := s.jobs.map (fun j => if j.id = id then f j else j) }

/-- The kind of access a burst of the control island belongs to. -/
def burstKind (s : State) (b : Burst) : JobKind :=
  match b.owner with
  | .ctl j => ((jobOf s j).map (·.kind)).getD .log
  | _ => .log

/-- Whether an access writes a completion record of a DMA channel: its bursts are the engine's (R22, R293). -/
def JobKind.ofEngine : JobKind → Bool
  | .dmaRec _ _ | .dmaSeq _ _ => true
  | _ => false

/-- Present the waiting bursts of the control island, oldest first, each on the best port that can take it; those of a DMA engine wait
for their turn with the cores (`drainCore`). -/
def drainCtlAux : Nat → List Burst → List Burst → State → State
  | 0, kept, rest, s => { s with ctlWait := kept ++ rest }
  | _ + 1, kept, [], s => { s with ctlWait := kept }
  | k + 1, kept, b :: rest, s =>
    if (burstKind s b).ofEngine then drainCtlAux k (kept ++ [b]) rest s
    else match bestPort s (ctlPorts s (burstKind s b)) b.wr with
      | some c => drainCtlAux k kept rest (present c b s)
      | none => drainCtlAux k (kept ++ [b]) rest s

/-- Present the requests of the control island that wait for a credit (R387). DESIGN CHOICE, unsafe (notes/assumptions/7.md). -/
def drainCtl (s : State) : State := drainCtlAux s.ctlWait.length [] s.ctlWait s

/-- Start an access of the control island: its segments (address, length) are read, or the bytes are written at `addr`. -/
def startRead (kind : JobKind) (segs : List (Nat × Nat)) (s : State) : State :=
  let id := s.nextJob
  let parts := segs.foldl (fun acc sg =>
    (acc.1 ++ (splitBursts sg.1 sg.2).map (fun x => (x.1, x.2.1, acc.2 + x.2.2)), acc.2 + sg.2)) (([] : List (Nat × Nat × Nat)), 0)
  let bs := parts.1.map (fun x => (⟨.ctl id, false, x.1, x.2.1, x.2.2, 0, []⟩ : Burst))
  drainCtl { s with
    nextJob := id + 1
    jobs := s.jobs ++ [⟨id, kind, false, List.replicate parts.2 none, bs.length, none⟩]
    ctlWait := s.ctlWait ++ bs }

/-- Write several ranges in one access. -/
def startWrites (kind : JobKind) (segs : List (Nat × List Byte)) (s : State) : State :=
  let id := s.nextJob
  let bs := segs.flatMap (fun sg => (splitBursts sg.1 sg.2.length).map (fun x =>
    (⟨.ctl id, true, x.1, x.2.1, x.2.2, 0, slice sg.2 x.2.2 x.2.1⟩ : Burst)))
  drainCtl { s with
    nextJob := id + 1
    jobs := s.jobs ++ [⟨id, kind, true, [], bs.length, none⟩]
    ctlWait := s.ctlWait ++ bs }

def startWrite (kind : JobKind) (addr : Nat) (data : List Byte) (s : State) : State := startWrites kind [(addr, data)] s

/-! ## The fault log (R348 to R350) -/

/-- No context (R348). -/
def noCtx : Nat := 0xFFFF

/-- HLT_LOG_SIZE.LOG2 as it acts: a value outside 6 to 20 acts as 0 (R351). DEDUCED, unsafe (notes/assumptions/73.md). -/
def Health.ring (h : Health) : Nat := if 6 ≤ h.logLog2 && h.logLog2 ≤ 20 then h.logLog2 else 0

/-- The address of log entry i (R348). -/
def logAddr (h : Health) (i : Word) : Nat :=
  h.logBaseHi.toNat * 2 ^ 32 + h.logBaseLo.toNat + 32 * (i.toNat % 2 ^ h.ring)

/-- The 32 bytes of an entry with its index and CRC (R348). -/
def logBytes (i : Word) (e : LogEntry) : List Byte :=
  withCrc (leBytes 4 i.toNat ++ leBytes 1 e.code ++ leBytes 1 e.kind ++ leBytes 1 e.region ++ [0] ++
    leBytes 2 e.unit ++ leBytes 2 e.ctx ++ leBytes 4 e.d0 ++ leBytes 8 e.a ++ leBytes 4 e.time)

/-- Begin to write the first entry in the queue once the ring is set up and nothing is being written; entries that find no
room are discarded (R350). -/
def logPump (s : State) : State :=
  let h := s.health
  if h.ring = 0 || h.phase != .idle then s
  else match h.queue with
    | [] => s
    | e :: _ =>
      let i := h.logWrite
      if 2 ^ h.ring ≤ dist32 i h.logRelease then
        modHealth (fun h => { h with queue := [], logLost := cntSat h.logLost h.queue.length }) s
      else startWrite .log (logAddr h i + 4) ((logBytes i e).drop 4) (modHealth (fun h => { h with phase := .body }) s)

/-- The room test of R350 for an event's entry; while the ring is not set up, 64 entries are kept. -/
def logRoom (h : Health) : Bool :=
  if h.ring = 0 then h.queue.length < 64
  else dist32 (h.logWrite + BitVec.ofNat 32 h.queue.length) h.logRelease < 2 ^ h.ring

/-- The counter of the island of a source (R35, R348). -/
def islandTime (s : State) (kind reg unit : Nat) : Nat :=
  match kind with
  | 1 => (region s reg).time
  | 2 => (liftSlice s unit).time
  | 3 => (linkPort s unit).time
  | 4 => s.ldrTime
  | _ => s.ctlTime

/-- Record an event in the fault log, or count it in HLT_LOG_LOST (R350). DESIGN CHOICE, unsafe (notes/assumptions/63.md). -/
def logEvent (code kind reg unit ctx d0 a : Nat) (s : State) : State :=
  let e : LogEntry := ⟨code, kind, reg, unit, ctx, d0, a, islandTime s kind reg unit % 2 ^ 32⟩
  if logRoom s.health then logPump (modHealth (fun h => { h with queue := h.queue ++ [e] }) s)
  else modHealth (fun h => { h with logLost := cntSat h.logLost 1 }) s

/-! ## Corrected and uncorrectable words (R328, R329) -/

/-- KIND, the region, and UNIT of a source (R348). -/
def srcKind : Src → Nat
  | .control => 0
  | .core _ _ | .channel _ _ | .tracker _ => 1
  | .slice _ => 2
  | .link _ => 3
  | .loader => 4

def srcRegion : Src → Option Nat
  | .core r _ | .channel r _ | .tracker r => some r
  | _ => none

def srcUnit : Src → Nat
  | .core _ p => p
  | .channel _ c => 0x100 + c
  | .tracker _ => 0x200
  | .slice i => i
  | .link p => p
  | _ => 0

/-- An event of a source in the fault log. -/
def logFrom (code : Nat) (src : Src) (ctx d0 a : Nat) (s : State) : State :=
  logEvent code (srcKind src) ((srcRegion src).getD 0) (srcUnit src) ctx d0 a s

/-- Count (and with LOG_CE log) a corrected word at each of some addresses (R328). -/
def noteCorrected (store : Nat) (src : Src) (addrs : List Nat) (s : State) : State :=
  let s := modHealth (fun h => { h with ceCount := cntSat h.ceCount addrs.length }) s
  let s := match (srcRegion src) with
    | some r => modRegion r (fun x => { x with ce := cntSat x.ce addrs.length }) s
    | none => s
  if s.health.logCe then addrs.foldl (fun s a => logFrom 0x01 src noCtx store a s) s else s

/-- Count uncorrectable words (R329). DESIGN CHOICE, safe (notes/assumptions/30.md). -/
def countUe (n : Nat) (reg : Option Nat) (s : State) : State :=
  let s := modHealth (fun h => { h with ueCount := cntSat h.ueCount n }) s
  match reg with
  | some r => modRegion r (fun x => { x with ue := cntSat x.ue n }) s
  | none => s

/-! ## Answers to control-island bursts (R330 to R332) -/

/-- How a burst fails: an uncorrectable word, a time-out or an error response. -/
inductive BurstFail where
  | ue | timeout | err
  deriving DecidableEq, Repr, Inhabited

/-- The event code of a read that fails (R330). -/
def BurstFail.code : BurstFail → Nat
  | .ue => 0x02
  | .timeout => 0x04
  | .err => 0x06

/-- Whether an access is retried (R330, R332): not a DMA record (R294), and not what a core reads and writes. -/
def JobKind.retried : JobKind → Bool
  | .dmaRec _ _ | .dmaSeq _ _ | .swathRd _ | .swathWr _ _ _ | .mergeWr _ _ _ | .tail _ _ => false
  | _ => true

/-- The writes that end a task: scale words and channel vectors (R118, R157). They are no writes of the control island that R332
lists: a failure is one of the task. DEDUCED, unsafe (notes/assumptions/42.md). -/
def JobKind.endsTask : JobKind → Bool
  | .mergeWr _ _ _ | .tail _ _ => true
  | _ => false

/-- The context an access serves, for the fault log (R348). -/
def JobKind.ctx : JobKind → Nat
  | .accEntry c | .accImage c | .accFields c | .enHeader c | .enImage c _ | .cancelImage c _ | .save c | .restore c
  | .score c | .glnBody c | .glnSeq c | .cplBody c | .cplSeq c | .foldRecs c | .checkRead c _ | .cmPlan c _ | .cmList c _ | .cmVec c _
  | .cmPlanWr c _ | .cmZero c _ | .cmEntry c _ | .cmHeader c
  | .accScore c | .scoreRead c => c
  | .taskOps n _ | .taskHdr n _ | .taskStages n _ | .taskTable n _ _ | .sword n _ _ | .plan n _ _ | .planList n _ _
  | .merge n _ _ | .mergeWr n _ _ | .tail n _ => n.ctx
  | _ => noCtx

/-- The context an access serves: for the load of a slot and a request of fallback, that of the stream. -/
def jobCtx (s : State) (k : JobKind) : Nat :=
  match k with
  | .slotLoad i => ((s.trk.slots.find? (fun x => x.idx == i)).map (·.ctx)).getD noCtx
  | .fbPlan id => ((s.trk.fbAsks.find? (fun x => x.id == id)).map (·.req.ctx)).getD noCtx
  | k => k.ctx

/-- Discard the accesses for which a test holds, with the bursts that have not been presented. -/
def dropJobs (f : JobKind → Bool) (s : State) : State :=
  let gone := (s.jobs.filter (fun j => f j.kind)).map (·.id)
  { s with
    jobs := s.jobs.filter (fun j => !gone.contains j.id)
    ctlWait := s.ctlWait.filter (fun b => match b.owner with
      | .ctl j => !gone.contains j
      | _ => true) }

/-- One burst of an access is settled; the access is handed back when it was the last. -/
def settle (id : Nat) (s : State) : State × Option Job :=
  match jobOf s id with
  | none => (s, none)
  | some j =>
    if j.left ≤ 1 then ({ s with jobs := s.jobs.filter (fun x => x.id != id) }, some { j with left := 0 })
    else (modJob id (fun x => { x with left := x.left - 1 }) s, none)

/-- A burst of the control island is answered well: its bytes are placed, and a success after a retry counts as a corrected
event (R330). -/
def ctlGood (b : Burst) (id : Nat) (bytes : List OByte) (s : State) : State × Option Job :=
  let s := if 0 < b.tries && !b.wr then noteCorrected 0 .control [b.addr] s else s
  settle id (modJob id (fun j => { j with buf := if b.wr then j.buf else patch j.buf b.off bytes }) s)

/-- A burst of the control island fails: it is retried up to HLT_CFG.RETRY times, else the access has failed (R330, R332).
DEDUCED, unsafe (notes/assumptions/29.md). DEDUCED, unsafe (notes/assumptions/47.md). -/
def ctlBad (b : Burst) (id cluster : Nat) (f : BurstFail) (s : State) : State × Option Job :=
  match jobOf s id with
  | none => (s, none)
  | some j =>
    if j.kind.retried && b.tries < s.health.retry then
      (drainCtl { s with ctlWait := s.ctlWait ++ [{ b with tries := b.tries + 1 }] }, none)
    else
      let code := if b.wr && f != .timeout then 0x05 else f.code
      let quiet := b.wr && !(f == .timeout && j.kind.endsTask)
      let s := if quiet || j.fail.isSome then s
        else logEvent code 0 0 0 (jobCtx s j.kind) (match f with | .ue => cluster | .timeout => b2n b.wr | .err => 0) b.addr s
      settle id (modJob id (fun j => { j with fail := some (j.fail.getD (code, b.addr)) }) s)

/-! ## Core bursts and stream beats -/

/-- The ports of a region. -/
def regionPorts (s : State) (r : Nat) : List Nat :=
  (List.range s.build.clustersPerRegion).map (fun k => r * s.build.clustersPerRegion + k)

/-- Whether the DMA engine was granted the last burst of a direction (R22). -/
def Port.lastDma (p : Port) (wr : Bool) : Bool := if wr then p.lastDmaWr else p.lastDmaRd

/-- The engine, or a core, is granted a burst of a direction. -/
def Port.grant (p : Port) (wr dma : Bool) : Port := if wr then { p with lastDmaWr := dma } else { p with lastDmaRd := dma }

/-- The burst of a completion record that the DMA engine would present on a port next: its channel's region is the port's, and the
port is the one that R287 has it take. DEDUCED, unsafe (notes/assumptions/132.md). -/
def recordBurst (s : State) (c : Nat) : Option Burst :=
  let ps := regionPorts s (s.build.regionOf c)
  s.ctlWait.find? (fun b => (burstKind s b).ofEngine && ctlPorts s (burstKind s b) == ps && bestPort s ps b.wr == some c)

/-- Whether the region's DMA engine waits for the port a core also waits for, with a burst of a channel or of a completion record, and it
is the engine's turn: a core was granted the port's last burst of that direction (R22). DEDUCED, unsafe (notes/assumptions/31.md). -/
def dmaTurn (s : State) (c : Nat) (wr : Bool) : Bool :=
  let r := s.build.regionOf c
  let d := (region s r).dma
  !(port s c).lastDma wr && ((wr && (recordBurst s c).isSome) ||
    (!d.stopped && !d.draining && (arbiter d wr).isSome && bestPort s (regionPorts s r) wr == some c))

/-- Present the waiting core bursts of a port, oldest first, while their credits last (R388), and the waiting bursts of completion records
of the region's DMA engine. Where both wait for the port they take turns, and where a core was served last, the next burst is the
engine's (R22). DEDUCED, unsafe (notes/assumptions/31.md). -/
def drainCore : Nat → Nat → State → State
  | 0, _, s => s
  | k + 1, c, s =>
    match (port s c).wait.find? (fun b => canPresent s c b.wr && !dmaTurn s c b.wr) with
    | some b =>
      drainCore k c (modPort c (fun p => p.grant b.wr false)
        (present c b (modPort c (fun p => { p with wait := p.wait.erase b }) s)))
    | none => match recordBurst s c with
      | some b =>
        drainCore k c (modPort c (fun p => p.grant b.wr true) (present c b { s with ctlWait := s.ctlWait.erase b }))
      | none => s

/-- The beat a stream beat takes at the port (R385). -/
def beatOut (c : Nat) (b : Beat) : Out :=
  match b.op with
  | .sopen => .sopen c b.sid b.route (beatWords 0 b.data)
  | .sdata => .sdata c b.sid b.data.length (beatWords 0 b.data)
  | .sline => .sline c b.sid (beatWords 0 b.data)
  | .sclose => .sclose c b.sid

def drainBeats : Nat → Nat → State → State
  | 0, _, s => s
  | k + 1, c, s =>
    match (port s c).beats with
    | [] => s
    | b :: bs =>
      if portOpen s c && 0 < (port s c).st then
        drainBeats k c (emit (beatOut c b) (modPort c (fun p => { p with
          beats := bs, st := p.st - 1
          streams := if b.op = .sclose then
              p.streams.map (fun o => if o.sid = b.sid && !o.recv then { o with closed := true } else o)
            else p.streams }) s))
      else s

/-- Present what a port can take: core bursts and bursts of completion records, then stream beats. -/
def drainPort (c : Nat) (s : State) : State :=
  let s := drainCore ((port s c).wait.length + s.ctlWait.length) c s
  drainBeats (port s c).beats.length c s

/-- Present what every port of a region can take: a core that left its turn to the DMA engine takes it once the engine waits no more.
DEDUCED, unsafe (notes/assumptions/31.md). -/
def drainRegion (r : Nat) (s : State) : State := (regionPorts s r).foldl (fun s c => drainPort c s) s

/-- Whether a position still runs under an epoch (R335). -/
def epochHolds (s : State) (r p : Nat) (epoch : BitVec 16) : Bool := !(posOf s r p).vacant && (posOf s r p).epoch == epoch

/-- Queue a core's bursts at its cluster port and present what can be presented. -/
def coreIssue (c : Nat) (bs : List Burst) (s : State) : State :=
  drainPort c (modPort c (fun p => { p with wait := p.wait ++ bs }) s)

/-- Queue stream beats at a cluster port. -/
def beatIssue (c : Nat) (bs : List Beat) (s : State) : State :=
  drainPort c (modPort c (fun p => { p with beats := p.beats ++ bs }) s)

end Sys2Proof.Machine
end

