-- ==== Sys2Proof/Machine/Flags.lean ====
section
/-! DEFINITION. Statuses, causes and INFO bits of completion records (R252, R254 to R256), and the flags of glean records and
scale words (R118, R134). -/

namespace Sys2Proof.Machine

def stOk : Nat := 0x00
def stCold : Nat := 0x01
def stFallback : Nat := 0x02
def stSpill : Nat := 0x03
def stHeldSpilled : Nat := 0x04
def stPoisoned : Nat := 0x10
def stCancelled : Nat := 0x11
def stBusStop : Nat := 0x12
def stTagMismatch : Nat := 0x13
def stHopLimit : Nat := 0x14
def stGraphStall : Nat := 0x15
def stRejected : Nat := 0x16

/-- A failing status (R252). -/
def failing (st : Nat) : Bool := [stCancelled, stBusStop, stHopLimit, stGraphStall, stRejected].contains st

/-- What applied to a task that ran (R254, R255). -/
structure Applied where
  cold : Bool
  fallback : Bool
  spill : Bool
  heldSpilled : Bool
  poisoned : Bool
  /-- The cause of a failed write (R332). -/
  stop : Option Nat
  tagMis : Bool
  deriving DecidableEq, Repr, Inhabited

/-- STATUS: the highest code that applies (R255). -/
def Applied.status (a : Applied) : Nat :=
  if a.tagMis then stTagMismatch
  else if a.stop.isSome then stBusStop
  else if a.poisoned then stPoisoned
  else if a.heldSpilled then stHeldSpilled
  else if a.spill then stSpill
  else if a.fallback then stFallback
  else if a.cold then stCold
  else stOk

/-- CAUSE: that of the status reported (R256). -/
def Applied.cause (a : Applied) : Nat := if a.status = stBusStop then a.stop.getD 0 else 0

/-- INFO of a node's record (R254). -/
def Applied.info (a : Applied) : Nat :=
  b2n a.cold + 2 * b2n a.fallback + 4 * b2n a.spill + 8 * b2n a.heldSpilled

/-- INFO of the record of a refused graph: RTYPE GRAPH (R254). -/
def infoGraph : Nat := 0x40

/-- The lowest cause among some (R256). DEDUCED, unsafe (notes/assumptions/41.md). -/
def lowest (cs : List Nat) : Option Nat := (sortNats cs).head?

/-- FLAGS of a scale word (R118). -/
def DestScale.flags (d : DestScale) : Nat :=
  b2n (d.cold == .twoPass) + 2 * b2n (d.cold == .seeded) + 4 * b2n d.corrected

/-- FLAGS of a drill's glean record (R134): `kind` 0 tracked, 1 untracked. DEDUCED, unsafe (notes/assumptions/50.md). -/
def DestScale.recFlags (d : DestScale) (kind : Nat) (vec : Bool) : Nat := kind + 8 * d.flags + 64 * b2n vec

/-- The scale word of a drill destination (R118). -/
def scaleWord (d : DestScale) (step stream : Nat) : List Byte :=
  leBytes 4 d.t.toNat ++ leBytes 4 d.z.toNat ++ leBytes 4 step ++ leBytes 2 stream ++ leBytes 1 d.flags ++ [0]

end Sys2Proof.Machine
end

