-- ==== Sys2Proof/Machine/NodeOps.lean ====
section
/-! DEFINITION. Contexts, graphs and nodes: access to them, and the completion of nodes (R249 to R252). -/

namespace Sys2Proof.Machine

/-! ## Access -/

def ctxOf (s : State) (c : Nat) : Ctx := s.ctxs.getD c Ctx.reset
def modCtx (c : Nat) (f : Ctx → Ctx) (s : State) : State := { s with ctxs := modAt s.ctxs c f }
/-- Whether a context is built (R274). -/
def ctxBuilt (s : State) (c : Nat) : Bool := c < s.ctxs.length

def Ctx.graphIn (x : Ctx) (slot : Nat) : Option Graph := x.graphs.find? (fun g => g.slot == slot)
def modGraph (c slot : Nat) (f : Graph → Graph) (s : State) : State :=
  modCtx c (fun x => { x with graphs := x.graphs.map (fun g => if g.slot = slot then f g else g) }) s
def graphOf (s : State) (c slot : Nat) : Option Graph := (ctxOf s c).graphIn slot
def nodeOf (s : State) (r : NodeRef) : Option Node := (graphOf s r.ctx r.graph).bind (fun g => g.nodes[r.node]?)
def modNode (r : NodeRef) (f : Node → Node) (s : State) : State :=
  modGraph r.ctx r.graph (fun g => { g with nodes := modAt g.nodes r.node f }) s
def taskOf (s : State) (r : NodeRef) : Option Task := (nodeOf s r).bind (·.task)
def modTask (r : NodeRef) (f : Task → Task) (s : State) : State :=
  modNode r (fun n => { n with task := n.task.map f }) s

/-- The node that is emitted next: that of the first graph, where it has completed. -/
def Ctx.headNode (x : Ctx) : Option (Graph × Option Node) :=
  match x.graphs with
  | [] => none
  | g :: _ =>
    if g.refused then some (g, none)
    else match g.nodes[g.emitted]? with
      | some n => if n.stat = .completed then some (g, some n) else none
      | none => none

/-- A context in which nodes are dispatched and records emitted (R259, R261). -/
def Ctx.live (x : Ctx) : Bool := (x.state == .enabled || x.state == .draining) && !x.quiet

/-- The latency class (R262, R274). -/
def Ctx.latency (x : Ctx) : Bool := bit x.cfg.toNat 31
def Ctx.prio (x : Ctx) : Nat := bits x.cfg.toNat 24 3

/-- A throughput context that does not hold the slice while the T5 is in sliced mode: it is switched out (R146, R264).
DEDUCED, unsafe (notes/assumptions/94.md). -/
def switchedOut (s : State) (c : Nat) : Bool := s.sched.sliced && s.sched.holder != some c && !(ctxOf s c).latency

/-- The order in which a freed resource is offered in sliced mode: latency contexts, the holder, others (R264). -/
def sliceRank (s : State) (c : Nat) : Nat :=
  if (ctxOf s c).latency then 0 else if switchedOut s c || !s.sched.sliced then 2 else 1

/-! ## Streams that nodes name (R117, R145) -/

/-- The streams whose slots a node uses: drilled, gathered and side-product partners (R117, R146, R155).
DEDUCED, unsafe (notes/assumptions/61.md). -/
def slotStreams (n : Node) (ops : List Byte) (p : Prog) : List Nat :=
  sortNats (drillStreams ops p ++ (if n.gpart != 0xFFFF then [n.gpart] else []) ++ (if n.spart != 0xFFFF then [n.spart] else []))

/-- The streams that the destination records of a task name (R246, R247): one per tap, that of destination 0 for a FILL. -/
def destStreams (n : Node) (ops : List Byte) (p : Prog) : List Nat :=
  (((if n.isFill then [0] else p.taps.map (·.dest)).map (destRec ops)).filter Rec.named).map Rec.stream

/-- The streams that a node names, as far as what has been read of it tells (R145): also that of a STORE or EMIT, whose slot the task
does not need (R117). A COMMIT names none, and the streams of a CHECK of all streams are those of its fold.
DEDUCED, unsafe (notes/assumptions/33.md). -/
def Node.uses (n : Node) : List Nat :=
  match n.task with
  | some t => slotStreams n t.ops ⟨t.prog⟩ ++ destStreams n t.ops ⟨t.prog⟩
  | none => if n.isTask then [n.gpart, n.spart] else if n.type == 5 && n.stream != 0xFFFF then [n.stream] else []

/-- The streams that a dispatched node, or one that has completed, names. DEDUCED, unsafe (notes/assumptions/33.md). -/
def Node.names (n : Node) : List Nat :=
  (match n.stat with
    | .waiting => []
    | .dispatched => (if (match n.task with | some t => t.started | none => !n.isTask) then n.uses else []) ++ n.named
    | .completed => n.named) ++ n.recs.map (·.stream)

/-! ## Completion (R251, R252) -/

/-- Node k has completed: the counts of its successors fall, and with a failing status they are doomed. -/
def applySucc (k : Nat) (g : Graph) : Graph :=
  let n := g.nodes.getD k default
  { g with nodes := n.succ.foldl (fun ns j =>
      modAt ns j (fun x => { x with remaining := x.remaining - 1, doomed := x.doomed || failing n.status })) g.nodes }

/-- A doomed node of a type other than COMMIT whose count is zero (R252). -/
def Node.cancels (n : Node) : Bool := n.stat == .waiting && n.doomed && n.remaining == 0 && n.type != 4

/-- One doomed node completes CANCELLED with cause 0x20 (DOOMED_CANCEL, R252). -/
def doomedCancel (g : Graph) (k : Nat) : Graph :=
  if (g.nodes.getD k default).cancels then
    applySucc k { g with nodes := modAt g.nodes k (fun n => { n with stat := .completed, status := stCancelled, cause := 0x20, named := n.uses }) }
  else g

/-- Every doomed node whose count is zero completes, in node order; edges run forward, so one pass settles all (R241). -/
def cascade (g : Graph) : Graph := (List.range g.nodes.length).foldl doomedCancel g

/-- Record a node's completion in its graph. -/
def completeIn (k status cause : Nat) (g : Graph) : Graph :=
  cascade (applySucc k { g with nodes := modAt g.nodes k (fun n =>
    { n with stat := .completed, status := status, cause := cause, task := none, named := n.uses }) })

/-- A node that has not completed completes with a status and a cause (R251). -/
def completeNode (n : NodeRef) (status cause : Nat) (s : State) : State :=
  match nodeOf s n with
  | none => s
  | some x => if x.stat == .completed then s else modGraph n.ctx n.graph (completeIn n.node status cause) s

/-- Whether a task that needs an operation of the set has dispatched a swath and not completed (R372). -/
def tasksUnder (s : State) (ops : BitVec 64) : Bool :=
  s.ctxs.any (fun x => x.graphs.any (fun g => g.nodes.any (fun n => match n.task with
    | some t => t.started && (Prog.mk t.prog).stages.any (fun st => ops.getLsbD st.op)
    | none => false)))

end Sys2Proof.Machine
end

