-- ==== Sys2Proof/Machine/Codebanks.lean ====
section
/-! DEFINITION. Codebook banks: the writable side, the actions of CB_CTRL, the check and the switch (R70 to R80), the holds of
the loader (R370), wedges (R340, R341), and the ends of the sections that load a bank. -/

namespace Sys2Proof.Machine

/-! ## Sections and their results (R370) -/

/-- The result code of a section that is still pending. -/
def resPending : Nat := 0x02

/-- IMG_RES of a section. -/
def resOf (l : Loader) (k : Nat) : Nat := l.res.getD k 0

/-- A section's range of targets: one bank or slot, or a run of recipes or slices (R362). -/
def Section.targets (e : Section) : Nat × Nat :=
  if e.type = 0x11 then (e.target, e.length / 32)
  else if e.type = 0x30 then (e.target, e.length / 4)
  else (e.target, 1)

/-- Whether the table has not been read, or a section of a type that targets `x` is still pending (R370). -/
def ldrHolds (s : State) (type x : Nat) : Bool :=
  s.loader.state == .header ||
    (s.loader.table.zipIdx).any (fun e =>
      resOf s.loader e.2 == resPending && e.1.type == type &&
        e.1.targets.1 ≤ x && x < e.1.targets.1 + e.1.targets.2)

/-- A bank whose registers the loader or a live update holds (R370, R372). -/
def bankHeld (s : State) (n : Nat) : Bool :=
  ldrHolds s 0x10 n || (s.live.stage == .checking && s.live.entry.target == n)

/-- A section ends with a result: it is recorded, and a failure is logged (R370, R374). -/
def endSection (k res : Nat) (s : State) : State :=
  let s := modLoader (fun l => { l with
    res := modAt l.res k (fun _ => res), applying := l.applying.filter (· != k) }) s
  let e := s.loader.table.getD k ⟨[]⟩
  match res with
  | 0x10 => logEvent 0x71 4 0 0 noCtx k e.offset s
  | 0x11 => logEvent 0x72 4 0 0 noCtx k 0 s
  | 0x12 => logEvent 0x72 4 0 0 noCtx (2 ^ 31 + k) 0 s
  | 0x13 | 0x14 | 0x15 => logEvent 0x73 4 0 0 noCtx (res * 2 ^ 16 + k) 0 s
  | _ => s

/-- A live update ends with a result (R371, R374). -/
def endLive (res : Nat) (s : State) : State :=
  let buf := s.live.buf
  let s := { s with live := { s.live with result := res, stage := .idle } }
  let s := if res = 0x11 then logEvent 0x72 4 0 0 noCtx 0x1FF 0 s
    else if res = 0x12 then logEvent 0x72 4 0 0 noCtx (2 ^ 31 + 0x1FF) 0 s
    else s
  if res = 0x01 then s else logEvent 0x77 4 0 0 noCtx res buf s

/-! ## Wedges (R340) -/

/-- The BANKSWITCH nodes that wait at a bank find it in another state than VALID (R80). DEDUCED, unsafe (notes/assumptions/123.md). -/
def bankTurnAway (n : Nat) (s : State) : State :=
  (bank s n).waits.foldl (fun s r => completeNode r stRejected 0x0B s) (modBank n (fun b => { b with waits := [] }) s)

/-- Wedge a codebook bank; no node is held for it from then on (R80, R340). DEDUCED, unsafe (notes/assumptions/65.md). -/
def wedgeBank (n : Nat) (s : State) : State :=
  if (bank s n).wedged then s
  else logEvent 0x10 0 0 0 noCtx (16 + n) 0 (bankTurnAway n (modBank n (fun b => { b with wedged := true }) s))
/-- Wedge the recipe store. -/
def wedgeRecipes (s : State) : State :=
  if s.health.wedgedRecipes then s
  else logEvent 0x10 0 0 0 noCtx 0 0 (modHealth (fun h => { h with wedgedRecipes := true }) s)
/-- Wedge the sequencer code store. -/
def wedgeSeq (s : State) : State :=
  if s.health.wedgedSeq then s
  else logEvent 0x10 0 0 0 noCtx 1 0 (modHealth (fun h => { h with wedgedSeq := true }) s)

/-! ## Writes of a side (R75, R76) -/

/-- Store a word of a side's descriptor or table: offset 0x000 or 0x004 the descriptors, 0x400 and 0x800 on the tables.
DEDUCED, unsafe (notes/assumptions/75.md). -/
def sideWrite (n : Nat) (offset : BitVec 12) (data : Word) (s : State) : State :=
  let b := bank s n
  let off := offset.toNat
  let one := off == 4 || 0x800 ≤ off
  if bankHeld s n || b.wedged || one != b.writable || b.state == .checking || b.state == .switching then
    modBank n (fun b => { b with wrDrop := true }) s
  else
    modBank n (fun b =>
      let sd := b.side one
      let sd := if off < 8 then { sd with desc := data &&& 0xFF3F }
        else { sd with tab := modAt sd.tab (off % 0x400 / 4) (fun _ => data) }
      { (b.setSide one sd) with
        state := if b.state == .valid || b.state == .rejected then .opn else b.state }) s

/-! ## Switches (R78, R218) -/

/-- Whether a core runs a swath, so that its flip waits for the start of its next swath (R78). -/
def coreBusy (s : State) (r p : Nat) : Bool := s.swaths.any (fun w => w.region == r && w.pos == p)

/-- The cores that do not flip at once. DEDUCED, unsafe (notes/assumptions/122.md). -/
def busyCores (s : State) : List Consumer :=
  (List.range s.build.regions).flatMap (fun r =>
    (((region s r).pos.zipIdx).filter (fun p => !p.1.vacant && coreBusy s r p.2)).map (fun p => .core r p.1.phys))

/-- A slice meets a switch of a bank (R218): it stores the new side, or keeps it for its open emission, a refused one too, or is reloaded
later; the Bool says whether it is still to be counted off. -/
def sliceMeets (sl : Slice) (n : Nat) (side : Side) (no : Bool) : Slice × Bool :=
  match sl.winOf n with
  | none => (sl, false)
  | some w =>
    if sl.inReset || sl.lost || !(sl.win w).loaded then
      ({ sl with wins := modAt sl.wins w (fun x => { x with loaded := false }) }, false)
    else if (match sl.em with | some e => e.fmt.bank == n | none => false) then
      ({ sl with wins := modAt sl.wins w (fun x => { x with next := some side }) }, true)
    else ({ sl with wins := modAt sl.wins w (fun x => { x with sideNo := no, side := side, next := none }) }, false)

/-- The last consumer has flipped (R78 step 3). A BANKSWITCH node that started the switch completes, and those that waited for it find the
bank in OPEN (R80). -/
def switchDone (n : Nat) (s : State) : State :=
  let node := (bank s n).node
  let s := modBank n (fun b => { b with
    live := !b.live, gen := (b.gen + 1) % 256, state := .opn, flip := [], node := none }) s
  let s := match node with
    | some r => completeNode r 0 0 s
    | none => s
  bankTurnAway n s

/-- A consumer takes the new side of a bank into use (R78 step 2). -/
def cbFlip (n : Nat) (c : Consumer) (s : State) : State :=
  let b := bank s n
  if b.state == .switching && b.flip.contains c then
    let s := modBank n (fun b => { b with flip := b.flip.filter (· != c) }) s
    if (bank s n).flip.isEmpty then switchDone n s else s
  else s

/-- A consumer flips for every bank that switches. DEDUCED, unsafe (notes/assumptions/37.md). -/
def cbFlipAll (c : Consumer) (s : State) : State :=
  (List.range 16).foldl (fun s n => cbFlip n c s) s

/-- Begin a switch of a bank in VALID (R78 step 1). -/
def switchStart (n : Nat) (node : Option NodeRef) (s : State) : State :=
  let b := bank s n
  let new := b.side (!b.live)
  let met := s.slices.map (fun sl => sliceMeets sl n new (!b.live))
  let late := (met.zipIdx.filter (fun m => m.1.2)).map (fun m => Consumer.slice m.2)
  let flip := busyCores s ++ late
  let s := { s with slices := met.map (·.1) }
  let s := modBank n (fun b => { b with state := .switching, flip := flip, node := node, waits := [] }) s
  if flip.isEmpty then switchDone n s else s

/-! ## Actions (R77) -/

/-- Whether an action that checks a side may start. -/
def cbFree (b : Bank) : Bool := b.state == .opn || b.state == .valid || b.state == .rejected

/-- Run the actions of a write in order; each starts after the one before has finished (R77). `after`: an action of the
same write has been performed. -/
def runActs (n : Nat) : List CbAct → Bool → State → State
  | [], _, s => modBank n (fun b => { b with todo := [] }) s
  | .load :: rest, after, s =>
    let b := bank s n
    if !cbFree b then runActs n rest after (modBank n (fun b => { b with seqErr := true }) s)
    else match preset b.presetId with
      | some side => modBank n (fun b => { (b.setSide b.writable side) with state := .checking, todo := rest }) s
      | none => runActs n rest true (modBank n (fun b => { b with reject := 8, state := .rejected }) s)
  | .commit :: rest, after, s =>
    if !cbFree (bank s n) then runActs n rest after (modBank n (fun b => { b with seqErr := true }) s)
    else modBank n (fun b => { b with state := .checking, todo := rest }) s
  | .switch :: rest, after, s =>
    let b := bank s n
    if b.state == .valid then runActs n rest true (switchStart n none s)
    else if after && b.state == .rejected then runActs n rest after s
    else runActs n rest after (modBank n (fun b => { b with seqErr := true }) s)

/-- The actions that a CB_CTRL word requests, in order (R77). -/
def actsOf (load commit switch : Bool) : List CbAct :=
  (if load then [.load] else []) ++ (if commit then [.commit] else []) ++ (if switch then [.switch] else [])

/-- A write of CB_CTRL (R72, R77, R341, R370). -/
def cbCtrlWrite (n : Nat) (presetId : BitVec 4) (load commit switch : Bool) (s : State) : State :=
  let acts := actsOf load commit switch
  if bankHeld s n || (bank s n).wedged then
    modBank n (fun b => { b with wrDrop := true, seqErr := b.seqErr || !acts.isEmpty }) s
  else
    let s := modBank n (fun b => { b with presetId := presetId.toNat }) s
    match acts with
    | [] => s
    | _ =>
      if cbFree (bank s n) then runActs n acts false (modBank n (fun b => { b with user := .sw }) s)
      else modBank n (fun b => { b with seqErr := true }) s

/-- The check of a bank ends (R43, R77): VALID, REJECTED, or the first-load path. -/
def checkDone (n : Nat) (s : State) : State :=
  let b := bank s n
  let code := (b.side b.writable).check
  let s := modBank n (fun b =>
    if code = 0 then { b with reject := 0, liveValid := true, state := if b.liveValid then .valid else .opn }
    else { b with reject := code, state := .rejected }) s
  let res := if b.wedged then 0x16 else if code = 0 then 0x01 else 0x17
  let s := match b.user with
    | .sw => s
    | .boot k => endSection k res s
    | .live => endLive res s
  runActs n b.todo true (modBank n (fun x => { x with user := .sw }) s)

end Sys2Proof.Machine
end

