-- ==== Sys2Proof/Machine/Lift.lean ====
section
/-! DEFINITION. Lift slices: emissions, pairing of scale lines, lifting, windows, reset and liveness (07_lift_slices.md). -/

namespace Sys2Proof.Machine

/-! ## Flags (R224) -/

def fLost : Nat := 0
def fMismatch : Nat := 1
def fDrop : Nat := 2
def fNoBank : Nat := 3
def fRefused : Nat := 4
def fLineTmo : Nat := 5
def fWrDrop : Nat := 6
def fCfgErr : Nat := 7

def Slice.flag (sl : Slice) (i : Nat) : Slice := { sl with flags := sl.flags ||| 2 ^ i }

/-- What the slice hands to the rest of the T5 while it works: count-offs of bank switches and fault-log entries. -/
structure LiftEffects where
  /-- Banks whose switch counts the slice off (R218). -/
  flips : List Nat
  /-- Furrow index and LFT_LAST_TAGS of each first MISMATCH (R216). -/
  logs : List (Nat × Nat)
  /-- Uncorrectable words of the buffers that have been read (R329). -/
  ues : Nat
  deriving DecidableEq, Repr, Inhabited

/-- A slice at work with what it has handed on so far. -/
structure LiftRun where
  sl : Slice
  eff : LiftEffects
  deriving DecidableEq, Repr, Inhabited

/-! ## Counting (R216) -/

/-- A furrow poisoned for any reason but a MISMATCH. -/
def Slice.poisoned (sl : Slice) (n : Nat) : Slice := { sl with poisonCnt := cntSat sl.poisonCnt n }

/-- A MISMATCH at furrow f (R216): counters, LFT_LAST_ registers, and the first of an emission in the log.
DEDUCED, unsafe (notes/assumptions/25.md). -/
def mismatch (f n lineTag : Nat) (x : LiftRun) : LiftRun :=
  let emTag := (x.sl.em.map (·.tag)).getD 0
  let tags := emTag * 2 ^ 16 + lineTag
  let sl := (x.sl.poisoned n).flag fMismatch
  let sl := { sl with
    mismatchCnt := cntSat sl.mismatchCnt n
    lastFidx := BitVec.ofNat 32 f
    lastTags := BitVec.ofNat 32 tags }
  match sl.em with
  | some e =>
    if e.logged then ⟨sl, x.eff⟩
    else ⟨{ sl with em := some { e with logged := true } }, { x.eff with logs := x.eff.logs ++ [(f, tags)] }⟩
  | none =>
    if sl.strayLogged then ⟨sl, x.eff⟩
    else ⟨{ sl with strayLogged := true }, { x.eff with logs := x.eff.logs ++ [(f, tags)] }⟩

/-- LFT_LAST_TAGS.LINE_TAG: the tag of the head line, the oldest line in the line buffer, 0 if none (R214, R216).
DEDUCED, unsafe (notes/assumptions/25.md). -/
def headTag (sl : Slice) : Nat := match sl.lines with | [] => 0 | l :: _ => l.tag

/-! ## Flips (R218) -/

/-- The slice takes a pending side of a bank into use. -/
def flipWin (b : Nat) (x : LiftRun) : LiftRun :=
  match x.sl.winOf b with
  | none => x
  | some w => match (x.sl.win w).next with
    | none => x
    | some sd =>
      ⟨{ x.sl with wins := modAt x.sl.wins w (fun y => { y with sideNo := !y.sideNo, side := sd, next := none }) },
       { x.eff with flips := x.eff.flips ++ [b] }⟩

/-- Under NONE a furrow that starts takes a pending side into use (R218). -/
def flipNone (fmt : FmtWord) (x : LiftRun) : LiftRun := if fmt.scaleCode = 0 then flipWin fmt.bank x else x

/-- Every pending side is taken into use: the emission that held it has ended. -/
def flipAll (x : LiftRun) : LiftRun := (List.range 4).foldl (fun x n => flipWin (x.sl.bank n) x) x

/-- An emission ends (R224 LFT_EMIT_CNT): its line is consumed and pending sides come into use. -/
def endEmission (x : LiftRun) : LiftRun :=
  match x.sl.em with
  | none => x
  | some _ => flipAll ⟨{ x.sl with em := none, emitCnt := cntMod x.sl.emitCnt 1 }, x.eff⟩

/-! ## Pairing (R214, R215) -/

/-- What a furrow finds: a scale byte, poison, or no head line yet. -/
inductive Found where
  | byte (b : Nat)
  | poison
  | wait
  deriving DecidableEq, Repr, Inhabited

/-- The side a line would be taken under: a pending side comes into use with it (R218). -/
def nextSide (sl : Slice) (b : Nat) : Side × Bool :=
  match sl.winOf b with
  | none => (Side.empty, false)
  | some w => match (sl.win w).next with
    | some sd => (sd, !(sl.win w).sideNo)
    | none => ((sl.win w).side, (sl.win w).sideNo)

/-- The scale bytes of a line, in furrow order (R65). -/
def LiftLine.scales (l : LiftLine) : List Nat := (slice l.raw 8 56).map (·.toNat)

/-- Take the head line as the current one, covering furrows from `need` (R214). -/
def takeLine (h : LiftLine) (need : Nat) (bad : Bool) (b : Nat) (x : LiftRun) : LiftRun :=
  let x := flipWin b { x with sl := { x.sl with lines := x.sl.lines.drop 1 } }
  let sd := (nextSide x.sl b).1
  { x with sl := { x.sl with em := x.sl.em.map (fun e => { e with cur := some ⟨need, h.scales, bad, h.tag, sd⟩ }) } }

/-- Drop the head line (R216). -/
def dropHead (rest : List LiftLine) (x : LiftRun) : LiftRun :=
  ⟨({ x.sl with lines := rest, dropCnt := cntSat x.sl.dropCnt 1 }).flag fDrop, x.eff⟩

/-- The loop of R214 over the head lines, for furrow f with `need`; `fuel` bounds the lines dropped (the buffer holds two).
The last result is the cycle in which the furrow was resolved, where it is later than its beat: after a wait it is the cycle after the line
that ended it was taken on the channel, also where the furrow does not take that line.
DEDUCED, unsafe (notes/assumptions/25.md). DEDUCED, unsafe (notes/assumptions/105.md). -/
def searchLine (f need : Nat) : Nat → Nat → LiftRun → LiftRun × Found × Nat
  | 0, k, x => (x, .wait, k)
  | fuel + 1, k, x =>
    match x.sl.em, x.sl.lines with
    | none, _ => (x, .poison, k)
    | some _, [] => (x, .wait, k)
    | some em, h :: rest =>
      let k := max k (if (x.sl.part.waitFrom).isSome then h.at' + 1 else 0)
      if h.first && em.tookFirst then (mismatch f 1 h.tag x, .poison, k)
      else if !h.first && !em.tookFirst then searchLine f need fuel k (dropHead rest x)
      else
        let x : LiftRun := ⟨{ x.sl with em := some { em with tookFirst := true } }, x.eff⟩
        let b := em.fmt.bank
        let ns := nextSide x.sl b
        let bad := h.tag != em.tag || h.furrow % 56 != 0 ||
          lineCheck h.raw b (b2n ns.2) != fld h.raw 6 2
        if h.ue then
          -- an uncorrectable word of the line buffer: every furrow the line covers is poison (R329)
          (takeLine { h with raw := h.raw.take 8 ++ List.replicate 56 0xFF } need false b
            { x with eff := { x.eff with ues := x.eff.ues + 1 } }, .byte 0xFF, max k (h.at' + 1))
        else if bad then (mismatch f 1 h.tag (takeLine h need true b x), .poison, max k (h.at' + 1))
        else if h.furrow < need then searchLine f need fuel k (dropHead rest x)
        else if need < h.furrow then (mismatch f 1 h.tag x, .poison, k)
        else (takeLine h need false b x, .byte (h.scales.getD (f - need) 0), max k (h.at' + 1))

/-- R214, R215: find the scale byte of furrow f, in the line held or by searching. DEDUCED, unsafe (notes/assumptions/25.md). -/
def scaleFor (f : Nat) (x : LiftRun) : LiftRun × Found × Nat :=
  let need := 56 * (f / 56)
  match x.sl.em.bind (·.cur) with
  | some c =>
    if c.first = need then
      if c.bad then (mismatch f 1 (headTag x.sl) x, .poison, 0) else (x, .byte (c.bytes.getD (f - need) 0), 0)
    else searchLine f need 4 0 x
  | none => searchLine f need 4 0 x

/-! ## Beats (R205 to R212) -/

/-- The codes of furrow g of a beat (R62, R206). -/
def beatCodes (w fl : Nat) (b : CodeBeat) (g : Nat) : List Nat :=
  unpackCodes w fl (slice b.data (g * furrowBytes fl w) (furrowBytes fl w))

/-- The side for a furrow: that of its line, or under NONE the side in use when the furrow starts (R218). -/
def furrowSide (sl : Slice) (em : Emission) : Side :=
  match em.fmt.mode, em.cur with
  | .unscaled, _ => (nextSide sl em.fmt.bank).1
  | _, some c => c.side
  | _, none => (nextSide sl em.fmt.bank).1

/-- The lanes of a whole-poison output of `n` furrows (R210, R211). -/
def poisonLanes (fl n : Nat) : List (BitVec 20) :=
  List.replicate (fl * n) l20Poison ++ List.replicate (64 - fl * n) 0

/-- The group bits of `n` furrows (R206). -/
def groupBits (fl n : Nat) : Nat := 2 ^ (n * (fl / 16)) - 1

/-- Send a beat into the output pipeline (R209): it leaves at max(n, k) + 3, or after the beat before it. -/
def pushOut (n k : Nat) (lanes : List (BitVec 20)) (groups : Nat) (poison first last proto : Bool) (sl : Slice) : Slice :=
  let due := max (max n k + 3) (sl.lastOut + 1)
  { sl with
    out := sl.out ++ [⟨due, lanes, groups, poison, first, last, proto⟩]
    lastOut := due
    part := { Partial.empty with prev := max sl.part.prev (max n k) } }

/-- A beat that has no trusted furrow count, lifted as one poison output beat (R211). -/
def protocolBeat (b : BufBeat) (x : LiftRun) : LiftRun :=
  let x := mismatch b.beat.fidx 1 (headTag x.sl) x
  { x with sl := pushOut b.at' 0 (List.replicate 64 l20Poison) 15 true false false true x.sl }

/-- The format word cannot be lifted (R210). -/
def badFormat (f : FmtWord) : Bool := f.scaleCode == 3 || f.rsv != 0 || (f.mode != .unscaled && f.bare)

/-- Open an emission with a beat (R205, R210). -/
def openEmission (b : CodeBeat) (sl : Slice) : Slice :=
  let held := match sl.winOf b.fmt.bank with
    | some w => (sl.win w).loaded
    | none => false
  let sl := if badFormat b.fmt then sl.flag fRefused else sl
  let sl := if !held then sl.flag fNoBank else sl
  { sl with
    em := some ⟨b.fmt, b.tag, badFormat b.fmt || !held, false, 0, false, none⟩
    strayLogged := false }

/-- Lift the furrows of a beat from `sl.part.done` on; the Bool says whether the beat is finished. A wait begins where the search finds no
line, and begins anew once a line that came during it has been dropped (R214, R215). A refused emission takes no line: a pending side comes
into use at its next furrow under NONE, else when it ends (R218). DEDUCED, unsafe (notes/assumptions/25.md).
DEDUCED, unsafe (notes/assumptions/105.md). -/
def liftFurrows (b : BufBeat) : Nat → LiftRun → LiftRun × Bool
  | 0, x => (x, true)
  | fuel + 1, x =>
    match x.sl.em with
    | none => (x, true)
    | some em =>
      let g := x.sl.part.done
      if b.beat.nfur ≤ g then (x, true)
      else
        let f := b.beat.fidx + g
        let fl := em.fmt.furrow
        if em.refused then
          let x := flipNone em.fmt x
          liftFurrows b fuel { x with sl := { (x.sl.poisoned 1) with
            part := { x.sl.part with lanes := x.sl.part.lanes ++ List.replicate fl l20Poison, done := g + 1 } } }
        else
          let r := if em.fmt.mode = .unscaled then (flipNone em.fmt x, Found.byte 0, 0)
            else scaleFor f x
          let x := r.1
          match r.2.1 with
          | .wait =>
            ({ x with sl := { x.sl with part := { x.sl.part with
              waitFrom := some (match x.sl.part.waitFrom with
                | some w => max w r.2.2
                | none => max (max b.at' x.sl.part.prev) x.sl.part.k) } } }, false)
          | .poison =>
            liftFurrows b fuel { x with sl := { x.sl with part := { x.sl.part with
              lanes := x.sl.part.lanes ++ List.replicate fl l20Poison
              done := g + 1, k := max x.sl.part.k r.2.2, waitFrom := none } } }
          | .byte sb =>
            let em := x.sl.em.getD em
            let sd := furrowSide x.sl em
            let lanes := if b.beat.ue then List.replicate fl l20Poison
              else (beatCodes sd.width fl b.beat g).map (liftLane sd em.fmt.mode sb false)
            let sl := if lanes.any (· == l20Poison) then x.sl.poisoned 1 else x.sl
            liftFurrows b fuel { x with sl := { sl with part := { sl.part with
              lanes := sl.part.lanes ++ lanes
              done := g + 1, k := max sl.part.k r.2.2, waitFrom := none } } }

/-- Work on the beat in front; the Bool says whether it has gone to the output. A beat of the second or third row of R211 leaves the end of
the previous beat where it was. DEDUCED, unsafe (notes/assumptions/114.md). DEDUCED, unsafe (notes/assumptions/142.md). -/
def liftBeat1 (b : BufBeat) (x : LiftRun) : LiftRun × Bool :=
  -- a new emission ends one that is open, as if its last beat had carried the last mark (R211)
  let x := if b.beat.opn && x.sl.part.done = 0 && x.sl.part.waitFrom.isNone then
      let x := if x.sl.em.isSome then
          endEmission { x with sl := { x.sl with out := match x.sl.out.reverse with
            | [] => []
            | o :: os => (({ o with last := !o.proto } : LiftOut) :: os).reverse } }
        else x
      { x with sl := openEmission b.beat x.sl }
    else x
  match x.sl.em with
  | none => (protocolBeat b x, true)
  | some em =>
    let fl := em.fmt.furrow
    let close := fun (x : LiftRun) => if b.beat.last then endEmission x else x
    if b.beat.nfur = 0 || 64 / fl < b.beat.nfur then (close (protocolBeat b x), true)
    else if b.beat.fidx < em.endF then
      let x := (List.range b.beat.nfur).foldl (fun x g => mismatch (b.beat.fidx + g) 1 (headTag x.sl) x) x
      (close ⟨pushOut b.at' 0 (poisonLanes fl b.beat.nfur) (groupBits fl b.beat.nfur) true
        b.beat.opn b.beat.last false x.sl, x.eff⟩, true)
    else
      let r := liftFurrows b (b.beat.nfur + 1) x
      let x := r.1
      if r.2 then
        let lanes := x.sl.part.lanes ++ List.replicate (64 - x.sl.part.lanes.length) 0
        let sl := { x.sl with em := x.sl.em.map (fun e => { e with endF := b.beat.fidx + b.beat.nfur }) }
        (close ⟨pushOut b.at' x.sl.part.k lanes (groupBits fl b.beat.nfur)
          (x.sl.part.lanes.any (· == l20Poison)) b.beat.opn b.beat.last false sl, x.eff⟩, true)
      else (x, false)

/-- Work through the code buffer in order, until it is empty or a furrow waits for a line (R208, R215). -/
def liftWork : Nat → LiftRun → LiftRun
  | 0, x => x
  | fuel + 1, x =>
    match x.sl.beats with
    | [] => x
    | b :: bs =>
      let r := liftBeat1 b x
      if r.2 then liftWork fuel ⟨{ r.1.sl with beats := bs }, { r.1.eff with ues := r.1.eff.ues + b2n b.beat.ue }⟩ else r.1

/-- Apply what a slice has done to the state: count-offs and log entries. -/
def liftCommit (i : Nat) (x : LiftRun) (s : State) : State :=
  let s := modSlice i (fun _ => x.sl) s
  let s := x.eff.logs.foldl (fun s l => logEvent 0x29 2 0 i noCtx l.1 l.2 s) s
  let s := (List.replicate x.eff.ues ()).foldl (fun s _ => logEvent 0x03 2 0 i noCtx 3 0 (countUe 1 none s)) s
  x.eff.flips.foldl (fun s b => cbFlip b (.slice i) s) s

/-- Run a slice after its buffers have changed. -/
def liftRun (i : Nat) (s : State) : State :=
  liftCommit i (liftWork 5 ⟨liftSlice s i, ⟨[], [], 0⟩⟩) s

/-! ## Loss and reset (R219, R222) -/

/-- Everything in the slice's logic ends: an open emission, its buffers and outputs, pending switches; its windows are to be
reloaded. DEDUCED, unsafe (notes/assumptions/128.md). -/
def sliceStop (i : Nat) (s : State) : State :=
  let sl := liftSlice s i
  let x := endEmission ⟨{ sl with
    beats := []
    lines := []
    out := []
    part := Partial.empty
    em := if sl.opn then some (sl.em.getD ⟨⟨0⟩, 0, true, false, 0, false, none⟩) else none }, ⟨[], [], 0⟩⟩
  liftCommit i { x with sl := { x.sl with
    wins := x.sl.wins.map (fun w => { w with loaded := false, next := none }), strayLogged := false } } s

/-- A slice is counted off every switch that waits for it, and its windows of those banks are reloaded (R218, R396). -/
def sliceOffSwitches (i : Nat) (s : State) : State :=
  (List.range 16).foldl (fun s n =>
    if (bank s n).flip.contains (.slice i) then cbFlip n (.slice i) s else s) s

/-! ## LFT_CFG (R217) -/

/-- Whether two enabled windows of a configuration word name one bank. -/
def cfgClash (v : Word) : Bool :=
  let on := ((List.range 4).filter (fun n => bit v.toNat n)).map (fun n => bits v.toNat (16 + 4 * n) 4)
  (List.range on.length).any (fun i => (on.drop (i + 1)).contains (on.getD i 0))

/-- Write LFT_CFG of a slice (R217): ignored while an emission is open, or when it would enable two windows with one bank. A write that
meets both sets WR_DROP alone. DEDUCED, unsafe (notes/assumptions/108.md). -/
def lftCfgSet (i : Nat) (v : Word) (s : State) : State :=
  let sl := liftSlice s i
  if sl.opn then modSlice i (fun sl => sl.flag fWrDrop) s
  else if cfgClash v then modSlice i (fun sl => sl.flag fCfgErr) s
  else modSlice i (fun sl => { sl with
    cfg := v &&& 0xFFFF000F
    wins := sl.wins.mapIdx (fun n w =>
      if bit v.toNat n && sl.enabled n && sl.bank n == bits v.toNat (16 + 4 * n) 4 then w else Window.reset) }) s

/-- Whether a slice is built (R32). -/
def sliceBuilt (s : State) (i : Nat) : Bool := i < s.build.liftBuilt && i < s.slices.length

/-! ## Meanings -/

/-- LIFT_RESET_ASSERT (R219): the registers stay, LFT_STAT.LOST among them, and `lift_alive` falls to 0 (R223). -/
def execLiftResetAssert (i : Nat) (s : State) : Answer := inRun s <|
  if !sliceBuilt s i || (liftSlice s i).inReset then .next s
  else
    let t := modSlice i (fun sl => { sl with inReset := true, alive := false }) (sliceOffSwitches i (sliceStop i s))
    .next (if (liftSlice s i).alive then emit (.liftAlive i false) t else t)

/-- LIFT_RESET_RELEASE (R219, R355, R357): the slice tests its buffers and windows, `fails` being the failing row of each store
that fails; its windows are to be reloaded. -/
def execLiftResetRelease (i : Nat) (fails : List Nat) (s : State) : Answer := inRun s <|
  if !sliceBuilt s i || !(liftSlice s i).inReset then .next s
  else
    let s := modSlice i (fun sl => { sl with inReset := false, seen := true, failed := sl.failed || !fails.isEmpty }) s
    .next (fails.foldl (fun s row => logEvent 0x75 2 0 i noCtx (i * 2 ^ 16 + 3) row s) s)

/-- The effect of a control-port write of LFT_CFG (R217, R370). -/
def lftCfgWrite (i : Nat) (v : Word) (s : State) : State :=
  if !sliceBuilt s i then s
  else if ldrHolds s 0x30 i then modSlice i (fun sl => sl.flag fWrDrop) s
  else lftCfgSet i v s

/-- LIFT_CFG_WRITE (R217, R370). -/
def execLiftCfgWrite (i : Nat) (v : Word) (s : State) : Answer := inRun s <|
  .next (lftCfgWrite i v (emit (.cpAck false) s))

/-- LIFT_WINDOW_LOAD (R217, R396): the live side of the window's bank arrives over the lift control link. -/
def execLiftWindowLoad (i w : Nat) (s : State) : Answer := inRun s <|
  let sl := liftSlice s i
  let b := bank s (sl.bank w)
  if !sliceBuilt s i || sl.inReset || sl.lost || 4 ≤ w || !sl.enabled w || (sl.win w).loaded ||
      !b.ready || b.state == .switching then .next s
  else
    .next (emit (.lclWindow i w (b.liveSide.desc :: b.liveSide.tab))
      (modSlice i (fun sl => { sl with wins := modAt sl.wins w (fun _ => ⟨true, b.live, b.liveSide, none⟩) }) s))

/-- LCL_TRANSFER_TIMEOUT (R396): the slice is counted off pending switches and its windows are marked for reload.
DESIGN CHOICE, safe (notes/assumptions/4.md). -/
def execLclTransferTimeout (i : Nat) (s : State) : Answer := inRun s <|
  if !sliceBuilt s i then .next s
  else .next (modSlice i (fun sl => { sl with
    wins := sl.wins.map (fun w => { w with loaded := false, next := none }) }) (sliceOffSwitches i s))

/-- LIFT_CODE_BEAT (R207, R208, R211): a code beat is taken where the slice is ready and its code buffer has room. -/
def execLiftCodeBeat (i : Nat) (b : CodeBeat) (s : State) : Answer := inRun s <|
  let sl := liftSlice s i
  if !sliceBuilt s i || !sl.ready || 4 ≤ sl.beats.length then .next s
  else
    let n := max sl.time (sl.lastBeat + 1)
    .next (liftRun i (modSlice i (fun sl => { sl with
      beats := sl.beats ++ [⟨b, n⟩], time := n, lastBeat := n }) s))

/-- Lines the line buffer holds: the current line is no longer in it, since the head line is the oldest line in it (R214).
DEDUCED, unsafe (notes/assumptions/25.md). -/
def linesHeld (sl : Slice) : Nat := sl.lines.length

/-- LIFT_SCALE_LINE (R207, R208): a scale line is taken where the slice is ready and its line buffer has room. -/
def execLiftScaleLine (i : Nat) (line : List Byte) (first ue : Bool) (s : State) : Answer := inRun s <|
  let sl := liftSlice s i
  if !sliceBuilt s i || !sl.ready || 2 ≤ linesHeld sl then .next s
  else
    let n := max sl.time (sl.lastLine + 1)
    .next (liftRun i (modSlice i (fun sl => { sl with
      lines := sl.lines ++ [⟨line.take 64 ++ zeros (64 - line.length), first, ue, n⟩], time := n, lastLine := n }) s))

/-- The levels at a slice's outputs between output beats (R208, R223). In an output beat the outputs hold what
LIFT_OUTPUT_BEAT drives, for one cycle. -/
structure LiftPins where
  cdReady : Bool
  slReady : Bool
  outValid : Bool
  outFirst : Bool
  outLast : Bool
  outPoison : Bool
  outData : List (BitVec 20)
  outLanes : BitVec 4
  alive : Bool
  deriving DecidableEq, Repr

/-- R208, R223: the readies depend on the slice's state and the room in its buffers alone, and the other outputs are 0. -/
def liftPins (s : State) (i : Nat) : LiftPins :=
  let sl := liftSlice s i
  { cdReady := sliceBuilt s i && sl.ready && decide (sl.beats.length < 4)
    slReady := sliceBuilt s i && sl.ready && decide (linesHeld sl < 2)
    outValid := false, outFirst := false, outLast := false, outPoison := false
    outData := List.replicate 64 0, outLanes := 0
    alive := !sl.inReset && sl.alive }

/-- LFT_CTRL.LINE_WAIT_LOG2 (R224). -/
def lineWait (s : State) : Nat := 2 ^ min (max (bits s.lftCtrl.toNat 0 5) 8) 24

/-- LIFT_LINE_TIMEOUT (R215): the furrow that waits for a line is poisoned and the slice moves on.
DESIGN CHOICE, safe (notes/assumptions/4.md). -/
def execLiftLineTimeout (i : Nat) (s : State) : Answer := inRun s <|
  let sl := liftSlice s i
  match sl.part.waitFrom, sl.em with
  | some w, some em =>
    if !sliceBuilt s i || sl.lost || sl.inReset || !sl.lines.isEmpty then .next s
    else
      let t := max sl.time (w + lineWait s)
      let sl := (sl.poisoned 1).flag fLineTmo
      .next (liftRun i (modSlice i (fun _ => { sl with
        time := t
        part := { sl.part with
          lanes := sl.part.lanes ++ List.replicate em.fmt.furrow l20Poison
          done := sl.part.done + 1, k := t + 1, waitFrom := none } }) s))
  | _, _ => .next s

/-- LIFT_OUTPUT_BEAT (R209): the oldest output beat appears in its cycle. -/
def execLiftOutputBeat (i : Nat) (s : State) : Answer := inRun s <|
  let sl := liftSlice s i
  match sl.out with
  | [] => .next s
  | o :: os =>
    .next (emit (.liftBeat i o.lanes o.groups o.poison o.first o.last)
      (modSlice i (fun sl => { sl with out := os, time := max sl.time o.due }) s))

/-- LIFT_ALIVE_TOGGLE (R221): every 256 lift cycles while the slice is out of reset. -/
def execLiftAliveToggle (i : Nat) (s : State) : Answer := inRun s <|
  let sl := liftSlice s i
  if !sliceBuilt s i || sl.inReset then .next s
  else .next (emit (.liftAlive i (!sl.alive)) (modSlice i (fun sl => { sl with alive := !sl.alive }) s))

/-- LIFT_PARTNER_LOST (R221, R222). -/
def execLiftPartnerLost (i : Nat) (s : State) : Answer := inRun s <|
  let sl := liftSlice s i
  if !sliceBuilt s i || sl.inReset || sl.lost then .next s
  else
    .next (logEvent 0x28 2 0 i noCtx 0 0
      (modSlice i (fun sl => ({ sl with lost := true }).flag fLost) (sliceOffSwitches i (sliceStop i s))))

/-- LIFT_PARTNER_RETURN (R222): the slice clears LOST; its windows are reloaded before it is ready. -/
def execLiftPartnerReturn (i : Nat) (s : State) : Answer := inRun s <|
  if !sliceBuilt s i || !(liftSlice s i).lost then .next s
  else .next (modSlice i (fun sl => { sl with lost := false }) s)

/-- The effect of LFT_CLR.COUNTERS (R224): the registers at 0x0C to 0x20 become 0. -/
def lftClear (i : Nat) (s : State) : State :=
  if !sliceBuilt s i then s
  else modSlice i (fun sl => { sl with
    poisonCnt := 0, mismatchCnt := 0, dropCnt := 0, emitCnt := 0, lastFidx := 0, lastTags := 0 }) s

/-- LFT_CLR_COUNTERS (R224). -/
def execLftClrCounters (i : Nat) (s : State) : Answer := inRun s <|
  .next (lftClear i (emit (.cpAck false) s))

end Sys2Proof.Machine
end

