-- ==== Sys2Proof/Machine/Boot.lean ====
section
/-! DEFINITION. The loader, self-test, verification, application of sections and live updates (13_bringup_and_image.md). -/

namespace Sys2Proof.Machine

/-! ## Core retirement at reset (R365, R357) -/

/-- No position (the retired core was the free spare). DESIGN CHOICE, unsafe (notes/assumptions/23.md). -/
def noPos : Nat := 0xFFFF

/-- Retire a physical core at reset: the spare takes its position with epoch 0x0001, or the position stays vacant.
`cause`: 1 repair data, 2 self-test (R374 code 0x76). DESIGN CHOICE, unsafe (notes/assumptions/23.md). -/
def retireAtReset (r c cause : Nat) (s : State) : State :=
  if ((region s r).phys.getD c Phys.reset).retired then s
  else
    let s := modPhys r c (fun p => { p with retired := true }) s
    let pos := firstIdx (fun p : Pos => !p.vacant && p.phys == c) (region s r).pos
    let spare := (region s r).spareFree && c != 64
    let s := match pos with
      | none => s
      | some p => modPos r p (fun x => if spare then { x with phys := 64 } else { x with vacant := true }) s
    let s := if c = 64 || (spare && pos.isSome) then modRegion r (fun x => { x with spareFree := false }) s else s
    logEvent 0x76 1 r c noCtx ((pos.getD noPos) * 2 ^ 16 + cause) 0 s

/-! ## Repair (R364, R365) -/

/-- Rows of 1,024 bytes of a store: a headland slice, or control store `unit` (14_ports_and_integration.md, SRAM). -/
def storeRows (b : Build) (region unit : Nat) : Nat :=
  if region = 0xFF then
    match unit with
    | 0 => 32
    | 1 => 8
    | 2 => 272
    | 3 => b.contexts / 2
    | _ => b.slots / 8
  else 128

/-- Whether an entry names a store that is built (R365). -/
def repairBuilt (b : Build) (kind region unit row : Nat) : Bool :=
  let core := region < b.regions && (unit < b.positions || unit == 64)
  if kind = 2 then region != 0xFF && core
  else if region = 0xFF then unit ≤ 4 && row < storeRows b region unit
  else core && row < storeRows b region unit

/-- Apply entry k of a REPAIR section (R365). DEDUCED, unsafe (notes/assumptions/22.md). -/
def repairEntry (k : Nat) (e : List Byte) (s : State) : State :=
  let kind := byteAt e 0
  let reg := byteAt e 1
  let unit := fld e 2 2
  let row := fld e 4 2
  let spare := byteAt e 6
  let ignored := logEvent 0x74 4 0 0 noCtx k (leNat (e.take 8))
  if kind = 0 then s
  else if !repairBuilt s.build kind reg unit row then ignored s
  else if kind = 2 then retireAtReset reg unit 1 s
  else if s.loader.repairs.any (fun x => x.region == reg && x.unit == unit && x.spare == spare) then ignored s
  else modLoader (fun l => { l with repairs := l.repairs ++ [⟨reg, unit, row, spare⟩] }) s

/-- Faults of a REPAIR section's content (R362). -/
def repairBad (bs : List Byte) : Bool :=
  (chunks 8 bs).any (fun e => 2 < byteAt e 0 || 3 < byteAt e 6 || byteAt e 7 != 0)

/-! ## The header (R360) -/

/-- The slot base in flash (R355). -/
def slotBase (slot : Nat) : Nat := if slot = 0 then 0 else 0x1000000

def cfgBit (b : Build) : Nat :=
  match b.cfg with
  | .t5x8 => 0
  | .t5x64 => 1
  | .t5x128 => 2
  | .t5x256 => 3
  | .t5x512 => 4

/-- The checks of the header but HDR_CRC (R360). -/
def headerOk (b : Build) (h : List Byte) : Bool :=
  h.take 4 == [0x4D, 0x42, 0x44, 0x41] && fld h 4 2 == 1 &&
  1 ≤ fld h 6 2 && fld h 6 2 ≤ 256 && fld h 10 2 == 0x0501 &&
  bits (byteAt h 16) 5 3 == 0 && bit (byteAt h 16) (cfgBit b) && allZero h 17 11 && h.length == 32

/-! ## Entries (R361 to R363) -/

def knownType (t : Nat) : Bool := [0x01, 0x02, 0x10, 0x11, 0x20, 0x30].contains t

/-- Faults of the entry but its OFFSET (R362). DEDUCED, unsafe (notes/assumptions/22.md). -/
def entryBad (e : Section) : Bool :=
  byteAt e.raw 1 != 0 || !allZero e.raw 20 12 ||
  !(match e.type with
    | 0x01 => e.target == 0 && e.length == 64 && e.param == 0
    | 0x02 => e.target == 0 && e.length % 8 == 0 && e.length / 8 ≤ 4096 && e.param == 0
    | 0x10 => e.target < 16 && e.param < 16 && e.length == (if e.param = 0 then 1028 else 0)
    | 0x11 => e.param == 0 && e.length % 32 == 0 && 1 ≤ e.length / 32 && e.target + e.length / 32 ≤ 256
    | 0x20 => e.target < 16 && e.param == 0 && 20 ≤ e.length && e.length ≤ 16400 && e.length % 4 == 0
    | 0x30 => e.param == 0 && e.length % 4 == 0 && 1 ≤ e.length / 4 && e.target + e.length / 4 ≤ 1024
    | _ => true)

/-- The OFFSET rule of R361: 64-byte aligned, at or above the end of the table. -/
def offsetBad (n : Nat) (e : Section) : Bool := e.offset % 64 != 0 || e.offset < 32 + 32 * n

/-- Whether two sections share a target (R363). -/
def sectionsMeet (a b : Section) : Bool :=
  a.type == b.type && a.targets.1 < b.targets.1 + b.targets.2 && b.targets.1 < a.targets.1 + a.targets.2

/-- A duplicate found from the table (R363): an earlier section of the load has applied a target, or an earlier entry has the
same TRIM or REPAIR type. DEDUCED, unsafe (notes/assumptions/21.md). -/
def entryDup (l : Loader) (k : Nat) (e : Section) : Bool :=
  (l.table.zipIdx).any (fun x => x.2 < k &&
    (if e.type ≤ 2 then x.1.type == e.type else resOf l x.2 == 1 && sectionsMeet x.1 e))

/-- An earlier section with a common target has not ended, so the duplicate test must wait. DEDUCED, unsafe (notes/assumptions/21.md). -/
def dupOpen (l : Loader) (k : Nat) (e : Section) : Bool :=
  2 < e.type && (l.table.zipIdx).any (fun x => x.2 < k && resOf l x.2 == resPending && sectionsMeet x.1 e)

/-! ## Presentation (R368) -/

/-- Present a section on the verify handshake. -/
def vfyPresent (p : Presented) (e : Section) (sect : Nat) (bytes : List Byte) (s : State) : State :=
  let d := sha384 (e.raw ++ bytes)
  emit (.vfyPresent d e.type e.target sect) { s with verify := { s.verify with
    req := !s.verify.req
    digest := d
    type := e.type
    target := e.target
    sect := sect
    presented := some p
    bytes := bytes
    timed := s.verify.tmo != 0 } }

/-- Present what waits: the next section of the image, else a live update. DEDUCED, unsafe (notes/assumptions/20.md). -/
def vfyNext (s : State) : State :=
  if s.verify.presented.isSome then s
  else match s.loader.ready with
    | (k, bytes) :: rest =>
      vfyPresent (.boot k) (s.loader.table.getD k ⟨[]⟩) k bytes (modLoader (fun l => { l with ready := rest }) s)
    | [] =>
      if s.live.stage == .waitVerify then
        vfyPresent .live s.live.entry 0x1FF s.live.bytes { s with live := { s.live with stage := .presented } }
      else s

/-! ## The loader's sequence (R355) -/

/-- Read a section of the image (R359). -/
def readSection (k tries : Nat) (s : State) : State :=
  let e := s.loader.table.getD k ⟨[]⟩
  emit (flashRead (slotBase s.loader.slot + e.offset) e.length)
    (modLoader (fun l => { l with read := .sect k tries }) s)

/-- Take the next sections of the step while none has to be read. DEDUCED, unsafe (notes/assumptions/21.md). -/
def takeSections : Nat → State → State
  | 0, s => s
  | fuel + 1, s =>
    if s.loader.read != .none then s
    else match s.loader.todo with
      | [] => s
      | k :: rest =>
        let e := s.loader.table.getD k ⟨[]⟩
        let pop := modLoader (fun l => { l with todo := rest }) s
        if !knownType e.type then takeSections fuel (endSection k 0x15 pop)
        else if entryBad e || offsetBad s.loader.table.length e then takeSections fuel (endSection k 0x13 pop)
        else if dupOpen s.loader k e then s
        else if entryDup s.loader k e then takeSections fuel (endSection k 0x14 pop)
        else if e.length = 0 then
          if e.crc = 0 then takeSections fuel (modLoader (fun l => { l with ready := l.ready ++ [(k, [])] }) pop)
          else takeSections fuel (endSection k 0x10 pop)
        else readSection k 0 pop

/-- IMG_STAT.STATE (R376). -/
def LdrState.code : LdrState → Nat
  | .header => 0
  | .early => 1
  | .selftest => 2
  | .sections => 3
  | .done => 4
  | .noImage => 5

/-- IMG_STAT (R376). -/
def imgStat (l : Loader) : Word :=
  BitVec.ofNat 32 (l.state.code * 2 ^ 29 + l.table.length * 2 ^ 18 +
    (l.res.filter (· == 1)).length * 2 ^ 9 + (l.res.filter (16 ≤ ·)).length)

/-- Whether the present step of the sequence has ended. -/
def stepEnded (s : State) : Bool :=
  s.loader.todo.isEmpty && s.loader.read == .none && s.loader.ready.isEmpty && s.loader.applying.isEmpty &&
  (match s.verify.presented with | some (.boot _) => false | _ => true)

/-- The self-test of every SRAM has ended (R355 step 4). DEDUCED, unsafe (notes/assumptions/19.md). -/
def testsEnded (s : State) : Bool := s.loader.selftestDone && s.regions.all (·.ready)

/-- BOOT_DONE (R355 step 6, R374). -/
def bootDone (s : State) : State :=
  let s := modLoader (fun l => { l with
    bootDone := true, state := if l.state == .noImage then .noImage else .done }) s
  logEvent 0x78 4 0 0 noCtx (imgStat s.loader).toNat s.loader.imageId.toNat s

/-- Go on with the sequence as far as it can go now; `fuel` bounds the steps of R355. DEDUCED, unsafe (notes/assumptions/19.md). -/
def ldrAdvance : Nat → State → State
  | 0, s => s
  | fuel + 1, s =>
    let s := vfyNext (takeSections 257 s)
    match s.loader.state with
    | .early => if stepEnded s then ldrAdvance fuel (modLoader (fun l => { l with state := .selftest }) s) else s
    | .selftest =>
      if testsEnded s then
        ldrAdvance fuel (modLoader (fun l => { l with
          state := .sections
          todo := (List.range l.table.length).filter (fun k => resOf l k == resPending) }) s)
      else s
    | .sections => if stepEnded s then bootDone s else s
    | .noImage => if testsEnded s && !s.loader.bootDone then bootDone s else s
    | _ => s

def advance (s : State) : State := ldrAdvance 4 s

/-- The slot read is not valid (R355 step 2): the alternate slot, or no image. -/
def slotBad (s : State) : State :=
  let s := logEvent 0x70 4 0 0 noCtx s.loader.slot (slotBase s.loader.slot) s
  if s.loader.slot = 0 then
    emit (flashRead (slotBase 1) 32) (modLoader (fun l => { l with slot := 1, read := .header }) s)
  else advance (modLoader (fun l => { l with slot := 0, read := .none, state := .noImage }) s)

/-! ## Application (R363) -/

/-- Start the check of a bank whose writable side a section has filled (R363, R372); CB_CTRL.PRESET_ID stays as software wrote it.
DEDUCED, unsafe (notes/assumptions/79.md). -/
def applyCodebook (e : Section) (bytes : List Byte) (user : CbUser) (s : State) : State :=
  let n := e.target
  let s := modBank n (fun b => { b with user := user }) s
  if e.param != 0 then
    match preset e.param with
    | some side => modBank n (fun b => { (b.setSide b.writable side) with state := .checking, todo := [] }) s
    | none =>
      let s := modBank n (fun b => { b with reject := 8, state := .rejected, user := .sw }) s
      match user with
      | .sw => s
      | .boot k => endSection k 0x17 s
      | .live => endLive 0x17 s
  else
    let words := (chunks 4 bytes).map (fun w => (BitVec.ofNat 32 (leNat w) : Word))
    let side : Side := ⟨words.headD 0 &&& 0xFF3F, words.drop 1⟩
    runActs n [.commit] false (modBank n (fun b => b.setSide b.writable side) s)

/-- Write recipes from index n (R363). -/
def writeRecipes (n : Nat) (bytes : List Byte) (s : State) : State :=
  let rs := (chunks 32 bytes).map (fun r => (chunks 4 r).map (fun w => (BitVec.ofNat 32 (leNat w) : Word)))
  { s with recipes := (patch s.recipes n rs).take s.recipes.length, rcpApplied := s.rcpApplied ++ (List.range rs.length).map (n + ·) }

/-- The OPSET and code of a SEQ_CODE section (R362). -/
def seqOf (bytes : List Byte) : SeqSlot := ⟨BitVec.ofNat 64 (fld bytes 0 8), bytes.drop 16⟩

/-- Whether a loaded slot other than `t` shares an operation with a set (R363). -/
def opsetShared (s : State) (t : Nat) (ops : BitVec 64) : Bool :=
  (s.seqSlots.zipIdx).any (fun x => x.2 != t && (match x.1 with
    | some q => q.opset &&& ops != 0
    | none => false))

/-- Write LIFT_CFG values to the slices that are built (R363, R217). -/
def writeLiftCfg (t : Nat) (bytes : List Byte) (s : State) : State :=
  ((chunks 4 bytes).zipIdx).foldl (fun s w =>
    if sliceBuilt s (t + w.2) then lftCfgSet (t + w.2) (BitVec.ofNat 32 (leNat w.1)) s else s) s

/-- Apply accepted section k of the image (R363). -/
def applySection (k : Nat) (bytes : List Byte) (s : State) : State :=
  let e := s.loader.table.getD k ⟨[]⟩
  match e.type with
  | 0x01 =>
    let ws := (chunks 4 bytes).map leNat
    if ws.any (65536 ≤ ·) then endSection k 0x13 s
    else endSection k 0x01 (modLoader (fun l => { l with trims := ws.map (BitVec.ofNat 16) }) s)
  | 0x02 =>
    if repairBad bytes then endSection k 0x13 s
    else endSection k 0x01 (((chunks 8 bytes).zipIdx).foldl (fun s x => repairEntry x.2 x.1 s) s)
  | 0x10 =>
    if (bank s e.target).wedged then endSection k 0x16 s
    else applyCodebook e bytes (.boot k) (modLoader (fun l => { l with applying := l.applying ++ [k] }) s)
  | 0x11 =>
    if s.health.wedgedRecipes then endSection k 0x16 s else endSection k 0x01 (writeRecipes e.target bytes s)
  | 0x20 =>
    if !allZero bytes 8 8 then endSection k 0x13 s
    else if opsetShared s e.target (seqOf bytes).opset then endSection k 0x14 s
    else if s.health.wedgedSeq then endSection k 0x16 s
    else endSection k 0x01 { s with seqSlots := modAt s.seqSlots e.target (fun _ => some (seqOf bytes)) }
  | _ => endSection k 0x01 (writeLiftCfg e.target bytes s)

/-- Whether a bank may take a live codebook now (R372). -/
def bankTakes (s : State) (n : Nat) : Bool := cbFree (bank s n)

/-- Write and commit the waiting live codebook (R372). DEDUCED, unsafe (notes/assumptions/79.md). -/
def liveCodebook (s : State) : State :=
  if (bank s s.live.entry.target).wedged then endLive 0x16 s
  else applyCodebook s.live.entry s.live.bytes .live { s with live := { s.live with stage := .checking } }

/-- Apply an accepted live update (R372). -/
def applyLive (s : State) : State :=
  let e := s.live.entry
  let bytes := s.live.bytes
  match e.type with
  | 0x10 =>
    if (bank s e.target).wedged then endLive 0x16 s
    else if bankTakes s e.target then liveCodebook s
    else { s with live := { s.live with stage := .waitBank } }
  | 0x11 => if s.health.wedgedRecipes then endLive 0x16 s else endLive 0x01 (writeRecipes e.target bytes s)
  | 0x20 =>
    if !allZero bytes 8 8 then endLive 0x13 s
    else if opsetShared s e.target (seqOf bytes).opset then endLive 0x14 s
    else if s.health.wedgedSeq then endLive 0x16 s
    else { s with seqShadow := some (e.target, seqOf bytes), live := { s.live with stage := .shadow } }
  | _ => endLive 0x01 (writeLiftCfg e.target bytes s)

/-- What a live update's target is when it is wedged (R341). -/
def liveWedged (s : State) (e : Section) : Bool :=
  match e.type with
  | 0x10 => (bank s e.target).wedged
  | 0x11 => s.health.wedgedRecipes
  | 0x20 => s.health.wedgedSeq
  | _ => false

/-- The entry of a live update has been read (R371): its faults, or the read of its section. -/
def liveEntryRead (bytes : Option (List Byte)) (s : State) : State :=
  match bytes with
  | none => endLive 0x10 s
  | some raw =>
    let e : Section := ⟨raw⟩
    let s := { s with live := { s.live with entry := e } }
    if !knownType e.type then endLive 0x15 s
    else if e.type ≤ 2 || entryBad e then endLive 0x13 s
    else if liveWedged s e then endLive 0x16 s
    else if e.length = 0 then
      if e.crc = 0 then vfyNext { s with live := { s.live with bytes := [], stage := .waitVerify } } else endLive 0x10 s
    else startRead .liveSection [(s.live.buf + 64, e.length)] { s with live := { s.live with stage := .readSection } }

/-- The section of a live update has been read: its CRC is checked and it waits for the handshake (R371). -/
def liveSectionRead (bytes : Option (List Byte)) (s : State) : State :=
  match bytes with
  | none => endLive 0x10 s
  | some bs =>
    if crc32c bs = s.live.entry.crc then vfyNext { s with live := { s.live with bytes := bs, stage := .waitVerify } }
    else endLive 0x10 s

/-! ## Meanings -/

/-- LDR_HEADER_READ_DONE (R359, R360). -/
def execLdrHeaderReadDone (data : List Byte) (s : State) : Answer := inRun s <|
  if s.loader.read != .header then .next s
  else if headerOk s.build data then
    .next (emit (flashRead (slotBase s.loader.slot + 32) (32 * fld data 6 2))
      (modLoader (fun l => { l with read := .table data }) s))
  else .next (slotBad s)

/-- LDR_TABLE_READ_DONE (R360, R355 step 2): the table is in use, or the other slot is tried. -/
def execLdrTableReadDone (data : List Byte) (s : State) : Answer := inRun s <|
  match s.loader.read with
  | .table h =>
    if data.length = 32 * fld h 6 2 && crc32c (h.take 28 ++ data) = fld h 28 4 then
      let table := (chunks 32 data).map Section.mk
      let early := [0x01, 0x02].filterMap (fun t => firstIdx (fun e : Section => e.type == t) table)
      .next (advance (modLoader (fun l => { l with
        state := .early
        read := .none
        table := table
        res := table.map (fun _ => resPending)
        imageId := BitVec.ofNat 32 (fld h 12 4)
        imageOk := true
        todo := early }) s))
    else .next (slotBad s)
  | _ => .next s

/-- LDR_SECTION_READ_DONE (R367, R370): the CRC is checked, and the section waits for its presentation or is reread. -/
def execLdrSectionReadDone (data : List Byte) (s : State) : Answer := inRun s <|
  match s.loader.read with
  | .sect k tries =>
    let e := s.loader.table.getD k ⟨[]⟩
    if data.length = e.length && crc32c data = e.crc then
        .next (advance (modLoader (fun l => { l with read := .none, ready := l.ready ++ [(k, data)] }) s))
      else if tries < 2 then .next (readSection k (tries + 1) s)
      else .next (advance (endSection k 0x10 (modLoader (fun l => { l with read := .none }) s)))
  | _ => .next s

/-- LDR_READ_TIMEOUT (R359): the read is abandoned and handled as a CRC failure. DESIGN CHOICE, safe (notes/assumptions/4.md). -/
def execLdrReadTimeout (s : State) : Answer := inRun s <|
  match s.loader.read with
    | .none => .next s
    | .header | .table _ => .next (slotBad s)
    | .sect k tries =>
      if tries < 2 then .next (readSection k (tries + 1) s)
      else .next (advance (endSection k 0x10 (modLoader (fun l => { l with read := .none }) s)))

/-- The handshake is free again and the next section may be presented. -/
def vfyFree (s : State) : State := { s with verify := { s.verify with presented := none } }

/-- VERIFY_ANSWER (R368, R369). -/
def execVerifyAnswer (accept : Bool) (s : State) : Answer := inRun s <|
  match s.verify.presented with
    | none => .next s
    | some (.boot k) =>
      let s' := vfyFree s
      .next (advance (if accept then applySection k s.verify.bytes s' else endSection k 0x11 s'))
    | some .live =>
      let s' := vfyFree s
      .next (vfyNext (if accept then applyLive s' else endLive 0x11 s'))

/-- VERIFY_TIMEOUT (R368, R376): refused, where a time-out was in force when the section was presented.
DESIGN CHOICE, safe (notes/assumptions/4.md). DEDUCED, unsafe (notes/assumptions/20.md). -/
def execVerifyTimeout (s : State) : Answer := inRun s <|
  if !s.verify.timed then .next s
  else match s.verify.presented with
    | none => .next s
    | some (.boot k) => .next (advance (endSection k 0x12 (vfyFree s)))
    | some .live => .next (vfyNext (endLive 0x12 (vfyFree s)))

/-- The store number and unit of a fault-log entry 0x75 (R374, with the stores of R349). -/
def failCode : FailStore → Nat × Nat
  | .headland c => (c, 1)
  | .dmaBuffer c => (0x100 + c, 3)
  | .slot t => (t, 2)
  | .scoreboard l => (l, 2)
  | .bank n => (n, 2)
  | .recipes => (0, 2)
  | .seqCode => (0, 2)
  | .context c => (c, 2)
  | .agreement e => (e, 2)

/-- The effect of a store that fails self-test (R357). -/
def failStore (r : Nat) (f : FailStore) (s : State) : State :=
  match f with
  | .headland c => retireAtReset r c 2 s
  | .dmaBuffer c => modRegion r (fun x => { x with badChans := x.badChans ++ [c] }) s
  | .slot t => { s with badSlots := s.badSlots ++ [t] }
  | .scoreboard _ => s
  | .bank n => wedgeBank n s
  | .recipes => wedgeRecipes s
  | .seqCode => wedgeSeq s
  | .context c => { s with badCtx := s.badCtx ++ [c] }
  | .agreement e => { s with exch := { s.exch with bad := s.exch.bad ++ [e] } }

/-- UNIT of a region's fault-log entry about a store (R348). -/
def failUnit : FailStore → Nat
  | .headland c => c
  | .dmaBuffer c => 0x100 + c
  | _ => 0x200

/-- REGION_SELFTEST_DONE (R355 step 4, R357, R388): RDY_REGIONS, 32 IST credits per port, and the stores that failed. -/
def execRegionSelftestDone (r : Nat) (fails : List SelfFail) (s : State) : Answer := inRun s <|
  if s.regions.length ≤ r || (region s r).ready ||
      (s.loader.state != .selftest && s.loader.state != .noImage) then .next s
  else
    let s := modRegion r (fun x => { x with ready := true }) s
    let s := emits ((List.range s.build.clustersPerRegion).map
      (fun k => .istCredits (r * s.build.clustersPerRegion + k) 32)) s
    let s := fails.foldl (fun s f =>
      failStore r f.store (logEvent 0x75 1 r (failUnit f.store) noCtx
        ((failCode f.store).1 * 2 ^ 16 + (failCode f.store).2) f.row s)) s
    .next (advance s)

/-- CONTROL_SELFTEST_DONE (R355 step 4, R357). -/
def execControlSelftestDone (fails : List SelfFail) (s : State) : Answer := inRun s <|
  if s.loader.selftestDone ||
      (s.loader.state != .selftest && s.loader.state != .noImage) then .next s
  else
    let s := modLoader (fun l => { l with selftestDone := true }) s
    let s := fails.foldl (fun s f =>
      failStore 0 f.store (logEvent 0x75 0 0 0 noCtx ((failCode f.store).1 * 2 ^ 16 + (failCode f.store).2) f.row s)) s
    .next (advance s)

/-- The effect of IMG_LIVE_CTRL.GO (R371, R376): ignored before BOOT_DONE and while BUSY is 1. -/
def liveGo (s : State) : State :=
  if !s.loader.bootDone || s.live.stage != .idle then s
  else
    let buf := s.live.addrHi.toNat * 2 ^ 32 + s.live.addrLo.toNat
    startRead .liveEntry [(buf, 32)] { s with live := { s.live with stage := .readEntry, buf := buf } }

/-- IMG_LIVE_GO (R371). -/
def execImgLiveGo (s : State) : Answer := inRun s <|
  .next (liveGo (emit (.cpAck false) s))

/-- LIVE_CODEBOOK_APPLY (R372). -/
def execLiveCodebookApply (s : State) : Answer := inRun s <|
  if s.live.stage == .waitBank && (bankTakes s s.live.entry.target || (bank s s.live.entry.target).wedged) then
    .next (liveCodebook s)
  else .next s

/-- The operations of the old and the new contents of a slot under replacement (R372). -/
def shadowOps (s : State) : BitVec 64 :=
  match s.seqShadow with
  | none => 0
  | some (t, q) => q.opset ||| (match s.seqSlots.getD t none with
    | some o => o.opset
    | none => 0)

/-- SEQ_CODE_SHADOW_SWAP (R372): every task that dispatched a swath under the old slot has completed. -/
def execSeqCodeShadowSwap (s : State) : Answer := inRun s <|
  match s.seqShadow with
  | none => .next s
  | some (t, q) =>
    let old := match s.seqSlots.getD t none with
      | some o => o.opset
      | none => 0
    if tasksUnder s old then .next s
    else if s.health.wedgedSeq then .next (endLive 0x16 { s with seqShadow := none })
    else .next (endLive 0x01 { s with seqShadow := none, seqSlots := modAt s.seqSlots t (fun _ => some q) })

/-! ## Codebook commands -/

/-- CB_LOAD_PRESET (R77): a CB_CTRL write with LOAD_PRESET. -/
def execCbLoadPreset (n : Nat) (presetId : BitVec 4) (commit switch : Bool) (s : State) : Answer := inRun s <|
  let s := emit (.cpAck false) s
  if 16 ≤ n then .next s else .next (advance (cbCtrlWrite n presetId true commit switch s))

/-- CB_COMMIT (R77): a CB_CTRL write with COMMIT and without LOAD_PRESET. -/
def execCbCommit (n : Nat) (presetId : BitVec 4) (switch : Bool) (s : State) : Answer := inRun s <|
  let s := emit (.cpAck false) s
  if 16 ≤ n then .next s else .next (cbCtrlWrite n presetId false true switch s)

/-- CB_CHECK_DONE (R43, R77). -/
def execCbCheckDone (n : Nat) (s : State) : Answer := inRun s <|
  if 16 ≤ n || (bank s n).state != .checking then .next s else .next (advance (checkDone n s))

/-- Whether an offset in a bank's block is that of a descriptor or of a table entry (R409). -/
def sideOffset (off : Nat) : Bool := off < 8 || (0x400 ≤ off && off < 0xC00)

/-- CB_SIDE_WRITE (R75, R76). -/
def execCbSideWrite (n : Nat) (offset : BitVec 12) (data : Word) (s : State) : Answer := inRun s <|
  if offset.toNat % 4 != 0 then .next (emit (.cpAck true) s)
  else
    let s := emit (.cpAck false) s
    if 16 ≤ n || !sideOffset offset.toNat then .next s else .next (sideWrite n offset data s)

end Sys2Proof.Machine
end

