-- ==== Sys2Proof/Config.lean ====
section
/-! DEFINITION. Values that the spec leaves open: constants without a body, so that nothing can be proved of what they are. -/

namespace Sys2Proof

/-- What internal scan chains shift out (R400 states no contents): a byte for each value of the model's own counter.
DESIGN CHOICE, safe (notes/assumptions/16.md). -/
opaque Config.scanByte : Nat → Byte

/-- The level of `wsi` with an instruction of the wrapper whose event brings none (R400): one for each value of the model's own counter.
DESIGN CHOICE, safe (notes/assumptions/95.md). -/
opaque Config.wsiBit : Nat → Bool

/-- The binary32 result of an fp32 rounding that overflows where the spec states no result (R164, R165, R188, R190):
a word for each kind of rounding and each exact operand, given as numerator and denominator.
DESIGN CHOICE, safe (notes/assumptions/16.md). -/
opaque Config.overflowWord : Nat → Int → Nat → Word

/-- What an EXPAND record shows of a scale word that could not be read (R133, R330 state no value): T_USED for 0, Z_USED for 1, and the
address of the word. DESIGN CHOICE, safe (notes/assumptions/135.md). -/
opaque Config.lostScale : Nat → Nat → Word

end Sys2Proof
end

