-- ==== Sys2Proof/Machine/Stages.lean ====
section
/-! DEFINITION. What a core reads for a swath and what each stage computes (06_fused_chains.md R175 to R200,
05_outliers_and_fallback.md R156 to R170, 03_drill_arithmetic.md R84 to R113, 08_random_bits.md R231, R232). -/

namespace Sys2Proof.Machine

/-- Exact values by row; `none` is poison. -/
abbrev QM := List (List (Option Q))

def Matrix.toQ (m : Matrix) : QM := m.map (fun r => r.map Val.q)

/-- Round a matrix once to a format (R176): the values and the number that saturated. -/
def roundQM (fmt : Nat) (m : QM) : Matrix × Nat :=
  let rs := m.map (fun r => r.map (fun x => match x with
    | none => (poison, false)
    | some q => roundVal fmt q))
  (rs.map (fun r => r.map (·.1)), sumNat (rs.map (fun r => (r.filter (·.2)).length)))

/-- An fp32 rounding whose overflow the spec does not settle: a free value (log 16). `kind` tells the roundings apart.
DESIGN CHOICE, safe (notes/assumptions/16.md). -/
def fp32Free (kind : Nat) (x : Q) : Val := (fp32 x).getD (Config.overflowWord kind x.num x.den)

/-! ## What a swath is run with -/

/-- What the stages of a swath depend on. -/
structure Env where
  ctx : Nat
  nodeIdx : Nat
  node : Node
  task : Task
  seed : Nat
  row0 : Nat
  rows : Nat
  sides : List (Nat × Bool × Side)
  deriving DecidableEq, Repr, Inhabited

def Env.ops (e : Env) : List Byte := e.task.ops
def Env.prog (e : Env) : Prog := ⟨e.task.prog⟩
/-- Row `row0` in the views of destinations and streams (R245). -/
def Env.first (e : Env) : Nat := e.node.rowOff + e.row0
def Env.side (e : Env) (bank : Nat) : Bool × Side :=
  match e.sides.find? (fun x => x.1 == bank) with
  | some x => x.2
  | none => (false, Side.empty)
/-- A T that R51 and a Z that R100 refuse: those of a scale word that could not be read (R330, R333).
DEDUCED, unsafe (notes/assumptions/134.md). -/
def noScale : Word × Word := (0, 0x7FC00000)

/-- T and Z of a scale word as read; of one that could not be read neither is valid (R119, R330). -/
def Env.sword (e : Env) (addr : Nat) : Word × Word :=
  ((e.task.swords.find? (fun x => x.1 == addr)).bind (·.2)).getD noScale
def Env.scale (e : Env) (d : Nat) : DestScale := e.task.scales.getD d ⟨0, 0, .warm, false, []⟩
/-- The scale word that slot `v` of a SCALE stage names (R188). -/
def Env.slotScale (e : Env) (st : Stage) (v : Nat) : Word × Word :=
  if v = 0xE then ((e.scale st.dest).t, (e.scale st.dest).z) else e.sword (e.prog.vec v)
def Env.plan (e : Env) (stream : Nat) : Plan := (e.task.plans.find? (fun p => p.stream == stream)).getD (Plan.zero stream)
/-- The plan of a tracked destination. -/
def Env.destPlan (e : Env) (d : Nat) : Plan :=
  let r := destRec e.ops d
  if r.tracked then e.plan r.stream else Plan.zero r.stream
/-- Whether this is the first of two passes (R129). DEDUCED, unsafe (notes/assumptions/44.md). -/
def Env.pass1 (e : Env) : Bool := !e.task.final
/-- Chunk length along the row axis (R183). -/
def Env.rowChunk (e : Env) : Nat := if e.prog.loadsBand then e.node.band else 512

/-! ## Reading wide and coded data (R84, R110 to R113, R329) -/

def wideElem (code : Nat) (bs : List OByte) : Option Q :=
  match sound bs with
  | some b => if b.length = wideSize code then (readElem (wideFmt code) (leNat b)).q else none
  | none => none

/-- `n` wide elements; those that are missing are poison. -/
def wideRow (code n : Nat) (bs : List OByte) : List (Option Q) :=
  (List.range n).map (fun j => wideElem code (slice bs (j * wideSize code) (wideSize code)))

/-- Code j of a bit stream, `none` when a byte of it is doubted or missing. -/
def codeAt (w : Nat) (bs : List OByte) (j : Nat) : Option Nat :=
  let lo := w * j / 8
  let n := (w * j + w - 1) / 8 + 1 - lo
  match sound (slice bs lo n) with
  | some b => if b.length = n then some (bits (leNat b) (w * j % 8) w) else none
  | none => none

/-- A furrow as read: its index, its codes and its scale byte. -/
structure Fur where
  f : Nat
  codes : List (Option Nat)
  scale : Option Nat
  deriving DecidableEq, Repr, Inhabited

/-- Number of scale lines that cover furrows f0 to f1 - 1. -/
def lineCount (f0 f1 : Nat) : Nat := if f1 ≤ f0 then 0 else (f1 - 1) / 56 + 1 - f0 / 56

/-- The parts of memory that hold furrows f0 to f1 - 1 of a coded record: codes, then scales (R63, R65). -/
def codedSegs (r : Rec) (w : Nat) (span : Nat × Nat) : List (Nat × Nat) :=
  let fb := furrowBytes r.fmt.furrow w
  let n := span.2 - span.1
  (r.addr + span.1 * fb, n * fb) ::
    (if r.fmt.lines then [(r.saddr + span.1 / 56 * 64, lineCount span.1 span.2 * 64)]
     else if r.fmt.mode != .unscaled then [(r.saddr + span.1, n)] else [])

def segLen (l : List (Nat × Nat)) : Nat := sumNat (l.map (·.2))

/-- The scale byte of furrow f from the lines of a span, and whether its line fails its check (R66, R113). -/
def lineScale (lines : List OByte) (bank : Nat) (side : Bool) (f0 f : Nat) : Option Nat × Bool :=
  let l := slice lines ((f / 56 - f0 / 56) * 64) 64
  match sound l with
  | none => (none, false)
  | some b =>
    if b.length = 64 && fld b 6 2 == lineCheck b bank (b2n side) then (some (byteAt b (8 + f % 56)), false) else (none, true)

/-- The furrows of a span from its bytes, and whether a scale line failed its check. -/
def spanFurs (r : Rec) (sd : Bool × Side) (span : Nat × Nat) (bs : List OByte) : List Fur × Bool :=
  let w := sd.2.width
  let fl := r.fmt.furrow
  let fb := furrowBytes fl w
  let n := span.2 - span.1
  let rest := bs.drop (n * fb)
  let fs := (List.range n).map (fun k =>
    let codes := (List.range fl).map (codeAt w (slice bs (k * fb) fb))
    let s : Option Nat × Bool :=
      if r.fmt.lines then lineScale rest r.fmt.bank sd.1 span.1 (span.1 + k)
      else if r.fmt.mode != .unscaled then (((rest[k]?).join).map (·.toNat), false)
      else (some 0, false)
    (Fur.mk (span.1 + k) codes s.1, s.2))
  (fs.map (·.1), fs.any (·.2))

/-- The furrows that rows a to a + n - 1 of a coded view touch (R60). -/
def rowSpan (r : Rec) (a n : Nat) : Nat × Nat :=
  let fl := r.fmt.furrow
  if r.fmt.axis then (a / fl * r.cols, ceilDiv (a + n) fl * r.cols)
  else (a * ceilDiv r.cols fl, (a + n) * ceilDiv r.cols fl)

/-- Row `a` of a coded view from its furrows (R110, R112). A furrow of which a code lies in a doubted word is poisoned whole (R329). -/
def codedRow (r : Rec) (sd : Side) (t z : Word) (fs : List Fur) (a : Nat) : List (Option Q) :=
  (List.range r.cols).map (fun c =>
    let p := furrowOf r.fmt.axis r.fmt.furrow r.cols a c
    match fs.find? (fun x => x.f == p.1) with
    | none => none
    | some x => if x.codes.any Option.isNone then none else expandQ sd r.fmt.mode ((x.codes[p.2]?).join) x.scale t z)

/-! ## What a swath reads -/

/-- The parts of a swath's reading. -/
inductive PieceKey where
  | prim | second | side | grows (stage : Nat)
  | sidex (d : Nat)
  | vec (stage k : Nat)
  /-- The side rows and the second input that a ROWREP folds. -/
  | repSide | repG
  deriving DecidableEq, Repr, Inhabited

structure Piece where
  key : PieceKey
  segs : List (Nat × Nat)
  deriving DecidableEq, Repr, Inhabited

def Piece.len (p : Piece) : Nat := segLen p.segs

/-- The bytes of a part of the reading. -/
def pieceOf : List Piece → List OByte → PieceKey → List OByte
  | [], _, _ => []
  | p :: ps, data, key => if p.key = key then data.take p.len else pieceOf ps (data.drop p.len) key

/-- Spans of a coded primary input: one for the rows, or one for each gathered row. -/
def Env.primSpans (e : Env) (idx : List (Option Nat)) : List (Nat × Nat) :=
  let r := inRec e.ops 0
  if (e.prog.stage 0).is opGather then idx.map (fun i => match i with
    | some a => rowSpan r a 1
    | none => (0, 0))
  else [rowSpan r e.row0 e.rows]

/-- The row indices that a GATHER reads; `none` is poison (R187).
DEDUCED, unsafe (notes/assumptions/39.md). DEDUCED, unsafe (notes/assumptions/51.md). -/
def gatherIdx (p0 : Nat) (rows : Nat) (bs : List OByte) : List (Option Nat) :=
  (List.range rows).map (fun t => match sound (slice bs (4 * t) 4) with
    | some b => if b.length = 4 && leNat b < p0 then some (leNat b) else none
    | none => none)

/-- Where a GATHER's indices of this swath lie (R175: per row, counted with the row offset). DEDUCED, unsafe (notes/assumptions/51.md). -/
def Env.idxSegs (e : Env) : List (Nat × Nat) :=
  let st := e.prog.stage 0
  if st.is opGather then [(e.prog.vec st.va + 4 * e.first, 4 * e.rows)] else []

def Env.primSegs (e : Env) (idx : List (Option Nat)) : List (Nat × Nat) :=
  let r := inRec e.ops 0
  let sz := wideSize r.wide
  if e.prog.loadsBand then []
  else if r.coded then (e.primSpans idx).flatMap (codedSegs r (e.side r.fmt.bank).2.width)
  else if (e.prog.stage 0).is opGather then
    idx.filterMap (fun i => i.map (fun a => (r.addr + a * r.stride, r.cols * sz)))
  else if e.prog.has opTranspose then
    let n := min e.rows (r.cols - e.row0)
    if n = 0 then [] else
    (List.range (destRec e.ops 0).cols).map (fun i => (r.addr + i * r.stride + e.row0 * sz, n * sz))
  else (List.range e.rows).map (fun t => (r.addr + (e.row0 + t) * r.stride, r.cols * sz))

/-- Rows a to a + n - 1 of the second input. -/
def Env.secondSegs (e : Env) (a n : Nat) : List (Nat × Nat) :=
  let r := inRec e.ops 1
  if r.coded then codedSegs r (e.side r.fmt.bank).2.width (rowSpan r a n)
  else (List.range n).map (fun t => (r.addr + (a + t) * r.stride, r.cols * wideSize r.wide))

/-- Rows of a stream's side region (R158). -/
def sideSegs (p : Plan) (a n : Nat) : List (Nat × Nat) :=
  if !p.enabled || p.count = 0 then [] else (List.range n).map (fun t => (p.side + (a + t) * p.budget * 4, p.count * 4))

/-- Listed channels whose rows of the result lie in this swath: place in the list, and local row of the swath (R189).
DEDUCED, unsafe (notes/assumptions/39.md). -/
def Env.repRows (e : Env) : List (Nat × Nat) :=
  (((e.plan e.node.spart).list.zipIdx).filter (fun x => e.row0 ≤ x.1 && x.1 < e.row0 + e.rows)).map
    (fun x => (x.2, x.1 - e.row0))

/-- A vector read per column of the current value, or per row of the output (R175). DEDUCED, unsafe (notes/assumptions/50.md). -/
def Env.vecSegs (e : Env) (i v : Nat) (perRow : Bool) : List (Nat × Nat) :=
  if perRow then [(e.prog.vec v + 4 * e.first, 4 * e.rows)]
  else [(e.prog.vec v, 4 * colsAt e.prog e.ops e.node i)]

/-- Everything that the swath reads before its stages run, but a GATHER's indices. -/
def Env.pieces (e : Env) (idx : List (Option Nat)) : List Piece :=
  let sp := e.plan e.node.spart
  [⟨.prim, e.primSegs idx⟩] ++
  (if e.prog.has opAddin || e.prog.has opMulin then [⟨.second, e.secondSegs e.row0 e.rows⟩] else []) ++
  (if e.prog.has opSide then [⟨.side, sideSegs sp e.first e.rows⟩] else []) ++
  (if e.prog.has opRowrep && !e.repRows.isEmpty then
    [⟨.repSide, sideSegs sp e.node.rowOff e.node.rows⟩, ⟨.repG, e.secondSegs 0 e.node.rows⟩] else []) ++
  (e.prog.stages.zipIdx).flatMap (fun s =>
    let st := s.1
    if st.is opSide then
      [⟨.grows s.2, if sp.list.isEmpty then [] else [(e.node.grows, sp.list.length * colsAt e.prog e.ops e.node s.2 * 4)]⟩]
    else if (st.is opStore || st.is opEmit) && (destRec e.ops st.dest).sidex then
      [⟨.sidex st.dest, sideSegs (e.plan (destRec e.ops st.dest).stream) e.first e.rows⟩]
    else if st.is opAxpb then
      (if bit st.mode 0 then [⟨.vec s.2 0, e.vecSegs s.2 st.va (bit st.mode 2)⟩] else []) ++
      (if bit st.mode 1 then [⟨.vec s.2 1, e.vecSegs s.2 st.vb (bit st.mode 2)⟩] else [])
    else if st.is opZpc then [⟨.vec s.2 0, e.vecSegs s.2 st.va false⟩, ⟨.vec s.2 1, e.vecSegs s.2 st.vb true⟩]
    else [])

/-- Values of the second input, rows a to a + n - 1 (R110, R176).
DEDUCED, unsafe (notes/assumptions/49.md). DEDUCED, unsafe (notes/assumptions/52.md). -/
def Env.secondQ (e : Env) (a n : Nat) (bs : List OByte) : QM × Bool :=
  let r := inRec e.ops 1
  if r.coded then
    let sd := e.side r.fmt.bank
    let sw := e.sword r.sword
    let fs := spanFurs r sd (rowSpan r a n) bs
    ((List.range n).map (fun t => codedRow r sd.2 sw.1 sw.2 fs.1 (a + t)), fs.2)
  else
    let len := r.cols * wideSize r.wide
    ((List.range n).map (fun t => wideRow r.wide r.cols (slice bs (t * len) len)), false)

/-- Values of the coded rows of the primary input. -/
def primCoded (r : Rec) (sd : Bool × Side) (t z : Word) (spans : List (Nat × Nat)) (rows : List (Option Nat))
    (bs : List OByte) : QM × Bool :=
  let cut := spans.foldl (fun (acc : List (List Fur × Bool) × List OByte) s =>
    let n := segLen (codedSegs r sd.2.width s)
    (acc.1 ++ [spanFurs r sd s (acc.2.take n)], acc.2.drop n)) ([], bs)
  let fs := cut.1.flatMap (·.1)
  (rows.map (fun a => match a with
    | some a => codedRow r sd.2 t z fs a
    | none => List.replicate r.cols none), cut.1.any (·.2))

/-- Values of the primary input from memory, by row of the swath, before any rounding, and a failed line (R178, R186, R187). -/
def Env.primQ (e : Env) (idx : List (Option Nat)) (bs : List OByte) : QM × Bool :=
  let r := inRec e.ops 0
  let sz := wideSize r.wide
  let gather := (e.prog.stage 0).is opGather
  if r.coded then
    let sw := e.sword r.sword
    primCoded r (e.side r.fmt.bank) sw.1 sw.2 (e.primSpans idx)
      (if gather then idx else (List.range e.rows).map (fun t => some (e.row0 + t))) bs
  else if gather then
    let len := r.cols * sz
    ((idx.foldl (fun (acc : QM × List OByte) i => match i with
      | some _ => (acc.1 ++ [wideRow r.wide r.cols (acc.2.take len)], acc.2.drop len)
      | none => (acc.1 ++ [List.replicate r.cols none], acc.2)) ([], bs)).1, false)
  else if e.prog.has opTranspose then
    let n := min e.rows (r.cols - e.row0)
    let cols := (List.range (destRec e.ops 0).cols).map (fun i => wideRow r.wide n (slice bs (i * n * sz) (n * sz)))
    ((List.range e.rows).map (fun t => cols.map (fun col => (col[t]?).join)), false)
  else
    ((List.range e.rows).map (fun t => wideRow r.wide r.cols (slice bs (t * (r.cols * sz)) (r.cols * sz))), false)

/-! ## Reductions (R183) -/

/-- One step of a fold: SUM 0, SUMSQ 1, AMAX 2. -/
def foldStep (op : Nat) (acc : Option Q) (x : Option Q) : Option Q :=
  match acc, x with
  | some a, some v =>
    if op = 0 then (fp32 (a.add v)).bind Val.q
    else if op = 1 then (fp32 (a.add (v.mul v))).bind Val.q
    else some (a.max v.abs)
  | _, _ => none

/-- The partial of a chunk. -/
def partialOf (op : Nat) (vs : List (Option Q)) : Option Q := vs.foldl (foldStep op) (some Q.zero)

def pairUp : List (Option Q) → List (Option Q)
  | a :: b :: r => foldStep 0 a b :: pairUp r
  | l => l

/-- The fixed pairwise tree of R183; `fuel` is at least the number of levels. An empty axis gives +0. -/
def treeAux : Nat → List (Option Q) → Option Q
  | 0, l => (l.head?).getD (some Q.zero)
  | k + 1, l => match l with
    | [] => some Q.zero
    | [x] => x
    | l => treeAux k (pairUp l)

def combineParts (op : Nat) (parts : List (Option Q)) : Option Q :=
  if op = 2 then parts.foldl (fun m x => match m, x with
    | some a, some b => some (a.max b)
    | _, _ => none) (some Q.zero)
  else treeAux parts.length parts

/-- reduce of R183. -/
def reduceQ (op g : Nat) (vs : List (Option Q)) : Option Q := combineParts op ((chunks g vs).map (partialOf op))

/-- The binary32 word of a reduced value (R185). -/
def redWord (x : Option Q) : Val :=
  match x with
  | none => poison
  | some q => fp32P q

def valBytes (v : Val) : List Byte := leBytes 4 v.toNat

/-! ## Side products (R164, R165, R189) -/

/-- One fused multiply-add of a side product. -/
def sideStep (kind : Nat) (acc a b : Option Q) : Option Q :=
  match acc, a, b with
  | some c, some x, some y => (fp32Free kind (c.add (x.mul y))).q
  | _, _, _ => none

/-- side_add of R164 for one element: side entries of the row, gathered elements of the column. -/
def sideAdd (ss gs : List (Option Q)) : Option Q :=
  (List.zip ss gs).foldl (fun acc x => sideStep 0 acc x.1 x.2) (some Q.zero)

/-- Column k of rows of values. -/
def colOf (m : QM) (k : Nat) : List (Option Q) := m.map (fun r => (r[k]?).join)

/-- The rows of a side reading. -/
def sideRows (p : Plan) (n : Nat) (bs : List OByte) : QM :=
  if !p.enabled || p.count = 0 then List.replicate n []
  else (List.range n).map (fun t => wideRow 0 p.count (slice bs (t * p.count * 4) (p.count * 4)))

/-- g_row of R165 for listed channel i: over every stream row of the task. -/
def repRow (ss g : QM) (cols i : Nat) : List (Option Q) :=
  (List.range cols).map (fun n =>
    (List.zip (colOf ss i) (colOf g n)).foldl (fun acc x => sideStep 1 acc x.1 x.2) (some Q.zero))

/-! ## Value stages (R176 to R190, R198) -/

/-- The exact value of each element through a function, and none where it is poison. DEDUCED, unsafe (notes/assumptions/52.md). -/
def mapQM (m : Matrix) (f : Nat → Nat → Q → Option Q) : QM :=
  (m.zipIdx).map (fun r => (r.1.zipIdx).map (fun x => (Val.q x.1).bind (fun q => f r.2 x.2 q)))

/-- An element of a vector, or a parameter. -/
def axOperand (read : Bool) (v : List (Option Q)) (i : Nat) (p : Word) : Option Q :=
  if read then (v[i]?).join else Val.q p

/-- The piece of a PWL table that an element falls in (R179). -/
def pwlSeg (t : List Word) (segs : Nat) (x : Q) : Nat :=
  (List.range segs).foldl (fun i k => if k = 0 || (wordQ (t.getD k 0)).le x then k else i) 0

/-- The head of a ZPC: the SCALE stage before it (R190). -/
def Env.headScale (e : Env) (i : Nat) : Stage :=
  (((e.prog.stages.take i).reverse).find? (fun s : Stage => s.is opScale)).getD (e.prog.stage 16)

/-- zpc of R190 for one element. `za`, `zb`: `none` where the zero point is invalid. A zero point of +0 leaves its term out, and with it
the poison of that K-sum. DEDUCED, unsafe (notes/assumptions/107.md). -/
def zpcElem (k : Nat) (za zb : Option Q) (ka kb : Option Q) (x : Q) : Option Q :=
  let add : Option Q → Option Q → Option Q → Option Q := fun x z s =>
    match x, z, s with
    | some a, some q, some b => if q.isZero then some a else (fp32Free 2 (a.add (q.mul b))).q
    | some a, some q, none => if q.isZero then some a else none
    | _, _, _ => none
  let x1 := add (some x) za kb
  let x2 := add x1 zb ka
  match za, zb, x2 with
  | some a, some b, some y =>
    if a.isZero || b.isZero then some y
    else ((fp32Free 3 ((Q.ofInt k).mul (a.mul b))).q).bind (fun c => (fp32Free 4 (y.add c)).q)
  | _, _, _ => none

def zeroQ (z : Word) : Option Q := if validZero z then some (wordQ z) else none

/-- NORM of one row, before its rounding (R198). DEDUCED, unsafe (notes/assumptions/87.md). -/
def normRow (l : Nat) (eps : Q) (centre : Bool) (row : List Val) : List (Option Q) :=
  let xs := row.map Val.q
  let bad := row.map (fun _ => none)
  match reduceQ 1 512 xs, reduceQ 0 512 xs with
  | some ss, some sm =>
    let len := Q.ofInt l
    let mu : Option Q := if centre then (fp32 (sm.div len)).bind Val.q else some Q.zero
    match mu with
    | none => bad
    | some mu =>
      let base := ss.div len
      let arg := if centre then ((base.sub (mu.mul mu)).max Q.zero).add eps else base.add eps
      match (fp32 arg).bind Val.q with
      | none => bad
      | some m =>
        if m.isZero then bad
        else match rsqrt32 m with
          | none => bad
          | some r => xs.map (fun x => x.map (fun x => (x.sub mu).mul (wordQ r)))
  | some ss, none =>
    if centre then bad
    else match (fp32 ((ss.div (Q.ofInt l)).add eps)).bind Val.q with
      | none => bad
      | some m =>
        if m.isZero then bad
        else match rsqrt32 m with
          | none => bad
          | some r => xs.map (fun x => x.map (fun x => x.mul (wordQ r)))
  | _, _ => bad

/-- The key of the draws of a MASK stage (R226). -/
def Env.maskKey (e : Env) (i : Nat) : RngKey := ⟨e.seed, rngSid 1 i e.node.rkey, e.node.step⟩

/-- A value stage other than LOAD, GATHER, PRODUCT and a ROWREP with CLOSE, before its rounding. Elements that a second input of fewer
columns does not have are poison, those it has beyond the current value's are left out. DEDUCED, unsafe (notes/assumptions/113.md). -/
def valueStage (e : Env) (ps : List Piece) (data : List OByte) (i : Nat) (m : Matrix) : QM :=
  let st := e.prog.stage i
  let vec := fun k => (
    let b := pieceOf ps data (.vec i k)
    wideRow 0 (b.length / 4) b)
  if st.is opScale then
    let a := (e.slotScale st st.va).1
    let b := (e.slotScale st st.vb).1
    if !validScale a || !validScale b then m.map (fun r => r.map (fun _ => none))
    else
      let sc := fp32Free 5 ((wordQ a).mul (wordQ b))
      mapQM m (fun _ _ x => (Val.q sc).map (x.mul ·))
  else if st.is opSide then
    let sp := e.plan e.node.spart
    let ss := sideRows sp e.rows (pieceOf ps data .side)
    let cols := colsAt e.prog e.ops e.node i
    let gb := pieceOf ps data (.grows i)
    let gs := (List.range sp.list.length).map (fun k => wideRow 0 cols (slice gb (k * (cols * 4)) (cols * 4)))
    mapQM m (fun t n x => (sideAdd (ss.getD t []) (colOf gs n)).map (x.add ·))
  else if st.is opZpc then
    let h := e.headScale i
    let za := zeroQ (e.slotScale h h.va).2
    let zb := zeroQ (e.slotScale h h.vb).2
    let kb := vec 0
    let ka := vec 1
    mapQM m (fun t n x => zpcElem st.p0.toNat za zb (ka[t]?).join (kb[n]?).join x)
  else if st.is opAxpb then
    let a := vec 0
    let b := vec 1
    mapQM m (fun t n x =>
      let k := if bit st.mode 2 then t else n
      match axOperand (bit st.mode 0) a k st.p0, axOperand (bit st.mode 1) b k st.p1 with
      | some u, some v => some ((u.mul x).add v)
      | _, _ => none)
  else if st.is opAddin || st.is opMulin then
    let u := (e.secondQ e.row0 e.rows (pieceOf ps data .second)).1
    mapQM m (fun t n x => (((u.getD t [])[n]?).join).map (fun y => if st.is opAddin then x.add y else x.mul y))
  else if st.is opClamp then mapQM m (fun _ _ x => some ((x.max (wordQ st.p0)).min (wordQ st.p1)))
  else if st.is opPwl then
    let t := ((e.task.tables.find? (fun x => x.1 == i)).map (·.2)).getD []
    mapQM m (fun _ _ x =>
      let k := pwlSeg t st.mode x
      some (((wordQ (t.getD (32 + k) 0)).mul x).add (wordQ (t.getD (64 + k) 0))))
  else if st.is opMask then
    mapQM m (fun t n x =>
      some (if maskKeep (e.maskKey i) st.p0 ((e.first + t) * e.node.cols + n) then x.mul (wordQ st.p1) else Q.zero))
  else if st.is opNorm then m.map (normRow e.prog.rowLen (wordQ st.p0) (st.mode == 1))
  else m.toQ

/-! ## Taps (R156 to R170, R185, R191 to R193) -/

/-- The statistics of a swath for a destination are folded with those of a tap. -/
def Swath.addStats (w : Swath) (d : Nat) (st : Stats) : Swath :=
  { w with stats := modAt w.stats d (fun s => s.fold st) }

/-- Form a write of the swath. -/
def Swath.put (w : Swath) (addr : Nat) (bs : List Byte) : Swath :=
  if bs.isEmpty then w else { w with out := w.out ++ [(addr, bs)] }

def Swath.mark (w : Swath) (b : Bool) : Swath := { w with poisoned := w.poisoned || b }

/-- A column reduction of a program (R184, R191): stage, operation, scratch offset, vector, outputs. -/
structure ColRed where
  stage : Nat
  op : Nat
  off : Nat
  vec : Nat
  cols : Nat
  deriving DecidableEq, Repr, Inhabited

def colReds (n : Node) (ops : List Byte) (p : Prog) : List ColRed :=
  (p.stages.zipIdx).filterMap (fun s =>
    let st := s.1
    if st.is opCsum then some ⟨s.2, st.mode, st.p1.toNat, p.vec st.va, colsAt p ops n s.2⟩
    else if st.is opDrill && bit st.mode 1 then some ⟨s.2, 0, st.p1.toNat, p.vec st.vb, (destRec ops st.dest).cols⟩
    else none)

/-- Write a reduction down the columns: its results, or the partials of this swath's chunks (R184). -/
def colReduce (e : Env) (cr : ColRed) (m : QM) (w : Swath) : Swath :=
  let g := e.rowChunk
  let parts := (List.range cr.cols).map (fun c => (chunks g (colOf m c)).map (partialOf cr.op))
  if e.rows = e.node.rows then
    let vs := parts.map (fun p => redWord (combineParts cr.op p))
    (w.put cr.vec (vs.flatMap valBytes)).mark (vs.any Val.isPoison)
  else
    let q := ceilDiv e.node.rows g
    (parts.zipIdx).foldl (fun w p =>
      w.put (e.prog.scratch + cr.off + (p.2 * q + e.row0 / g) * 4) (p.1.flatMap (fun x => valBytes (redWord x)))) w

/-- Write a reduction along the rows (R185). -/
def rowReduce (e : Env) (op vec : Nat) (m : QM) (w : Swath) : Swath :=
  let vs := m.map (fun r => redWord (reduceQ op 512 r))
  (w.put (vec + 4 * e.first) (vs.flatMap valBytes)).mark (vs.any Val.isPoison)

/-- The elements of each furrow of `rows` rows: (row, column), in furrow order (R60, R61). -/
def furrowElems (axis : Bool) (fl rows cols : Nat) : List (List (Nat × Nat)) :=
  if axis then (List.range (ceilDiv rows fl)).flatMap (fun q => (List.range cols).map (fun c =>
    (List.range (min fl (rows - q * fl))).map (fun j => (q * fl + j, c))))
  else (List.range rows).flatMap (fun r => (List.range (ceilDiv cols fl)).map (fun b =>
    (List.range (min fl (cols - b * fl))).map (fun j => (r, b * fl + j))))

def atRC (m : Matrix) (r c : Nat) : Val := (m.getD r []).getD c poison

/-- Substream and place of element j of the furrow that begins at row r, column c of a swath's rows (R228).
DEDUCED, unsafe (notes/assumptions/56.md). -/
def drawPos (axis : Bool) (fl cols first : Nat) (r c j : Nat) : Nat × Nat :=
  if axis then furrowOf true fl cols (first + r + j) c else ((furrowOf false fl cols (first + r) c).1, j)

/-- The pass of a drill tap (R83, R87, R99, R159). In the first of two passes only AMAX, XMAX and XMIN matter, and they do not
depend on T (R129). DEDUCED, unsafe (notes/assumptions/56.md). -/
def drillPass (e : Env) (d : Nat) : Pass :=
  let r := destRec e.ops d
  let sc := e.scale d
  let plan := e.destPlan d
  mkPass (e.side r.fmt.bank).2 r.fmt.mode r.fmt.furrow (if e.pass1 then 0x3F800000 else sc.t) sc.z
    (if r.sr then some ⟨e.seed, rngSid 0 d (if r.tracked then r.stream else e.node.rkey), e.node.step⟩ else none)
    (if plan.enabled then some plan.thrExp else none)

/-- The furrows of the rows `m` of a drill tap, drilled; `first` is the place of the first of them in the view (R245). -/
def drillAll (e : Env) (d first : Nat) (m : Matrix) : List (List (Nat × Nat) × Drilled) :=
  let r := destRec e.ops d
  let p := drillPass e d
  let plan := e.destPlan d
  (furrowElems r.fmt.axis r.fmt.furrow m.length r.cols).map (fun es =>
    let h := es.headD (0, 0)
    (es, drillFurrow p (es.map (fun x => (atRC m x.1 x.2, plan.enabled && plan.list.contains x.2)))
      (drawPos r.fmt.axis r.fmt.furrow r.cols first h.1 h.2)))

/-- The rows that a tap works on as one tensor: the swath's rows, or for a chained tap each band of B rows by itself, with the number of
its first row in the swath (R195). -/
def Env.parts (e : Env) (st : Stage) (m : Matrix) : List (Nat × Matrix) :=
  if st.chains then ((chunks (bandHeight e.node) m).zipIdx).map (fun x => (x.2 * bandHeight e.node, x.1)) else [(0, m)]

/-- Represented values by row (R52, R191). DEDUCED, unsafe (notes/assumptions/49.md). -/
def representedQM (p : Pass) (rows cols : Nat) (fs : List (List (Nat × Nat) × Drilled)) : QM :=
  let vals := fs.flatMap (fun f => List.zip f.1 (represented p f.2))
  (List.range rows).map (fun r => (List.range cols).map (fun c => ((vals.find? (fun x => x.1 == (r, c))).map (·.2)).join))

/-- The scale lines of furrows from index f0, a multiple of 56 (R65 to R67). DEDUCED, unsafe (notes/assumptions/53.md). -/
def linesOf (f0 tag bank : Nat) (side : Bool) (scales : List Nat) : List (List Byte) :=
  ((chunks 56 scales).zipIdx).map (fun x => scaleLine (f0 + 56 * x.2) tag bank (b2n side) x.1)

/-- What a drill writes: codes, scale bytes (R62, R65, R69); with MARK the marks of R167. -/
def drillBytes (w : Nat) (fs : List Drilled) : List Byte × List Nat :=
  (fs.flatMap (fun d => packCodes w d.codes), fs.map (·.byte))

/-- Side entries of a row (R158). -/
def sideEntries (plan : Plan) (z : Word) (row : List Val) : List Byte :=
  plan.list.flatMap (fun c => valBytes (match Val.q (row.getD c poison) with
    | none => poison
    | some x => fp32Free 6 (x.sub (wordQ z))))

/-- What a DRILL writes of the furrows of one tensor: its codes, and its scale bytes; with FALLEN and MARK the marks of R167. -/
def drillOut (e : Env) (d : Nat) (fs : List (List (Nat × Nat) × Drilled)) : List Byte × List Nat :=
  let plan := e.destPlan d
  drillBytes (e.side (destRec e.ops d).fmt.bank).2.width (if plan.enabled && plan.fallen && plan.mark then
    fs.map (fun f => poisonFurrow (drillPass e d) (f.1.map (fun _ => (poison, false)))) else fs.map (·.2))

/-- The chained operand of one band: its codes and, unless its scale mode is NONE, its scale lines, numbered from 0 (R194, R195). -/
def chainOut (e : Env) (d : Nat) (fs : List (List (Nat × Nat) × Drilled)) : Nat × List Byte × List (List Byte) :=
  let r := destRec e.ops d
  let o := drillOut e d fs
  (d, o.1, if r.fmt.mode != .unscaled then linesOf 0 r.tag r.fmt.bank (e.side r.fmt.bank).1 o.2 else [])

/-- A DRILL tap (R99, R156 to R159, R167, R191, R192, R195). An arena at address 0 is written like any other.
DEDUCED, unsafe (notes/assumptions/53.md). DEDUCED, unsafe (notes/assumptions/102.md). -/
def drillTap (e : Env) (i : Nat) (w : Swath) : Swath :=
  let st := e.prog.stage i
  let d := st.dest
  let r := destRec e.ops d
  let sd := e.side r.fmt.bank
  let p := drillPass e d
  let plan := e.destPlan d
  let m := w.cur
  let ps := (e.parts st m).map (fun x => (x, drillAll e d (e.first + x.1) x.2))
  let fs := ps.flatMap (·.2)
  let stats := fs.foldl (fun s f => s.fold f.2.stats) Stats.none
  if e.pass1 then (if (e.scale d).cold == .twoPass then w.addStats d stats else w)
  else
    let w := w.addStats d { stats with sat := stats.sat + w.sat }
    let w := w.mark (0 < stats.poisoned)
    -- the channel vector
    let w := if !plan.enabled then w else
      let cs := fs.flatMap (fun f => List.zip (f.1.map (·.2)) f.2.chv)
      { w with chv := modAt w.chv d (fun v => (List.range plan.chans).map (fun c =>
          cs.foldl (fun mx x => if x.1 = c then max mx (x.2.getD 0) else mx) (v.getD c 0))) }
    -- K-sums
    let w := if st.mode % 4 = 0 then w else
      let q := ps.flatMap (fun x => representedQM p x.1.2.length r.cols x.2)
      let w := if bit st.mode 0 then rowReduce e 0 (e.prog.vec st.va) q w else w
      match (colReds e.node e.ops e.prog).find? (fun x => x.stage == i) with
      | some cr => colReduce e cr q w
      | none => w
    -- the side region and the arena
    let w := if !plan.enabled then w else
      (m.zipIdx).foldl (fun w row =>
        w.put (plan.side + (e.first + row.2) * plan.budget * 4) (sideEntries plan (e.scale d).z row.1)) w
    let fallen := plan.enabled && plan.fallen
    let w := if !fallen then w else
      let sz := wideSize plan.fbType
      { ((m.zipIdx).foldl (fun w row =>
          w.put (plan.arena + (e.first + row.2) * r.cols * sz)
            ((List.range r.cols).flatMap (fun c => (storeVal plan.fbType (row.1.getD c poison)).1))) w) with
        fallback := true }
    if st.chains then { w with chain := w.chain ++ ps.map (fun x => chainOut e d x.2) }
    else
      let cb := drillOut e d fs
      let f0 := r.furrowAt e.first
      let w := w.put (r.addr + f0 * furrowBytes r.fmt.furrow sd.2.width) cb.1
      if r.fmt.lines then w.put (r.saddr + f0 / 56 * 64) (linesOf f0 r.tag r.fmt.bank sd.1 cb.2).flatten
      else if r.fmt.mode != .unscaled then w.put (r.saddr + f0) (cb.2.map (BitVec.ofNat 8))
      else w

/-- The rows a STORE or EMIT writes, by element: its bytes, whether it saturated, and its value (R170, R193). A destination wider than the
current value takes poison in the columns that are missing, a narrower one leaves the others out. DEDUCED, unsafe (notes/assumptions/113.md). DEDUCED, unsafe (notes/assumptions/134.md). -/
def storeRows' (e : Env) (ps : List Piece) (data : List OByte) (d : Nat) (m : Matrix) : List (List (List Byte × Bool × Val)) :=
  let r := destRec e.ops d
  let plan := e.plan r.stream
  let sx := r.sidex && plan.enabled
  let ss := if sx then sideRows plan m.length (pieceOf ps data (.sidex d)) else []
  let z := (e.sword (inRec e.ops 0).sword).2
  (m.zipIdx).map (fun row => (List.range r.cols).map (fun c =>
    match (if sx then firstIdx (· == c) plan.list else none) with
    | some k =>
      let x := ((ss.getD row.2 [])[k]?).join
      match x, (if (inRec e.ops 0).coded then zeroQ z else some Q.zero) with
      | some x, some z =>
        let s := roundSat (wideFmt r.wide) (x.add z)
        (leBytes (wideSize r.wide) s.1, s.2, readElem (wideFmt r.wide) s.1)
      | _, _ => (leBytes (wideSize r.wide) (poisonPat (wideFmt r.wide)), false, poison)
    | none =>
      let b := storeVal r.wide (row.1.getD c poison)
      (b.1, b.2, readElem (wideFmt r.wide) (leNat b.1))))

/-- The EXPAND statistics of written elements (R193). DEDUCED, unsafe (notes/assumptions/136.md). -/
def expandStats (xs : List (List Byte × Bool × Val)) : Stats :=
  xs.foldl (fun s x =>
    if Val.isPoison x.2.2 then { s with elems := s.elems + 1, poisoned := s.poisoned + 1 }
    else { s with elems := s.elems + 1, sat := s.sat + b2n x.2.1, amax := max s.amax (x.2.2.toNat % 2 ^ 31) }) Stats.none

/-- A STORE tap (R193). -/
def storeTap (e : Env) (ps : List Piece) (data : List OByte) (i : Nat) (w : Swath) : Swath :=
  let st := e.prog.stage i
  let r := destRec e.ops st.dest
  let rows := storeRows' e ps data st.dest w.cur
  let stats := expandStats rows.flatten
  let w := (w.addStats st.dest { stats with sat := stats.sat + w.sat }).mark (0 < stats.poisoned)
  if st.chains then { w with chain := w.chain ++ (chunks (bandHeight e.node) rows).map (fun b =>
    (st.dest, b.flatMap (fun r => r.flatMap (·.1)), [])) }
  else (rows.zipIdx).foldl (fun w row =>
    w.put (r.addr + (e.first + row.2) * r.stride) (row.1.flatMap (·.1))) w

/-- A stream that a stage sends: the stage, a PRODUCT's band, whether coded, its type code, format word, first row, rows and columns, and
its beats (R393). -/
structure Send where
  stage : Nat
  band : Nat
  coded : Bool
  wide : Nat
  fmt : Nat
  first : Nat
  rows : Nat
  cols : Nat
  beats : List (BeatOp × List Byte)
  deriving DecidableEq, Repr, Inhabited

/-- Wide elements in beats of 256 bytes. -/
def wideBeats (bs : List Byte) : List (BeatOp × List Byte) := (chunks 256 bs).map (fun b => (.sdata, b))

/-- Coded elements in beats of whole furrows, each line before the first beat that holds its furrows (R393). -/
def codedBeats (fb : Nat) (codes : List Byte) (lines : List (List Byte)) : List (BeatOp × List Byte) :=
  let per := 256 / fb
  let bs := chunks (per * fb) codes
  ((bs.zipIdx).foldl (fun (acc : List (BeatOp × List Byte) × List (List Byte) × Nat) b =>
    let last := (b.2 * per + b.1.length / fb - 1) / 56 + 1
    let n := last - acc.2.2
    (acc.1 ++ (acc.2.1.take n).map (fun l => (.sline, l)) ++ [(.sdata, b.1)], acc.2.1.drop n, max last acc.2.2))
    ([], lines, 0)).1

/-- An EMIT tap (R193). -/
def emitTap (e : Env) (ps : List Piece) (data : List OByte) (i : Nat) (w : Swath) : Swath × Send :=
  let st := e.prog.stage i
  let r := destRec e.ops st.dest
  let rows := storeRows' e ps data st.dest w.cur
  let stats := expandStats rows.flatten
  let w := (w.addStats st.dest { stats with sat := stats.sat + w.sat }).mark (0 < stats.poisoned)
  (w, ⟨i, 0, false, r.wide, 0, e.first, rows.length, r.cols, wideBeats (rows.flatMap (fun r => r.flatMap (·.1)))⟩)

/-- The first row of band k of a swath, in the swath, and the number of its rows (R195). -/
def Env.bandRows (e : Env) (k : Nat) : Nat × Nat :=
  (k * bandHeight e.node, min (bandHeight e.node) (e.rows - k * bandHeight e.node))

/-- The bands of a swath. -/
def Env.bands (e : Env) : Nat := ceilDiv e.rows (bandHeight e.node)

/-- The chained operand of band k that a PRODUCT sends (R194, R195). DEDUCED, unsafe (notes/assumptions/53.md). -/
def productSend (e : Env) (i k : Nat) (w : Swath) : Send :=
  let st := e.prog.stage i
  let r := destRec e.ops st.dest
  let c := (w.chain.filter (fun x => x.1 == st.dest)).getD k (0, [], [])
  let b := e.bandRows k
  if r.coded then
    ⟨i, k, true, 0, r.fmt.raw, e.first + b.1, b.2, r.cols, codedBeats (furrowBytes r.fmt.furrow (e.side r.fmt.bank).2.width) c.2.1 c.2.2⟩
  else ⟨i, k, false, r.wide, 0, e.first + b.1, b.2, r.cols, wideBeats c.2.1⟩

/-- An RSUM or CSUM tap (R185). DEDUCED, unsafe (notes/assumptions/50.md). -/
def sumTap (e : Env) (i : Nat) (w : Swath) : Swath :=
  let st := e.prog.stage i
  if e.pass1 then w
  else if st.is opRsum then rowReduce e st.mode (e.prog.vec st.va) w.cur.toQ w
  else match (colReds e.node e.ops e.prog).find? (fun x => x.stage == i) with
    | some cr => colReduce e cr w.cur.toQ w
    | none => w

/-! ## Gathered rows (R163) -/

/-- The gathered rows that a weight task writes from its wide input, in its view, whose rows ROW_OFF does not offset (R163, R418): rows of
the list among this swath's rows, where the reduction axis K runs down the rows, or all of them, where it runs along the columns. Of a
weight with C on both axes K is taken down the rows. DEDUCED, unsafe (notes/assumptions/39.md). -/
def gatherRows (e : Env) (q : QM) (w : Swath) : Swath :=
  let gp := e.plan e.node.gpart
  if e.node.gpart = 0xFFFF || !gp.enabled || e.prog.has opSide || e.pass1 then w
  else
    let cols := (q.headD []).length
    let word : Option Q → List Byte := fun x => valBytes (match x with
      | none => poison
      | some v => fp32Free 7 v)
    if cols == gp.chans && e.node.rows != gp.chans then
      (gp.list.zipIdx).foldl (fun w c =>
        w.put (e.node.grows + c.2 * e.node.rows * 4 + e.row0 * 4) (q.flatMap (fun r => word ((r[c.1]?).join)))) w
    else
      (gp.list.zipIdx).foldl (fun w c =>
        if e.row0 ≤ c.1 && c.1 < e.row0 + q.length then
          w.put (e.node.grows + c.2 * cols * 4) ((q.getD (c.1 - e.row0) []).flatMap word)
        else w) w

/-! ## FILL (R232) -/

/-- The rows a FILL writes: each element's bytes, whether it saturated, and its value. -/
def fillRows (e : Env) : List (List (List Byte × Bool × Val)) :=
  let r := destRec e.ops 0
  let key : RngKey := ⟨e.seed, rngSid 2 0 e.node.rkey, e.node.step⟩
  (List.range e.rows).map (fun t => (List.range r.cols).map (fun c =>
    let x := fillValue r.dist (wordQ r.t) (wordQ r.z) key ((e.first + t) * r.cols + c)
    let s := roundSat (wideFmt r.wide) x
    (leBytes (wideSize r.wide) s.1, s.2, readElem (wideFmt r.wide) s.1)))

def fillSwath (e : Env) (w : Swath) : Swath :=
  let r := destRec e.ops 0
  let rows := fillRows e
  let w := w.addStats 0 (expandStats rows.flatten)
  (rows.zipIdx).foldl (fun w row => w.put (r.addr + (e.first + row.2) * r.stride) (row.1.flatMap (·.1))) w

end Sys2Proof.Machine
end

