-- ==== Sys2Proof/Machine/Dma.lean ====
section
/-! DEFINITION. Region DMA engines: bursts, chains, runs and stops (10_region_dma.md). -/

namespace Sys2Proof.Machine

/-! ## Presentation (R287, R290, R291) -/

/-- Present one burst of a channel on a port. -/
def dmaPresent (r ch p : Nat) (k : FlightKind) (sp : Span) (len pos width : Nat) (data : List Byte) (s : State) : State :=
  let c := chan s r ch
  let wr := k == .write
  let s := modChan r ch (fun c => { c with
    flights := c.flights ++ [⟨c.nextFlight, k, c.block, pos, len, width, sp.desc⟩]
    nextFlight := c.nextFlight + 1 }) s
  let s := modPort p (fun x => x.grant wr true) s
  present p ⟨.dma r ch c.nextFlight, wr, sp.addr, len, 0, 0, data⟩ s

/-- DMA_BURST_GRANT (R287, R290, R291): one read or write burst of the channel the arbiter picks. -/
def execDmaBurstGrant (r : Nat) (wr : Bool) (s : State) : Answer := inRun s <|
  let d := (region s r).dma
  if s.regions.length ≤ r || d.stopped || d.draining then .next s
  else match arbiter d wr, bestPort s (regionPorts s r) wr with
    | some ch, some p =>
      let c := chan s r ch
      let mark := modDma r (fun d =>
        if wr then { d with lastWrite := modAt d.lastWrite c.prio (fun _ => ch) }
        else { d with lastRead := modAt d.lastRead c.prio (fun _ => ch) })
      let s' := if wr then
          match writeReady c with
          | none => s
          | some (sp, bytes) =>
            let b := blockOf c.regs
            modChan r ch (fun c => { c with
              dstIdx := c.dstIdx + sp.units
              buf := c.buf.filter (fun x => (c.dstIdx + sp.units) * b.dw < x.1 + x.2.length) })
              (dmaPresent r ch p .write sp bytes.length (c.dstIdx * b.dw) b.dw bytes (mark s))
        else
          match readReady c with
          | none => s
          | some (k, sp, len) =>
            let b := blockOf c.regs
            let s := dmaPresent r ch p k sp len (if k == .fetch then 0 else c.srcIdx * b.sw) b.sw [] (mark s)
            if k == .fetch then modChan r ch (fun c => { c with fetchAt := none }) s
            else modChan r ch (fun c => { c with srcIdx := c.srcIdx + sp.units }) s
      .next (drainRegion r s')
    | _, _ => .next s

/-! ## Runs (R285, R286, R292, R293) -/

/-- The run's outcome is decided: no further burst is presented. DEDUCED, unsafe (notes/assumptions/26.md). -/
def decide' (r ch status cause : Nat) (s : State) : State :=
  modChan r ch (fun c => { c with
    state := .ending, fetchAt := none
    outcome := some (c.outcome.getD (status, cause)) }) s

/-- A block becomes current: it is checked under R283. `addr` is its descriptor's address, 0 for the register block. -/
def blockStart (r ch addr : Nat) (ws : List Word) (crc : Bool) (s : State) : State :=
  let f := blockFault ws crc
  let s := modChan r ch (fun c => { c with
    regs := regWords ws, blockAddr := addr, srcIdx := 0, dstIdx := 0, buf := [], acked := [], pos := 0
    fault := f, running := f == 0, block := c.block + 1 }) s
  if f = 0 then s else decide' r ch 0x16 0x0D s

/-- What every run starts with. -/
def runStart (c : Chan) (node : Option NodeRef) (prio : Nat) : Chan :=
  { c with
    state := .active, node := node, prio := prio, run := cntMod c.run 1, hops := 0, pos := 0, fault := 0
    blockAddr := 0, running := false, fetchAt := none, block := 0, srcIdx := 0, dstIdx := 0, buf := [], acked := []
    doneBlocks := [], badBlocks := [], outcome := none }

/-- Start a DMA node's run on a channel: the fetch of CHAIN is hop 1 (R296). -/
def dmaNodeStart (r ch : Nat) (n : NodeRef) (chain prio : Nat) (s : State) : State :=
  modChan r ch (fun c => { (runStart c (some n) prio) with hops := 1, fetchAt := some chain }) s

/-- The scheduler channel that a DMA node may take in a region: the lowest IDLE one (R275, R296, R297, R357). -/
def idleSchedChan (s : State) (r : Nat) : Option Nat :=
  let rg := region s r
  if rg.dma.stopped || rg.dma.draining || rg.parkReq || rg.parkAck || s.regions.length ≤ r then none
  else (List.range 32).find? (fun c =>
    !bit rg.dma.own.toNat c && (chan s r c).state == .idle && !rg.badChans.contains c)

/-- Whether the current block has presented all its bursts. -/
def blockDone (c : Chan) : Bool :=
  let b := blockOf c.regs
  c.running && b.srcUnits ≤ c.srcIdx && b.dstUnits ≤ c.dstIdx

/-- BYTES of a completion record: stream bytes of completed blocks (R294). -/
def runBytes (c : Chan) : Nat :=
  let all := if blockDone c then c.doneBlocks ++ [(c.block, (blockOf c.regs).size)] else c.doneBlocks
  sumNat ((all.filter (fun x => !c.badBlocks.contains x.1 && !c.flights.any (fun f => f.block == x.1))).map (·.2))

/-- The completion record of a direct run (R294). -/
def dmaRecord (r ch status cause time : Nat) (c : Chan) : List Byte :=
  withCrc (leBytes 4 c.run.toNat ++ leBytes 4 (runBytes c) ++ leBytes 4 c.hops ++
    leBytes 1 status ++ leBytes 1 cause ++ leBytes 1 r ++ leBytes 1 ch ++ leBytes 8 c.blockAddr ++ leBytes 4 time)

def cplAddr (c : Chan) : Nat := word64 c.cplLo c.cplHi

/-- The run is over: its event is set and the channel returns to IDLE (R293). -/
def dmaIdle (r ch : Nat) (s : State) : State :=
  let irq := bit (chan s r ch).cfg.toNat 1
  let s := modChan r ch (fun c => { c with
    state := .idle, running := false, fetchAt := none, node := none, recPh := .none, outcome := none }) s
  if irq then modDma r (fun d => { d with event := setBit d.event ch }) s else s

/-- DMA_RUN_END (R289, R293, R294): every burst of the run has settled; the end of a culprit's run is that of the stop (R297). A node's run
sets the channel's event under DMA_CFG.IRQ and writes no completion record. DEDUCED, unsafe (notes/assumptions/26.md).
DEDUCED, unsafe (notes/assumptions/118.md). -/
def execDmaRunEnd (r ch : Nat) (s : State) : Answer := inRun s <|
  let c := chan s r ch
  let d := (region s r).dma
  if s.regions.length ≤ r || 32 ≤ ch || c.state == .idle || !c.flights.isEmpty || c.recPh != .none ||
      d.culprits.any (fun x => x.chan == ch) then .next s
  else
    let out := match c.outcome with
      | some o => some o
      | none =>
        if blockDone c && (blockOf c.regs).next == 0 && !d.draining && !d.stopped then some (0, 0) else none
    match out with
    | none => .next s
    | some (status, cause) =>
      let s := modChan r ch (fun c => { c with
        state := .ending, status := status, cause := cause, blkf := if status = 0x16 then c.fault else 0
        outcome := some (status, cause) }) s
      match c.node with
      | some n => .next (completeNode n status cause (dmaIdle r ch s))
      | none =>
        if bit c.cfg.toNat 0 then
          let rec' := dmaRecord r ch status cause ((region s r).time % 2 ^ 32) c
          .next (drainRegion r (startWrite (.dmaRec r ch) (cplAddr c + 4) (rec'.drop 4)
            (modChan r ch (fun c => { c with recPh := .body }) s)))
        else .next (dmaIdle r ch s)

/-- A DMA completion record write ends (R294): the failure is logged and stops nothing. DEDUCED, unsafe (notes/assumptions/26.md). -/
def dmaRecEnd (r ch : Nat) (seq : Bool) (fail : Bool) (s : State) : State :=
  let c := chan s r ch
  if fail then
    dmaIdle r ch (logEvent 0x21 1 r (0x100 + ch) noCtx c.run.toNat (cplAddr c) s)
  else if seq then dmaIdle r ch s
  else modChan r ch (fun c => { c with recPh := .bodyDone }) s

/-- SEQ of a direct channel's completion record is written (R294). -/
def dmaSeqWrite (r ch : Nat) (s : State) : State :=
  let c := chan s r ch
  if c.recPh == .bodyDone then
    drainRegion r (startWrite (.dmaSeq r ch) (cplAddr c) (leBytes 4 c.run.toNat)
      (modChan r ch (fun c => { c with recPh := .seq }) s))
  else s

/-- DMA_HOP (R285, R286, R288): after every burst of the ending block has been presented, its writes too.
DEDUCED, unsafe (notes/assumptions/116.md). DEDUCED, unsafe (notes/assumptions/145.md). -/
def execDmaHop (r ch : Nat) (s : State) : Answer := inRun s <|
  let c := chan s r ch
  let d := (region s r).dma
  let b := blockOf c.regs
  if s.regions.length ≤ r || 32 ≤ ch || d.stopped || d.draining || c.state != .active || c.fetchAt.isSome ||
      !blockDone c || b.next == 0 || (b.barrier && c.flights.any (fun f => f.kind == .write)) then .next s
  else
    let s := modChan r ch (fun c => { c with doneBlocks := c.doneBlocks ++ [(c.block, b.size)] }) s
    if max d.hoplim.toNat 1 < c.hops + 1 then
      .next (decide' r ch 0x14 0x50 (modChan r ch (fun c => { c with running := false }) s))
    else .next (modChan r ch (fun c => { c with hops := c.hops + 1, fetchAt := some b.next, running := false }) s)

/-! ## Answers and stops (R297, R298) -/

/-- A bus error reaches the engine: it stops granting, and the channel is a culprit (R297). DEDUCED, unsafe (notes/assumptions/146.md). -/
def dmaFail (r ch cause addr : Nat) (s : State) : State :=
  drainRegion r (modDma r (fun d => { d with
    draining := true
    culprits := if d.culprits.any (fun c => c.chan == ch) then
        d.culprits.map (fun c => if c.chan = ch then { c with low := min c.low cause } else c)
      else d.culprits ++ [⟨ch, cause, addr, cause⟩] }) s)

/-- How an answer to a DMA burst turns out. -/
inductive DmaRes where
  | good (bytes : List Byte)
  | ue
  | err
  | timeout
  deriving DecidableEq, Repr, Inhabited

/-- The cause of R298. -/
def dmaCause (k : FlightKind) : DmaRes → Nat
  | .ue => 0x44
  | .timeout => 0x43
  | _ => match k with
    | .read => 0x40
    | .write => 0x41
    | .fetch => 0x42

/-- Advance DMA_POS over the acknowledged ranges (R301). -/
def advancePos : Nat → Nat → List (Nat × Nat) → Nat
  | 0, pos, _ => pos
  | fuel + 1, pos, l =>
    match l.find? (fun x => x.1 ≤ pos && pos < x.1 + x.2) with
    | none => pos
    | some x => advancePos fuel (x.1 + x.2) l

/-- A presented burst of a channel settles (R278, R291, R297): what is read while the engine drains starts no block, and a block is
incomplete where a burst of its own fails (R294). -/
def dmaSettle (r ch id addr : Nat) (res : DmaRes) (s : State) : State :=
  let c := chan s r ch
  match c.flights.find? (fun f => f.id == id) with
  | none => s
  | some f =>
    let s := modChan r ch (fun c => { c with flights := c.flights.filter (fun x => x.id != id) }) s
    match res with
    | .good bytes =>
      let live := c.state == .active
      match f.kind with
      | .read =>
        if live && f.block == c.block then
          modChan r ch (fun c => { c with buf := c.buf ++ [(f.pos, orderUnits f.desc f.width bytes)] }) s
        else s
      | .fetch =>
        if live && !(region s r).dma.draining then
          blockStart r ch addr ((chunks 4 (bytes.take 60)).map (fun w => BitVec.ofNat 32 (leNat w))) (crcOk bytes 64) s
        else s
      | .write =>
        if f.block == c.block then
          modChan r ch (fun c =>
            let a := c.acked ++ [(f.pos, f.len)]
            let p := advancePos a.length c.pos a
            { c with pos := p, acked := a.filter (fun x => p < x.1 + x.2) }) s
        else s
    | _ =>
      dmaFail r ch (dmaCause f.kind res) addr
        (modChan r ch (fun c => { c with badBlocks := if f.kind == .fetch then c.badBlocks else c.badBlocks ++ [f.block] }) s)

/-- What a stop does to one channel (R297 table): the run of a culprit ends BUS_STOP, also where another outcome had been decided, that of
DISABLE apart (R295). DEDUCED, unsafe (notes/assumptions/146.md). -/
def stopChan (r : Nat) (culprits : List Culprit) (ch : Nat) (s : State) : State :=
  let c := chan s r ch
  match culprits.find? (fun x => x.chan == ch) with
  | some x =>
    if c.state == .idle || c.outcome == some (0x11, 0x21) then s
    else decide' r ch 0x12 x.low (modChan r ch (fun c => { c with outcome := none }) s)
  | none =>
    if c.state != .active then s
    else match c.node with
      | none => decide' r ch 0x12 0x48 s
      | some n =>
        modRegion r (fun x => { x with requeued := x.requeued ++ [n] })
          (modChan r ch (fun c => { c with state := .idle, running := false, fetchAt := none, node := none }) s)

/-- DMA_ENGINE_STOPPED (R297 steps 3 and 4): every presented burst has settled.
DESIGN CHOICE, unsafe (notes/assumptions/131.md). DEDUCED, unsafe (notes/assumptions/132.md). -/
def execDmaEngineStopped (r : Nat) (s : State) : Answer := inRun s <|
  let d := (region s r).dma
  if s.regions.length ≤ r || !d.draining || d.chans.any (fun c => !c.flights.isEmpty) then .next s
  else
    let s := modDma r (fun d =>
      let d := match d.culprits with
        | [] => d
        | x :: _ => { d with errCh := x.chan, errCause := x.cause, errAddr := x.addr }
      { d with stops := cntSat d.stops 1, draining := false, stopped := true, culprits := [] }) s
    let s := d.culprits.foldl (fun s x => logEvent 0x20 1 r (0x100 + x.chan) noCtx x.cause x.addr s) s
    .next ((List.range 32).foldl (fun s ch => stopChan r d.culprits ch s) s)

def allIdle (d : Dma) : Bool := d.chans.all (fun c => c.state == .idle)

/-- DMA_AUTO_RESUME (R297 step 5). -/
def execDmaAutoResume (r : Nat) (s : State) : Answer := inRun s <|
  let d := (region s r).dma
  if d.stopped && d.autoResume && allIdle d then .next (modDma r (fun d => { d with stopped := false }) s) else .next s

/-- The block of registers of a region, whose accesses a park turns away (R383). -/
def regionAck (s : State) (r : Nat) : Bool := r < s.regions.length && (region s r).parkAck

/-- The effect of DMA_ENG_CTRL.RESUME (R297 step 5, R300). -/
def dmaResume (r : Nat) (s : State) : State :=
  let d := (region s r).dma
  modDma r (fun x => if d.stopped && allIdle d then { x with stopped := false } else { x with seqErr := true }) s

/-- DMA_RESUME (R297 step 5, R383). -/
def execDmaResume (r : Nat) (s : State) : Answer := inRun s <|
  if regionAck s r then .next (emit (.cpAck true) s) else .next (dmaResume r (emit (.cpAck false) s))

/-! ## Direct use (R275, R276, R292, R295) -/

/-- The effect of a write of DMA_OWN (R276): a write that meets the bit of a channel that is not IDLE sets OWN_DROP. -/
def dmaOwn (r : Nat) (data : Word) (s : State) : State :=
  let idle := (List.range 32).foldl (fun m c =>
    if (chan s r c).state == .idle then setBit m c else m) (0 : Word)
  modDma r (fun d => { d with
    own := (d.own &&& ~~~ idle) ||| (data &&& idle)
    ownDrop := d.ownDrop || ~~~ idle != 0 }) s

/-- DMA_OWN_WRITE (R276, R383). -/
def execDmaOwnWrite (r : Nat) (data : Word) (s : State) : Answer := inRun s <|
  if regionAck s r then .next (emit (.cpAck true) s) else .next (dmaOwn r data (emit (.cpAck false) s))

def chanSeqErr (r ch : Nat) (s : State) : State := modChan r ch (fun c => { c with seqErr := true }) s

/-- A write of DMA_CTRL (R275, R292, R295, R357, R380). DISABLE ends a run that is still ACTIVE while the engine drains CANCELLED, also that
of a culprit. DEDUCED, unsafe (notes/assumptions/119.md). -/
def dmaCtrl (r ch : Nat) (start disable : Bool) (s : State) : State :=
  let c := chan s r ch
  let rg := region s r
  let direct := bit rg.dma.own.toNat ch
  if !start && !disable then s
  else if !direct || (start && disable) then chanSeqErr r ch s
  else if start then
    if c.state != .idle || rg.dma.stopped || rg.dma.draining || rg.parkReq || rg.badChans.contains ch then
      chanSeqErr r ch s
    else
      blockStart r ch 0 c.regs true (modChan r ch (fun c => runStart c none (bits c.cfg.toNat 8 3)) s)
  else if c.state != .active then chanSeqErr r ch s
  else drainRegion r (decide' r ch 0x11 0x21 s)

/-- DMA_START (R292). -/
def execDmaStart (r ch : Nat) (s : State) : Answer := inRun s <|
  if regionAck s r then .next (emit (.cpAck true) s)
  else .next (dmaCtrl r ch true false (emit (.cpAck false) s))

/-- DMA_DISABLE (R295). -/
def execDmaDisable (r ch : Nat) (s : State) : Answer := inRun s <|
  if regionAck s r then .next (emit (.cpAck true) s)
  else .next (dmaCtrl r ch false true (emit (.cpAck false) s))

end Sys2Proof.Machine
end

