-- ==== Sys2Proof/Machine/Link.lean ====
section
/-! DEFINITION. The link codec: sessions, frames, loss and the amax exchange (11_link_codec.md). -/

namespace Sys2Proof.Machine

/-- Whether a port is built (R10). -/
def lnkBuilt (s : State) (p : Nat) : Bool := p < s.lnk.length

def LinkPort.ready (l : LinkPort) : Bool := !l.inReset && !l.lost && !l.failed

/-! ## Frames (R307 to R309) -/

/-- Bytes of a DATA payload of n furrows (R309). -/
def payloadLen (wide : Bool) (fl w n : Nat) : Nat :=
  if wide then n * fl * 4 else 8 * ceilDiv n 8 + n * furrowBytes fl w

/-- The bytes of a frame with its SEQ and CRC (R307). -/
def frameBytes (f : TxFrame) (seq : Word) : List Byte :=
  let hdr := [5, BitVec.ofNat 8 f.kind] ++ leBytes 2 f.tag ++ leBytes 4 seq.toNat ++ leBytes 4 f.first ++
    leBytes 4 f.tile ++ leBytes 2 f.nfur ++ leBytes 1 f.hops ++ leBytes 1 (2 * b2n f.wide + b2n f.last) ++
    leBytes 4 f.t.toNat ++ leBytes 4 f.cbsum.toNat
  hdr ++ leBytes 4 (crc32c (hdr ++ f.payload)) ++ f.payload

/-! ## Sending (R310, R311) -/

/-- Put a frame on the send side of a port, or discard it while the partner is lost (R311, R316, R317). -/
def sendFrame (q : Nat) (f : TxFrame) (s : State) : State :=
  let l := linkPort s q
  if l.inReset then s
  else if l.lost then modLnk q (fun l => { l with txDrop := cntSat l.txDrop 1 }) s
  else modLnk q (fun l => { l with txq := l.txq ++ [f] }) s

/-- The port a session's frames leave by (R302). -/
def txPort (p : Nat) (x : Session) : Nat := if x.mode = 0 then p else x.fwdPort

/-- The largest magnitude of the elements that are not poison (R310). -/
def frameAmax (fs : List (List Val)) : Q :=
  (fs.flatten).foldl (fun a v => match v.q with
    | some x => a.max x.abs
    | none => a) Q.zero

/-- Encode the gathered furrows as one frame (R309, R310); the session's poison and saturation counts follow. -/
def encodeFrame (p i : Nat) (last : Bool) (s : State) : State :=
  let x := session s p i
  let fs := x.enc
  let n := fs.length
  let fl := x.fl
  let mk := fun (t : Word) (payload : List Byte) => (⟨p, i, 0, x.txTag, x.encFirst, x.tile.toNat, n,
    if x.mode = 0 then 0 else min (x.encHops + 1) 255, x.wide, last, t, x.cbsum, payload⟩ : TxFrame)
  let after := fun (pois sat : Nat) => modSess p i (fun x => { x with
    enc := [], encFirst := x.encFirst + n
    poisfur := cntSat x.poisfur pois, satcnt := cntSat x.satcnt sat, sat := x.sat || 0 < sat })
  if x.wide then
    let pay := fs.flatMap (fun f => (f.1 ++ List.replicate (fl - f.1.length) 0).flatMap (fun v =>
      leBytes 4 (if Val.isPoison v then poison.toNat else v.toNat)))
    let pois := (fs.filter (fun f => !f.2 && f.1.any Val.isPoison)).length
    sendFrame (txPort p x) (mk 0x3F800000 pay) (after pois 0 s)
  else
    let v := x.snap.line
    let t := frameScale (frameAmax (fs.map (·.1))) ((lineTop v).max (lineBot v))
    let ps := mkPass x.snap .ue5m3 fl t 0 none none
    let ds := fs.map (fun f =>
      if x.snapBad then poisonFurrow ps (f.1.map (fun v => (v, false)))
      else drillFurrow ps (f.1.map (fun v => (v, false))) (fun j => (0, j)))
    let scales := ds.map (fun d => BitVec.ofNat 8 d.byte)
    let pay := scales ++ zeros (8 * ceilDiv n 8 - n) ++ ds.flatMap (fun d => packCodes x.snap.width d.codes)
    let pois := ((fs.zip ds).filter (fun f => !f.1.2 && f.2.byte == 0xFF)).length
    sendFrame (txPort p x) (mk t pay) (after pois (sumNat (ds.map (·.sats))) s)

/-- A furrow joins the frame being gathered; the frame leaves when it is full or ends the tile (R309). -/
def gatherFurrow (p i : Nat) (vals : List Val) (counted last : Bool) (s : State) : State :=
  let s := modSess p i (fun x => { x with enc := x.enc ++ [(vals, counted)] }) s
  let x := session s p i
  if last || x.fpf ≤ x.enc.length then encodeFrame p i last s else s

/-- A furrow of the tile is complete; at the tile's end the tile counter advances (R314). -/
def furrowDone (p i : Nat) (s : State) : State :=
  modSess p i (fun x =>
    if x.tileFurrows ≤ x.doneF + 1 then
      { x with doneF := 0, encFirst := 0, tile := cntMod x.tile 1, tiles := cntMod x.tiles 1 }
    else { x with doneF := x.doneF + 1 }) s

/-- One more furrow of a session is lost; `counted`: it has been counted as poisoned already (R314, R329). -/
def Session.loseOne (x : Session) (counted : Bool) : Session :=
  { x with loss := true, lostfur := cntSat x.lostfur 1, poisfur := cntSat x.poisfur (b2n (!counted)) }

/-- The local elements of a furrow are used: the first `n`, and with them whether a word in error held some of them (R329). -/
def Session.passLocal (x : Session) (n : Nat) : Session :=
  { x with loc := x.loc.drop n, locLost := (x.locLost.filter (0 < ·)).map (· - 1) }

/-- Take local elements of a SEND session furrow by furrow (R302, R310). A furrow of which a word in error held elements is lost: it is
sent poisoned (R329). DEDUCED, unsafe (notes/assumptions/103.md). -/
def sendWork (p i : Nat) : Nat → State → State
  | 0, s => s
  | fuel + 1, s =>
    let x := session s p i
    let n := x.furElems x.doneF
    if x.loc.length < n || n = 0 then s
    else
      let struck := x.locLost.contains 0
      let s := modSess p i (fun x => if struck then (x.passLocal n).loseOne false else x.passLocal n) s
      sendWork p i fuel (furrowDone p i
        (gatherFurrow p i (if struck then List.replicate n poison else x.loc.take n) struck (x.tileFurrows ≤ x.doneF + 1) s))

/-! ## Reducing and relaying (R313, R314) -/

/-- Deliver values on the tile-out channel, rounded to the delivery type (R304, R314). -/
def deliver (p i : Nat) (vals : List (Option Q)) (s : State) : State :=
  modSess p i (fun x =>
    if x.deliv then { x with dq := x.dq ++ vals.map (fun v => match v with
      | none => poison
      | some q => (roundVal x.delivType q).1) } else x) s

/-- One furrow of a REDUCE session: acc = fp32(v + p), forwarded and delivered (R314). -/
def reduceFurrow (p i : Nat) (vs : List (Option Q)) (ps : List Val) (counted : Bool) (s : State) : State :=
  let x := session s p i
  let acc := List.zipWith (fun v l => match v, Val.q l with
    | some v, some l => fp32P (v.add l)
    | _, _ => poison) vs ps
  let s := if x.fwd then gatherFurrow p i acc counted (x.tileFurrows ≤ x.doneF + 1) s else s
  furrowDone p i (deliver p i (acc.map Val.q) s)

/-- Take items of a REDUCE session while their local elements have arrived; `force`: without local elements (the session is
being disarmed). No item of no furrows is left in the queue. A furrow of which a word in error held local elements is lost (R329).
DEDUCED, unsafe (notes/assumptions/103.md). The HOPS that is forwarded is that of the received furrow used last, so that it does not depend
on when local elements come (R311, R318). DEDUCED, unsafe (notes/assumptions/110.md). -/
def reduceWork (p i : Nat) (force : Bool) : Nat → State → State
  | 0, s => s
  | fuel + 1, s =>
    let x := session s p i
    let n := x.furElems x.doneF
    let few := !force && decide (x.loc.length < n)
    let use := fun (rest : List RxItem) (vs : List (Option Q)) (counted : Bool) (f : Session → Session) =>
      reduceWork p i force fuel (reduceFurrow p i vs (x.loc.take n ++ List.replicate (n - x.loc.length) poison) counted
        (modSess p i (fun x => f { x.passLocal n with rxq := rest }) s))
    match x.rxq with
    | [] => s
    | .lost 0 :: rest => reduceWork p i force fuel (modSess p i (fun x => { x with rxq := rest }) s)
    | .lost (k + 1) :: rest =>
      if few then s else use (if k = 0 then rest else .lost k :: rest) (List.replicate n none) true id
    | .fur vs bad hops :: rest =>
      if few then s
      else if x.locLost.contains 0 then use rest (List.replicate n none) true (fun y => { y with encHops := hops }.loseOne bad)
      else use rest vs bad (fun y => { y with encHops := hops })

/-- Take what a REDUCE session can. -/
def reduceAll (p i : Nat) (s : State) : State :=
  let x := session s p i
  reduceWork p i false (x.loc.length + x.rxq.length + 2) s

/-- Send frames of poisoned furrows for n lost furrows of a RELAY session, and deliver poison (R314). -/
def relayLost (p i : Nat) : Nat → State → State
  | 0, s => s
  | n + 1, s =>
    let x := session s p i
    let lastF := x.tileFurrows ≤ x.doneF + 1
    let s := modSess p i (fun x => { x with enc := x.enc ++ [([], true)] }) s
    let x' := session s p i
    let k := x'.enc.length
    let s :=
      if lastF || x.fpf ≤ k || n = 0 then
        let pay := if x.wide then (List.replicate (k * x.fl) (leBytes 4 poison.toNat)).flatten
          else List.replicate k 0xFF ++ zeros (8 * ceilDiv k 8 - k) ++
            (List.replicate k (packCodes x.snap.width (List.replicate x.fl x.snap.zeroCode))).flatten
        let f : TxFrame := ⟨p, i, 0, x.txTag, x.doneF + 1 - k, x.tile.toNat, k, min (x.encHops + 1) 255, x.wide, lastF,
          0x3F800000, x.cbsum, pay⟩
        let s := modSess p i (fun x => { x with enc := [] }) s
        if x.fwd then sendFrame (txPort p x) f s else s
      else s
    relayLost p i n (furrowDone p i (deliver p i (List.replicate (x.furElems x.doneF) none) s))

/-- n furrows of the receive side are lost, from the next furrow on (R314). -/
def loseFurrows (p i n : Nat) (s : State) : State :=
  if n = 0 then s
  else
    let s := modSess p i (fun x =>
      let at' := x.rxNext + n
      { x with
        loss := true
        lostfur := cntSat x.lostfur n
        poisfur := cntSat x.poisfur n
        rxTile := cntMod x.rxTile (at' / x.tileFurrows)
        rxNext := at' % x.tileFurrows }) s
    let x := session s p i
    if x.mode = 2 then relayLost p i n s
    else
      reduceAll p i (modSess p i (fun x => { x with rxq := x.rxq ++ [.lost n] }) s)

/-- The rest of the receive side's open tile is lost (R315, R316). -/
def loseTile (p i : Nat) (s : State) : State :=
  let x := session s p i
  loseFurrows p i (x.tileFurrows - x.rxNext) s

/-- Whether the receive side's tile is open: its first frame or first local element has been taken (R315). -/
def tileOpen (x : Session) : Bool := 0 < x.rxNext || (!x.loc.isEmpty && x.rxq.isEmpty)

/-- Tiles that open while the partner is lost are lost whole, one after another (R316). -/
def loseOpen (p i : Nat) : Nat → State → State
  | 0, s => s
  | fuel + 1, s => if (linkPort s p).lost && tileOpen (session s p i) then loseOpen p i fuel (loseTile p i s) else s

/-! ## Received frames (R312, R313) -/

/-- A DATA frame taken apart. -/
structure RxFrame where
  tag : Nat
  first : Nat
  tile : Word
  nfur : Nat
  hops : Nat
  wide : Bool
  last : Bool
  t : Word
  cbsum : Word
  payload : List Byte
  deriving DecidableEq, Repr, Inhabited

def parseFrame (b : List Byte) : RxFrame :=
  ⟨fld b 2 2, fld b 8 4, BitVec.ofNat 32 (fld b 12 4), fld b 16 2, byteAt b 18, bit (byteAt b 19) 1, bit (byteAt b 19) 0,
   BitVec.ofNat 32 (fld b 20 4), BitVec.ofNat 32 (fld b 24 4), b.drop 32⟩

/-- The exact values of furrow k of a frame, real elements only, and whether the furrow is poisoned (R313). -/
def frameFurrow (x : Session) (f : RxFrame) (k : Nat) (real : Nat) : List (Option Q) × Bool :=
  let fl := x.fl
  if f.cbsum != x.cbsum || !validScale f.t || x.snapBad then (List.replicate real none, true)
  else if f.wide then
    let vs := (List.range real).map (fun j => (readElem binary32 (fld f.payload ((k * fl + j) * 4) 4)).q)
    (vs, vs.any (·.isNone))
  else
    let sb := byteAt f.payload k
    let w := x.snap.width
    let cs := unpackCodes w fl (slice f.payload (8 * ceilDiv f.nfur 8 + k * furrowBytes fl w) (furrowBytes fl w))
    let vs := (cs.take real).map (fun c => expandQ x.snap .ue5m3 (some c) (some sb) f.t 0)
    (vs, vs.any (·.isNone))

/-- The payload cut to its furrows from `a` up to but not including `b`, bytes kept (R314). -/
def cutPayload (x : Session) (f : RxFrame) (a b : Nat) : List Byte :=
  if a = 0 && b = f.nfur then f.payload
  else if f.wide then slice f.payload (a * x.fl * 4) ((b - a) * x.fl * 4)
  else
    let k := b - a
    let fb := furrowBytes x.fl x.snap.width
    slice f.payload a k ++ zeros (8 * ceilDiv k 8 - k) ++ slice f.payload (8 * ceilDiv f.nfur 8 + a * fb) (k * fb)

/-- Use the furrows of a frame from furrow `a` of it up to but not including furrow `b` (R313, R314). -/
def useFrame (p i : Nat) (f : RxFrame) (a b : Nat) (s : State) : State :=
  let x := session s p i
  let ks := (List.range b).drop a
  let furs := ks.map (fun k => frameFurrow x f k (x.furElems (f.first + k)))
  let s := modSess p i (fun x =>
    let at' := f.first + b
    { x with
      cbsumBad := x.cbsumBad || f.cbsum != x.cbsum
      poisfur := cntSat x.poisfur (furs.filter (·.2)).length
      encHops := if x.mode = 2 then f.hops else x.encHops
      rxTile := cntMod x.rxTile (at' / x.tileFurrows)
      rxNext := at' % x.tileFurrows }) s
  if x.mode = 2 then
    let g : TxFrame := ⟨p, i, 0, x.txTag, f.first + a, f.tile.toNat, b - a, min (f.hops + 1) 255, f.wide, f.last && b == f.nfur,
      f.t, f.cbsum, cutPayload x f a b⟩
    let s := if x.fwd then sendFrame (txPort p x) g s else s
    furs.foldl (fun s v => furrowDone p i (deliver p i v.1 s)) s
  else
    reduceAll p i (modSess p i (fun x => { x with rxq := x.rxq ++ furs.map (fun v => .fur v.1 v.2 f.hops) }) s)

/-- The furrows of a frame from `a` up to `b` in runs: those that a word in error strikes, and those between them. Each run is
whether it is struck, its first furrow and the one after its last. -/
def frameRuns (struck : Nat → Bool) (a b : Nat) : List (Bool × Nat × Nat) :=
  ((List.range b).drop a).foldl (fun rs k => match rs.getLast? with
    | some r => if r.1 == struck k then rs.dropLast ++ [(r.1, r.2.1, k + 1)] else rs ++ [(struck k, k, k + 1)]
    | none => [(struck k, k, k + 1)]) []

/-- Use a frame from furrow `a` on; the furrows of which a word in error holds a part are lost (R313, R329). -/
def useRuns (p i : Nat) (f : RxFrame) (a : Nat) (struck : Nat → Bool) (s : State) : State :=
  (frameRuns struck a f.nfur).foldl (fun s r =>
    if r.1 then loseFurrows p i (r.2.2 - r.2.1) s else useFrame p i f r.2.1 r.2.2 s) s

/-- Place a frame against the current tile and the next furrow (R313); `struck` are its furrows that a word in error strikes. -/
def placeFrame (p i : Nat) (f : RxFrame) (struck : Nat → Bool) (s : State) : State :=
  let x := session s p i
  let fin := f.first + f.nfur
  if f.tile.toNat < x.rxTile.toNat || (f.tile == x.rxTile && fin ≤ x.rxNext) then
    modLnk p (fun l => { l with stale := cntSat l.stale 1 }) s
  else if f.tile == x.rxTile then
    if f.first ≤ x.rxNext then useRuns p i f (x.rxNext - f.first) struck s
    else useRuns p i f 0 struck (loseFurrows p i (f.first - x.rxNext) s)
  else
    let n := (x.tileFurrows - x.rxNext) + x.tileFurrows * (f.tile.toNat - x.rxTile.toNat - 1) + f.first
    useRuns p i f 0 struck (loseFurrows p i n s)

/-! ## The amax exchange (R319 to R321) -/

/-- What a level's registers and straps say (R320, R323). -/
structure Level where
  en : Bool
  pos : Nat
  size : Nat
  sendPort : Nat
  recvPort : Nat
  tag : Nat
  deriving DecidableEq, Repr, Inhabited

/-- Level 0 is refused (R28). -/
def agrRefused (s : State) : Bool := s.dieCountM1.toNat < s.dieIndex.toNat

def level (s : State) (l : Nat) : Level :=
  let e := s.exch
  let on := bit e.cfg0.toNat 31 && !agrRefused s
  if l = 0 then
    ⟨on, s.dieIndex.toNat, s.dieCountM1.toNat + 1, bits e.cfg0.toNat 0 5, bits e.cfg0.toNat 8 5, bits e.tag.toNat 0 16⟩
  else
    ⟨bit e.cfg1.toNat 31 && on && s.dieIndex == s.dieCountM1, bits e.pos1.toNat 0 12, bits e.cfg1.toNat 16 12 + 1, bits e.cfg1.toNat 0 5,
     bits e.cfg1.toNat 8 5, bits e.tag.toNat 16 16⟩

def modExch (f : Exchange → Exchange) (s : State) : State := { s with exch := f s.exch }
def agrDrop (s : State) : State := modExch (fun e => { e with drop := true }) s

/-- The context of a domain, none for an unknown one (R321). -/
def domainCtx (s : State) (d : Nat) : Option Nat :=
  if d = 0xFFFF then none else firstIdx (fun x : BitVec 16 => x.toNat == d) s.lnkDom

/-- Queue an entry for a level (R321). -/
def agrSend (k : AgrKey) (value phase : Nat) (s : State) : State :=
  modExch (fun e => { e with tx := e.tx ++ [⟨k, value, phase⟩] }) s

def agrClose (k : AgrKey) (s : State) : State := modExch (fun e => { e with opn := e.opn.filter (fun o => o.key != k) }) s
def agrOpenOf (s : State) (k : AgrKey) : Option AgrOpen := s.exch.opn.find? (fun o => o.key == k)
/-- A member's own value opens a key of which no collect entry waits. -/
def agrOpenNew (k : AgrKey) (x : Nat) (s : State) : State := modExch (fun e => { e with
  opn := e.opn ++ [⟨k, x, false⟩], collected := e.collected.filter (fun z => z != k) }) s

/-- The agreed value is handed to the tracker of the domain's context (R148, R320 step 3). -/
def agrHand (k : AgrKey) (v : Nat) (s : State) : State :=
  match domainCtx s k.domain with
  | none => s
  | some c => modExch (fun e => { e with
      arrivals := e.arrivals ++ [⟨c, k.stream, k.step, v⟩], doneCount := cntMod e.doneCount 1 }) s

/-- The level-0 leader begins the distribute of its package (R320 step 3). -/
def distribute0 (k : AgrKey) (v : Nat) (s : State) : State :=
  let k0 := { k with level := 0 }
  let s := agrHand k0 v (agrClose k0 s)
  if (level s 0).size = 1 then s else agrSend k0 v 1 s

/-- The leader of level 1 has its result (R320). -/
def distribute1 (k : AgrKey) (v : Nat) (s : State) : State :=
  let s := agrClose k s
  distribute0 k v (if (level s 1).size = 1 then s else agrSend k v 1 s)

/-- A level-1 member enters its own value (R320 steps 1 and 2). -/
def collect1 (k : AgrKey) (x : Nat) (s : State) : State :=
  let lv := level s 1
  if lv.size = 1 then distribute1 k x s
  else if lv.pos = 0 then
    agrSend k x 0 (modExch (fun e => { e with opn := e.opn ++ [⟨k, x, true⟩] }) s)
  else match s.exch.buf.find? (fun y => y.key == k) with
    | none => agrOpenNew k x s
    | some y =>
      let s := modExch (fun e => { e with buf := e.buf.filter (fun z => z.key != k) }) s
      let m := max x y.value
      if lv.pos + 1 = lv.size then distribute1 k m s
      else agrSend k m 0 (modExch (fun e => { e with opn := e.opn ++ [⟨k, m, true⟩] }) s)

/-- The level-0 leader has M: it enters level 1 where that is enabled, else M is the agreed value (R320 step 2). -/
def leader0 (k : AgrKey) (m : Nat) (s : State) : State :=
  if (level s 1).en then
    collect1 { k with level := 1 } m (modExch (fun e => { e with
      opn := e.opn.filter (fun o => o.key != k) ++ [⟨k, m, true⟩] }) s)
  else distribute0 k m s

/-- A stream's local entry joins its key (R147, R320 step 1). -/
def agrLocalIn (c stream : Nat) (step : Word) (x : Nat) (s : State) : State :=
  let lv := level s 0
  let d := (s.lnkDom.getD c 0xFFFF).toNat
  let k : AgrKey := ⟨d, stream, step, 0⟩
  if d = 0xFFFF || !lv.en || (agrOpenOf s k).isSome then s
  else if lv.size = 1 then leader0 k x s
  else if lv.pos = 0 then
    agrSend k x 0 (modExch (fun e => { e with opn := e.opn ++ [⟨k, x, true⟩] }) s)
  else match s.exch.buf.find? (fun y => y.key == k) with
    | none => agrOpenNew k x s
    | some y =>
      let s := modExch (fun e => { e with buf := e.buf.filter (fun z => z.key != k) }) s
      let m := max x y.value
      if lv.pos + 1 = lv.size then leader0 k m s
      else agrSend k m 0 (modExch (fun e => { e with opn := e.opn ++ [⟨k, m, true⟩] }) s)

/-- LNK_AGR_STAT.BUF_FULL (R321): the entries that passed self-test are taken (R357). -/
def agrFull (s : State) : Bool := 4096 - s.exch.bad.length ≤ s.exch.buf.length

/-- A collect entry is taken for a key: it is folded into the member's own value where that has been entered, else it waits. A second one
is discarded, also after its key has closed (R320, R321). DEDUCED, unsafe (notes/assumptions/133.md). -/
def agrCollect (e : AgrEntry) (s : State) : State :=
  let k := e.key
  let lv := level s k.level
  let took := modExch (fun x => { x with collected := x.collected ++ [k] }) s
  match agrOpenOf s k with
  | some o =>
    if o.sent then agrDrop s
    else
      let m := max o.x e.value
      if lv.pos + 1 = lv.size then
        if k.level = 0 then leader0 k m (agrClose k took) else distribute1 k m took
      else agrSend k m 0 (modExch (fun x => { x with
        opn := x.opn.map (fun z => if z.key = k then ⟨k, m, true⟩ else z) }) took)
  | none =>
    if lv.pos = 0 || s.exch.collected.contains k then agrDrop s
    else modExch (fun x => { x with buf := x.buf ++ [e] }) took

/-- An entry arrives in an AMAX frame (R320, R321): its own LEVEL says what it is for. A distribute entry is handed to the tracker and
forwarded also where its key is not open here. DEDUCED, unsafe (notes/assumptions/104.md). -/
def agrEntry (e : AgrEntry) (s : State) : State :=
  let k := e.key
  let lv := level s k.level
  if 1 < e.phase || 1 < k.level || !lv.en || (domainCtx s k.domain).isNone then agrDrop s
  else if e.phase = 0 then agrCollect e s
  else if lv.pos + 1 = lv.size then agrDrop s
  else
    let s := if lv.pos + 2 = lv.size then s else agrSend k e.value 1 s
    if k.level = 0 then agrHand k e.value (agrClose k s) else distribute0 k e.value (agrClose k s)

/-- The entries of a frame are taken one by one while the agreement buffer is not full; the others wait (R321). -/
def agrPump : Nat → State → State
  | 0, s => s
  | fuel + 1, s =>
    match s.exch.rest with
    | [] => s
    | e :: rest => if agrFull s then s else agrPump fuel (agrEntry e (modExch (fun x => { x with rest := rest }) s))

/-- The entries that wait go on after the buffer has changed. -/
def agrGo (s : State) : State := agrPump s.exch.rest.length s

/-- The tracker hands the exchange a stream's local entry at commit (R147, R320 step 1). -/
def agrLocal (c stream : Nat) (step : Word) (x : Nat) (s : State) : State := agrGo (agrLocalIn c stream step x s)

/-- The 16 bytes of an entry (R319). -/
def agrBytes (e : AgrEntry) : List Byte :=
  leBytes 2 e.key.domain ++ leBytes 2 e.key.stream ++ leBytes 4 e.key.step.toNat ++ leBytes 2 e.value ++
    leBytes 1 e.phase ++ leBytes 1 e.key.level ++ zeros 4

def agrParse (b : List Byte) : AgrEntry :=
  ⟨⟨fld b 0 2, fld b 2 2, BitVec.ofNat 32 (fld b 4 4), byteAt b 11⟩, fld b 8 2, byteAt b 10⟩

/-! ## Frames arriving (R312) -/

/-- A frame is discarded under R312 and counted. -/
def frameBad (p : Nat) (unknown : Bool) (s : State) : State :=
  modLnk p (fun l =>
    if unknown then { l with badFrame := true, unk := cntSat l.unk 1 }
    else { l with badFrame := true, bad := cntSat l.bad 1 }) s

/-- Delivered bytes that no swath has taken may fill 32 beats of 256 bytes (R381); then the receive side is held (R394). -/
def dqFull (x : Session) : Bool := 8192 ≤ x.dq.length * wideSize x.delivType

/-- Whether the receive channel of a port is held (R313, R321, R394). -/
def rxHeld (s : State) (p : Nat) : Bool :=
  (linkPort s p).sessions.any (fun x => x.state != .idle &&
    (dqFull x || x.rxq.any (fun r => match r with
      | .fur _ _ _ => true
      | .lost _ => false))) ||
  (agrFull s && (List.range 2).any (fun l => (level s l).en && (level s l).recvPort == p))

/-- The armed receiving session with a tag (R305, R312). -/
def sessOf (l : LinkPort) (tag : Nat) : Option Nat :=
  firstIdx (fun x : Session => x.receives && x.rxTag == tag) l.sessions

/-- Check a frame in the order of R312 and place it. -/
def takeFrame (p : Nat) (b : List Byte) (err : Bool) (struck : Nat → Bool) (s : State) : State :=
  let f := parseFrame b
  let kind := byteAt b 1
  let lenOk := match sessOf (linkPort s p) f.tag with
    | some i =>
      let x := session s p i
      kind != 0 || b.length == 32 + payloadLen f.wide x.fl x.snap.width f.nfur
    | none => true
  if err || b.length < 32 || byteAt b 0 != 5 || 1 < kind || 3 < byteAt b 19 then frameBad p false s
  else if !lenOk || (kind == 1 && b.length != 32 + 16 * f.nfur) then frameBad p false s
  else if fld b 28 4 != crc32c (b.take 28 ++ b.drop 32) then frameBad p false s
  else if kind = 1 then
    if (List.range 2).any (fun l => (level s l).en && (level s l).recvPort == p && (level s l).tag == f.tag) then
      agrGo (modExch (fun e => { e with rest := e.rest ++ (chunks 16 f.payload).map agrParse }) s)
    else frameBad p true s
  else match sessOf (linkPort s p) f.tag with
    | none => frameBad p true s
    | some i =>
      let x := session s p i
      if f.wide != x.wide || x.tileFurrows < f.first + f.nfur then frameBad p false s else placeFrame p i f struck s

/-! ## Arming and disarming (R305, R306) -/

/-- The bytes of a snapshot (R305). -/
def snapBytes (sd : Side) : List Byte := leBytes 4 sd.desc.toNat ++ sd.examined.flatMap (fun w => leBytes 4 w.toNat)

/-- The bits of LNK_S_CFG and LNK_S_FMT that are not reserved (R325). -/
def sessCfgBits : Word := 0xF81F0303
def sessFmtBits : Word := 0x0FFFFFFF

/-- The first reason that refuses an ARM, 0 for none (R305). A reserved bit counts as set where the last write of the register gave it as 1.
DEDUCED, unsafe (notes/assumptions/111.md). -/
def armError (s : State) (p i : Nat) : Nat :=
  let l := linkPort s p
  let x := session s p i
  let f := x.fmtw
  let b := bank s f.bank
  if x.mode = 3 || x.cfg &&& ~~~ sessCfgBits != 0 || x.fmt &&& ~~~ sessFmtBits != 0 then 1
  else if (if x.wide then f.raw &&& 0xFDFF != 0 else f.scaleCode != 1 || f.axis || f.bare || f.rsv != 0) then 2
  else if !x.wide && !b.ready then 3
  else if x.fpf = 0 || 8192 < payloadLen x.wide x.fl b.liveSide.width x.fpf then 4
  else if x.elems = 0 || (x.deliv && (x.dcols = 0 || x.elems.toNat % x.dcols.toNat != 0)) then 5
  else if (x.fwd && s.build.linkPorts ≤ x.fwdPort) || (x.mode != 0 && !x.fwd && !x.deliv) then 6
  else if x.mode != 0 && (l.sessions.zipIdx).any (fun y => y.2 != i && y.1.receives && y.1.rxTag == x.rxTag) then 7
  else if !l.ready then 8
  else 0

/-- A session is armed (R305). -/
def armSession (s : State) (x : Session) : Session :=
  let sd := (bank s x.fmtw.bank).liveSide
  { x with
    state := .armed
    armErr := 0
    snap := if x.wide then Side.empty else sd
    snapBad := false
    cbsum := if x.wide then 0 else BitVec.ofNat 32 (crc32c (snapBytes sd))
    lostfur := 0
    satcnt := 0
    poisfur := 0
    tiles := 0
    seq := 0
    rxTile := x.tile
    rxNext := 0
    rxq := []
    doneF := 0
    loc := []
    locLost := []
    enc := []
    encFirst := 0
    encHops := 0
    dq := []
    dqPos := 0 }

/-- End an armed session: its open tile ends as lost (R306). -/
def disarmSession (p i : Nat) (s : State) : State :=
  let x := session s p i
  let s :=
    if x.mode = 0 then
      modSess p i (fun x => { x with
        loss := x.loss || !x.loc.isEmpty || !x.enc.isEmpty || 0 < x.doneF, loc := [], locLost := [], enc := [] }) s
    else
      let s := if tileOpen x then loseTile p i s else s
      let y := session s p i
      let n := sumNat (y.rxq.map (fun r => match r with
        | .lost n => n + 1
        | .fur _ _ _ => 1))
      modSess p i (fun x => { x with loc := [], locLost := [], rxq := [], enc := [] }) (reduceWork p i true n s)
  modSess p i (fun x => { x with state := .ending }) s

/-- A write of LNK_S_CTRL (R306). -/
def sessCtrl (p i : Nat) (arm disarm : Bool) (s : State) : State :=
  let x := session s p i
  if !arm && !disarm then s
  else if arm && disarm then modSess p i (fun x => { x with seqErr := true }) s
  else if arm then
    if x.state != .idle then modSess p i (fun x => { x with seqErr := true }) s
    else
      let e := armError s p i
      if e = 0 then modSess p i (armSession s) s else modSess p i (fun x => { x with armErr := e }) s
  else if x.state == .idle then modSess p i (fun x => { x with seqErr := true }) s
  else if x.state == .armed then disarmSession p i s
  else s

/-! ## Meanings -/

def sessBuilt (s : State) (p i : Nat) : Bool := lnkBuilt s p && i < 16

/-- LNK_ARM (R305, R306). -/
def execLnkArm (p i : Nat) (s : State) : Answer := inRun s <|
  let s := emit (.cpAck false) s
  .next (if sessBuilt s p i then sessCtrl p i true false s else s)

/-- LNK_DISARM (R306). -/
def execLnkDisarm (p i : Nat) (s : State) : Answer := inRun s <|
  let s := emit (.cpAck false) s
  .next (if sessBuilt s p i then sessCtrl p i false true s else s)

/-- LNK_SESSION_IDLE (R306): the last delivery and the last forwarded frame have left. -/
def execLnkSessionIdle (p i : Nat) (s : State) : Answer := inRun s <|
  let x := session s p i
  if sessBuilt s p i && x.state == .ending && x.dq.isEmpty &&
      !s.lnk.any (fun l => l.txq.any (fun f => f.port == p && f.session == i)) then
    .next (modSess p i (fun x => { x with state := .idle }) s)
  else .next s

/-- The elements in the bytes of a chunk, in the session's type (R303). -/
def chunkVals (x : Session) (bs : List Byte) : List Val :=
  (chunks (wideSize x.inType) bs).map (fun e => readElem (wideFmt x.inType) (leNat e))

/-- LNK_LOCAL_ELEMENTS (R303): the oldest chunk of the tile-in channel is taken, or discarded with NOSESS.
DEDUCED, unsafe (notes/assumptions/97.md). -/
def execLnkLocalElements (p : Nat) (s : State) : Answer := inRun s <|
  match (linkPort s p).tileIn with
  | [] => .next s
  | c :: rest =>
    let s := modLnk p (fun l => { l with tileIn := rest }) s
    let x := session s p c.session
    if x.state != .armed || x.mode = 2 then .next (modLnk p (fun l => { l with noSess := true }) s)
    else
      let s := modSess p c.session (fun x => { x with loc := x.loc ++ chunkVals x c.bytes }) s
      let fuel := (session s p c.session).loc.length + 1
      -- what has been received or lost uses its local elements first; those that are left open the next tile (R316)
      if x.mode = 0 then .next (sendWork p c.session fuel s)
      else
        .next (loseOpen p c.session (fuel + 1) (reduceAll p c.session s))

/-- The place of a frame's sender in the rotation of a send channel (R311). DEDUCED, unsafe (notes/assumptions/27.md). -/
def txPlace (f : TxFrame) : Nat := f.session * 32 + f.port
/-- The place of a level of the exchange in the rotation. DEDUCED, unsafe (notes/assumptions/27.md). -/
def agrPlace (l : Nat) : Nat := 16 * 32 + l

/-- The places with something to send on a port. -/
def txPlaces (s : State) (p : Nat) : List Nat :=
  (linkPort s p).txq.map txPlace ++
  ((List.range 2).filter (fun l => (level s l).en && (level s l).sendPort == p &&
    s.exch.tx.any (fun e => e.key.level == l))).map agrPlace

/-- The next place in turn: the lowest above the one served last, else the lowest (R311). DEDUCED, unsafe (notes/assumptions/27.md). -/
def nextPlace (last : Nat) (ps : List Nat) : Option Nat :=
  match (sortNats ps).find? (fun x => last < x) with
  | some x => some x
  | none => (sortNats ps).head?

/-- LNK_FRAME_TRANSMIT (R311, R321). -/
def execLnkFrameTransmit (p : Nat) (s : State) : Answer := inRun s <|
  let l := linkPort s p
  if !lnkBuilt s p || l.inReset || l.lost then .next s
  else match nextPlace l.lastServed (txPlaces s p) with
    | none => .next s
    | some pl =>
      let s := modLnk p (fun l => { l with lastServed := pl, txFrames := cntMod l.txFrames 1 }) s
      if 512 ≤ pl then
        let lv := pl - 512
        let es := (s.exch.tx.filter (fun e => e.key.level == lv)).take 512
        let f : TxFrame := ⟨p, 0, 1, (level s lv).tag, 0, 0, es.length, 0, false, false, 0, 0, es.flatMap agrBytes⟩
        .next (emit (.lnkFrame p (frameBytes f s.exch.seq)) (modExch (fun e => { e with
          tx := e.tx.filter (fun x => x.key.level != lv) ++ (e.tx.filter (fun x => x.key.level == lv)).drop 512
          sentCount := cntMod e.sentCount es.length
          seq := cntMod e.seq 1 }) s))
      else match l.txq.find? (fun f => txPlace f == pl) with
        | none => .next s
        | some f =>
          let seq := (session s f.port f.session).seq
          .next (emit (.lnkFrame p (frameBytes f seq))
            (modSess f.port f.session (fun x => { x with seq := cntMod x.seq 1 })
              (modLnk p (fun l => { l with txq := l.txq.erase f }) s)))

/-- The furrows `at'` to `at' + n - 1` of those that wait in a session's receive queue are lost. -/
def strikeHeld : Nat → Nat → List RxItem → List RxItem
  | _, _, [] => []
  | at', n, .lost k :: q => .lost k :: strikeHeld at' n q
  | 0, 0, q => q
  | 0, n + 1, .fur _ _ _ :: q => .lost 1 :: strikeHeld 0 n q
  | at' + 1, n, .fur vs bad hops :: q => .fur vs bad hops :: strikeHeld at' n q

/-- Furrows that wait, and those of them that have been counted as poisoned. -/
def heldFurrows (q : List RxItem) : Nat := (q.filter (fun r => match r with | .fur _ _ _ => true | .lost _ => false)).length
def heldPoisoned (q : List RxItem) : Nat := (q.filter (fun r => match r with | .fur _ b _ => b | .lost _ => false)).length

/-- The receive queue of a session loses furrows: each is counted as lost, and as poisoned where it was not counted yet (R314). -/
def loseHeld (f : List RxItem → List RxItem) (x : Session) : Session :=
  let q := f x.rxq
  let n := heldFurrows x.rxq - heldFurrows q
  { x with
    rxq := q
    loss := x.loss || decide (0 < n)
    lostfur := cntSat x.lostfur n
    poisfur := cntSat x.poisfur (n - (heldPoisoned x.rxq - heldPoisoned q)) }

/-- The furrows that a session's local elements reach, counted from the next one. -/
def locFurrows (x : Session) : Nat :=
  let e := x.doneF * x.fl + x.loc.length
  e / x.elems.toNat * x.tileFurrows + ceilDiv (e % x.elems.toNat) x.fl - x.doneF

/-- Local elements of furrows `at'` to `at' + n - 1` are in error: these furrows are to be lost. -/
def strikeLocal (at' n : Nat) (x : Session) : Session :=
  let l := ((List.range (min (at' + n) (locFurrows x))).drop at').filter (fun k => !x.locLost.contains k)
  { x with locLost := x.locLost ++ l, loss := x.loss || !l.isEmpty }

/-- Furrows `at'` to `at' + n - 1` of those gathered for the next frame are lost: they are sent poisoned. -/
def strikeGathered (at' n : Nat) (x : Session) : Session :=
  let hit := fun (k : Nat) => decide (at' ≤ k) && decide (k < at' + n)
  let old := (x.enc.zipIdx).filter (fun f => hit f.2)
  { x with
    enc := (x.enc.zipIdx).map (fun f => if hit f.2 then (f.1.1.map (fun _ => poison), true) else f.1)
    loss := x.loss || !old.isEmpty
    lostfur := cntSat x.lostfur old.length
    poisfur := cntSat x.poisfur (old.filter (fun f => !f.1.2)).length }

/-- The furrows of a frame that is to be sent. -/
def TxFrame.rx (f : TxFrame) : RxFrame :=
  ⟨f.tag, f.first, BitVec.ofNat 32 f.tile, f.nfur, f.hops, f.wide, f.last, f.t, f.cbsum, f.payload⟩

/-- The furrows of a frame that a word in error reaches are replaced by poisoned ones, as R314 sends lost furrows. -/
def strikePayload (x : Session) (f : TxFrame) (hit : Nat → Bool) : List Byte :=
  let ks := List.range f.nfur
  if f.wide then
    ks.flatMap (fun k => if hit k then (List.replicate x.fl (leBytes 4 poison.toNat)).flatten else slice f.payload (k * x.fl * 4) (x.fl * 4))
  else
    let w := x.snap.width
    let fb := furrowBytes x.fl w
    let at' := 8 * ceilDiv f.nfur 8
    ks.map (fun k => if hit k then 0xFF else BitVec.ofNat 8 (byteAt f.payload k)) ++ zeros (at' - f.nfur) ++
      ks.flatMap (fun k => if hit k then packCodes w (List.replicate x.fl x.snap.zeroCode) else slice f.payload (at' + k * fb) fb)

/-- Furrows `at'` to `at' + n - 1` of the frame at place `k` of a port's queue are lost: the session that sends it counts them, as
poisoned where they were not yet, and the frame carries them poisoned. -/
def strikeSending (p k at' n : Nat) (s : State) : State :=
  match (linkPort s p).txq[k]? with
  | none => s
  | some f =>
    let x := session s f.port f.session
    let hit := fun (j : Nat) => decide (at' ≤ j) && decide (j < at' + n)
    let js := (List.range f.nfur).filter hit
    let old := js.filter (fun j => (frameFurrow x f.rx j (x.furElems (f.first + j))).2)
    modSess f.port f.session (fun x => { x with
      loss := x.loss || !js.isEmpty
      lostfur := cntSat x.lostfur js.length
      poisfur := cntSat x.poisfur (js.length - old.length) })
      (modLnk p (fun l => { l with txq := modAt l.txq k (fun f => { f with payload := strikePayload x f hit }) }) s)

/-- The furrows that a word in error of a port's buffer reaches, where a session holds them, are lost (R314, R329). Those of a frame that
arrives are lost when it is placed. DEDUCED, unsafe (notes/assumptions/103.md). -/
def strikeBuffer (p i : Nat) (place : LinkHold) (at' n : Nat) (s : State) : State :=
  match place with
  | .arriving => s
  | .received => modSess p i (loseHeld (strikeHeld at' n)) s
  | .locals => if (session s p i).state == .armed then modSess p i (strikeLocal at' n) s else s
  | .gathered => modSess p i (strikeGathered at' n) s
  | .sending k => strikeSending p k at' n s

/-- An uncorrectable word strikes a port's buffer, a session's snapshot or the agreement buffer (R329). -/
def linkUpset (u : Upset) (s : State) : State :=
  match u with
  | .linkBuffer p i place at' n =>
    strikeBuffer p i place at' n (logEvent 0x03 3 0 p noCtx 3 0 (countUe 1 none s))
  | .snapshot p i =>
    let s := logEvent 0x03 3 0 p noCtx 3 0 (countUe 1 none s)
    modSess p i (fun x => if x.state == .idle then x else { x with snapBad := true, loss := true }) s
  | .agreement k =>
    let s := logEvent 0x03 0 0 0 noCtx 2 0 (countUe 1 none s)
    if k < s.exch.buf.length then agrGo (modExch (fun e => { e with drop := true, buf := e.buf.eraseIdx k }) s) else s
  | _ => s

/-- The furrows of an arriving frame of which a word in error of the port's buffer holds a part (R329). -/
def struckBy (p : Nat) (u : Option Upset) : Nat → Bool :=
  match u with
  | some (.linkBuffer q _ .arriving at' n) => fun k => q == p && decide (at' ≤ k) && decide (k < at' + n)
  | _ => fun _ => false

/-- LNK_FRAME_RECEIVE (R312, R316); a word in error of the port's buffer strikes furrows of the frame itself. -/
def execLnkFrameReceive (p : Nat) (b : List Byte) (err : Bool) (ue : Option Upset) (s : State) : Answer := inRun s <|
  let l := linkPort s p
  if !lnkBuilt s p || l.inReset || (rxHeld s p && !l.lost) then .next s
  else
    let s := modLnk p (fun l => { l with rxFrames := cntMod l.rxFrames 1 }) s
    let s := match ue with
      | some u => linkUpset u s
      | none => s
    if l.lost then .next s else .next (takeFrame p b err (struckBy p ue) s)

/-- LNK_FRAME_TIMEOUT (R315): the rest of the open tile is lost; not while a frame waits for its local elements.
DESIGN CHOICE, safe (notes/assumptions/4.md). -/
def execLnkFrameTimeout (p i : Nat) (s : State) : Answer := inRun s <|
  let x := session s p i
  if sessBuilt s p i && x.receives && tileOpen x && !x.rxq.any (fun r => match r with
      | .fur _ _ _ => true
      | .lost _ => false) then
    .next (loseTile p i s)
  else .next s

/-- LNK_ALIVE_TOGGLE (R316). -/
def execLnkAliveToggle (p : Nat) (s : State) : Answer := inRun s <|
  let l := linkPort s p
  if !lnkBuilt s p || l.inReset then .next s
  else .next (emit (.lnkAlive p (!l.alive)) (modLnk p (fun l => { l with alive := !l.alive }) s))

/-- The frames a session holds in the receive buffer are discarded: their furrows are lost (R316). -/
def dropHeld (p i : Nat) (s : State) : State :=
  modSess p i (loseHeld (fun q => strikeHeld 0 q.length q)) s

/-- LNK_PARTNER_LOST (R316). -/
def execLnkPartnerLost (p : Nat) (s : State) : Answer := inRun s <|
  let l := linkPort s p
  if !lnkBuilt s p || l.inReset || l.lost then .next s
  else
    let s := logEvent 0x30 3 0 p noCtx 0 0 (modLnk p (fun l => { l with
      lost := true, lostSeen := true, txq := [], txDrop := cntSat l.txDrop l.txq.length }) s)
    .next ((List.range 16).foldl (fun s i =>
      let s := dropHeld p i s
      let x := session s p i
      if x.receives then loseOpen p i (x.loc.length + 2) s else s) s)

/-- LNK_PARTNER_RETURN (R316 step 4). -/
def execLnkPartnerReturn (p : Nat) (s : State) : Answer := inRun s <|
  if lnkBuilt s p then .next (modLnk p (fun l => { l with lost := false }) s) else .next s

/-- The port's logic is reset and every session is disarmed with LOSS set (R317); the registers stay, LNK_P_STAT.LOST among them. -/
def lnkReset (p : Nat) (s : State) : State :=
  let s := (List.range 16).foldl (fun s i =>
    if (session s p i).state == .idle then s
    else modSess p i (fun x => { x with loss := true })
      (if (session s p i).state == .armed then disarmSession p i s else s)) s
  let t := modLnk p (fun l => { l with inReset := true, txq := [], alive := false }) s
  if (linkPort s p).alive then emit (.lnkAlive p false) t else t

/-- LNK_PORT_RESET_ASSERT (R317). -/
def execLnkPortResetAssert (p : Nat) (s : State) : Answer := inRun s <|
  if !lnkBuilt s p || (linkPort s p).inReset then .next s else .next (lnkReset p s)

/-- LNK_PORT_RESET_RELEASE (R355, R357): `fails` is the failing row of each store that fails its self-test. -/
def execLnkPortResetRelease (p : Nat) (fails : List Nat) (s : State) : Answer := inRun s <|
  if !lnkBuilt s p || !(linkPort s p).inReset then .next s
  else
    let s := modLnk p (fun l => { l with inReset := false, failed := l.failed || !fails.isEmpty }) s
    .next (fails.foldl (fun s row => logEvent 0x75 3 0 p noCtx (p * 2 ^ 16 + 3) row s) s)

/-- The levels at a link port's outputs between frames (R317); in a frame they hold what LNK_FRAME_TRANSMIT drives. The spec states
lnk_tx_data and lnk_tx_nbytes only in reset and while the partner is lost: `none` is a level it leaves open. -/
structure LinkPins where
  txValid : Bool
  txFirst : Bool
  txLast : Bool
  txData : Option (BitVec 512)
  txNbytes : Option (BitVec 7)
  rxReady : Bool
  alive : Bool
  deriving DecidableEq, Repr

/-- R313, R317: a port out of reset takes every frame while its partner is lost, and else while its receive channel is not held. -/
def linkPins (s : State) (p : Nat) : LinkPins :=
  let l := linkPort s p
  let quiet := l.inReset || l.lost
  ⟨false, false, false, if quiet then some 0 else none, if quiet then some 0 else none, lnkBuilt s p && !l.inReset && (l.lost || !rxHeld s p), !l.inReset && l.alive⟩

/-- The effect of LNK_P_CLR.COUNTERS (R324). -/
def lnkClear (p : Nat) (s : State) : State :=
  if lnkBuilt s p then
    modLnk p (fun l => { l with txFrames := 0, rxFrames := 0, bad := 0, unk := 0, stale := 0, txDrop := 0 }) s
  else s

/-- LNK_P_CLR_COUNTERS (R324). -/
def execLnkPClrCounters (p : Nat) (s : State) : Answer := inRun s <|
  .next (lnkClear p (emit (.cpAck false) s))

/-- The effect of a write of an exchange configuration register (R323, R28): ignored with DROP set while entries are pending. -/
def agrCfgWrite (off : Nat) (data : Word) (s : State) : State :=
  if !([0x100, 0x104, 0x108, 0x10C] : List Nat).contains off then s
  else if !s.exch.buf.isEmpty then agrDrop s
  else match off with
    | 0x100 =>
      let first := bit data.toNat 31 && agrRefused s && !s.exch.refLogged
      let s := modExch (fun e => { e with cfg0 := data &&& 0x80001F1F, refLogged := e.refLogged || first }) s
      if first then logEvent 0x31 0 0 0 noCtx (s.dieIndex.toNat * 16 + s.dieCountM1.toNat) 0 s else s
    | 0x104 => modExch (fun e => { e with cfg1 := data &&& 0x8FFF1F1F }) s
    | 0x108 => modExch (fun e => { e with pos1 := data &&& 0xFFF }) s
    | _ => modExch (fun e => { e with tag := data }) s

/-- LNK_AGR_CFG_WRITE (R323, R28). -/
def execLnkAgrCfgWrite (offset : BitVec 12) (data : Word) (s : State) : Answer := inRun s <|
  if offset.toNat % 4 != 0 then .next (emit (.cpAck true) s) else .next (agrCfgWrite offset.toNat data (emit (.cpAck false) s))

end Sys2Proof.Machine
end

