-- ==== Sys2Proof/Machine/Tracker.lean ====
section
/-! DEFINITION. The scale tracker: slots (R144 to R146), CHECK nodes (R127), COMMIT nodes (R124, R139 to R141, R161, R162), agreed
values (R147 to R149) and fallback requests (R169). -/

namespace Sys2Proof.Machine

/-! ## Addresses and steps -/

def Ctx.gran (x : Ctx) (stream : Nat) : Nat := word64 x.granLo x.granHi + 64 * stream
def Ctx.glnAddr (x : Ctx) (i : Word) : Nat := word64 x.glnBaseLo x.glnBaseHi + 128 * (i.toNat % 2 ^ x.glnSize.toNat)
def Ctx.oplan (x : Ctx) : Nat := word64 x.oplanLo x.oplanHi
/-- The step now open (R244). DEDUCED, unsafe (notes/assumptions/137.md). -/
def Ctx.openStep (x : Ctx) : Nat := (x.sctStep + 1).toNat
/-- The places of the records between GLN_COMMIT and GLN_WRITE. -/
def Ctx.ringSegs (x : Ctx) : List (Nat × Nat) :=
  (List.range (dist32 x.glnWrite x.glnCommit)).map (fun i => (x.glnAddr (x.glnCommit + BitVec.ofNat 32 i), 128))
/-- Those records as they were read; `none` where damaged (R144). -/
def Ctx.ringRecs (x : Ctx) (bs : List OByte) : List (Option GRec) :=
  ((chunks 128 bs).zipIdx).map (fun b => GRec.read (x.glnCommit + BitVec.ofNat 32 b.2) b.1)

/-! ## Records of completed nodes -/

/-- Glean records of the node being emitted that are already in the ring. -/
def EmitPh.written (n : Nat) : EmitPh → Nat
  | .idle | .score => 0
  | .glnWait k | .glnBody k | .glnBodyDone k | .glnSeq k => k
  | _ => n

/-- The records of completed nodes that are not yet in the ring, in node order: all but those which the emission of the next node has
written; a refused graph has none (R127, R241). -/
def Ctx.unwritten (x : Ctx) : List GRec :=
  let recs := x.graphs.flatMap (fun g => ((g.nodes.drop g.emitted).filter (fun n => n.stat == .completed)).flatMap (·.recs))
  match x.headNode with
  | some (_, some n) => recs.drop (x.emit.written n.recs.length)
  | _ => recs

/-! ## Slots -/

def modTrk (f : Tracker → Tracker) (s : State) : State := { s with trk := f s.trk }
def slotOf (s : State) (c stream : Nat) : Option Slot := s.trk.slots.find? (fun x => x.ctx == c && x.stream == stream)
def slotAt (s : State) (i : Nat) : Option Slot := s.trk.slots.find? (fun x => x.idx == i)
def modSlotAt (i : Nat) (f : Slot → Slot) (s : State) : State :=
  modTrk (fun t => { t with slots := t.slots.map (fun x => if x.idx = i then f x else x) }) s

/-- A correcting CHECK record. -/
def GRec.corrects (r : GRec) : Bool := r.kind == 3 && r.corrected

/-- The records of a stream that its slot holds (R144). -/
def ofStream (stream : Nat) (rs : List GRec) : List GRec := rs.filter (fun r => r.stream == stream && (r.tracked || r.corrects))

/-- Whether a node keeps the slots of the streams it names: until it has been emitted, or, once its context is switched out, until its
swaths have finished (R145, R146). DEDUCED, unsafe (notes/assumptions/94.md). -/
def Node.pins (s : State) (c : Nat) (n : Node) : Bool :=
  n.stat != .waiting && (!switchedOut s c ||
    (match n.task with
      | some t => s.swaths.any (fun w => w.task == t.id)
      | none => n.stat == .dispatched))

/-- Whether a node keeps a slot, a CHECK of all streams under way apart. -/
def nodePins (s : State) (sl : Slot) : Bool :=
  (ctxOf s sl.ctx).graphs.any (fun g => (g.nodes.drop g.emitted).any (fun n =>
    n.pins s sl.ctx && n.names.contains sl.stream))

/-- Whether a CHECK that is under way folds the stream of a slot. -/
def checkHas (s : State) (sl : Slot) : Bool :=
  match (ctxOf s sl.ctx).fold with
  | some f => f.check && f.streams.any (fun y => y.stream == sl.stream)
  | none => false

/-- Whether a slot is pinned: a node that names its stream keeps it, and a CHECK of all streams names each of those it folds (R127, R145). -/
def pinned (s : State) (sl : Slot) : Bool := nodePins s sl || checkHas s sl

/-- Where a stream of a commit stands once its recipe has been read and until its agreed value has been used (R147). -/
def CommitPh.beforeAgreed : CommitPh → Bool
  | .plan | .planList | .vector | .planWr | .zeroWr | .agree => true
  | _ => false

/-- Whether a shared stream of a commit awaits its agreed value, or is on its way to (R147, R148): its slot may have to hold the value
of the step after. -/
def agreeing (s : State) (c stream : Nat) : Bool :=
  match (ctxOf s c).fold with
  | some f => f.streams.any (fun y => y.stream == stream &&
      (y.ph == .agree || (!f.check && (Recipe.mk y.rcp).shared && y.ph.beforeAgreed)))
  | none => false

/-- Whether a slot may be evicted: it is not pinned, and it neither holds an early agreed value nor may have to hold one (R145, R148).
DESIGN CHOICE, unsafe (notes/assumptions/36.md). DEDUCED, unsafe (notes/assumptions/57.md). -/
def evictable (s : State) (sl : Slot) : Bool :=
  sl.ph == .ready && sl.early.isNone && !pinned s sl && !agreeing s sl.ctx sl.stream

/-- Whether the home region of a slot is parked, or is to be parked: no stream is loaded there (R380). -/
def slotParked (s : State) (i : Nat) : Bool :=
  (region s (s.build.homeRegion i)).parkReq || (region s (s.build.homeRegion i)).parkAck

/-- The slot that a stream may take: the lowest free one, else the lowest that may be evicted (R145, R146).
DESIGN CHOICE, unsafe (notes/assumptions/36.md). -/
def slotFor (s : State) : Option Nat :=
  match (List.range s.build.slots).find? (fun i => !s.badSlots.contains i && (slotAt s i).isNone && !slotParked s i) with
  | some i => some i
  | none => (s.trk.slots.find? (fun sl => evictable s sl && !slotParked s sl.idx)).map (·.idx)

/-- Evict the slots homed in a region that are not pinned (R380). DEDUCED, unsafe (notes/assumptions/57.md). -/
def slotsPark (r : Nat) (s : State) : State :=
  let gone := (s.trk.slots.filter (fun sl => s.build.homeRegion sl.idx == r && !pinned s sl)).map (·.idx)
  modTrk (fun t => { t with slots := t.slots.filter (fun y => !gone.contains y.idx) })
    (dropJobs (fun k => match k with
      | .slotLoad i => gone.contains i
      | _ => false) s)

/-- The slots that have unpinned, in every region that is asked to park, are evicted (R380).
DEDUCED, unsafe (notes/assumptions/57.md). -/
def slotsLeave (s : State) : State :=
  (List.range s.regions.length).foldl (fun s r => if (region s r).parkReq then slotsPark r s else s) s

def insertSlot (x : Slot) : List Slot → List Slot
  | [] => [x]
  | y :: r => if x.idx < y.idx then x :: y :: r else y :: insertSlot x r

/-- Read a slot's granary entry and the open step's records (R144). -/
def slotRead (i : Nat) (s : State) : State :=
  match slotAt s i with
  | none => s
  | some sl =>
    let x := ctxOf s sl.ctx
    startRead (.slotLoad i) ((x.gran sl.stream, 64) :: x.ringSegs)
      (modSlotAt i (fun y => { y with ph := .loading, recs := [] })
        (dropJobs (fun k => k == .slotLoad i) s))

/-- Whether the program of a task has been read, or there is none, or none that can be read (R174). -/
def Task.known (n : Node) (t : Task) : Bool := n.isFill || !t.prog.isEmpty || t.bad.isSome

/-- Whether a context waits for a slot: for a task whose first swath it would dispatch, or for a CHECK or COMMIT. -/
def slotWaits (s : State) (c : Nat) : Bool :=
  let x := ctxOf s c
  let away := fun (i : Nat) => (slotOf s c i).isNone
  x.live &&
    ((match x.fold with
      | some f => f.streams.any (fun y => y.ph == .slot && away y.stream)
      | none => false) ||
     x.graphs.any (fun g => g.nodes.any (fun n => match n.task with
      | some t => t.ph == .ready && t.known n && !t.started && (slotStreams n t.ops ⟨t.prog⟩).any away
      | none => false)))

/-- Whether a context may take a slot: in sliced mode none waits for one that comes before it (R264).
DEDUCED, unsafe (notes/assumptions/46.md). -/
def slotTurn (s : State) (c : Nat) : Bool :=
  !s.sched.sliced || (List.range s.ctxs.length).all (fun d => !slotWaits s d || sliceRank s c ≤ sliceRank s d)

/-- SLOT_LOAD (R144, R146, R264): load a stream that is not resident into the slot that can be had, where it is the context's turn. -/
def slotLoad (c stream : Nat) (s : State) : State :=
  if (slotOf s c stream).isSome || !slotTurn s c then s
  else match slotFor s with
    | none => s
    | some i => slotRead i (modTrk (fun t => { t with
        slots := insertSlot ⟨i, c, stream, .loading, GEntry.zero, [], none, none⟩ (t.slots.filter (fun y => y.idx != i)) }) s)

/-- A slot of a stream that has been loaded. -/
def slotReady (s : State) (c stream : Nat) : Option Slot :=
  match slotOf s c stream with
  | some sl => if sl.ph = .ready then some sl else none
  | none => none

/-- HISTORY_LOSS (R142): of a stream whose slot is being loaded, or that a CHECK reads for itself.
DESIGN CHOICE, unsafe (notes/assumptions/63.md). -/
def historyLoss (i : Option Nat) (c stream : Nat) (s : State) : State :=
  let s := modCtx c (fun x => { x with lostCount := cntSat x.lostCount 1, histLost := true }) s
  match i with
  | some i => logEvent 0x38 1 (s.build.homeRegion i) 0x200 c stream (ctxOf s c).openStep s
  | none => logEvent 0x38 0 0 0 c stream (ctxOf s c).openStep s

/-- The scale of the newest correcting CHECK record of the open step (R144); once the stream has committed the step it is that of no
task any more (R127, R128). -/
def newestCorr (e : GEntry) (step : Nat) (rs : List GRec) : Option Word :=
  if e.valid && e.step == step then none
  else ((rs.filter (fun r => r.corrects && r.step == step)).getLast?).map (fun r => BitVec.ofNat 32 r.t)

/-- What a stream's granary entry and the records of the open step say of it, as they were read; `sl.recs` are the records that were
written while the reading ran (R144). Whether history was lost: however many damaged words a load meets, it is one history loss (R142).
DEDUCED, unsafe (notes/assumptions/92.md). -/
def Slot.loaded (x : Ctx) (bs : List OByte) (sl : Slot) : Slot × Bool :=
  let e := GEntry.read sl.stream (bs.take 64)
  let ring := x.ringRecs (bs.drop 64)
  let loss := e.2 || ring.any Option.isNone
  let recs := ofStream sl.stream (ring.filterMap id) ++ sl.recs
  ({ sl with
    ph := .ready, entry := if loss then GEntry.zero else e.1, recs := recs
    corr := newestCorr e.1 x.openStep (recs ++ ofStream sl.stream x.unwritten) }, loss)

/-- The readings of a slot have arrived (R142, R144). -/
def slotLoaded (i : Nat) (bs : List OByte) (s : State) : State :=
  match slotAt s i with
  | none => s
  | some sl =>
    if sl.ph != .loading then s
    else
      let r := sl.loaded (ctxOf s sl.ctx) bs
      let s := modSlotAt i (fun _ => r.1) s
      if r.2 then historyLoss (some i) sl.ctx sl.stream s else s

def modFold (c : Nat) (f : Fold → Fold) (s : State) : State := modCtx c (fun x => { x with fold := x.fold.map f }) s
def modStream (c stream : Nat) (f : CommitStream → CommitStream) (s : State) : State :=
  modFold c (fun y => { y with streams := y.streams.map (fun z => if z.stream = stream then f z else z) }) s
def foldStream (s : State) (c stream : Nat) : Option CommitStream :=
  (ctxOf s c).fold.bind (fun f => f.streams.find? (fun z => z.stream == stream))

/-- A glean record has been written to the ring: the slot of its stream holds it (R144), and a CHECK that reads the stream for itself. -/
def slotTake (c : Nat) (r : GRec) (s : State) : State :=
  let s := modStream c r.stream (fun y => if y.ph = .reads then { y with recs := y.recs ++ ofStream r.stream [r] } else y) s
  match slotOf s c r.stream with
  | none => s
  | some sl => modSlotAt sl.idx (fun y => { y with recs := y.recs ++ ofStream r.stream [r] }) s

/-- GLN_COMMIT has advanced past every record in the ring: slots hold none, and those being loaded are read again. -/
def slotsCommitted (c : Nat) (s : State) : State :=
  let s := modTrk (fun t => { t with slots := t.slots.map (fun y =>
    if y.ctx = c then { y with recs := [], corr := none } else y) }) s
  (s.trk.slots.filter (fun y => y.ctx == c && y.ph == .loading)).foldl (fun s y => slotRead y.idx s) s

/-- Every slot of a context is given up. -/
def slotsDrop (c : Nat) (s : State) : State :=
  let mine := (s.trk.slots.filter (fun y => y.ctx == c)).map (·.idx)
  modTrk (fun t => { t with slots := t.slots.filter (fun y => y.ctx != c) })
    (dropJobs (fun k => match k with
      | .slotLoad i => mine.contains i
      | _ => false) s)

/-- The scale in force for a resident stream, `none` when it is cold (R128, R144). -/
def Slot.scale (sl : Slot) : Option Word := if sl.entry.valid then some (sl.corr.getD sl.entry.tnext) else none
def Slot.zero (sl : Slot) : Word := if sl.entry.valid then sl.entry.znext else 0

/-- Whether a resident stream has committed step n - 1 (R117, R155). -/
def committed (s : State) (c : Nat) (sl : Slot) (step : Nat) : Bool :=
  step ≤ (ctxOf s c).openStep || (sl.entry.valid && sl.entry.step + 1 == step)

/-- The recipe that a stream is folded under (R120, R417). -/
def foldRecipe (e : GEntry) (recs : List GRec) : Nat :=
  if e.valid then e.recipe else ((recs.head?).map (·.recipe)).getD 0

def recipeOf (s : State) (i : Nat) : Recipe := ⟨s.recipes.getD i []⟩

/-! ## Stopping a context (R332, R342) -/

def ctxEvent (c : Nat) (s : State) : State :=
  { s with sched := if c < 32 then { s.sched with event0 := setBit s.sched.event0 c }
    else { s.sched with event1 := setBit s.sched.event1 (c - 32) } }

/-- What a context had under way in the control island ends without effect. Its slots stay: those that nodes pin are pinned on (R145),
the streams of a CHECK that was under way by the names its node keeps. -/
def enginesOff (c : Nat) (s : State) : State :=
  let s := match (ctxOf s c).fold with
    | some f => if f.check then modNode f.node (fun n => { n with named := f.streams.map (·.stream) }) s else s
    | none => s
  modCtx c (fun x => { x with accept := .idle, emit := .idle, load := .idle, fold := none })
    (dropJobs (fun k => k.ctx == c) s)

/-- CTX_STOPPED: the context stops and emits nothing further (R332, R342); `cause` 1 context store, 2 write failed.
DEDUCED, unsafe (notes/assumptions/47.md). DEDUCED, unsafe (notes/assumptions/65.md). -/
def ctxStop (c cause addr : Nat) (s : State) : State :=
  let s := modHealth (fun h => { h with ctxStop := true }) (enginesOff c s)
  ctxEvent c (logEvent 0x11 0 0 0 c cause addr (modCtx c (fun x => { x with state := .stopped, quiet := true }) s))

/-- The final failure of a write of the control island that serves a context and a node (R332).
DEDUCED, unsafe (notes/assumptions/47.md). -/
def ctxWriteFail (c node addr : Nat) (s : State) : State := ctxStop c 2 addr (logEvent 0x05 0 0 0 c node addr s)

/-! ## CHECK (R127) -/

def newStream (stream : Nat) : CommitStream :=
  ⟨stream, .slot, Plan.zero stream, GEntry.zero, [], 0, 0, [], GEntry.zero, false, false, 0, false⟩

/-- The records of the step that a CHECK folds for a resident stream (R127). -/
def checkRecs (s : State) (f : Fold) (c : Nat) (sl : Slot) : List GRec :=
  (sl.recs ++ ofStream sl.stream (ctxOf s c).unwritten).filter (fun r => r.tracked && r.step == f.step)

/-- The recipe of an index as a CHECK or COMMIT reads it: once, so that it goes on with the words it has read (R372). -/
def Fold.rcp (f : Fold) (s : State) (i : Nat) : Recipe :=
  match f.rcps.find? (fun x => x.1 == i) with
  | some x => ⟨x.2⟩
  | none => recipeOf s i

/-- Whether a CHECK or COMMIT has read a recipe. -/
def Fold.hasRcp (f : Fold) (i : Nat) : Bool := f.rcps.any (fun x => x.1 == i)

/-- A recipe has been read. -/
def keepRcp (c i : Nat) (s : State) : State :=
  modFold c (fun f => if f.hasRcp i then f else { f with rcps := f.rcps ++ [(i, (recipeOf s i).w)] }) s

/-- The CHECK record of a resident stream, and its corrected scale (R127). A recipe that fails R123 corrects nothing.
DEDUCED, unsafe (notes/assumptions/81.md). DEDUCED, unsafe (notes/assumptions/91.md). -/
def checkStream (s : State) (f : Fold) (c : Nat) (sl : Slot) : GRec × Option Word :=
  let recs := checkRecs s f c sl
  let ri := foldRecipe sl.entry recs
  let rcp := f.rcp s ri
  let t := (sl.scale).getD 0
  let new := if rcp.valid then checkScale sl.entry recs rcp t else none
  (checkRec f.step sl.stream f.node.node recs ri (new.getD t) sl.zero new.isSome, new)

/-- Whether a CHECK reads a recipe for a resident stream: its entry holds history, or it has a record of the step (R120, R417).
DEDUCED, unsafe (notes/assumptions/81.md). -/
def needsRecipe (s : State) (c : Nat) (f : Fold) (sl : Slot) : Bool := sl.entry.valid || !(checkRecs s f c sl).isEmpty

/-- SCALE_CHECK, a stream (R127): its CHECK record is made once it is resident; it waits where the wedged recipe store holds its recipe
(R417). Streams need not be resident together. DEDUCED, unsafe (notes/assumptions/121.md). -/
def checkStart (c : Nat) (f : Fold) (sl : Slot) (s : State) : State :=
  let ri := foldRecipe sl.entry (checkRecs s f c sl)
  if s.health.wedgedRecipes && needsRecipe s c f sl && !f.hasRcp ri then modFold c (fun y => { y with held := true }) s
  else modFold c (fun y => { y with recs := y.recs ++ [(checkStream s f c sl).1] })
    (modStream c sl.stream (fun y => { y with ph := .done }) (if needsRecipe s c f sl then keepRcp c ri s else s))

/-- SCALE_CHECK, its end (R127, R128): corrected scales come into force, and the node completes with its records in ascending stream
number. -/
def checkFinish (c : Nat) (f : Fold) (s : State) : State :=
  let s := modTrk (fun t => { t with slots := t.slots.map (fun z =>
    match f.recs.find? (fun r => z.ctx == c && r.stream == z.stream && r.corrected) with
    | some r => { z with corr := some (BitVec.ofNat 32 r.t) }
    | none => z) }) s
  slotsLeave (completeNode f.node stOk 0
    (modNode f.node (fun n => { n with recs := sortBy (fun a b : GRec => a.stream < b.stream) f.recs })
      (modCtx c (fun x => { x with fold := none }) s)))

/-! ## COMMIT (R124, R140, R147, R161, R162) -/

/-- The inputs of R124 for a resident stream: tracked records of the step, and the number of correcting CHECK records. -/
def commitRecs (sl : Slot) (step : Nat) : List GRec × Nat :=
  let rs := sl.recs.filter (fun r => r.step == step)
  (rs.filter (·.tracked), (rs.filter GRec.corrects).length)

/-- COMMIT_FOLD (R124): the entry that a stream commits, from what the fold has read. -/
def CommitStream.entry (y : CommitStream) (step : Nat) (agreed : Option Nat) : GEntry :=
  commitStream y.old step y.recs y.corrs y.rcpIdx ⟨y.rcp⟩ agreed

/-- Write a stream's new granary entry (R140 step 2). -/
def writeEntry (c stream : Nat) (agreed : Option Nat) (s : State) : State :=
  match (ctxOf s c).fold, foldStream s c stream with
  | some f, some y =>
    let e := y.entry f.step agreed
    startWrite (.cmEntry c stream) ((ctxOf s c).gran stream) (GEntry.bytes stream e)
      (modStream c stream (fun y => { y with ph := .entryWr, new := e, changed := true }) s)
  | _, _ => s

/-- An agreed value is used (R148): a lower one counts as the local entry, with AGREE_LOW set and logged. -/
def useAgreed (c stream v : Nat) (s : State) : State :=
  match (ctxOf s c).fold, foldStream s c stream with
  | some f, some y =>
    let s := if v < y.own then
        logEvent 0x3A 1 (s.build.homeRegion (((slotOf s c stream).map (·.idx)).getD 0)) 0x200 c stream f.step
          (modTrk (fun t => { t with agreeLow := true }) s)
      else s
    writeEntry c stream (some v) s
  | _, _ => s

/-- The plan of a stream is settled: a shared stream hands on its local entry and waits, any other writes its entry (R147).
DEDUCED, unsafe (notes/assumptions/58.md). -/
def afterPlan (c stream : Nat) (s : State) : State :=
  match (ctxOf s c).fold, foldStream s c stream with
  | some f, some y =>
    if (Recipe.mk y.rcp).shared then
      let s := agrLocal c stream (BitVec.ofNat 32 f.step) y.own (modStream c stream (fun z => { z with ph := .agree }) s)
      match (slotOf s c stream).bind (·.early) with
      | some (n, v) => if n = f.step then useAgreed c stream v s else s
      | none => s
    else writeEntry c stream none s
  | _, _ => s

/-- Zero a stream's channel vector (R162). -/
def zeroVector (c stream : Nat) (s : State) : State :=
  match foldStream s c stream with
  | none => s
  | some y => startWrite (.cmZero c stream) (y.plan.area + 512) (zeros (vecBytes y.plan))
      (modStream c stream (fun z => { z with ph := .zeroWr }) s)

/-- The plan entry and its list have been read: a plan already at the step has only its vector zeroed again (R162). -/
def planHeld (c stream : Nat) (p : Plan) (s : State) : State :=
  match (ctxOf s c).fold with
  | none => s
  | some f =>
    let s := modStream c stream (fun z => { z with plan := p }) s
    if p.step = f.step then zeroVector c stream s
    else startRead (.cmVec c stream) [(p.area + 512, vecBytes p)] (modStream c stream (fun z => { z with ph := .vector }) s)

/-- A plan entry as it has been read, without its list (R152). -/
def planParse (stream : Nat) (bs : List OByte) : Option Plan :=
  match sound bs with
  | some b => if b.length = 64 then some ⟨stream, b, [], true⟩ else none
  | none => none

/-- A list as it has been read. -/
def listParse (p : Plan) (bs : List OByte) : Option Plan :=
  match sound bs with
  | some b =>
    let l := (List.range p.count).map (fun k => fld b (2 * k) 2)
    if b.length = 2 * p.count && p.listOk l then some { p with list := l } else none
  | none => none

/-- The plan entry of a stream of a commit has been read; a plan that is not valid is left as it is (log 58).
DEDUCED, unsafe (notes/assumptions/58.md). -/
def cmPlanRead (c stream : Nat) (bs : List OByte) (s : State) : State :=
  match planParse stream bs with
  | none => afterPlan c stream s
  | some p =>
    if !p.enabled || !p.entryOk then afterPlan c stream s
    else if p.count = 0 then planHeld c stream p s
    else startRead (.cmList c stream) [(p.area, 2 * p.count)]
      (modStream c stream (fun z => { z with plan := p, ph := .planList }) s)

/-- The commit reads the list of a plan. DEDUCED, unsafe (notes/assumptions/58.md). -/
def cmListRead (c stream : Nat) (bs : List OByte) (s : State) : State :=
  match foldStream s c stream with
  | none => s
  | some y => match listParse y.plan bs with
    | none => afterPlan c stream s
    | some p => planHeld c stream p s

/-- The pending request of a stream (R169). -/
def fbReqOf (s : State) (c stream : Nat) : Option Bool :=
  (s.trk.fbReqs.find? (fun r => r.ctx == c && r.stream == stream)).map (·.force)

/-- PLAN_COMMIT (R160 to R162): the channel vector has been read; one that cannot be read leaves the plan uncommitted. The plan entry and
its list are written together, as one access. DEDUCED, unsafe (notes/assumptions/58.md). -/
def cmVecRead (c stream : Nat) (bs : List OByte) (s : State) : State :=
  match (ctxOf s c).fold, foldStream s c stream, sound bs with
  | some f, some y, some b =>
    let chv := (List.range y.plan.chans).map (fun k => fld b (2 * k) 2)
    let r := commitPlan y.plan f.step y.overflow chv (fbReqOf s c stream)
    let s := modTrk (fun t => { t with fbReqs := t.fbReqs.filter (fun q => q.ctx != c || q.stream != stream) }) s
    let s := modCtx c (fun x => { x with
      fbChange := x.fbChange || r.fbChange, spilled := x.spilled || r.spilled, arenaShort := x.arenaShort || r.short
      fbEntered := cntSat x.fbEntered (b2n r.entered) }) s
    startWrites (.cmPlanWr c stream)
      [((ctxOf s c).oplan + 64 * stream, r.plan.raw), (r.plan.area, listBytes r.plan.list)]
      (modStream c stream (fun z => { z with plan := r.plan, ph := .planWr }) s)
  | some _, some _, none => afterPlan c stream s
  | _, _, _ => s

/-- A stream of a commit whose slot is ready is folded (R124, R125, R141, R417): its entry, its records and its recipe are read, once
(R372), and the slot is not needed any more (R145). DEDUCED, unsafe (notes/assumptions/121.md). -/
def commitStart (c : Nat) (f : Fold) (sl : Slot) (s : State) : State :=
  let stream := sl.stream
  let rs := commitRecs sl f.step
  let done := modStream c stream (fun y => { y with ph := .done }) s
  if rs.1.isEmpty || (sl.entry.valid && sl.entry.step == f.step) then done
  else if s.health.wedgedRecipes && !f.hasRcp (foldRecipe sl.entry rs.1) then modFold c (fun y => { y with held := true }) s
  else
    let ri := foldRecipe sl.entry rs.1
    let rcp := f.rcp s ri
    if !rcp.valid then modCtx c (fun x => { x with rcpRej := true }) (keepRcp c ri done)
    else
      let s := modStream c stream (fun y => { y with
        old := sl.entry, recs := rs.1, corrs := rs.2, rcpIdx := ri, rcp := rcp.w
        overflow := overflowed rs.1 rcp, own := (foldSpan sl.entry rs.1 rcp).2 }) (keepRcp c ri s)
      if (ctxOf s c).oplan = 0 then afterPlan c stream s
      else startRead (.cmPlan c stream) [((ctxOf s c).oplan + 64 * stream, 64)]
        (modStream c stream (fun y => { y with ph := .plan }) s)

/-- A CHECK reads a stream's granary entry and the records of the open step for itself, because every slot is pinned: R146 has only a task
wait for a slot. DEDUCED, unsafe (notes/assumptions/94.md). -/
def checkRead (c stream : Nat) (s : State) : State :=
  let x := ctxOf s c
  startRead (.checkRead c stream) ((x.gran stream, 64) :: x.ringSegs)
    (modStream c stream (fun y => { y with ph := .reads, recs := [] }) s)

/-- A stream of a CHECK or COMMIT is made resident (R140, R144, R145), or read by the CHECK for itself.
DEDUCED, unsafe (notes/assumptions/94.md). -/
def foldLoad (c : Nat) (f : Fold) (stream : Nat) (s : State) : State :=
  if f.check && !f.held && (slotOf s c stream).isNone && (slotFor s).isNone then checkRead c stream s else slotLoad c stream s

/-- Advance the CHECK or COMMIT of a context: a stream whose slot is ready is taken, then others are loaded as far as slots can be had,
and a CHECK whose streams are all done ends. Streams of one node need not be resident together (R127, R140, R146). -/
def foldPump (c : Nat) (s : State) : State :=
  match (ctxOf s c).fold with
  | none => s
  | some f =>
    if f.reading then s
    else
      let s := f.streams.foldl (fun s y =>
        if y.ph = .slot then
          match slotReady s c y.stream with
          | some sl => if f.check then checkStart c f sl s else commitStart c f sl s
          | none => s
        else s) s
      match (ctxOf s c).fold with
      | none => s
      | some f' =>
        if f'.check && f'.streams.all (fun y => y.ph == .done) then checkFinish c f' s
        else f'.streams.foldl (fun s y => if y.ph = .slot then foldLoad c f' y.stream s else s) s

/-- Advance every CHECK and COMMIT that waits for a slot. -/
def foldPumpAll (s : State) : State := (List.range s.ctxs.length).foldl (fun s c => foldPump c s) s

/-- Nodes have let go of the slots they pinned: where a region is asked to park its slots leave, and a CHECK or COMMIT that was to use one
of them goes on with another (R145, R380). -/
def slotsUnpin (s : State) : State := if s.regions.any (·.parkReq) then foldPumpAll (slotsLeave s) else s

/-- What a CHECK reads of a stream for itself has arrived (R127, R142, R144). DEDUCED, unsafe (notes/assumptions/94.md). -/
def checkReadDone (c stream : Nat) (bs : List OByte) (s : State) : State :=
  match (ctxOf s c).fold, foldStream s c stream with
  | some f, some y =>
    if y.ph != .reads then s
    else
      let r := Slot.loaded (ctxOf s c) bs ⟨0, c, stream, .loading, GEntry.zero, y.recs, none, none⟩
      let s := if r.2 then historyLoss none c stream s else s
      foldPump c (checkStart c f r.1 (modStream c stream (fun y => { y with ph := .slot }) s))
  | _, _ => s

/-- Start a CHECK or COMMIT node (R127, R140): where the ring must be searched for streams it is read first.
DEDUCED, safe (notes/assumptions/59.md). -/
def foldStart (r : NodeRef) (check : Bool) (step stream : Nat) (s : State) : State :=
  let c := r.ctx
  let x := ctxOf s c
  let all := !check || stream == 0xFFFF
  let reads := all && !x.ringSegs.isEmpty
  let names := if !all then [stream]
    else if check then sortNats ((x.unwritten.filter (fun g => g.tracked && g.step == step)).map (·.stream))
    else []
  let s := modCtx c (fun x => { x with fold := some ⟨r, check, step, reads, names.map newStream, [], [], false, false⟩ }) s
  if reads then startRead (.foldRecs c) x.ringSegs s else foldPump c s

/-- The records of the ring have been read: the streams with tracked records join those of the node (R127, R140). -/
def foldRead (c : Nat) (bs : List OByte) (s : State) : State :=
  let x := ctxOf s c
  match x.fold with
  | none => s
  | some f =>
    let found := ((x.ringRecs bs).filterMap id).filter (fun g => g.tracked && (!f.check || g.step == f.step))
    let names := sortNats (f.streams.map (·.stream) ++ found.map (·.stream))
    foldPump c (modFold c (fun y => { y with reading := false, streams := names.map newStream }) s)

/-- A granary entry of a commit has been acknowledged: the stream has committed the step (R117, R140), and with it a corrected scale of
the step ends (R127, R128). A slot that is being loaded is read again. An early agreed value of another step stays in the slot, also where
the stream passes that step idle. DEDUCED, unsafe (notes/assumptions/112.md). -/
def entryWritten (c stream : Nat) (s : State) : State :=
  match (ctxOf s c).fold, foldStream s c stream with
  | some f, some y =>
    let s := modStream c stream (fun z => { z with ph := .done }) s
    match slotOf s c stream with
    | none => s
    | some sl =>
      if sl.ph = .loading then slotRead sl.idx s
      else modSlotAt sl.idx (fun z => { z with
        entry := y.new
        corr := none
        early := match z.early with
          | some e => if e.1 = f.step then none else some e
          | none => none }) s
  | _, _ => s

/-- COMMIT_HEADER_WRITE (R139, R140 step 3): every stream of the commit has committed. DEDUCED, unsafe (notes/assumptions/12.md). -/
def execCommitHeaderWrite (c : Nat) (s : State) : Answer := inRun s <|
  let x := ctxOf s c
  match x.fold with
  | none => .next s
  | some f =>
    if f.check || f.reading || f.header || !f.streams.all (fun y => y.ph == .done) then .next s
    else .next (startWrite (.cmHeader c) (x.gran 0xFFFF) (headerBytes (BitVec.ofNat 32 f.step) (cntMod x.commits 1) x.glnWrite)
      (modFold c (fun y => { y with header := true }) s))

/-- The commit header has been acknowledged (R140 steps 4 and 5). DEDUCED, unsafe (notes/assumptions/12.md). -/
def headerWritten (c : Nat) (s : State) : State :=
  match (ctxOf s c).fold with
  | none => s
  | some f =>
    completeNode f.node stOk 0 (slotsCommitted c (modCtx c (fun x => { x with
      glnCommit := x.glnWrite, sctStep := BitVec.ofNat 32 f.step, commits := cntMod x.commits 1, fold := none }) s))

/-! ## Agreed values (R148, R149, R150) -/

def agreeDropped (s : State) : State := modTrk (fun t => { t with agreeDrop := true }) s

/-- The step for which a stream awaits an agreed value. -/
def awaits (s : State) (c stream : Nat) : Option Nat :=
  match (ctxOf s c).fold, foldStream s c stream with
  | some f, some y => if !f.check && y.ph == .agree then some f.step else none
  | _, _ => none

/-- AGREED_VALUE_ARRIVAL (R148): the exchange hands a value to the tracker. -/
def execAgreedValueArrival (c stream : Nat) (step : Word) (value : BitVec 16) (s : State) : Answer := inRun s <|
  let a : Arrival := ⟨c, stream, step, value.toNat⟩
  if !s.exch.arrivals.contains a then .next s
  else
    let s := { s with exch := { s.exch with arrivals := s.exch.arrivals.erase a } }
    match awaits s c stream with
    | none => .next (agreeDropped s)
    | some n =>
      if step.toNat = n then .next (useAgreed c stream value.toNat s)
      else match slotOf s c stream with
        | none => .next (agreeDropped s)
        | some sl =>
          if step.toNat = (BitVec.ofNat 32 n + 1 : Word).toNat && sl.early.isNone then
            .next (modSlotAt sl.idx (fun y => { y with early := some (step.toNat, value.toNat) }) s)
          else .next (agreeDropped s)

/-- AGREE_TIMEOUT (R149): the wait of a shared stream has passed SCT_AGREE_TMO. DESIGN CHOICE, safe (notes/assumptions/4.md). -/
def execAgreeTimeout (c stream : Nat) (s : State) : Answer := inRun s <|
  match awaits s c stream, foldStream s c stream with
  | some n, some y =>
    if y.late then .next s
    else .next (logEvent 0x39 1 (s.build.homeRegion (((slotOf s c stream).map (·.idx)).getD 0)) 0x200 c stream n
      (modStream c stream (fun z => { z with late := true }) s))
  | _, _ => .next s

def selCtx (s : State) : Nat := bits s.trk.sel.toNat 16 6
def selStream (s : State) : Nat := bits s.trk.sel.toNat 0 16

/-- The value that a DELIVER hands on (R149): `none` for a NaN or a negative value other than zero. -/
def deliverValue (w : Word) : Option Nat :=
  if w.toNat % 2 ^ 31 = 0 then some 0
  else if signBit w || 0x7F800000 < w.toNat then none
  else if w.toNat = 0x7F800000 then some 0x7F7F
  else some (bf16Up (wordQ w))

/-- Whether the selected stream awaits SCT_AGREE_STEP (R150). -/
def selAwaits (s : State) : Bool := awaits s (selCtx s) (selStream s) == some s.trk.agreeStep.toNat

/-- The effect of a DELIVER. DEDUCED, safe (notes/assumptions/59.md). -/
def agreeDeliver (s : State) : State :=
  match deliverValue s.trk.agreeAmax with
  | some v => if selAwaits s then useAgreed (selCtx s) (selStream s) v s else agreeDropped s
  | none => agreeDropped s

/-- The effect of a LOCAL. -/
def agreeLocal (s : State) : State :=
  if selAwaits s then
    useAgreed (selCtx s) (selStream s) (((foldStream s (selCtx s) (selStream s)).map (·.own)).getD 0) s
  else agreeDropped s

/-- AGREE_DELIVER (R149, R150). -/
def execAgreeDeliver (s : State) : Answer := inRun s <|
  .next (agreeDeliver (emit (.cpAck false) s))
/-- AGREE_LOCAL (R149, R150). -/
def execAgreeLocal (s : State) : Answer := inRun s <|
  .next (agreeLocal (emit (.cpAck false) s))

/-! ## Fallback requests (R169, R172) -/

def reqDropped (s : State) : State := modTrk (fun t => { t with reqDrop := true }) s

/-- The table has room for a request of a stream. -/
def fbRoom (s : State) (c stream : Nat) : Bool := s.trk.fbReqs.length < 16 || (fbReqOf s c stream).isSome

/-- A request of the selected stream: its plan entry is read (R169), of stream 0xFFFF too, which has none (R152).
DEDUCED, unsafe (notes/assumptions/48.md). -/
def fbRequest (force : Bool) (s : State) : State :=
  let c := selCtx s
  let x := ctxOf s c
  if !ctxBuilt s c || x.state == .disabled || !fbRoom s c (selStream s) || x.oplan == 0 then reqDropped s
  else startRead (.fbPlan s.nextJob) [(x.oplan + 64 * selStream s, 64)]
    (modTrk (fun t => { t with fbAsks := t.fbAsks ++ [⟨s.nextJob, ⟨c, selStream s, force⟩, none⟩] }) s)

/-- One request whose plan entry has been read: it is held, and replaces an earlier one of its stream, or it is ignored (R169). -/
def fbSettle (q : FbReq) (enabled : Bool) (s : State) : State :=
  if enabled && fbRoom s q.ctx q.stream then
    modTrk (fun t => { t with fbReqs := t.fbReqs.filter (fun y => y.ctx != q.ctx || y.stream != q.stream) ++ [q] }) s
  else reqDropped s

/-- Settle requests in the order they were made, as far as their plan entries have been read. DEDUCED, unsafe (notes/assumptions/48.md). -/
def fbPump : List FbAsk → State → State
  | [], s => s
  | a :: r, s => match a.ans with
    | some b => fbPump r (fbSettle a.req b (modTrk (fun t => { t with fbAsks := r }) s))
    | none => s

/-- The plan entry of a request has been read; one that cannot be read counts as ENABLE 0. DEDUCED, unsafe (notes/assumptions/48.md). -/
def fbPlanRead (id : Nat) (bs : List OByte) (s : State) : State :=
  let s := modTrk (fun t => { t with fbAsks := t.fbAsks.map (fun a =>
    if a.id = id then { a with ans := some (match planParse a.req.stream bs with
      | some p => p.enabled
      | none => false) } else a) }) s
  fbPump s.trk.fbAsks s

/-- FB_FORCE (R169, R172). -/
def execFbForce (s : State) : Answer := inRun s <|
  .next (fbRequest true (emit (.cpAck false) s))
/-- FB_RELEASE (R169, R172). -/
def execFbRelease (s : State) : Answer := inRun s <|
  .next (fbRequest false (emit (.cpAck false) s))

/-! ## SLOT_EVICT (R145) -/

/-- SLOT_EVICT: a slot that is not pinned is evicted, without any write. DEDUCED, unsafe (notes/assumptions/57.md). -/
def execSlotEvict (i : Nat) (s : State) : Answer := inRun s <|
  match slotAt s i with
  | none => .next s
  | some sl =>
    if evictable s sl then
      .next (foldPumpAll (modTrk (fun t => { t with slots := t.slots.filter (fun y => y.idx != i) }) s))
    else .next s

end Sys2Proof.Machine
end

