-- ==== Sys2Proof/Machine/Swath.lean ====
section
/-! DEFINITION. Running a swath on a core: its reads and writes (R387), its streams (R393, R394), its stages (R176 to R200), poison
mode (R337) and the tree of a divided reduction (R184). -/

namespace Sys2Proof.Machine

/-! ## Access -/

def swathOf (s : State) (id : Nat) : Option Swath := s.swaths.find? (fun w => w.id == id)
def modSwath (id : Nat) (f : Swath → Swath) (s : State) : State :=
  { s with swaths := s.swaths.map (fun w => if w.id = id then f w else w) }
def setSwath (w : Swath) (s : State) : State := modSwath w.id (fun _ => w) s
def dropSwath (id : Nat) (s : State) : State := { s with swaths := s.swaths.filter (fun w => w.id != id) }

def Swath.cluster (w : Swath) (s : State) : Nat := s.build.clusterOf w.region w.pos

/-- The task a swath runs: `none` when the task is gone (its context was stopped and disabled).
DEDUCED, unsafe (notes/assumptions/34.md). -/
def swathTask (s : State) (w : Swath) : Option (Node × Task) :=
  match nodeOf s w.node with
  | some n => match n.task with
    | some t => if t.id = w.task then some (n, t) else none
    | none => none
  | none => none

/-- What a swath's stages depend on. -/
def envOf (s : State) (w : Swath) (n : Node) (t : Task) : Env :=
  let x := ctxOf s w.node.ctx
  ⟨w.node.ctx, w.node.node, n, t, word64 x.seedLo x.seedHi, w.row0, w.rows, w.sides⟩

/-! ## Core accesses (R387) -/

def coreOwner (w : Swath) (job : Nat) : Owner := .core w.region w.pos w.epoch w.phys job

/-- A core reads some ranges as one access. -/
def coreRead (w : Swath) (segs : List (Nat × Nat)) (s : State) : State :=
  let id := s.nextJob
  let parts := segs.foldl (fun acc sg =>
    (acc.1 ++ (splitBursts sg.1 sg.2).map (fun x => (x.1, x.2.1, acc.2 + x.2.2)), acc.2 + sg.2)) (([] : List (Nat × Nat × Nat)), 0)
  let bs := parts.1.map (fun x => (⟨coreOwner w id, false, x.1, x.2.1, x.2.2, 0, []⟩ : Burst))
  coreIssue (w.cluster s) bs { s with
    nextJob := id + 1
    jobs := s.jobs ++ [⟨id, .swathRd w.id, false, List.replicate parts.2 none, bs.length, none⟩] }

/-- A core writes some ranges as one access. -/
def coreWrite (w : Swath) (segs : List (Nat × List Byte)) (s : State) : State :=
  let id := s.nextJob
  let bs := segs.flatMap (fun sg => (splitBursts sg.1 sg.2.length).map (fun x =>
    (⟨coreOwner w id, true, x.1, x.2.1, x.2.2, 0, slice sg.2 x.2.2 x.2.1⟩ : Burst)))
  coreIssue (w.cluster s) bs { s with
    nextJob := id + 1
    jobs := s.jobs ++ [⟨id, .swathWr w.id w.node w.task, true, [], bs.length, none⟩] }

/-! ## Streams (R393) -/

/-- The smallest stream id that no open stream of a port uses; the id has eight bits (R385).
DESIGN CHOICE, unsafe (notes/assumptions/55.md). -/
def freeSid (p : Port) : Nat :=
  let used := (p.streams.filter (fun o => !o.closed)).map (·.sid)
  ((List.range (min 256 (used.length + 1))).find? (fun i => !used.contains i)).getD 0

/-- Streams that a task's swath opens at its port, at most: one for each LOAD of a host result band, two for each PRODUCT and one for
each EMIT (R393). -/
def streamNeed (n : Node) (t : Task) : Nat :=
  let p : Prog := ⟨t.prog⟩
  if n.isFill then 0
  else sumNat (p.stages.map (fun st =>
    if st.is opProduct then 2
    else if (st.is opLoad && bit st.mode 0 && bits n.routeP 14 2 == 0) || (st.is opEmit && bits n.routeE 14 2 == 0) then 1
    else 0))

/-- Stream ids of a port that its swaths have in use or may still need, those of other open streams included.
DEDUCED, unsafe (notes/assumptions/84.md). -/
def sidsHeld (s : State) (c : Nat) : Nat :=
  let opn := (port s c).streams.filter (fun o => !o.closed)
  let ws := s.swaths.filter (fun w => w.cluster s == c)
  let mine := fun (w : Swath) => (opn.filter (fun o => o.swath == w.id)).length
  (opn.filter (fun o => !ws.any (fun w => w.id == o.swath))).length +
    sumNat (ws.map (fun w => match swathTask s w with
      | some (n, t) => max (mine w) (streamNeed n t)
      | none => mine w))

/-- The 64 bytes of an SOPEN (R393). DEDUCED, unsafe (notes/assumptions/40.md). -/
def sopenBytes (recv coded : Bool) (wide fmt row0 rows cols ctx node step : Nat) : List Byte :=
  leBytes 1 (b2n recv) ++ leBytes 1 (128 * b2n coded + wide) ++ leBytes 2 (if coded then fmt else 0) ++ leBytes 4 row0 ++
    leBytes 4 rows ++ leBytes 4 cols ++ leBytes 2 ctx ++ leBytes 2 node ++ leBytes 4 step ++ zeros 40

def mkBeat (w : Swath) (op : BeatOp) (sid route : Nat) (data : List Byte) : Beat := ⟨op, sid, route, data, w.region, w.pos, w.epoch⟩

/-- Entries of streams that are closed and whose swath is gone. -/
def tidyStreams (c : Nat) (s : State) : State :=
  modPort c (fun p => { p with streams := p.streams.filter (fun o => !o.closed || (swathOf s o.swath).isSome) }) s

/-- Open a stream of a swath's stage, for a band where the stage is a PRODUCT, on its port with an SOPEN. -/
def openStream (w : Swath) (stage band : Nat) (recv : Bool) (route : Nat) (bytes : Nat) (hdr : List Byte) (s : State) : State × Nat :=
  let c := w.cluster s
  let s := tidyStreams c s
  let sid := freeSid (port s c)
  (beatIssue c [mkBeat w .sopen sid (route % 2 ^ 14) hdr]
    (modPort c (fun p => { p with streams := p.streams ++ [⟨sid, recv, w.region, w.pos, w.id, stage, band, bytes, false⟩] }) s), sid)

def beatsBytes (bs : List (BeatOp × List Byte)) : Nat :=
  sumNat (bs.map (fun b => if b.1 = .sdata then b.2.length else 0))

/-- The beats that remain once the first `n` bytes of elements have been presented. DEDUCED, unsafe (notes/assumptions/43.md). -/
def skipBeats : Nat → List (BeatOp × List Byte) → List (BeatOp × List Byte)
  | _, [] => []
  | n, b :: r =>
    if b.1 = .sdata then
      if b.2.length ≤ n then skipBeats (n - b.2.length) r else (b.1, b.2.drop n) :: r
    else if n = 0 then b :: r else skipBeats n r

/-- Hand a link session the elements that no earlier row precedes any more (R303): the rows of an EMIT stage in ascending order. -/
def tileGo : Nat → Swath → Nat → Nat → Nat → State → State
  | 0, _, _, _, _, s => s
  | fuel + 1, w, stage, p, i, s =>
    match swathTask s w with
    | none => s
    | some (_, t) =>
      let next := ((t.tileRow.find? (fun x => x.1 == stage)).map (·.2)).getD 0
      match t.tileQ.find? (fun y => y.stage == stage && y.row == next) with
      | none => s
      | some y =>
        tileGo fuel w stage p i (modTask w.node (fun t => { t with
          tileQ := t.tileQ.erase y
          tileRow := (stage, next + y.rows) :: t.tileRow.filter (fun x => x.1 != stage) })
          (modLnk p (fun l => { l with tileIn := l.tileIn ++ [⟨i, y.bytes⟩] }) s))

/-- An EMIT's elements for a link session: they are handed on once, in element order over the swaths of the task (R303, R337). -/
def sendTile (w : Swath) (x : Send) (route : Nat) (s : State) : State :=
  if w.skip.any (fun y => y.stage == x.stage) then s
  else
    let bytes := (x.beats.filter (fun b => b.1 = .sdata)).flatMap (·.2)
    let s := setSwath { ((swathOf s w.id).getD w) with skip := w.skip ++ [⟨none, x.stage, x.band, beatsBytes x.beats, true⟩] } s
    let s := modTask w.node (fun t => { t with tileQ := t.tileQ ++ [⟨x.stage, w.row0, w.rows, bytes⟩] }) s
    tileGo (((swathTask s w).map (fun y => y.2.tileQ.length)).getD 0) w x.stage (bits route 8 4) (bits route 4 4) s

/-- Open a send stream on the swath's own port and send its elements from byte `skip` on. -/
def sendNew (w : Swath) (e : Env) (x : Send) (route skip : Nat) (s : State) : State :=
  let r := openStream w x.stage x.band false route (beatsBytes x.beats)
    (sopenBytes false x.coded x.wide x.fmt x.first x.rows x.cols e.ctx e.nodeIdx e.node.step) s
  beatIssue (w.cluster s) ((skipBeats skip x.beats).map (fun b => mkBeat w b.1 r.2 0 b.2) ++ [mkBeat w .sclose r.2 0 []]) r.1

/-- Go on with a send stream that an earlier run of the rows left open on the swath's port (R337). -/
def sendMore (w : Swath) (x : Send) (sid skip : Nat) (s : State) : State :=
  let c := w.cluster s
  let s := modPort c (fun p => { p with streams := p.streams.map (fun o =>
    if o.sid = sid && !o.recv && !o.closed then
      { o with swath := w.id, region := w.region, pos := w.pos, bytes := beatsBytes x.beats }
    else o) }) s
  beatIssue c ((skipBeats skip x.beats).map (fun b => mkBeat w b.1 sid 0 b.2) ++ [mkBeat w .sclose sid 0 []]) s

/-- Send a stage's elements on a route: to a link session's tile-in channel, or on a host stream of the swath's own port (R21) that is
opened, or continued where an earlier run of the rows left it (R303, R337, R393). A rerun in another cluster, which takes place only
where no core of the old one is left, opens a stream of its own for what has not been taken.
DEDUCED, unsafe (notes/assumptions/84.md). -/
def sendStream (w : Swath) (e : Env) (x : Send) (route : Nat) (s : State) : State :=
  if bits route 14 2 = 1 then sendTile w x route s
  else match w.skip.find? (fun y => y.stage == x.stage && y.band == x.band) with
    | none => sendNew w e x route 0 s
    | some y =>
      if y.closed then s
      else match y.port with
        | none => s
        | some (c, sid) => if c = w.cluster s then sendMore w x sid y.bytes s else sendNew w e x route y.bytes s

/-! ## Stages -/

/-- The last tap that drills a cold destination in two passes (R129). DEDUCED, unsafe (notes/assumptions/44.md). -/
def lastFirstPass (e : Env) : Option Nat :=
  (((e.prog.stages.zipIdx).filter (fun st => st.1.is opDrill && (e.scale st.1.dest).cold == .twoPass)).getLast?).map (·.2)

/-- Why the stages of a swath stop. -/
inductive Halt where
  | finished
  /-- A result band must be received for stage i. -/
  | band
  /-- A ROWREP with CLOSE must write its slot and read all slots. -/
  | slots
  /-- Held rows must be spilled. -/
  | spill
  deriving DecidableEq, Repr, Inhabited

/-- A matrix of poison. -/
def poisonMatrix (rows cols : Nat) : Matrix := List.replicate rows (List.replicate cols poison)

/-- fp32(y) of an expanded value (R110, R165): the exact value that the rounded word stands for, and whether it saturated: an
overflow gives the largest finite value with the sign of y (R111). -/
def expand32 (y : Option Q) : Option Q × Bool :=
  match y with
  | none => (none, false)
  | some q => let r := roundVal 0 q; (r.1.q, r.2)

/-- The second input as a ROWREP expands it, every stream row of the task (R165). -/
def repG (e : Env) (ps : List Piece) (data : List OByte) : List (List (Option Q × Bool)) :=
  (e.secondQ 0 e.node.rows (pieceOf ps data .repG)).1.map (fun r => r.map expand32)

/-- The overflows of a ROWREP's expansion that a swath counts in SAT (R111): those of the task's whole second input, in the swath
that holds the first listed row. DEDUCED, unsafe (notes/assumptions/99.md). -/
def repSat (e : Env) (ps : List Piece) (data : List OByte) : Nat :=
  if e.repRows.isEmpty || (e.plan e.node.spart).list.any (· < e.row0) then 0
  else sumNat ((repG e ps data).map (fun r => (r.filter (·.2)).length))

/-- The result rows that a ROWREP replaces, with the folded values of this task's stream rows (R165). -/
def repVals (e : Env) (ps : List Piece) (data : List OByte) (i : Nat) : List (Nat × Nat × List (Option Q)) :=
  let sp := e.plan e.node.spart
  let ss := sideRows sp e.node.rows (pieceOf ps data .repSide)
  let g : QM := (repG e ps data).map (fun r => r.map (·.1))
  let cols := colsAt e.prog e.ops e.node i
  e.repRows.map (fun x => (x.1, x.2, repRow ss g cols x.1))

/-- Where row k of the list lies in slot p (R189). -/
def repSlot (e : Env) (i p k : Nat) : Nat :=
  e.prog.vec (e.prog.stage i).va + (p * (e.plan e.node.spart).budget + k) * colsAt e.prog e.ops e.node i * 4

def rowWords (l : List (Option Q)) : List Byte := l.flatMap (fun x => valBytes (redWord x))

/-- The writes of a task's own slot. DEDUCED, unsafe (notes/assumptions/141.md). -/
def repWrites (e : Env) (ps : List Piece) (data : List OByte) (i : Nat) : List (Nat × List Byte) :=
  (repVals e ps data i).map (fun x => (repSlot e i (e.prog.stage i).p0.toNat x.1, rowWords x.2.2))

/-- Replace rows of the result by the combined slots (R189); `bs` holds slots 0 to P1 - 1 of each listed row in turn. An element that is
poison stays poison (R177, R200). DESIGN CHOICE, unsafe (notes/assumptions/126.md). DEDUCED, unsafe (notes/assumptions/140.md). -/
def repClose (e : Env) (i : Nat) (bs : List OByte) (m : Matrix) : QM :=
  let st := e.prog.stage i
  let cols := colsAt e.prog e.ops e.node i
  let n := st.p1.toNat
  let rows := (e.repRows.zipIdx).map (fun x =>
    let slots := (List.range n).map (fun p => wideRow 0 cols (slice bs ((x.2 * n + p) * cols * 4) (cols * 4)))
    (x.1.2, (List.range cols).map (fun c => combineParts 0 (colOf slots c))))
  (m.toQ.zipIdx).map (fun r => match rows.find? (fun x => x.1 == r.2) with
    | some x => List.zipWith (fun old new => old.bind (fun _ => new)) r.1 x.2
    | none => r.1)

/-- The spilled rows of a swath with their places in the spill area. -/
def spillRows (e : Env) (w : Swath) : List (Nat × Nat) :=
  let h := heldRows e.prog e.node w.stage
  let len := e.prog.rowLen * wideSize (fmtBefore e.prog w.stage)
  ((List.range w.rows).filter (fun t => h ≤ t % bandHeight e.node)).map (fun t =>
    (t, e.prog.holdSpill + (e.row0 + t) * len))

/-- Run stages from the swath's next stage while none of them must wait; `fuel` bounds the number of stages. The sends of
EMIT taps are handed back (R176). DEDUCED, unsafe (notes/assumptions/127.md). -/
def runStages (e : Env) (ps : List Piece) (data : List OByte) : Nat → Swath → List Send → Swath × List Send × Halt
  | 0, w, out => (w, out, .finished)
  | fuel + 1, w, out =>
    let i := w.stage
    let st := e.prog.stage i
    let next := fun (w : Swath) => { w with stage := i + 1 }
    if e.prog.count ≤ i || (e.pass1 && (match lastFirstPass e with
        | some k => k < i
        | none => true)) then (w, out, .finished)
    else if st.is opProduct || (st.is opLoad && bit st.mode 0) then (w, out, .band)
    else if st.is opDrill then runStages e ps data fuel (next (drillTap e i w)) out
    else if st.is opStore then
      runStages e ps data fuel (next (if e.pass1 then w else storeTap e ps data i w)) out
    else if st.is opEmit then
      if e.pass1 then runStages e ps data fuel (next w) out
      else
        let r := emitTap e ps data i w
        runStages e ps data fuel (next r.1) (out ++ [r.2])
    else if st.is opRsum || st.is opCsum then runStages e ps data fuel (next (sumTap e i w)) out
    else if st.is opRowrep && !e.repRows.isEmpty then
      let w := { w with sat := w.sat + repSat e ps data }
      if st.mode = 1 then (w, out, .slots)
      else
        let r := roundQM st.fmt w.cur.toQ
        runStages e ps data fuel (next { w with out := w.out ++ repWrites e ps data i, cur := r.1, sat := w.sat + r.2 }) out
    else if st.is opNorm && !e.pass1 && spills e.prog e.node && !w.heldSpilled && !w.poison && !(spillRows e w).isEmpty then
      (w, out, .spill)
    else
      let r := roundQM st.fmt (valueStage e ps data i w.cur)
      runStages e ps data fuel { w with cur := r.1, sat := w.sat + r.2, stage := i + 1 } out

/-! ## Held rows (R199) -/

def spillWrites (e : Env) (w : Swath) : List (Nat × List Byte) :=
  let fmt := fmtBefore e.prog w.stage
  (spillRows e w).map (fun r => (r.2, (w.cur.getD r.1 []).flatMap (fun v => (storeVal fmt v).1)))

/-- The current values with the spilled rows read back. -/
def spillBack (e : Env) (bs : List OByte) (w : Swath) : Matrix :=
  let fmt := fmtBefore e.prog w.stage
  let len := e.prog.rowLen * wideSize fmt
  let rows := (spillRows e w).zipIdx
  (w.cur.zipIdx).map (fun r => match rows.find? (fun x => x.1.1 == r.2) with
    | none => r.1
    | some x => (wideRow fmt e.prog.rowLen (slice bs (x.2 * len) len)).map (fun q => match q with
        | none => poison
        | some v => (roundVal fmt v).1))

/-! ## The tree of a divided reduction (R184) -/

/-- The reductions whose chunks lie in several swaths. -/
def divided (e : Env) : List ColRed :=
  if e.pass1 || e.rows = e.node.rows then [] else colReds e.node e.ops e.prog

/-- The segments that the trees of a pass read (R184). DEDUCED, safe (notes/assumptions/38.md). -/
def treeSegs (e : Env) : List (Nat × Nat) :=
  let q := ceilDiv e.node.rows e.rowChunk
  (divided e).map (fun cr => (e.prog.scratch + cr.off, cr.cols * q * 4))

/-- The results of the trees (REDUCTION_TREE), and whether one of them is poison. -/
def treeWrites (e : Env) (bs : List OByte) : List (Nat × List Byte) × Bool :=
  let q := ceilDiv e.node.rows e.rowChunk
  let r := (divided e).foldl (fun (acc : List (Nat × List Byte) × Bool × List OByte) cr =>
    let vs := (List.range cr.cols).map (fun o =>
      redWord (combineParts cr.op (wideRow 0 q (slice acc.2.2 (o * q * 4) (q * 4)))))
    (acc.1 ++ [(cr.vec, vs.flatMap valBytes)], acc.2.1 || vs.any Val.isPoison, acc.2.2.drop (cr.cols * q * 4))) ([], false, bs)
  (r.1, r.2.1)

/-! ## Running -/

/-- Whether a swath is the last of its pass: every other row belongs to a completed swath. DEDUCED, safe (notes/assumptions/38.md). -/
def lastSwath (w : Swath) (n : Node) (t : Task) : Bool := t.reruns.isEmpty && t.next == n.rows && t.done + w.rows == n.rows

/-- The swath has written everything; where it is the last of its pass it forms the trees of divided reductions. -/
def swathWritten (id : Nat) (s : State) : State :=
  match swathOf s id with
  | none => s
  | some w => match swathTask s w with
    | none => modSwath id (fun w => { w with ph := .done, out := [] }) s
    | some (n, t) =>
      let e := envOf s w n t
      let segs := treeSegs e
      if lastSwath w n t && !w.treed && segLen segs != 0 then
        coreRead w segs (modSwath id (fun w => { w with ph := .tree, out := [] }) s)
      else modSwath id (fun w => { w with ph := .done, out := [] }) s

/-- Write what the swath has formed. -/
def swathWrites (id : Nat) (s : State) : State :=
  match swathOf s id with
  | none => s
  | some w =>
    if w.out.isEmpty then swathWritten id s
    else coreWrite w w.out (modSwath id (fun w => { w with ph := .writes, out := [] }) s)

/-- The rows of the result that a stage receives as one stream, the first and how many: the swath's rows, or for a PRODUCT those of the
band it exchanges (R194, R195). DEDUCED, safe (notes/assumptions/38.md). -/
def Env.recvRows (e : Env) (w : Swath) : Nat × Nat :=
  if (e.prog.stage w.stage).is opProduct then e.bandRows w.band else (0, w.rows)

/-- The bytes of a row of the result band that a swath's stage receives. -/
def Env.recvRow (e : Env) (w : Swath) : Nat := bandCols e.prog e.ops e.node w.stage * wideSize (e.prog.stage w.stage).fmt

/-- Begin to receive the result band of the swath's stage (R178, R194, R393, R394).
DEDUCED, unsafe (notes/assumptions/11.md). DEDUCED, safe (notes/assumptions/38.md). -/
def bandOpen (e : Env) (w : Swath) (s : State) : State :=
  let i := w.stage
  let b := e.recvRows w
  let s := setSwath { w with ph := .band, need := (b.1 + b.2) * e.recvRow w } s
  if bits e.node.routeP 14 2 = 2 then s
  else (openStream w i w.band true e.node.routeP 0 (sopenBytes true false (e.prog.stage i).fmt 0 (e.first + b.1) b.2
    (bandCols e.prog e.ops e.node i) e.ctx e.nodeIdx e.node.step) s).1

/-- Exchange the next band of a PRODUCT: the operand goes to the host, and its result is awaited (R194). -/
def bandTurn (e : Env) (w : Swath) (s : State) : State :=
  let s := sendStream w e (productSend e w.stage w.band w) e.node.routeP s
  bandOpen e ((swathOf s w.id).getD w) s

/-- A PRODUCT's swath goes on to its next band once no stream of the band before it is open (R393). A core that has been fenced is held in
reset and presents nothing (R335, R336).
DEDUCED, safe (notes/assumptions/38.md). -/
def bandGo (id : Nat) (s : State) : State :=
  match swathOf s id with
  | none => s
  | some w => match swathTask s w with
    | none => modSwath id (fun w => { w with ph := .done, out := [] }) s
    | some (n, t) =>
      if w.ph != .bandNext || !epochHolds s w.region w.pos w.epoch ||
          (port s (w.cluster s)).streams.any (fun o => o.swath == w.id && o.stage == w.stage && !o.closed) then s
      else bandTurn (envOf s w n t) w s

/-- The swaths of a cluster whose streams may have closed go on to their next bands. -/
def bandPump (c : Nat) (s : State) : State :=
  ((s.swaths.filter (fun w => w.ph == .bandNext && w.cluster s == c)).map (·.id)).foldl (fun s id => bandGo id s) s

/-- The swaths of a region go on to their next bands. -/
def bandsGo (r : Nat) (s : State) : State := (regionPorts s r).foldl (fun s c => bandPump c s) s

/-- The values of a received band; missing elements are poison, and with them their rows (R200).
DEDUCED, unsafe (notes/assumptions/11.md). -/
def bandVals (e : Env) (w : Swath) : QM :=
  let i := w.stage
  let fmt := (e.prog.stage i).fmt
  let cols := bandCols e.prog e.ops e.node i
  let len := e.recvRow w
  (List.range w.rows).map (fun t =>
    if (t + 1) * len ≤ w.got.length then wideRow fmt cols (slice w.got (t * len) len)
    else List.replicate cols none)

/-- In poison mode a PRODUCT ends the send streams that an earlier run of its rows had opened (R337). -/
def poisonSends (e : Env) (w : Swath) (s : State) : State :=
  ((List.range e.bands).filter (fun k => w.skip.any (fun y => y.stage == w.stage && y.band == k))).foldl (fun s k =>
    sendStream ((swathOf s w.id).getD w) e (productSend e w.stage k w) e.node.routeP s) s

/-- Run a swath's stages as far as they go; bands of a swath in poison mode are poison at once (R337). -/
def swathRunAux : Nat → Nat → State → State
  | 0, _, s => s
  | fuel + 1, id, s =>
    match swathOf s id with
    | none => s
    | some w => match swathTask s w with
      | none => modSwath id (fun w => { w with ph := .done, out := [] }) s
      | some (n, t) =>
        let e := envOf s w n t
        let ps := e.pieces (gatherIdx (e.prog.stage 0).p0.toNat w.rows w.idx)
        let r := runStages e ps w.data 17 w []
        let w := r.1
        let s := setSwath w s
        let s := r.2.1.foldl (fun s x => sendStream ((swathOf s id).getD w) e x e.node.routeE s) s
        let w := (swathOf s id).getD w
        match r.2.2 with
        | .finished => swathWrites id s
        | .spill => coreWrite w (spillWrites e w) (modSwath id (fun w => { w with ph := .spillWr, heldSpilled := true }) s)
        | .slots =>
          if w.poison then
            swathRunAux fuel id (modSwath id (fun w => { w with
              out := w.out ++ repWrites e ps w.data w.stage
              cur := (roundQM (e.prog.stage w.stage).fmt (repClose e w.stage [] w.cur)).1
              stage := w.stage + 1 }) s)
          else coreWrite w (repWrites e ps w.data w.stage) (modSwath id (fun w => { w with ph := .slots }) s)
        | .band =>
          let prod := (e.prog.stage w.stage).is opProduct
          if w.poison then
            let s := if prod then poisonSends e w s else s
            let w := (swathOf s id).getD w
            swathRunAux fuel id (setSwath { w with
              cur := poisonMatrix w.rows (bandCols e.prog e.ops e.node w.stage), stage := w.stage + 1 } s)
          else if prod then bandTurn e w s
          else bandOpen e w s

def swathRun (id : Nat) (s : State) : State := swathRunAux 17 id s

/-- What a swath holds of a band once it is complete or its stream has ended: a row that is not complete is poison whole (R200). -/
def bandFill (len : Nat) (w : Swath) : Swath :=
  let whole := w.got.take (w.got.length / max len 1 * len)
  { w with
    got := if w.got.length < w.need then whole ++ List.replicate (w.need - whole.length) none else w.got
    poisoned := w.poisoned || w.got.length < w.need }

/-- A band is complete, or its stream has ended: a PRODUCT goes on to the swath's next band, and with all rows the epilogue runs on them
(R194, R195, R200). -/
def bandDone (id : Nat) (s : State) : State :=
  match swathOf s id with
  | none => s
  | some w => match swathTask s w with
    | none => modSwath id (fun w => { w with ph := .done, out := [] }) s
    | some (n, t) =>
      let e := envOf s w n t
      let b := e.recvRows w
      let w := bandFill (e.recvRow w) w
      if b.1 + b.2 < w.rows then bandGo id (setSwath { w with ph := .bandNext, band := w.band + 1 } s)
      else
        let r := roundQM (e.prog.stage w.stage).fmt (bandVals e w)
        swathRun id (setSwath { w with
          cur := r.1, sat := w.sat + r.2, stage := w.stage + 1, got := [], need := 0, band := 0 } s)

/-- Whether a scale line of the coded second input failed its check, in the rows that ADDIN or MULIN read or those that a ROWREP
folds (R113). -/
def secondBad (e : Env) (w : Swath) : Bool :=
  let ps := e.pieces (gatherIdx (e.prog.stage 0).p0.toNat w.rows w.idx)
  ((e.prog.has opAddin || e.prog.has opMulin) && (e.secondQ e.row0 e.rows (pieceOf ps w.data .second)).2) ||
    (e.prog.has opRowrep && !e.repRows.isEmpty && (e.secondQ 0 e.node.rows (pieceOf ps w.data .repG)).2)

/-- The inputs have been read: the primary input becomes the current value (R178, R186, R187), and a weight task writes its
gathered rows (R163). -/
def swathGo (id : Nat) (s : State) : State :=
  match swathOf s id with
  | none => s
  | some w => match swathTask s w with
    | none => modSwath id (fun w => { w with ph := .done, out := [] }) s
    | some (n, t) =>
      let e := envOf s w n t
      let s := modSwath id (fun x => { x with tagMis := x.tagMis || (!w.poison && secondBad e w) }) s
      let w := (swathOf s id).getD w
      if e.prog.loadsBand then swathRun id s
      else
        let idx := gatherIdx (e.prog.stage 0).p0.toNat w.rows w.idx
        let ps := e.pieces idx
        let q := e.primQ idx (pieceOf ps w.data .prim)
        let cols := colsAt e.prog e.ops e.node (if e.prog.has opTranspose then 2 else 1)
        let q0 : QM := if w.poison then List.replicate w.rows (List.replicate cols none) else q.1
        let r := roundQM (e.prog.stage 0).fmt q0
        let r2 := if e.prog.has opTranspose then roundQM (e.prog.stage 1).fmt r.1.toQ else (r.1, 0)
        swathRun id (setSwath (gatherRows e q0 { w with
          cur := r2.1, sat := r.2 + r2.2, stage := if e.prog.has opTranspose then 2 else 1
          tagMis := w.tagMis || (!w.poison && q.2) }) s)

/-- Read the inputs of a swath, its indices being known. -/
def swathReads (id : Nat) (s : State) : State :=
  match swathOf s id with
  | none => s
  | some w => match swathTask s w with
    | none => modSwath id (fun w => { w with ph := .done, out := [] }) s
    | some (n, t) =>
      let e := envOf s w n t
      let segs := (e.pieces (gatherIdx (e.prog.stage 0).p0.toNat w.rows w.idx)).flatMap (·.segs)
      if segLen segs = 0 || w.poison then swathGo id s
      else coreRead w segs (modSwath id (fun w => { w with ph := .reads }) s)

/-- A swath starts to run: a FILL forms its rows at once; any other reads its indices and inputs (R187, R232). A core that has been fenced is
held in reset and presents nothing (R335, R336). -/
def swathBegin (id : Nat) (s : State) : State :=
  match swathOf s id with
  | none => s
  | some w => match swathTask s w with
    | none => modSwath id (fun w => { w with ph := .done, out := [] }) s
    | some (n, t) =>
      let e := envOf s w n t
      if !epochHolds s w.region w.pos w.epoch then s
      else if n.isFill then swathWrites id (setSwath (fillSwath e w) s)
      else if segLen e.idxSegs = 0 || w.poison then swathReads id s
      else coreRead w e.idxSegs (modSwath id (fun w => { w with ph := .gather }) s)

/-! ## Answers to a core's accesses -/

/-- A swath has all the bytes of an access; a doubted byte marks what it gives as poison (R84, R329). -/
def swathReadDone (id : Nat) (bs : List OByte) (s : State) : State :=
  match swathOf s id with
  | none => s
  | some w => match swathTask s w with
    | none => modSwath id (fun w => { w with ph := .done, out := [] }) s
    | some (n, t) =>
      let e := envOf s w n t
      let s := modSwath id (fun w => { w with poisoned := w.poisoned || bs.any Option.isNone }) s
      match w.ph with
      | .gather => swathReads id (modSwath id (fun w => { w with idx := bs }) s)
      | .reads => swathGo id (modSwath id (fun w => { w with data := bs }) s)
      | .spillRd => swathRun id (modSwath id (fun w => { w with cur := spillBack e bs w }) s)
      | .slots =>
        let r := roundQM (e.prog.stage w.stage).fmt (repClose e w.stage bs w.cur)
        swathRun id (modSwath id (fun w => { w with cur := r.1, sat := w.sat + r.2, stage := w.stage + 1 }) s)
      | .tree =>
        let r := treeWrites e bs
        coreWrite w r.1 (modSwath id (fun w => { w with ph := .treeWr, treed := true, poisoned := w.poisoned || r.2 }) s)
      | _ => s

/-- A swath's writes have been acknowledged, or have failed (R332): the task shall complete BUS_STOP with a cause. -/
def swathWriteDone (id : Nat) (s : State) : State :=
  match swathOf s id with
  | none => s
  | some w => match swathTask s w with
    | none => modSwath id (fun w => { w with ph := .done, out := [] }) s
    | some (n, t) =>
      let e := envOf s w n t
      match w.ph with
      | .spillWr => coreRead w ((spillRows e w).map (fun r =>
          (r.2, e.prog.rowLen * wideSize (fmtBefore e.prog w.stage)))) (modSwath id (fun w => { w with ph := .spillRd }) s)
      | .slots =>
        let len := colsAt e.prog e.ops e.node w.stage * 4
        let segs := e.repRows.flatMap (fun x =>
          (List.range (e.prog.stage w.stage).p1.toNat).map (fun p => (repSlot e w.stage p x.1, len)))
        if segLen segs = 0 then
          let r := roundQM (e.prog.stage w.stage).fmt (repClose e w.stage [] w.cur)
          swathRun id (modSwath id (fun w => { w with cur := r.1, sat := w.sat + r.2, stage := w.stage + 1 }) s)
        else coreRead w segs s
      | .treeWr => modSwath id (fun w => { w with ph := .done }) s
      | .writes => swathWritten id s
      | _ => s

/-- Bytes of a receive stream arrive for a swath (R393); those beyond the band are discarded. -/
def bandTake (id : Nat) (bs : List OByte) (s : State) : State :=
  match swathOf s id with
  | none => s
  | some w =>
    if w.ph != .band then s
    else
      let got := (w.got ++ bs).take w.need
      let s := modSwath id (fun w => { w with got := got, poisoned := w.poisoned || bs.any Option.isNone }) s
      if got.length = w.need then bandDone id s else s

/-- The receive stream of a swath has ended early, if its band is not complete (R200). -/
def bandEnd (id : Nat) (s : State) : State :=
  match swathOf s id with
  | none => s
  | some w => if w.ph = .band then bandDone id s else s

end Sys2Proof.Machine
end

