-- ==== Sys2Proof/Machine/Region.lean ====
section
/-! DEFINITION. Regions: core death, fences, zombies and reruns (R334 to R339), parking (R380), the fault-log ring's size (R350), and
what an on-chip word that fails or is corrected brings about (R328, R329, R340, R342). -/

namespace Sys2Proof.Machine

/-! ## Abandoned swaths (R337) -/

/-- Bytes of a stream's elements that still wait at its port. -/
def waitingBytes (p : Port) (sid : Nat) : Nat :=
  sumNat (p.beats.map (fun b => if b.sid = sid && b.op == .sdata then b.data.length else 0))

/-- Whether the SOPEN of a stream still waits at its port: the stream has not been opened. -/
def unopened (p : Port) (sid : Nat) : Bool := p.beats.any (fun b => b.op == .sopen && b.sid == sid)

/-- The send streams that a swath had opened, as an abandonment leaves them: those it took over and has not gone on with stay as they
were. DEDUCED, unsafe (notes/assumptions/43.md). -/
def sentOf (s : State) (w : Swath) : List Sent :=
  let mine := fun (c : Nat) => (port s c).streams.filter (fun o => !o.recv && o.swath == w.id)
  let taken := fun (y : Sent) => match y.port with
    | some (c, sid) => (mine c).any (fun o => o.sid == sid && o.stage == y.stage && o.band == y.band)
    | none => false
  w.skip.filter (fun y => !taken y) ++
    ((List.range s.ports.length).flatMap (fun c =>
      let p := port s c
      ((mine c).filter (fun o => o.closed || !unopened p o.sid)).map (fun o =>
        ⟨some (c, o.sid), o.stage, o.band, if o.closed then o.bytes else o.bytes - waitingBytes p o.sid, o.closed⟩)))

/-- A core that has no swath left takes new sides into use (R78). DEDUCED, unsafe (notes/assumptions/37.md). -/
def coreIdle (w : Swath) (s : State) : State := if coreBusy s w.region w.pos then s else cbFlipAll (.core w.region w.phys) s

/-- The overrun of a slice ends with the last swath of it (R265). DEDUCED, unsafe (notes/assumptions/46.md). -/
def overrunEnd (c : Nat) (s : State) : State :=
  let ended := fun (o : Nat × Nat) => !s.swaths.any (fun w => w.node.ctx == c && w.slice == some o.1)
  modCtx c (fun x => { x with
    debt := cntSat x.debt (sumNat ((x.overrun.filter ended).map (fun o => s.ctlTime - o.2)))
    overrun := x.overrun.filter (fun o => !ended o) }) s

/-- A swath leaves its core. -/
def swathLeave (w : Swath) (s : State) : State := overrunEnd w.node.ctx (coreIdle w (dropSwath w.id s))

/-- Presented bursts of an access that have not been answered. -/
def openBursts (s : State) (id : Nat) : Nat :=
  sumNat (s.ports.map (fun p => (p.out.filter (fun q => match q.burst.owner with
    | .core _ _ _ _ j => j == id
    | _ => false)).length))

/-- Remove a swath's accesses and whatever it has waiting at a port. A write that has been presented is still answered (R333), and a
receive stream that has been opened stays so until its SCLOSE (R393). -/
def swathOff (w : Swath) (s : State) : State :=
  let reads := fun (j : Job) => j.kind == .swathRd w.id
  let writes := fun (j : Job) => j.kind == .swathWr w.id w.node w.task
  let mine := (s.jobs.filter (fun j => reads j || writes j)).map (·.id)
  let sids := fun (p : Port) => (p.streams.filter (fun o => o.swath == w.id && !o.closed)).map (·.sid)
  { s with
    jobs := s.jobs.filterMap (fun j =>
      if reads j || (writes j && openBursts s j.id == 0) then none
      else if writes j then some { j with left := openBursts s j.id }
      else some j)
    ports := s.ports.map (fun p => { p with
      wait := p.wait.filter (fun b => match b.owner with
        | .core _ _ _ _ j => !mine.contains j
        | _ => true)
      beats := p.beats.filter (fun b => !(sids p).contains b.sid)
      streams := p.streams.filter (fun o => !(o.swath == w.id && !o.closed && unopened p o.sid)) }) }

/-- Abandon a swath: it contributes nothing and is to be dispatched again (R337). -/
def abandon (w : Swath) (s : State) : State :=
  let sent := sentOf s w
  let s' := swathLeave w (swathOff w s)
  match swathTask s w with
  | none => s'
  | some (_, t) =>
    let p : Prog := ⟨t.prog⟩
    modTask w.node (fun t => { t with
      reruns := t.reruns ++ [⟨w.row0, w.rows, w.poison || p.loadsBand || p.has opProduct, sent⟩] }) s'

/-! ## Core death (R334 to R336) -/

/-- CORE_FENCE: the epoch advances, the position is vacant and the core is held in reset (R336 steps 1 and 2). What the core
had not yet presented is gone. -/
def declareDead (r p cause : Nat) (s : State) : State :=
  let x := posOf s r p
  if x.vacant then s
  else
    let s := modHealth (fun h => { h with coreLost := true }) s
    let s := modPos r p (fun y => { y with vacant := true, epoch := y.epoch + 1 }) s
    let s := modPhys r x.phys (fun y => { y with fenced := true, logged := false, held := false }) s
    let s := modPort (s.build.clusterOf r p) (fun q => { q with
      wait := q.wait.filter (fun b => match b.owner with
        | .core r' p' e _ _ => !(r' == r && p' == p && e == x.epoch)
        | _ => true)
      beats := q.beats.filter (fun b => !(b.region == r && b.pos == p && b.epoch == x.epoch))
      streams := (q.streams.filter (fun o => !(o.region == r && o.pos == p && !o.closed && unopened q o.sid))).map (fun o =>
        if o.region = r && o.pos = p && !o.recv && !o.closed then { o with bytes := o.bytes - waitingBytes q o.sid } else o) }) s
    modRegion r (fun y => { y with fences := y.fences ++ [⟨p, x.phys, x.epoch, cause⟩] }) s

/-- Whether a position is built and may be watched. -/
def posBuilt (s : State) (r p : Nat) : Bool := r < s.regions.length && p < (region s r).pos.length

/-- CORE_ALIVE_TIMEOUT (R334, R380). DESIGN CHOICE, safe (notes/assumptions/4.md). -/
def execCoreAliveTimeout (r p : Nat) (s : State) : Answer := inRun s <|
  if !posBuilt s r p || !(region s r).ready || (region s r).parkAck then .next s
  else .next (declareDead r p 1 s)

/-- The effect of a write of HLT_CORE_CTRL (R334, R351). -/
def coreCtrl (data : Word) (s : State) : State :=
  let s := modHealth (fun h => { h with coreCtrl := data &&& 0x0000073F }) s
  let r := bits data.toNat 8 3
  let p := bits data.toNat 0 6
  if bit data.toNat 31 && posBuilt s r p then declareDead r p 3 s else s

/-- HLT_RETIRE: a write of HLT_CORE_CTRL. -/
def execHltRetire (data : Word) (s : State) : Answer := inRun s <|
  .next (coreCtrl data (emit (.cpAck false) s))

/-- Whether a request that a core presented before a fence is outstanding. -/
def fenceOpen (s : State) (r : Nat) (f : Fence) : Bool :=
  (port s (s.build.clusterOf r f.pos)).out.any (fun q => match q.burst.owner with
    | .core r' p' e _ _ => r' == r && p' == f.pos && e == f.epoch
    | _ => false)

/-- CORE_FENCE_SETTLED (R336 steps 3 to 6): the swaths are abandoned, and the spare takes the position where it is free
(SPARE_PROMOTED). DEDUCED, unsafe (notes/assumptions/66.md). -/
def execCoreFenceSettled (r p : Nat) (s : State) : Answer := inRun s <|
  match (region s r).fences.find? (fun f => f.pos == p) with
  | none => .next s
  | some f =>
    if s.regions.length ≤ r || fenceOpen s r f then .next s
    else
      let ws := s.swaths.filter (fun w => w.region == r && w.pos == p && w.epoch == f.epoch)
      let s := ws.foldl (fun s w => abandon w s) s
      let s := cbFlipAll (.core r f.phys) s
      let s := modPhys r f.phys (fun y => { y with retired := true }) s
      let s := modRegion r (fun y => { y with fences := y.fences.filter (fun g => g.pos != p) }) s
      let s := logEvent 0x08 1 r f.phys noCtx (p * 2 ^ 16 + f.cause) 0 s
      if (region s r).spareFree then
        let s := modRegion r (fun y => { y with spareFree := false }) (modPos r p (fun y => { y with vacant := false, phys := 64 }) s)
        .next (slotsUnpin (logEvent 0x09 1 r 64 noCtx (p * 2 ^ 16 + (posOf s r p).epoch.toNat) 0 s))
      else .next (slotsUnpin s)

/-- ZOMBIE_REQUEST (R335, R338): a request whose epoch is not its position's is dropped, counted and, the first after a fence,
logged. -/
def execZombieRequest (r phys pos : Nat) (epoch : BitVec 16) (addr : Nat) (_wr : Bool) (s : State) : Answer := inRun s <|
  let c := (region s r).phys.getD phys Phys.reset
  if !posBuilt s r pos || !c.fenced || (posOf s r pos).epoch == epoch then .next s
  else
    let s := modHealth (fun h => { h with fenceDrop := cntSat h.fenceDrop 1, fenced := true }) s
    if c.logged then .next s
    else .next (logEvent 0x0A 1 r phys noCtx (pos * 2 ^ 16 + epoch.toNat) addr (modPhys r phys (fun y => { y with logged := true }) s))

/-- ZOMBIE_ALIVE_TOGGLE (R338): the region asserts the core's reset again. -/
def execZombieAliveToggle (r phys : Nat) (s : State) : Answer := inRun s <|
  if ((region s r).phys.getD phys Phys.reset).fenced then .next (modPhys r phys (fun y => { y with held := true }) s)
  else .next s

/-! ## Parking (R380) -/

/-- REGION_PARK_REQUEST: rgn_park_req goes to 1. Slots homed in the region are evicted, those that are pinned as they
unpin (`slotsUnpin`), and a CHECK or COMMIT that was to use one goes on with another. -/
def execRegionParkRequest (r : Nat) (s : State) : Answer := inRun s <|
  if s.regions.length ≤ r then .next s
  else .next (foldPumpAll (slotsPark r (modRegion r (fun y => { y with parkReq := true }) s)))

/-- What R380 step 2 asks for. -/
def parkQuiet (s : State) (r : Nat) : Bool :=
  !s.swaths.any (fun w => w.region == r) && allIdle (region s r).dma &&
    (regionPorts s r).all (fun c => (port s c).out.isEmpty) &&
    !s.trk.slots.any (fun sl => s.build.homeRegion sl.idx == r && pinned s sl) && (region s r).fences.isEmpty

/-- REGION_PARK_ACK. -/
def execRegionParkAck (r : Nat) (s : State) : Answer := inRun s <|
  if s.regions.length ≤ r || !(region s r).parkReq || (region s r).parkAck || !parkQuiet s r then .next s
  else .next (slotsPark r (modRegion r (fun y => { y with parkAck := true }) s))

/-- REGION_UNPARK: rgn_park_req goes to 0 and the region takes work again, a CHECK or COMMIT that waited for its slots too. -/
def execRegionUnpark (r : Nat) (s : State) : Answer := inRun s <|
  if s.regions.length ≤ r || !(region s r).parkReq then .next s
  else
    let s := modRegion r (fun y => { y with parkReq := false, parkAck := false }) s
    .next (foldPumpAll (bandsGo r (drainCtl (drainRegion r s))))

/-! ## The fault-log ring (R350, R351) -/

/-- The effect of a write of HLT_LOG_SIZE. -/
def logSize (data : Word) (s : State) : State := logPump (modHealth (fun h => { h with logLog2 := bits data.toNat 0 5 }) s)

/-- HLT_LOG_SIZE_WRITE: held entries are written once the ring is set up. -/
def execHltLogSizeWrite (data : Word) (s : State) : Answer := inRun s <|
  .next (logSize data (emit (.cpAck false) s))

/-- The write of an entry's bytes 4 to 31, or of its SEQ, has ended; one that failed is discarded and counted (R350). -/
def logWritten (seq fail : Bool) (s : State) : State :=
  if fail then
    logPump (modHealth (fun h => { h with queue := h.queue.drop 1, phase := .idle, logLost := cntSat h.logLost 1 }) s)
  else if seq then
    logPump (modHealth (fun h => { h with queue := h.queue.drop 1, phase := .idle, logWrite := h.logWrite + 1 }) s)
  else modHealth (fun h => { h with phase := .bodyDone }) s

/-- SEQ of the entry whose other bytes are acknowledged is written (R348). -/
def logSeqWrite (s : State) : State :=
  if s.health.phase == .bodyDone then
    startWrite .logSeq (logAddr s.health s.health.logWrite) (leBytes 4 s.health.logWrite.toNat)
      (modHealth (fun h => { h with phase := .seq }) s)
  else s

/-! ## On-chip words (R328, R329) -/

/-- The scoreboard entry of node k of a graph slot (R249). -/
def Ctx.scoreAddr (x : Ctx) (slot k : Nat) : Nat := word64 x.scoreLo x.scoreHi + slot * 262144 + 4 * k

/-- The headland slice of a core reports an uncorrectable word (R329, R334): the swath that owns the word is abandoned, and at the
limit the core is declared dead. DEDUCED, unsafe (notes/assumptions/66.md). -/
def headlandUe (r p : Nat) (owner : Option Nat) (s : State) : State :=
  let x := posOf s r p
  if !posBuilt s r p || x.vacant then s
  else
    let s := logEvent 0x03 1 r x.phys noCtx 1 0 (countUe 1 (some r) s)
    let s := modPhys r x.phys (fun y => { y with ue := y.ue + 1 }) s
    if s.health.ueLimit ≤ ((region s r).phys.getD x.phys Phys.reset).ue then declareDead r p 2 s
    else match s.swaths.find? (fun w => w.region == r && w.pos == p && some w.id == owner) with
      | some w => slotsUnpin (abandon w s)
      | none => s

/-- What a word of on-chip storage that is corrected, or that cannot be, brings about (R328, R329, R340, R342).
DESIGN CHOICE, safe (notes/assumptions/30.md). -/
def applyUpset (u : Upset) (s : State) : State :=
  match u with
  | .corrected store src => noteCorrected store src [0] s
  | .headland r p owner => headlandUe r p owner s
  | .slot i =>
    match slotAt s i with
    | none => s
    | some sl =>
      let r := s.build.homeRegion i
      let s := logEvent 0x03 1 r 0x200 sl.ctx 2 0 (countUe 1 (some r) s)
      if sl.ph = .ready then slotRead i s else s
  | .scoreboard c slot node =>
    let s := logEvent 0x03 0 0 0 c 2 0 (countUe 1 none s)
    if ctxBuilt s c && slot < 4 then startRead (.scoreRead c) [((ctxOf s c).scoreAddr slot node, 4)] s else s
  | .context c => if ctxBuilt s c then ctxStop c 1 0 (countUe 1 none s) else s
  | .bank n => wedgeBank n (countUe 1 none s)
  | .recipes => wedgeRecipes (countUe 1 none s)
  | .seqCode => wedgeSeq (countUe 1 none s)
  | .dmaBuffer r ch =>
    if s.regions.length ≤ r || 32 ≤ ch || (chan s r ch).state != .active then s
    else dmaFail r ch 0x44 0 (logEvent 0x03 1 r (0x100 + ch) noCtx 3 0 (countUe 1 (some r) s))
  | .liftWindow i w =>
    if i < s.slices.length then
      let sl := liftSlice s i
      let s := logEvent 0x03 2 0 i noCtx 3 0 (countUe 1 none (modSlice i (fun sl => { sl with
        wins := modAt sl.wins w (fun x => { x with loaded := false, next := none }) }) s))
      -- a side that a switch has broadcast is lost with the window: the slice is counted off, and the reload brings the live side
      if (sl.win w).next.isSome then cbFlip (sl.bank w) (.slice i) s else s
    else s
  | .agreement _ | .linkBuffer _ _ _ _ _ | .snapshot _ _ => linkUpset u s

/-- The upsets that a command brings, one after another (R328, R329). DESIGN CHOICE, safe (notes/assumptions/30.md). -/
def applyUpsets (u : Option Upset) (s : State) : State :=
  match u with
  | some u => applyUpset u s
  | none => s

/-- CB_SWITCH (R78, R77, R340): a CB_CTRL write whose action is SWITCH; a master copy that cannot be read is wedged first. -/
def execCbSwitch (n : Nat) (presetId : BitVec 4) (ue : Option Upset) (s : State) : Answer := inRun s <|
  let s := emit (.cpAck false) s
  if n < 16 then .next (cbCtrlWrite n presetId false false true (applyUpsets ue s)) else .next s

end Sys2Proof.Machine
end

