-- ==== Sys2Proof/Machine/Task.lean ====
section
/-! DEFINITION. TASK and FILL nodes: the reading of their descriptors, their checks (R248, R256), their holds (R250), the dispatch and
completion of their swaths (R181, R262, R264, R337), the two passes (R129), and their completion (R118, R157, R251). -/

namespace Sys2Proof.Machine

/-! ## Preparation (R174, R179, R246) -/

/-- A task that has just been dispatched: its operand block is to be read. -/
def newTask (id : Nat) : Task where
  id := id
  ph := .ops
  ops := []
  prog := []
  tables := []
  left := 0
  bad := none
  ask := none
  plans := []
  swords := []
  scales := []
  final := true
  next := 0
  done := 0
  reruns := []
  stats := List.replicate 4 Stats.none
  chv := List.replicate 4 []
  poisoned := false
  tagMis := false
  fallback := false
  heldSpilled := false
  stop := none
  merges := []
  tailLeft := 0
  started := false
  tileQ := []
  tileRow := []

/-- The jobs of a task. -/
def JobKind.ofTask (r : NodeRef) (id : Nat) : JobKind → Bool
  | .taskOps n t | .taskHdr n t | .taskStages n t | .taskTable n t _ | .sword n t _ | .plan n t _ | .planList n t _
  | .merge n t _ | .mergeWr n t _ | .tail n t => n == r && t == id
  | _ => false

/-- The swaths of a task. -/
def swathsOf (s : State) (id : Nat) : List Swath := s.swaths.filter (fun w => w.task == id)

/-- A task completes REJECTED; its swaths, which have read none of its data, leave their cores (R256). -/
def rejectTask (r : NodeRef) (cause : Nat) (s : State) : State :=
  match taskOf s r with
  | none => s
  | some t =>
    let s := (swathsOf s t.id).foldl (fun s w => swathLeave w (swathOff w s)) s
    slotsUnpin (completeNode r stRejected cause (dropJobs (JobKind.ofTask r t.id) s))

/-- Whether GLN_SIZE lets the task's records be written (R151). -/
def glnSizeBad (s : State) (c : Nat) (p : Prog) (n : Node) : Bool :=
  (n.isFill || !p.taps.isEmpty) && ((ctxOf s c).glnSize.toNat < 8 || 20 < (ctxOf s c).glnSize.toNat)

/-- The causes that the node, its operand block and its program decide, those found while they were read among them (R64, R117, R245, R248,
R256). An operand block or a program that could not be read decides nothing more. DEDUCED, unsafe (notes/assumptions/41.md). -/
def staticCauses (s : State) (r : NodeRef) (n : Node) (t : Task) : List Nat :=
  let p : Prog := ⟨t.prog⟩
  (if n.step ≤ (ctxOf s r.ctx).sctStep.toNat then [0x02] else []) ++ bodyCauses n s.build.linkPorts ++
    (if t.ops.isEmpty then [0x0D] else opsCauses n t.ops ++ sizeCauses n t.ops p) ++ (if glnSizeBad s r.ctx p n then [0x0A] else []) ++ t.bad.toList ++
    (if n.isFill || t.prog.isEmpty then []
     else if t.ops.isEmpty then (if p.ok [] then [] else [0x07])
     else progCauses n t.ops p s.build.linkPorts)

/-- The bytes of a reading, where all have been read. -/
def wholeRead (len : Nat) (bs : List OByte) : Option (List Byte) :=
  match sound bs with
  | some b => if b.length = len then some b else none
  | none => none

/-- The node and task a reading belongs to, where they still are. -/
def taskAt (s : State) (r : NodeRef) (id : Nat) : Option (Node × Task) :=
  match nodeOf s r with
  | some n => match n.task with
    | some t => if t.id = id then some (n, t) else none
    | none => none
  | none => none

/-! ## Holds (R250) -/

/-- A recipe of the store reports ready (R37, R340, R370). -/
def recipeReady (s : State) (k : Nat) : Bool := !s.health.wedgedRecipes && (s.loader.bootDone || s.rcpApplied.contains k)

/-- Every operation of a task's program is provided and not under replacement (R37, R340, R370, R372). -/
def programReady (s : State) (t : Task) : Bool :=
  (Prog.mk t.prog).stages.all (fun st =>
    !s.health.wedgedSeq && (t.started || !(shadowOps s).getLsbD st.op) &&
    s.seqSlots.any (fun q => match q with
      | some q => q.opset.getLsbD st.op
      | none => false))

/-- The functions that a task needs report ready (R37): the recipes it names, and the operations of its program. A task that is to be
rejected runs none of them. DEDUCED, unsafe (notes/assumptions/41.md). -/
def functionsReady (s : State) (t : Task) : Bool :=
  (t.bad.isSome || programReady s t) &&
  (((Prog.mk t.prog).taps.filter (fun st => st.is opDrill && (destRec t.ops st.dest).named)).all (fun st =>
    recipeReady s (destRec t.ops st.dest).recipe))

/-- The banks that a task names have a valid live side, and no BANKSWITCH node has started at one and not ended (R80, R82).
DEDUCED, unsafe (notes/assumptions/123.md). -/
def banksReady (s : State) (t : Task) : Bool :=
  (taskBanks t.ops).all (fun b => (bank s b).ready && (bank s b).node.isNone && (bank s b).waits.isEmpty)

/-- The holds of a task for a function or a bank have ended (R37, R80, R82). -/
def holdsEnded (s : State) (t : Task) : Bool := functionsReady s t && banksReady s t

/-- The streams of a task are resident and have committed the previous step (R117, R146, R155).
DEDUCED, unsafe (notes/assumptions/61.md). -/
def streamsReady (s : State) (c : Nat) (n : Node) (t : Task) : Bool :=
  (slotStreams n t.ops ⟨t.prog⟩).all (fun x => match slotReady s c x with
    | some sl => committed s c sl n.step
    | none => false)

/-- A task that may dispatch a swath now, a core apart: none of its holds applies (R250). Before its program has been read, and where its
step has been committed meanwhile so that it is to be rejected (R117), there is nothing to hold it for.
DEDUCED, unsafe (notes/assumptions/15.md). -/
def taskFree (s : State) (c : Nat) (n : Node) (t : Task) : Bool :=
  (t.ph == .ready || t.ph == .run) && (!t.known n || t.bad.isSome || !t.reruns.isEmpty || t.next < n.rows) &&
    (!t.known n || (!t.started && n.step ≤ (ctxOf s c).sctStep.toNat) ||
      (holdsEnded s t && (t.started || streamsReady s c n t)))

/-! ## Cores (R181, R262, R380) -/

/-- Headland allocation in use at a position, in KiB. -/
def kibUsed (s : State) (r p : Nat) : Nat :=
  sumNat ((s.swaths.filter (fun w => w.region == r && w.pos == p)).map (·.kib))

/-- The positions of a region that are withheld from throughput contexts (R262, R273): the last occupied ones (log 60).
DEDUCED, unsafe (notes/assumptions/18.md). DESIGN CHOICE, unsafe (notes/assumptions/60.md). -/
def withheld (s : State) (r : Nat) : List Nat :=
  let occ := (((region s r).pos.zipIdx).filter (fun p => !p.1.vacant)).map (·.2)
  (occ.reverse).take (min s.sched.latRsv.toNat (occ.length - 1))

/-- Whether a position can take a swath that needs some headland space, and some stream ids of its port's 256 (R181, R355, R380, R385).
DEDUCED, unsafe (notes/assumptions/18.md). DEDUCED, unsafe (notes/assumptions/84.md). -/
def coreFree (s : State) (r p kib sids : Nat) (latency : Bool) : Bool :=
  posBuilt s r p && !(posOf s r p).vacant && (region s r).ready && !(region s r).parkReq &&
    portOpen s (s.build.clusterOf r p) && kibUsed s r p + kib ≤ 120 && (latency || !(withheld s r).contains p) &&
    (sids == 0 || sidsHeld s (s.build.clusterOf r p) + sids ≤ 256)

/-- Whether a position's cluster may take the swath that a task dispatches next: a rerun whose earlier run left a send stream open goes on
with it on the same port, unless no core of that cluster is left (R21, R337, R393). DEDUCED, unsafe (notes/assumptions/84.md). -/
def rerunAt (s : State) (t : Task) (r p : Nat) : Bool :=
  match t.reruns.head? with
  | none => true
  | some y => y.sent.all (fun x => match x.port with
    | some (c, _) => x.closed || s.build.clusterOf r p == c ||
        !((List.range s.regions.length).any (fun q => ((region s q).pos.zipIdx).any (fun o =>
          s.build.clusterOf q o.2 == c && !o.1.vacant)))
    | none => true)

/-! ## The order of dispatch (R250, R261, R262, R264) -/

/-- Whether a node precedes, in node order, a completed node that has not been emitted (R261). -/
def precedesDone (x : Ctx) (slot k : Nat) : Bool :=
  let rest := x.graphs.dropWhile (fun g => g.slot != slot)
  match rest with
  | [] => false
  | g :: more =>
    ((g.nodes.zipIdx).any (fun n => k < n.2 && g.emitted ≤ n.2 && n.1.stat == .completed)) ||
      more.any (fun h => h.refused || h.nodes.any (fun n => n.stat == .completed))

/-- Whether a context's state lets a node be dispatched (R250, R261). -/
def mayRun (x : Ctx) (slot k : Nat) (started : Bool) : Bool :=
  !x.quiet && (x.state == .enabled || (x.state == .draining && !x.cancelling && (started || precedesDone x slot k)))

/-- Headland space and stream ids of a swath of a task: none before its program has been read, nor where the task is to be rejected. -/
def swathNeeds (n : Node) (t : Task) : Nat × Nat := if t.bad.isSome then (0, 0) else ((Prog.mk t.prog).kib, streamNeed n t)

/-- The first node in node order whose next swath a position can take. -/
def firstSwath (s : State) (c r p : Nat) : Option NodeRef :=
  let x := ctxOf s c
  ((x.graphs.filter (fun g => !g.refused)).flatMap (fun g => (g.nodes.zipIdx).filterMap (fun n => match n.1.task with
    | some t =>
      let need := swathNeeds n.1 t
      if mayRun x g.slot n.2 t.started && taskFree s c n.1 t && coreFree s r p need.1 need.2 x.latency && rerunAt s t r p then
        some ⟨c, g.slot, n.2⟩
      else none
    | none => none))).head?

/-- How long ago, in turns, a context was served: the context after the one served last comes first (R262). -/
def turns (s : State) (c : Nat) : Nat := (c + s.ctxs.length - (s.sched.lastServed + 1)) % s.ctxs.length

/-- The rank of a context for a freed core: lower is served first (R262, R264). -/
def swathRank (s : State) (c : Nat) : Nat × Nat × Nat := (sliceRank s c, 7 - (ctxOf s c).prio, turns s c)

def rankLt (a b : Nat × Nat × Nat) : Bool :=
  a.1 < b.1 || (a.1 == b.1 && (a.2.1 < b.2.1 || (a.2.1 == b.2.1 && a.2.2 < b.2.2)))

/-- The swath that the scheduler offers a position to. DEDUCED, unsafe (notes/assumptions/45.md). -/
def offered (s : State) (r p : Nat) : Option NodeRef :=
  ((List.range s.ctxs.length).foldl (fun (best : Option (Nat × NodeRef)) c =>
    match firstSwath s c r p with
    | none => best
    | some n => match best with
      | none => some (c, n)
      | some b => if rankLt (swathRank s c) (swathRank s b.1) then some (c, n) else best) none).map (·.2)

/-! ## Division into swaths (R184, R196, R197, R68) -/

/-- Whether a swath of rows row0 to row0 + rows - 1 may be cut off here: a reduced axis at its chunk boundaries, and not at all
without scratch (R184); whole bands of a host result and of a task that chains (R195); a furrow and a scale line whole (R68).
DESIGN CHOICE, safe (notes/assumptions/10.md). DEDUCED, safe (notes/assumptions/38.md). -/
def rowsOk (n : Node) (t : Task) (row0 rows : Nat) : Bool :=
  let p : Prog := ⟨t.prog⟩
  let last := row0 + rows == n.rows
  let reds := !(colReds n t.ops p).isEmpty
  1 ≤ rows && row0 + rows ≤ n.rows &&
    (last || n.isFill || !p.chaining || rows % bandHeight n == 0) &&
    (if n.isFill then true
     else (if reds && p.scratch == 0 then rows == n.rows else true) &&
       (last || (if p.loadsBand then rows % n.band == 0 else !reds || rows % 512 == 0))) &&
    (last || p.taps.all (fun st =>
      let r := destRec t.ops st.dest
      !st.is opDrill || st.chains ||
        ((!r.fmt.axis || (n.rowOff + row0 + rows) % r.fmt.furrow == 0) &&
         (!r.fmt.lines || r.furrowAt (n.rowOff + row0 + rows) % 56 == 0))))

/-! ## The checks of the first swath (R59, R100, R101, R120, R123, R154, R190, R196) -/

/-- The recipe of a tracked destination. -/
def destRecipe (s : State) (r : Rec) : Recipe := recipeOf s r.recipe

/-- What a drill destination is drilled with (R83, R116, R128 to R130), its recipe with it. `onChip`: its input cannot be read twice. -/
def destScale (s : State) (c : Nat) (r : Rec) (onChip : Bool) : DestScale :=
  if !r.named then ⟨r.t, r.z, .warm, false, []⟩
  else
    let rcp := destRecipe s r
    let z0 := if rcp.zpMode = 0 then 0 else rcp.zFixed
    match slotReady s c r.stream with
    | none => ⟨rcp.tSeed, z0, .seeded, false, rcp.w⟩
    | some sl => match sl.scale with
      | some t => ⟨t, sl.zero, .warm, sl.corr.isSome, rcp.w⟩
      | none => if rcp.seed || onChip then ⟨rcp.tSeed, z0, .seeded, false, rcp.w⟩ else ⟨rcp.tSeed, z0, .twoPass, false, rcp.w⟩

/-- Whether the input of the tap at stage i is a result band or follows a PRODUCT (R130). -/
def onChip (p : Prog) (i : Nat) : Bool := p.loadsBand || (p.stages.take i).any (·.is opProduct)

/-- The scales of the four destinations. -/
def taskScales (s : State) (c : Nat) (t : Task) : List DestScale :=
  let p : Prog := ⟨t.prog⟩
  (List.range 4).map (fun d =>
    match (p.stages.zipIdx).find? (fun st => st.1.is opDrill && st.1.dest == d) with
    | some st => destScale s c (destRec t.ops d) (onChip p st.2)
    | none => ⟨0, 0, .warm, false, []⟩)

/-- Whether a plan does not suit the task that names it (R154). A weight whose rows are gathered has C along the columns of its view, also a
transposed one, or down its rows, which are the task's: an input is not offset (R163, R418).
DEDUCED, unsafe (notes/assumptions/124.md). -/
def planMisfit (n : Node) (t : Task) (pl : Plan) : Bool :=
  let p : Prog := ⟨t.prog⟩
  let last := n.rowOff + n.rows
  pl.enabled &&
    (p.taps.any (fun st =>
        let r := destRec t.ops st.dest
        r.stream == pl.stream && (st.is opDrill || r.sidex) &&
          (r.cols != pl.chans || pl.rows < last)) ||
      (n.spart == pl.stream && (p.has opSide || p.has opRowrep) && pl.rows < last) ||
      (n.gpart == pl.stream && !p.has opSide && n.rows != pl.chans &&
        (if p.has opTranspose then (destRec t.ops 0).cols else (inRec t.ops 0).cols) != pl.chans))

/-- K is given where both operands of a head carry zero points (R190). -/
def zpcBad (e : Env) : Bool :=
  (e.prog.stages.zipIdx).any (fun st => st.1.is opZpc && st.1.p0 == 0 &&
    (let h := e.headScale st.2
     let za := zeroQ (e.slotScale h h.va).2
     let zb := zeroQ (e.slotScale h h.vb).2
     match za, zb with
     | some a, some b => !a.isZero && !b.isZero
     | _, _ => false))

/-- The causes that the banks, the recipes and the slots decide when T and Z are taken (R59, R100, R101, R120, R123, R196), and whether an
invalid recipe is among them. The holds of the task have ended (R250). Each chained intermediate is held against CHAIN_KIB by itself, with the code width of the bank's live side. DEDUCED, unsafe (notes/assumptions/41.md).
DEDUCED, unsafe (notes/assumptions/100.md). -/
def scaleCauses (s : State) (r : NodeRef) (n : Node) (t : Task) : List Nat × Bool :=
  let p : Prog := ⟨t.prog⟩
  let drills := (p.taps.filter (·.is opDrill)).map (fun st => (st, destRec t.ops st.dest))
  let side := fun (x : Rec) => (bank s x.fmt.bank).liveSide
  let scale := fun (d : Stage × Rec) => t.scales.getD d.1.dest default
  let badRcp := drills.any (fun d => d.2.named && !(Recipe.mk (scale d).rcp).valid)
  ((if (codedRecs t.ops).any (fun x => x.fmt.mode == .unscaled && !(side x).hasVoid) then [0x03] else []) ++
   (if drills.any (fun d => d.2.named && ((d.2.coded && d.2.fmt.mode == .e8m0 && (scale d).z != 0) ||
      ((scale d).cold == .warm && !validZero (scale d).z))) then [0x04] else []) ++
   (if badRcp || drills.any (fun d => d.2.named && (match slotReady s r.ctx d.2.stream with
      | some sl => sl.entry.valid && sl.entry.recipe != d.2.recipe
      | none => false)) then [0x05] else []) ++
   (if drills.any (fun d => d.1.chains && p.chainKib * 1024 < chainBytes d.1 d.2 n (side d.2).width) then [0x08] else []),
   badRcp)

/-- The causes that the scale words and the plans decide (R154, R190). DEDUCED, unsafe (notes/assumptions/41.md). -/
def readCauses (r : NodeRef) (n : Node) (t : Task) : List Nat :=
  let e : Env := ⟨r.ctx, r.node, n, t, 0, 0, n.rows, []⟩
  (if zpcBad e then [0x04] else []) ++ (if t.plans.any (fun pl => !pl.ok || planMisfit n t pl) then [0x06] else [])

/-- Plans that are invalid, or that the task does not suit, are flagged and logged (R154).
DESIGN CHOICE, unsafe (notes/assumptions/63.md). -/
def plansBad (r : NodeRef) (n : Node) (t : Task) (s : State) : State :=
  (t.plans.filter (fun pl => !pl.ok || planMisfit n t pl)).foldl (fun s pl =>
    logEvent 0x3B 0 0 0 r.ctx pl.stream n.step (modCtx r.ctx (fun x => { x with planBad := true }) s)) s

/-- The readings of the first swath are complete: the task is rejected with the lowest cause of all (R256), or its swaths begin. -/
def setupDone (r : NodeRef) (n : Node) (s : State) : State :=
  match taskOf s r with
  | none => s
  | some t => match lowest (readCauses r n t ++ t.bad.toList) with
    | some c => rejectTask r c (plansBad r n t s)
    | none =>
      let two := t.scales.any (fun d => d.cold == .twoPass)
      let s := modTask r (fun x => { x with ph := .run, final := !two }) s
      (swathsOf s t.id).foldl (fun s w => swathBegin w.id s) s

/-- Where nothing of a task's first readings is open, they are complete. -/
def setupGo (r : NodeRef) (n : Node) (s : State) : State :=
  match taskOf s r with
  | some t => if t.left = 0 then setupDone r n s else s
  | none => s

/-- The first swath of a task is dispatched, or the task is to be rejected: T and Z of its destinations are taken (R83), and its scale words
and plans are read (R119, R154); the scale words of a program that breaks R180 are not. DEDUCED, unsafe (notes/assumptions/15.md). -/
def taskSetup (r : NodeRef) (n : Node) (t : Task) (bad : List Nat) (s : State) : State :=
  let p : Prog := ⟨t.prog⟩
  let words := if n.isFill || !p.ok t.ops then [] else taskWords t.ops p
  let plans := if n.isFill then [] else taskStreams n t.ops p
  let streams := if (ctxOf s r.ctx).oplan == 0 then [] else plans
  let t := { t with scales := taskScales s r.ctx t }
  let cs := scaleCauses s r n t
  let s := if cs.2 then modCtx r.ctx (fun x => { x with rcpRej := true }) s else s
  let s := modTask r (fun x => { x with
    ph := .setup, left := words.length + streams.length, plans := plans.map Plan.zero
    scales := t.scales, bad := lowest (bad ++ cs.1), ask := none }) s
  let s := words.foldl (fun s a => startRead (.sword r t.id a) [(a, 16)] s) s
  setupGo r n (streams.foldl (fun s x => startRead (.plan r t.id x) [((ctxOf s r.ctx).oplan + 64 * x, 64)] s) s)

/-- What the node, its operand block and its program decide is known. A cause of 0x03 or lower rejects the task, as nothing lower is left to
look for. With any other the task waits like a sound one until its holds have ended (R250), looks then for a lower one among its scales,
scale words and plans, and is rejected (R256). DEDUCED, unsafe (notes/assumptions/41.md). -/
def taskKnown (r : NodeRef) (cs : List Nat) (s : State) : State :=
  match lowest cs with
  | some c => if c ≤ 0x03 then rejectTask r c s else modTask r (fun t => { t with ph := .ready, bad := some c, ask := none }) s
  | none => modTask r (fun t => { t with ph := .ready, ask := none }) s

/-- The operand block is settled: a task waits for its first swath, before which its program is read (R174); of a FILL, or where the
program block is misaligned, all that decides is known. DEDUCED, unsafe (notes/assumptions/15.md). -/
def taskOpsDone (r : NodeRef) (s : State) : State :=
  match nodeOf s r with
  | none => s
  | some n => match n.task with
    | none => s
    | some t =>
      if n.isFill || n.prog % 64 != 0 then taskKnown r (staticCauses s r n t) s
      else modTask r (fun t => { t with ph := .ready }) s

/-- Dispatch a TASK or FILL: its operand block is read. DEDUCED, unsafe (notes/assumptions/15.md). -/
def taskStart (r : NodeRef) (n : Node) (s : State) : State :=
  let id := s.nextTask
  let s := modNode r (fun n => { n with stat := .dispatched, task := some (newTask id) }) { s with nextTask := id + 1 }
  if n.opsAt % 64 != 0 then taskOpsDone r s else startRead (.taskOps r id) [(n.opsAt, 256)] s

/-- The operand block has been read; one that could not be read is a fault of cause 0x0D (R248, R330). -/
def taskOpsRead (r : NodeRef) (id : Nat) (bs : List OByte) (s : State) : State :=
  match taskAt s r id with
  | none => s
  | some _ => taskOpsDone r (modTask r (fun t => { t with ops := (wholeRead 256 bs).getD [] }) s)

/-- One reading of the first swath has ended. -/
def setupStep (r : NodeRef) (n : Node) (f : Task → Task) (s : State) : State :=
  setupGo r n (modTask r (fun t => { (f t) with left := t.left - 1 }) s)

/-- A scale word has been read; one that could not be read gives neither a T nor a Z (R119, R330, R333).
DEDUCED, unsafe (notes/assumptions/134.md). -/
def swordRead (r : NodeRef) (id addr : Nat) (bs : List OByte) (s : State) : State :=
  match taskAt s r id with
  | none => s
  | some (n, _) =>
    let w := (wholeRead 16 bs).map (fun b => (BitVec.ofNat 32 (fld b 0 4), BitVec.ofNat 32 (fld b 4 4)))
    setupStep r n (fun t => { t with swords := t.swords ++ [(addr, w)] }) s

def setPlan (pl : Plan) (t : Task) : Task := { t with plans := t.plans.map (fun q => if q.stream = pl.stream then pl else q) }

/-- A plan entry has been read (R154); a valid one with a list goes on to its list. -/
def planRead (r : NodeRef) (id stream : Nat) (bs : List OByte) (s : State) : State :=
  match taskAt s r id with
  | none => s
  | some (n, _) => match planParse stream bs with
    | none => setupStep r n (setPlan { (Plan.zero stream) with ok := false }) s
    | some pl =>
      if !pl.enabled then setupStep r n (setPlan { pl with ok := true }) s
      else if !pl.entryOk then setupStep r n (setPlan { pl with ok := false }) s
      else if pl.count = 0 then setupStep r n (setPlan { pl with ok := true }) s
      else startRead (.planList r id stream) [(pl.area, 2 * pl.count)] (modTask r (setPlan pl) s)

/-- The channel list of a plan entry has been read (R154); one that cannot be read makes the plan invalid, as an entry that cannot be read
does (R330). DEDUCED, unsafe (notes/assumptions/106.md). -/
def planListRead (r : NodeRef) (id stream : Nat) (bs : List OByte) (s : State) : State :=
  match taskAt s r id with
  | none => s
  | some (n, t) => match t.plans.find? (fun q => q.stream == stream) with
    | none => s
    | some pl => match listParse pl bs with
      | some pl => setupStep r n (setPlan { pl with ok := true }) s
      | none => setupStep r n (setPlan { pl with ok := false }) s

/-! ## SWATH_DISPATCH -/

/-- The side of each bank that a swath uses from start to end (R79): the new one where a switch is under way.
DEDUCED, unsafe (notes/assumptions/37.md). -/
def swathSides (s : State) (t : Task) : List (Nat × Bool × Side) :=
  (taskBanks t.ops).map (fun n =>
    let b := bank s n
    let one := if b.state = .switching then !b.live else b.live
    (n, one, b.side one))

/-- A swath is dispatched to a position. -/
def swathPlace (node : NodeRef) (n : Node) (t : Task) (r p rows : Nat) (s : State) : State :=
  let x := posOf s r p
  let c := node.ctx
  -- the core takes new sides into use at the start of a swath (R78)
  let s := cbFlipAll (.core r x.phys) s
  let rerun := t.reruns.head?
  let row0 := match rerun with
    | some y => y.row0
    | none => t.next
  let id := s.nextSwath
  let s := modTask node (fun t => match rerun with
    | some _ => { t with reruns := t.reruns.drop 1 }
    | none => { t with next := t.next + rows }) { s with nextSwath := id + 1 }
  let poison := match rerun with
    | some y => y.poison
    | none => false
  let s := { s with
    sched := { s.sched with lastServed := c }
    swaths := s.swaths ++ [{
      id := id, region := r, pos := p, epoch := x.epoch, phys := x.phys, node := node, task := t.id, row0 := row0, rows := rows
      poison := poison, slice := if s.sched.sliced && s.sched.holder == some c then some s.sched.sliceNo else none, kib := (Prog.mk t.prog).kib
      sides := swathSides s t, ph := .setup, idx := [], data := [], stage := 0, cur := [], sat := 0, got := [], need := 0, band := 0
      chain := [], stats := List.replicate 4 Stats.none, chv := List.replicate 4 [], poisoned := poison, tagMis := false
      fallback := false, heldSpilled := false, out := [], treed := false
      skip := match rerun with
        | some y => y.sent
        | none => [] }] }
  let s := match rerun with
    | some _ => logEvent 0x0B 1 r x.phys c (2 ^ 31 * b2n poison + node.node) 0 s
    | none => s
  if t.started then (if t.ph = .run then swathBegin id s else s)
  else taskSetup node n t [] (modTask node (fun t => { t with started := true }) s)

/-- The swath of a position is dispatched, where the scheduler offers the position to the task and the rows may be cut off so. A task that
is to be rejected is given no swath: it looks for a lower cause (R256). -/
def swathTake (node : NodeRef) (n : Node) (t : Task) (r p rows : Nat) (s : State) : State :=
  if offered s r p != some node then s
  else if t.bad.isSome then taskSetup node n t t.bad.toList s
  else match t.reruns.head? with
    | some y => if y.rows = rows then swathPlace node n t r p rows s else s
    | none => if rowsOk n t t.next rows then swathPlace node n t r p rows s else s

/-! ## The reading of the program (R174, R179, R180) -/

/-- The slots of the streams of a task are loaded (R144, R146). -/
def taskSlots (r : NodeRef) (n : Node) (t : Task) (s : State) : State :=
  (slotStreams n t.ops ⟨t.prog⟩).foldl (fun s x => slotLoad r.ctx x s) s

/-- The program and its tables have been read: the task has its slots loaded, and the swath that was asked for is dispatched if nothing
holds it. DEDUCED, unsafe (notes/assumptions/15.md). DEDUCED, unsafe (notes/assumptions/41.md). -/
def progDone (r : NodeRef) (s : State) : State :=
  match nodeOf s r with
  | none => s
  | some n => match n.task with
    | none => s
    | some t =>
      let s := taskKnown r (staticCauses s r n t) s
      match t.ask, nodeOf s r with
      | some a, some n => match n.task with
        | some t =>
          let s := taskSlots r n t s
          swathTake r n t a.1 a.2.1 a.2.2 s
        | none => s
      | _, _ => s

/-- A program block that cannot be read, or whose header is faulty, is a fault of cause 0x07 (R330, R180 rule 1). -/
def progFail (r : NodeRef) (s : State) : State :=
  progDone r (modTask r (fun t => { t with prog := [], bad := some 0x07 }) s)

/-- The program of a task is read when its first swath is to be dispatched (R174). DEDUCED, unsafe (notes/assumptions/15.md). -/
def progStart (r : NodeRef) (n : Node) (t : Task) (ask : Nat × Nat × Nat) (s : State) : State :=
  startRead (.taskHdr r t.id) [(n.prog, 128)] (modTask r (fun t => { t with ph := .header, ask := some ask }) s)

def taskHdrRead (r : NodeRef) (id : Nat) (bs : List OByte) (s : State) : State :=
  match taskAt s r id with
  | none => s
  | some (n, _) => match wholeRead 128 bs with
    | none => progFail r s
    | some b =>
      if headerFault b then progFail r s
      else startRead (.taskStages r id) [(n.prog + 128, 16 * byteAt b 0)]
        (modTask r (fun t => { t with prog := b, ph := .stages }) s)

/-- The tables that PWL stages name: stage and address (R179). -/
def pwlTables (p : Prog) : List (Nat × Nat) :=
  (p.stages.zipIdx).filterMap (fun x => if x.1.is opPwl && x.1.va < 12 && p.vec x.1.va != 0 then some (x.2, p.vec x.1.va) else none)

def taskStagesRead (r : NodeRef) (id : Nat) (bs : List OByte) (s : State) : State :=
  match taskAt s r id with
  | none => s
  | some (_, t) => match wholeRead (16 * byteAt t.prog 0) bs with
    | none => progFail r s
    | some b =>
      let ts := pwlTables ⟨t.prog ++ b⟩
      let s := modTask r (fun t => { t with prog := t.prog ++ b, ph := .tables, left := ts.length }) s
      if ts.isEmpty then progDone r s
      else ts.foldl (fun s x => startRead (.taskTable r id x.1) [(x.2, 384)] s) s

def taskTableRead (r : NodeRef) (id stage : Nat) (bs : List OByte) (s : State) : State :=
  match taskAt s r id with
  | none => s
  | some (_, t) =>
    let words := (wholeRead 384 bs).map (fun b => (chunks 4 b).map (fun w => (BitVec.ofNat 32 (leNat w) : Word)))
    let ok := match words with
      | some ws => pwlOk ((Prog.mk t.prog).stage stage).mode ws
      | none => false
    let s := modTask r (fun t => { t with
      tables := t.tables ++ [(stage, words.getD [])], left := t.left - 1
      bad := if ok then t.bad else some 0x07 }) s
    if t.left ≤ 1 then progDone r s else s

/-! ## Time slices (R263 to R265) -/

/-- The tasks of a context that its state lets run. -/
def runnable (s : State) (c : Nat) : List (Node × Task) :=
  let x := ctxOf s c
  (x.graphs.filter (fun g => !g.refused)).flatMap (fun g => (g.nodes.zipIdx).filterMap (fun n => match n.1.task with
    | some t => if mayRun x g.slot n.2 t.started then some (n.1, t) else none
    | none => none))

/-- A task whose first swath waits for tracker slots (R146, R250, R263). -/
def slotHeld (s : State) (c : Nat) (n : Node) (t : Task) : Bool :=
  t.ph == .ready && t.known n && !t.started && holdsEnded s t &&
    !(slotStreams n t.ops ⟨t.prog⟩).all (fun x => (slotOf s c x).isSome)

/-- A context has a ready swath, one that waits for a core, for headland allocation or for a tracker slot among them (R263, R264). -/
def hasReady (s : State) (c : Nat) : Bool := (runnable s c).any (fun n => taskFree s c n.1 n.2 || slotHeld s c n.1 n.2)

/-- The context that takes the slice next: highest PRIO, in turn after the last holder (R264). -/
def nextHolder (s : State) : Option Nat :=
  let n := s.ctxs.length
  let ready := (List.range n).filter (fun c => !(ctxOf s c).latency && hasReady s c)
  let key := fun c => (7 - (ctxOf s c).prio) * n + (c + n - (s.sched.lastHolder + 1) % n) % n
  ready.foldl (fun best c => match best with
    | none => some c
    | some b => if key c < key b then some c else some b) none

/-- QUANTUM in control cycles; 0 acts as 1 (R265, R274). -/
def Ctx.quantum (x : Ctx) : Nat := max (bits x.cfg.toNat 0 16) 1 * 1024

/-- A context takes the slice: its length, and its debt reduced (R265). DEDUCED, unsafe (notes/assumptions/46.md). -/
def takeSlice (c : Nat) (s : State) : State :=
  let x := ctxOf s c
  let q := x.quantum
  let pay := min x.debt.toNat (q - q / 4)
  modCtx c (fun x => { x with debt := BitVec.ofNat 32 (x.debt.toNat - pay) })
    { s with sched := { s.sched with holder := some c, sliceLen := q - pay, sliceNo := s.sched.sliceNo + 1 } }

/-- Choose a holder where none holds the slice. DEDUCED, unsafe (notes/assumptions/46.md). -/
def chooseHolder (s : State) : State :=
  match s.sched.holder with
  | some _ => s
  | none => match nextHolder s with
    | some c => takeSlice c s
    | none => s

/-- The holder's slice ends, and its overrun begins to count while swaths of that slice run (R264, R265).
DEDUCED, unsafe (notes/assumptions/46.md). -/
def endSlice (s : State) : State :=
  match s.sched.holder with
  | none => s
  | some h =>
    let k := s.sched.sliceNo
    let s := { s with sched := { s.sched with holder := none, lastHolder := h } }
    if s.swaths.any (fun w => w.node.ctx == h && w.slice == some k) then
      modCtx h (fun x => { x with overrun := x.overrun ++ [(k, s.ctlTime)] }) s
    else s

/-- In sliced mode a context of lower PRIO holds no slice while one of higher PRIO has ready work: its slice has ended. Where none holds the
slice, the context that is to have it takes it (R264). DEDUCED, unsafe (notes/assumptions/46.md). -/
def yieldSlice (s : State) : State :=
  match s.sched.holder with
  | none => if s.sched.sliced then chooseHolder s else s
  | some h =>
    if s.sched.sliced && (List.range s.ctxs.length).any (fun c =>
        !(ctxOf s c).latency && (ctxOf s h).prio < (ctxOf s c).prio && hasReady s c) then slotsUnpin (chooseHolder (endSlice s))
    else s

/-! ## SWATH_DISPATCH -/

/-- SWATH_DISPATCH (R20, R78, R79, R144, R174, R181, R262, R264, R337): the swath that the scheduler offers the position to is dispatched.
The first swath of a task has the program read before anything else, and slots loaded for streams that are not resident (R146). A task
whose step has been committed is rejected (R117).
DESIGN CHOICE, safe (notes/assumptions/10.md). DEDUCED, unsafe (notes/assumptions/45.md). -/
def execSwathDispatch (c g k r p rows : Nat) (ue : Option Upset) (s : State) : Answer := inRun s <|
  let s := yieldSlice (applyUpsets ue s)
  let node : NodeRef := ⟨c, g, k⟩
  match nodeOf s node with
  | none => .next s
  | some n => match n.task with
    | none => .next s
    | some t =>
      if t.ph == .ready && t.known n && !t.started && (ctxOf s c).sctStep.toNat < n.step &&
          !(slotStreams n t.ops ⟨t.prog⟩).all (fun x => (slotReady s c x).isSome) then .next (taskSlots node n t s)
      else if offered s r p != some node then .next s
      else if !t.started && n.step ≤ (ctxOf s c).sctStep.toNat then .next (rejectTask node 0x02 s)
      else if !t.known n then .next (progStart node n t (r, p, rows) s)
      else .next (swathTake node n t r p rows s)

/-! ## The end of a task (R118, R157) -/

/-- The drill destinations of a task: stage and destination. -/
def drillDests (t : Task) : List Nat := sortNats (((Prog.mk t.prog).taps.filter (·.is opDrill)).map (·.dest))

/-- The plan of a drill destination. -/
def taskPlan (t : Task) (d : Nat) : Plan :=
  let r := destRec t.ops d
  if r.tracked then (t.plans.find? (fun q => q.stream == r.stream)).getD (Plan.zero r.stream) else Plan.zero r.stream

/-- Whether a channel vector of a stream is being merged (R157: merges of one vector do not overlap). -/
def mergeBusy (s : State) (c stream : Nat) : Bool :=
  s.jobs.any (fun j => match j.kind with
    | .merge n _ d | .mergeWr n _ d =>
      n.ctx == c && (match taskOf s n with
        | some t => (destRec t.ops d).stream == stream
        | none => false)
    | _ => false)

/-- Begin the merge of the task's next channel vector. DEDUCED, unsafe (notes/assumptions/42.md). -/
def mergeNext (r : NodeRef) (s : State) : State :=
  match taskOf s r with
  | none => s
  | some t =>
    if t.ph != .tail then s
    else match t.merges with
      | [] => s
      | d :: _ =>
        let pl := taskPlan t d
        if mergeBusy s r.ctx pl.stream then s else startRead (.merge r t.id d) [(pl.area + 512, vecBytes pl)] s

/-- Begin what merges can, over the nodes of a context. -/
def mergePump (c : Nat) (s : State) : State :=
  ((ctxOf s c).graphs.flatMap (fun g => (List.range g.nodes.length).map (fun k => (⟨c, g.slot, k⟩ : NodeRef)))).foldl
    (fun s r => mergeNext r s) s

/-- SCALE_WORD_WRITE (R118) and the merges of channel vectors (R157): every swath has completed.
DEDUCED, unsafe (notes/assumptions/42.md). -/
def taskTail (r : NodeRef) (n : Node) (s : State) : State :=
  match taskOf s r with
  | none => s
  | some t =>
    let ds := if n.isFill then [] else drillDests t
    let ms := ds.filter (fun d => (taskPlan t d).enabled)
    let s := modTask r (fun t => { t with ph := .tail, merges := ms, tailLeft := if ds.isEmpty then 0 else 1 }) s
    let s := if ds.isEmpty then s
      else startWrites (.tail r t.id) (ds.map (fun d =>
        let x := destRec t.ops d
        (x.sword, scaleWord (t.scales.getD d default) n.step x.stream))) s
    mergeNext r s

/-- A failed access of the task (R332): it shall complete BUS_STOP, with the lowest of the causes (R256). -/
def taskStop (r : NodeRef) (cause : Nat) (s : State) : State :=
  modTask r (fun t => { t with stop := some (min (t.stop.getD cause) cause) }) s

/-- A write that ends the task has failed for good, with the event code of its failure: an error response, or a time-out (R298, R332).
DEDUCED, unsafe (notes/assumptions/42.md). -/
def tailFailed (r : NodeRef) (fail : Option Nat) (s : State) : State :=
  match fail with
  | none => s
  | some code => taskStop r (if code = 0x04 then 0x43 else 0x41) s

/-- The scale words have been acknowledged, or have failed. DEDUCED, unsafe (notes/assumptions/42.md). -/
def tailWritten (r : NodeRef) (id : Nat) (fail : Option Nat) (s : State) : State :=
  match taskAt s r id with
  | none => s
  | some _ =>
    let s := tailFailed r fail s
    modTask r (fun t => { t with tailLeft := t.tailLeft - 1 }) s

/-- One merge has ended. DEDUCED, unsafe (notes/assumptions/42.md). -/
def mergeEnd (r : NodeRef) (s : State) : State := mergePump r.ctx (modTask r (fun t => { t with merges := t.merges.drop 1 }) s)

/-- A channel vector has been read: the task's maxima are merged by exact maximum and written back (R157).
DEDUCED, unsafe (notes/assumptions/42.md). -/
def mergeRead (r : NodeRef) (id d : Nat) (fail : Option Nat) (bs : List OByte) (s : State) : State :=
  match taskAt s r id with
  | none => s
  | some (_, t) =>
    let pl := taskPlan t d
    match wholeRead (vecBytes pl) bs with
    | none => mergeEnd r (taskStop r (match fail with | some 0x04 => 0x43 | some 0x02 => 0x44 | _ => 0x40) s)
    | some b =>
      let new := (List.range pl.chans).flatMap (fun k => leBytes 2 (max (fld b (2 * k) 2) ((t.chv.getD d []).getD k 0)))
      startWrite (.mergeWr r id d) (pl.area + 512) (new ++ zeros (vecBytes pl - new.length)) s

def mergeWritten (r : NodeRef) (id : Nat) (fail : Option Nat) (s : State) : State :=
  match taskAt s r id with
  | none => s
  | some _ => mergeEnd r (tailFailed r fail s)

/-! ## SWATH_COMPLETE, TWO_PASS_SECOND_PASS, TASK_COMPLETE -/

/-- Channel maxima of two sets of swaths. -/
def maxVec (a b : List Nat) : List Nat := (List.range (max a.length b.length)).map (fun k => max (a.getD k 0) (b.getD k 0))

/-- What a swath hands on (R24, R337). -/
def Task.take (t : Task) (w : Swath) : Task :=
  { t with
    done := t.done + w.rows
    stats := (List.zip t.stats w.stats).map (fun x => x.1.fold x.2)
    chv := (List.zip t.chv w.chv).map (fun x => maxVec x.1 x.2)
    poisoned := t.poisoned || w.poisoned
    tagMis := t.tagMis || w.tagMis
    fallback := t.fallback || w.fallback
    heldSpilled := t.heldSpilled || w.heldSpilled }

/-- Whether a send stream of a swath is still open. -/
def sending (s : State) (w : Swath) : Bool :=
  s.ports.any (fun p => p.streams.any (fun o => o.swath == w.id && !o.recv && !o.closed))

/-- SWATH_COMPLETE (R184, R264, R335, R337): the report of a swath whose epoch is its position's. -/
def execSwathComplete (r p id : Nat) (s : State) : Answer := inRun s <|
  match swathOf s id with
  | none => .next s
  | some w =>
    if w.region != r || w.pos != p || w.ph != .done || w.epoch != (posOf s r p).epoch || (posOf s r p).vacant || sending s w then
      .next s
    else
      match swathTask s w with
      | none => .next (slotsUnpin (swathLeave w s))
      | some (n, t) =>
        let e := envOf s w n t
        if lastSwath w n t && !w.treed && segLen (treeSegs e) != 0 then
          .next (coreRead w (treeSegs e) (modSwath id (fun w => { w with ph := .tree }) s))
        else
          let s := swathLeave w (modTask w.node (fun t => t.take w) s)
          .next (slotsUnpin (
            if t.done + w.rows == n.rows then
              if t.final then taskTail w.node n s else modTask w.node (fun t => { t with ph := .folded }) s
            else s))

/-- The scale of a destination after the first pass, under the recipe that the task read (R129 step 2, R372).
DEDUCED, unsafe (notes/assumptions/44.md). -/
def secondScale (t : Task) (d : Nat) : DestScale :=
  let x := t.scales.getD d default
  if x.cold != .twoPass then x
  else
    let rcp : Recipe := ⟨x.rcp⟩
    let st := t.stats.getD d Stats.none
    let span := if rcp.zpMode = 0 then wordQ (BitVec.ofNat 32 st.amax)
      else match st.xmax, st.xmin with
        | some a, some b => spanAbout a b x.z
        | _, _ => Q.zero
    { x with t := tensorScale (bf16Up span) rcp 0 rcp.tSeed }

/-- TWO_PASS_SECOND_PASS (R129): the task sets T from its own fold and its rows are dispatched again. -/
def execTwoPassSecondPass (c g k : Nat) (s : State) : Answer := inRun s <|
  let r : NodeRef := ⟨c, g, k⟩
  match taskOf s r with
  | none => .next s
  | some t =>
    if t.ph != .folded then .next s
    else .next (modTask r (fun t => { t with
      scales := (List.range 4).map (secondScale t), ph := .run, final := true, next := 0, done := 0
      stats := List.replicate 4 Stats.none, chv := List.replicate 4 [] }) s)

/-- The statistics with which the records of a task are made, by destination: those that a tap or a FILL writes. -/
def recDests (n : Node) (t : Task) : List (Nat × Option Stage) :=
  if n.isFill then [(0, none)]
  else (List.range 4).filterMap (fun d => ((Prog.mk t.prog).taps.find? (fun st => st.dest == d)).map (fun st => (d, some st)))

/-- The glean record of one destination (R132 to R134).
DEDUCED, unsafe (notes/assumptions/49.md). DEDUCED, unsafe (notes/assumptions/50.md).
DESIGN CHOICE, safe (notes/assumptions/135.md). -/
def destRecord (r : NodeRef) (n : Node) (t : Task) (d : Nat) (st : Option Stage) : GRec :=
  let x := destRec t.ops d
  let stats := t.stats.getD d Stats.none
  let mk := fun (flags recipe : Nat) (tw z : Word) => recOf n.step x.stream r.node d flags recipe tw z stats
  match st with
  | some st =>
    if st.is opDrill then
      let sc := t.scales.getD d default
      let vec := st.mode % 4 != 0 || (taskPlan t d).enabled
      mk (sc.recFlags (if x.tracked then 0 else 1) vec) (if x.tracked then x.recipe else 0) sc.t sc.z
    else
      let src := inRec t.ops 0
      let coded := !(Prog.mk t.prog).loadsBand && src.coded
      let sw := if coded then ((t.swords.find? (fun y => y.1 == src.sword)).bind (·.2)).getD
          (Config.lostScale 0 src.sword, Config.lostScale 1 src.sword)
        else (0, 0)
      mk 2 0 sw.1 sw.2
  | none => mk 2 0 0 0

/-- What applied to a task (R254, R255). -/
def taskApplied (n : Node) (t : Task) : Applied where
  cold := !n.isFill && (drillDests t).any (fun d => (t.scales.getD d default).cold != .warm)
  fallback := t.fallback
  spill := t.stats.any (fun x => 0 < x.spill)
  heldSpilled := t.heldSpilled
  poisoned := t.poisoned
  stop := t.stop
  tagMis := t.tagMis

/-- A write of one of a task's swaths, also of one that has been abandoned. -/
def JobKind.writesFor (r : NodeRef) (task : Nat) : JobKind → Bool
  | .swathWr _ n t => n == r && t == task
  | _ => false

/-- TASK_COMPLETE (R251, R252, R255, R256): every swath has completed and every write is acknowledged. -/
def execTaskComplete (c g k : Nat) (s : State) : Answer := inRun s <|
  let r : NodeRef := ⟨c, g, k⟩
  match nodeOf s r with
  | none => .next s
  | some n => match n.task with
    | none => .next s
    | some t =>
      if t.ph != .tail || t.tailLeft != 0 || !t.merges.isEmpty || s.jobs.any (fun j => j.kind.writesFor r t.id) then .next s
      else
        let a := taskApplied n t
        let s := modNode r (fun n => { n with
          info := a.info, recs := (recDests n t).map (fun x => destRecord r n t x.1 x.2) }) s
        .next (completeNode r a.status a.cause s)

end Sys2Proof.Machine
end

