-- ==== Sys2Proof/Machine/Graph.lean ====
section
/-! DEFINITION. Rings, acceptance, the dispatch of nodes and the emission of records (09_work_graphs.md R238 to R258;
04_scale_tracking.md R132 to R136). -/

namespace Sys2Proof.Machine

/-! ## Rings (R238, R239, R253) -/

def Ctx.subAddr (x : Ctx) (i : Word) : Nat := word64 x.subBaseLo x.subBaseHi + 64 * (i.toNat % 2 ^ x.subSize.toNat)
def Ctx.cplAddr (x : Ctx) (i : Word) : Nat := word64 x.cplBaseLo x.cplBaseHi + 32 * (i.toNat % 2 ^ x.cplSize.toNat)
/-- The effect of a doorbell write (R239). -/
def subProdWrite (c : Nat) (data : Word) (s : State) : State :=
  modCtx c (fun x =>
    if 2 ^ x.subSize.toNat < dist32 data x.subCons || (x.state != .disabled && 2 ^ 31 ≤ dist32 data x.subProd) then
      { x with subErr := true }
    else { x with subProd := data }) s

/-- RING_SUB_PROD_WRITE (R239). -/
def execRingSubProdWrite (c : Nat) (data : Word) (s : State) : Answer := inRun s <|
  .next (subProdWrite c data (emit (.cpAck false) s))

/-! ## Acceptance (R240, R241) -/

/-- The successor list of node k. -/
def succList (desc tab : List Byte) : List Nat :=
  (List.range (descSuccN desc)).map (fun j => fld tab (2 * (descSuccOff desc + j)) 2)

/-- The nodes that an image and a successor table describe. -/
def parseNodes (count : Nat) (img tab : List Byte) : List Node :=
  (List.range count).map (fun k =>
    let d := slice img (64 * k) 64
    { desc := d, succ := succList d tab, remaining := descDeps d, doomed := false, stat := .waiting, status := 0, cause := 0
      info := 0, recs := [], task := none, named := [] })

/-- How often a node is listed as a successor. -/
def listings (ns : List Node) (k : Nat) : Nat := sumNat (ns.map (fun n => (n.succ.filter (· == k)).length))

/-- R241, the part that concerns the image and the table. -/
def nodesOk (succLen : Nat) (ns : List Node) : Bool :=
  (ns.zipIdx).all (fun n =>
    descSuccOff n.1.desc + descSuccN n.1.desc ≤ succLen && n.1.succ.all (fun j => n.2 < j && j < ns.length) &&
      descDeps n.1.desc == listings ns n.2)

/-- R241, the part that the entry alone decides. -/
def entryGood (e : List Byte) : Bool :=
  1 ≤ fld e 8 4 && fld e 8 4 ≤ 65536 && fld e 0 8 % 64 == 0 && fld e 16 8 % 64 == 0 && byteAt e 28 < 2 && allZero e 29 19

/-- The completion index of the next graph (R253). -/
def Ctx.nextCpl (x : Ctx) : Word :=
  match x.graphs.getLast? with
  | some g => g.accCpl + BitVec.ofNat 32 (if g.refused then 1 else g.count)
  | none => x.cplWrite

/-- A graph of an entry. -/
def mkGraph (x : Ctx) (refused : Bool) (e : List Byte) (nodes : List Node) : Graph where
  refused := refused
  base := fld e 0 8
  succBase := fld e 16 8
  succLen := fld e 24 4
  count := fld e 8 4
  gid := fld e 12 4
  accSeq := x.subCons
  accCpl := x.nextCpl
  flags := byteAt e 28
  emitted := 0
  loaded := true
  nodes := nodes
  slot := graphSlot x.graphs x.subCons

/-- Write bytes 48 to 63 of the entry (R240 step 3); a refusal sets REFUSED (GRAPH_REFUSED). -/
def acceptFields (c : Nat) (g : Graph) (s : State) : State :=
  let x := ctxOf s c
  startWrite (.accFields c) (x.subAddr x.subCons + 48)
    (leBytes 4 g.accSeq.toNat ++ leBytes 4 g.accCpl.toNat ++ leBytes 1 (if g.refused then 2 else 1) ++ zeros 7)
    (modCtx c (fun x => { x with accept := .fields g, errRefused := x.errRefused || g.refused }) s)

/-- Initialise the scoreboard slot of a graph that is accepted: each node's remaining count, no status (R240 step 2, R249).
DEDUCED, unsafe (notes/assumptions/9.md). -/
def acceptScore (c : Nat) (g : Graph) (s : State) : State :=
  startWrite (.accScore c) ((ctxOf s c).scoreAddr g.slot 0) (g.nodes.flatMap (fun n => leBytes 2 n.remaining ++ [0, 0]))
    (modCtx c (fun x => { x with accept := .score g }) s)

/-- The graph slot that the next entry takes, ACC_SEQ modulo 4, is free (R240, R249). DEDUCED, unsafe (notes/assumptions/9.md). -/
def Ctx.slotFree (x : Ctx) : Bool := x.graphs.length < 4 && !x.graphs.any (fun g => g.slot == x.subCons.toNat % 4)

/-- ACCEPT_ENTRY (R240): an accept pass begins with the read of the entry. -/
def execAcceptEntry (c : Nat) (ue : Option Upset) (s : State) : Answer := inRun s <|
  let s := applyUpsets ue s
  let x := ctxOf s c
  if !ctxBuilt s c || x.state != .enabled || x.quiet || x.accept != .idle || x.subCons == x.subProd || !x.slotFree then
    .next s
  else .next (startRead (.accEntry c) [(x.subAddr x.subCons, 64)] (modCtx c (fun x => { x with accept := .entry }) s))

/-- The entry has been read. -/
def accEntryRead (c : Nat) (bs : List OByte) (s : State) : State :=
  let x := ctxOf s c
  if x.accept != .entry then s
  else match wholeRead 64 bs with
    | none => acceptFields c (mkGraph x true (zeros 64) []) s
    | some e =>
      if !entryGood e then acceptFields c (mkGraph x true e []) s
      else startRead (.accImage c) [(fld e 0 8, 64 * fld e 8 4), (fld e 16 8, 2 * fld e 24 4)]
        (modCtx c (fun x => { x with accept := .image e }) s)

/-- The image and the successor table have been read. -/
def accImageRead (c : Nat) (bs : List OByte) (s : State) : State :=
  let x := ctxOf s c
  match x.accept with
  | .image e =>
    let n := fld e 8 4
    match wholeRead (64 * n + 2 * fld e 24 4) bs with
    | none => acceptFields c (mkGraph x true e []) s
    | some b =>
      let ns := parseNodes n (b.take (64 * n)) (b.drop (64 * n))
      if nodesOk (fld e 24 4) ns then acceptScore c (mkGraph x false e ns) s else acceptFields c (mkGraph x true e []) s
  | _ => s

/-- The scoreboard slot has been initialised: the accept fields follow. -/
def accScoreWritten (c : Nat) (s : State) : State :=
  match (ctxOf s c).accept with
  | .score g => acceptFields c g s
  | _ => s

/-- The accept fields have been acknowledged. -/
def accFieldsWritten (c : Nat) (s : State) : State :=
  modCtx c (fun x => match x.accept with
    | .fields g => { x with accept := .acked g }
    | _ => x) s

/-- ACCEPTANCE_POINT (R240 step 4): RING_SUB_CONS advances and the graph is accepted, or holds its slot as refused. -/
def execAcceptancePoint (c : Nat) (s : State) : Answer := inRun s <|
  match (ctxOf s c).accept with
  | .acked g => .next (modCtx c (fun x => { x with
      accept := .idle, subCons := cntMod x.subCons 1, graphs := x.graphs ++ [g] }) s)
  | _ => .next s

/-! ## Readiness (R242, R250, R261, R262) -/

/-- Whether a graph waits for those accepted before it (R242). -/
def graphWaits (x : Ctx) (g : Graph) : Bool :=
  bit g.flags 0 && (x.graphs.takeWhile (fun h => h.slot != g.slot)).any (fun h => !h.refused)

/-- Every node before node k of a graph has been emitted (R140, R250); a refused graph has no nodes and makes none wait (R241). -/
def allEmitted (x : Ctx) (g : Graph) (k : Nat) : Bool :=
  g.emitted == k && (x.graphs.takeWhile (fun h => h.slot != g.slot)).all (·.refused)

/-- The region in which a DMA node may run now, with its channel (R296); under 0xFF the lowest that has one.
DESIGN CHOICE, safe (notes/assumptions/120.md). -/
def dmaPlace (s : State) (n : Node) : Option (Nat × Nat) :=
  let rs := if n.hint = 0xFF then List.range s.build.regions else [n.hint % s.build.regions]
  rs.findSome? (fun r => if (region s r).ready then (idleSchedChan s r).map (fun ch => (r, ch)) else none)

/-- Whether CHAIN is 0 or misaligned (R296). -/
def chainBad (n : Node) : Bool := n.chain == 0 || n.chain % 64 != 0

/-- The causes for which a node is REJECTED as it is dispatched (R117, R244, R296). A TASK or FILL whose type, reserved bits and step are
right looks for the lowest cause once what it names has been read (R256). DEDUCED, unsafe (notes/assumptions/41.md). -/
def dispatchCauses (x : Ctx) (n : Node) : List Nat :=
  (if n.reserved then [0x01] else []) ++
  (match n.type with
    | 1 | 2 => if n.step ≤ x.sctStep.toNat then [0x02] else []
    | 3 => if chainBad n then [0x0D] else []
    | 4 => if n.step == x.openStep || (n.step == x.sctStep.toNat && x.glnWrite == x.glnCommit) then [] else [0x02]
    | 5 => if n.step == x.openStep then [] else [0x02]
    | _ => [])

/-- A BANKSWITCH node waits only for a switch that CB_CTRL has requested, and never for a wedged bank (R80, R340). -/
def bankHolds (b : Bank) : Bool := !b.wedged && b.state == .switching && b.node.isNone

/-- Whether a waiting node can be dispatched now: it is ready, and no hold of its type applies. DEDUCED, safe (notes/assumptions/59.md). -/
def canDispatch (s : State) (c : Nat) (g : Graph) (k : Nat) (n : Node) : Bool :=
  let x := ctxOf s c
  n.stat == .waiting && n.remaining == 0 && !g.refused && g.loaded && !graphWaits x g && mayRun x g.slot k false &&
    (n.type != 4 || allEmitted x g k) &&
    (!(dispatchCauses x n).isEmpty ||
      (match n.type with
        | 3 => (dmaPlace s n).isSome
        | 4 | 5 => x.fold.isNone
        | _ => true))

/-- The node that the scheduler dispatches next in a context: the first in node order (R250). DEDUCED, unsafe (notes/assumptions/45.md). -/
def nextNode (s : State) (c : Nat) : Option NodeRef :=
  ((ctxOf s c).graphs.flatMap (fun g => ((g.nodes.zipIdx).filter (fun n => canDispatch s c g n.2 n.1)).map
    (fun n => (⟨c, g.slot, n.2⟩ : NodeRef)))).head?

/-! ## NODE_DISPATCH -/

/-- BANKSWITCH_NODE: switch a bank in VALID, wait for a switch that CB_CTRL has requested, or be REJECTED (R80).
DEDUCED, unsafe (notes/assumptions/123.md). -/
def bankNode (r : NodeRef) (n : Node) (s : State) : State :=
  let b := bank s n.bank
  let begun := modNode r (fun n => { n with stat := .dispatched }) s
  if b.state == .valid && !b.wedged then switchStart n.bank (some r) begun
  else if bankHolds b then modBank n.bank (fun b => { b with waits := b.waits ++ [r] }) begun
  else completeNode r stRejected 0x0B s

/-- Run a DMA node on a channel (R296). -/
def dmaNode (r : NodeRef) (n : Node) (reg ch : Nat) (s : State) : State :=
  dmaNodeStart reg ch r n.chain n.dmaPrio (modNode r (fun n => { n with stat := .dispatched }) s)

/-- A node without a cause of rejection runs (R244). -/
def nodeRun (r : NodeRef) (n : Node) (s : State) : State :=
  let x := ctxOf s r.ctx
  match n.type with
  | 1 | 2 => taskStart r n s
  | 3 => match dmaPlace s n with
    | some p => dmaNode r n p.1 p.2 s
    | none => s
  | 4 =>
    -- COMMIT_REPLAY: a commit of the committed step changes nothing (R346)
    if n.step == x.openStep then foldStart r false n.step 0xFFFF (modNode r (fun n => { n with stat := .dispatched }) s)
    else completeNode r stOk 0 s
  | 5 => foldStart r true n.step n.stream (modNode r (fun n => { n with stat := .dispatched }) s)
  | 6 => bankNode r n s
  | _ => completeNode r stOk 0 s

/-- The region in which a DMA run that a stop discarded is to run again (R297). DEDUCED, unsafe (notes/assumptions/62.md). -/
def requeuedIn (s : State) (r : NodeRef) : Option Nat := firstIdx (fun x : Region => x.requeued.contains r) s.regions

/-- NODE_DISPATCH (R117, R244, R250, R297). DEDUCED, unsafe (notes/assumptions/45.md). DEDUCED, unsafe (notes/assumptions/62.md). -/
def execNodeDispatch (c g k : Nat) (ue : Option Upset) (s : State) : Answer := inRun s <|
  let s := applyUpsets ue s
  let r : NodeRef := ⟨c, g, k⟩
  match nodeOf s r with
  | none => .next s
  | some n =>
    match requeuedIn s r with
    | some reg =>
      match idleSchedChan s reg with
      | some ch => .next (dmaNode r n reg ch (modRegion reg (fun y => { y with requeued := y.requeued.filter (· != r) }) s))
      | none => .next s
    | none =>
      if nextNode s c != some r then .next s
      else match lowest (dispatchCauses (ctxOf s c) n) with
        | some cause => .next (completeNode r stRejected cause s)
        | none => .next (nodeRun r n s)

/-! ## Emission (R132, R135, R136, R249, R257, R258) -/

/-- Room in the completion ring for the next record (R257). -/
def Ctx.cplRoom (x : Ctx) : Bool := dist32 x.cplWrite x.cplRelease < 2 ^ x.cplSize.toNat
/-- The older of GLN_RELEASE and GLN_COMMIT, modulo 2^32 (R136). DEDUCED, unsafe (notes/assumptions/93.md). -/
def Ctx.glnOldest (x : Ctx) : Word := if dist32 x.glnRelease x.glnCommit < 2 ^ 31 then x.glnCommit else x.glnRelease
/-- Room in the glean ring for the next record (R136). DEDUCED, unsafe (notes/assumptions/93.md). -/
def Ctx.glnRoom (x : Ctx) : Bool := dist32 x.glnWrite x.glnOldest < 2 ^ x.glnSize.toNat

/-- The 32 bytes of a completion record (R253). -/
def cplRecord (i : Word) (gid node status info step glnFirst glnN cause type time : Nat) : List Byte :=
  withCrc (leBytes 4 i.toNat ++ leBytes 4 gid ++ leBytes 2 node ++ leBytes 1 status ++ leBytes 1 info ++ leBytes 4 step ++
    leBytes 4 glnFirst ++ leBytes 2 glnN ++ leBytes 1 cause ++ leBytes 1 type ++ leBytes 4 time)

/-- The record of the node being emitted. DEDUCED, unsafe (notes/assumptions/129.md). -/
def headRecord (x : Ctx) (time : Nat) : List Byte :=
  match x.headNode with
  | some (g, some n) =>
    cplRecord x.cplWrite g.gid g.emitted n.status n.info n.step (x.glnWrite - BitVec.ofNat 32 n.recs.length).toNat
      n.recs.length n.cause n.type time
  | some (g, none) => cplRecord x.cplWrite g.gid 0 stRejected infoGraph 0 x.glnWrite.toNat 0 0x0C 0 time
  | none => []

/-- Carry the emission on where it waits for room. DEDUCED, safe (notes/assumptions/13.md). -/
def emitPump (c : Nat) (s : State) : State :=
  let x := ctxOf s c
  let recs := match x.headNode with
    | some (_, some n) => n.recs
    | _ => []
  let cpl := fun (s : State) =>
    if x.cplRoom then
      startWrite (.cplBody c) (x.cplAddr x.cplWrite + 4) ((headRecord x (s.ctlTime % 2 ^ 32)).drop 4)
        (modCtx c (fun x => { x with emit := .cplBody }) s)
    else modCtx c (fun x => { x with emit := .cplWait }) s
  match x.emit with
  | .glnWait k =>
    match recs[k]? with
    | none => cpl s
    | some r =>
      if x.glnRoom then
        startWrite (.glnBody c) (x.glnAddr x.glnWrite + 4) ((r.bytes x.glnWrite).drop 4)
          (modCtx c (fun x => { x with emit := .glnBody k }) s)
      else s
  | .cplWait => cpl s
  | _ => s

/-- A context whose records are emitted: ENABLED, DRAINING, or STOPPED by a stall (R259, R267). -/
def Ctx.emits (x : Ctx) : Bool := (x.state == .enabled || x.state == .draining || x.state == .stopped) && !x.quiet

/-- NODE_EMIT (R132, R249, R257): the emission of the next node begins; its status goes to the scoreboard first.
DEDUCED, unsafe (notes/assumptions/9.md). DEDUCED, safe (notes/assumptions/13.md). -/
def execNodeEmit (c : Nat) (s : State) : Answer := inRun s <|
  let x := ctxOf s c
  if !ctxBuilt s c || !x.emits || x.emit != .idle then .next s
  else match x.headNode with
    | none => .next s
    | some (_, none) => .next (emitPump c (modCtx c (fun x => { x with emit := .cplWait }) s))
    | some (g, some n) =>
      .next (startWrite (.score c) (x.scoreAddr g.slot g.emitted) (leBytes 1 n.status ++ leBytes 1 n.cause ++ [0, 0x80])
        (modCtx c (fun x => { x with emit := .score }) s))

/-- The status has been written to the scoreboard. -/
def scoreWritten (c : Nat) (s : State) : State := emitPump c (modCtx c (fun x => { x with emit := .glnWait 0 }) s)

/-- The body of glean record k has been acknowledged. -/
def glnBodyWritten (c : Nat) (s : State) : State :=
  modCtx c (fun x => match x.emit with
    | .glnBody k => { x with emit := .glnBodyDone k }
    | _ => x) s

/-- SEQ of a glean record has been acknowledged: GLN_WRITE advances. -/
def glnSeqWritten (c : Nat) (s : State) : State :=
  let x := ctxOf s c
  match x.emit, x.headNode with
  | .glnSeq k, some (_, some n) =>
    let s := modCtx c (fun x => { x with glnWrite := cntMod x.glnWrite 1, emit := .glnWait (k + 1) }) s
    emitPump c (match n.recs[k]? with
      | some r => slotTake c r s
      | none => s)
  | _, _ => s

def cplBodyWritten (c : Nat) (s : State) : State :=
  modCtx c (fun x => if x.emit = .cplBody then { x with emit := .cplBodyDone } else x) s

/-- SEQ of a completion record has been acknowledged: the node is emitted, its graph retires with its last (R257, R258), and the slots
of its streams may be taken (R145). -/
def cplSeqWritten (c : Nat) (s : State) : State :=
  let x := ctxOf s c
  let irq := match x.headNode with
    | some (_, some n) => n.irq
    | _ => false
  let s := modCtx c (fun x => { x with
    cplWrite := cntMod x.cplWrite 1, emit := .idle
    graphs := match x.graphs with
      | [] => []
      | g :: r => if g.refused || g.emitted + 1 = g.count then r else { g with emitted := g.emitted + 1 } :: r }) s
  foldPumpAll (slotsLeave (if irq then ctxEvent c s else s))

/-- RECORD_SEQ_WRITE (R135, R257, R294, R348): SEQ of a record whose other bytes are acknowledged is written.
DEDUCED, safe (notes/assumptions/13.md). -/
def execRecordSeqWrite (src : RecSrc) (s : State) : Answer := inRun s <|
  match src with
  | .ctx c =>
    let x := ctxOf s c
    match x.emit with
    | .glnBodyDone k => .next (startWrite (.glnSeq c) (x.glnAddr x.glnWrite) (leBytes 4 x.glnWrite.toNat)
        (modCtx c (fun x => { x with emit := .glnSeq k }) s))
    | .cplBodyDone => .next (startWrite (.cplSeq c) (x.cplAddr x.cplWrite) (leBytes 4 x.cplWrite.toNat)
        (modCtx c (fun x => { x with emit := .cplSeq }) s))
    | _ => .next s
  | .log => .next (logSeqWrite s)
  | .dma r ch => .next (dmaSeqWrite r ch s)

/-- The effect of a write of RING_CPL_RELEASE (R257). -/
def cplReleaseWrite (c : Nat) (data : Word) (s : State) : State := emitPump c (modCtx c (fun x => { x with cplRelease := data }) s)
/-- The effect of a write of GLN_RELEASE (R136). -/
def glnReleaseWrite (c : Nat) (data : Word) (s : State) : State := emitPump c (modCtx c (fun x => { x with glnRelease := data }) s)

/-- RING_CPL_RELEASE_WRITE (R257, R272). -/
def execRingCplReleaseWrite (c : Nat) (data : Word) (s : State) : Answer := inRun s <|
  .next (cplReleaseWrite c data (emit (.cpAck false) s))
/-- GLN_RELEASE_WRITE (R136, R151). -/
def execGlnReleaseWrite (c : Nat) (data : Word) (s : State) : Answer := inRun s <|
  .next (glnReleaseWrite c data (emit (.cpAck false) s))

end Sys2Proof.Machine
end

