-- ==== Sys2Proof/Machine/Context.lean ====
section
/-! DEFINITION. Contexts: their actions (R259 to R261, R268 to R271), stalls (R266, R267) and time slices (R263 to R265). -/

namespace Sys2Proof.Machine

/-! ## Leaving a context's work (R261, R332, R342) -/

/-- A reference to no node. -/
def noNode : NodeRef := ⟨0xFFFF, 0, 0⟩

/-- No channel, bank or queue refers to a context's nodes any more. -/
def forgetRefs (c : Nat) (s : State) : State :=
  let f := fun (n : NodeRef) => if n.ctx = c then noNode else n
  { s with
    banks := s.banks.map (fun b => { b with node := b.node.map f, waits := b.waits.map f })
    regions := s.regions.map (fun r => { r with
      requeued := r.requeued.filter (fun n => n.ctx != c)
      dma := { r.dma with chans := r.dma.chans.map (fun ch => { ch with node := ch.node.map f }) } }) }

/-- The graphs of a context that a write failure or the context store stopped are discarded; its swaths run on to their end
without a task, and those that had not begun leave their cores. -/
def discardGraphs (c : Nat) (s : State) : State :=
  let s := (s.swaths.filter (fun w => w.node.ctx == c && w.ph == .setup)).foldl (fun s w => swathLeave w s) s
  forgetRefs c (modCtx c (fun x => { x with graphs := [] }) s)

/-- Tasks of which no swath has been dispatched go back to waiting (log 33). DEDUCED, unsafe (notes/assumptions/33.md). -/
def unprepare (c : Nat) (s : State) : State :=
  let pre := fun (n : Node) => match n.task with
    | some t => !t.started
    | none => false
  let s := dropJobs (fun k => match k with
    | .taskOps n _ | .taskHdr n _ | .taskStages n _ | .taskTable n _ _ | .sword n _ _ | .plan n _ _ | .planList n _ _ => n.ctx == c
    | _ => false) s
  modCtx c (fun x => { x with graphs := x.graphs.map (fun g => { g with
    nodes := g.nodes.map (fun n => if pre n then { n with stat := .waiting, task := none } else n) }) }) s

/-- The context enters DISABLED. -/
def enterDisabled (c : Nat) (s : State) : State :=
  slotsDrop c (modCtx c (fun x => { x with state := .disabled, quiet := false, leaving := false, cancelling := false }) s)

/-! ## ENABLE (R260) -/

/-- The configuration checks of R260. -/
def Ctx.configOk (x : Ctx) : Bool :=
  2 ≤ x.subSize.toNat && x.subSize.toNat ≤ 16 && 4 ≤ x.cplSize.toNat && x.cplSize.toNat ≤ 20 &&
    word64 x.subBaseLo x.subBaseHi != 0 && word64 x.cplBaseLo x.cplBaseHi != 0 && word64 x.scoreLo x.scoreHi != 0 &&
    word64 x.glnBaseLo x.glnBaseHi != 0 && word64 x.granLo x.granHi != 0 &&
    8 ≤ x.glnSize.toNat && x.glnSize.toNat ≤ 20

def ctxSeqErr (c : Nat) (s : State) : State := modCtx c (fun x => { x with errSeq := true }) s
def ctxCfgBad (c : Nat) (s : State) : State := modCtx c (fun x => { x with errCfg := true, load := .idle }) s

/-- What R241 asks of a graph beside its nodes, for one whose record an image has restored. -/
def Graph.entryOk (g : Graph) : Bool :=
  1 ≤ g.count && g.count ≤ 65536 && g.base % 64 == 0 && g.succBase % 64 == 0 && g.flags < 2

/-- A graph rebuilt from its image, its table and its scoreboard entries: `none` when it no longer passes R241.
DEDUCED, unsafe (notes/assumptions/9.md). -/
def rebuild (g : Graph) (img tab score : List Byte) : Option Graph :=
  let ns := parseNodes g.count img tab
  if !g.entryOk || !nodesOk g.succLen ns then none
  else
    let ns := (ns.zipIdx).map (fun n =>
      if n.2 < g.emitted then { n.1 with stat := .completed, status := byteAt score (4 * n.2), cause := byteAt score (4 * n.2 + 1) }
      else n.1)
    some { ((List.range g.emitted).foldl (fun g k => applySucc k g) { g with nodes := ns }) with loaded := true }

/-- The context enters ENABLED: doomed nodes whose count is zero complete. -/
def enterEnabled (c : Nat) (s : State) : State :=
  modCtx c (fun x => { x with state := .enabled, load := .idle, graphs := x.graphs.map cascade }) s

/-- The ENABLE action in DISABLED. -/
def enable (c : Nat) (s : State) : State :=
  let x := ctxOf s c
  if s.badCtx.contains c || !x.configOk then ctxCfgBad c s
  else startRead (.enHeader c) [(x.gran 0xFFFF, 64)] (modCtx c (fun x => { x with load := .header }) s)

/-- The commit header has been read (R142, R151, R260). -/
def enHeaderRead (c : Nat) (bs : List OByte) (s : State) : State :=
  let x := ctxOf s c
  if x.load != .header then s
  else match headerRead bs with
    | none => modCtx c (fun x => { x with granBad := true, load := .idle }) s
    | some (step, commits, gln) =>
      let s := modCtx c (fun x => { x with sctStep := step, commits := commits, glnCommit := gln }) s
      if x.graphs.isEmpty then enterEnabled c s
      else x.graphs.foldl (fun s g => startRead (.enImage c g.slot)
          [(g.base, 64 * g.count), (g.succBase, 2 * g.succLen), (x.scoreAddr g.slot 0, 4 * g.emitted)] s)
        (modCtx c (fun y => { y with load := .images x.graphs.length false }) s)

/-- The structures of one graph have been read (R260). -/
def enImageRead (c slot : Nat) (bs : List OByte) (s : State) : State :=
  let x := ctxOf s c
  match x.load, x.graphIn slot with
  | .images left bad, some g =>
    let new := match sound bs with
      | some b => if b.length = 64 * g.count + 2 * g.succLen + 4 * g.emitted then
          rebuild g (b.take (64 * g.count)) (slice b (64 * g.count) (2 * g.succLen)) (b.drop (64 * g.count + 2 * g.succLen))
        else none
      | none => none
    let bad := bad || new.isNone
    let s := modGraph c slot (fun g => new.getD g) s
    if 1 < left then modCtx c (fun x => { x with load := .images (left - 1) bad }) s
    else if bad then
      ctxCfgBad c (modCtx c (fun x => { x with graphs := x.graphs.map (fun g => { g with loaded := false, nodes := [] }) }) s)
    else enterEnabled c s
  | _, _ => s

/-! ## DISABLE, CANCEL (R259, R261) -/

/-- An accept pass whose field write has not begun ends without effect. DEDUCED, unsafe (notes/assumptions/33.md). -/
def acceptAbort (c : Nat) (s : State) : State :=
  match (ctxOf s c).accept with
  | .entry | .image _ | .score _ =>
    modCtx c (fun x => { x with accept := .idle })
      (dropJobs (fun k => k == .accEntry c || k == .accImage c || k == .accScore c) s)
  | _ => s

/-- The DISABLE action (R259, R332, R342). DEDUCED, unsafe (notes/assumptions/34.md). -/
def disable (c : Nat) (s : State) : State :=
  let x := ctxOf s c
  match x.state with
  | .enabled => modCtx c (fun x => { x with state := .draining }) (acceptAbort c s)
  | .stopped => if x.quiet then enterDisabled c (discardGraphs c s) else modCtx c (fun x => { x with leaving := true }) s
  | _ => ctxSeqErr c s

/-- Every accepted node not yet emitted completes CANCELLED with cause 0x21 (R259). -/
def cancelNodes (g : Graph) : Graph :=
  if g.refused then g
  else { g with nodes := (g.nodes.zipIdx).map (fun n =>
    if n.2 < g.emitted then n.1
    else { n.1 with stat := .completed, status := stCancelled, cause := 0x21, info := 0, recs := [], task := none, named := n.1.uses }) }

/-- The CANCEL action in DISABLED; images that are not at hand are read for the records' fields.
DEDUCED, unsafe (notes/assumptions/35.md). -/
def cancel (c : Nat) (s : State) : State :=
  let s := modCtx c (fun x => { x with state := .draining, cancelling := true }) s
  let x := ctxOf s c
  let miss := x.graphs.filter (fun g => !g.loaded)
  if miss.isEmpty then modCtx c (fun x => { x with graphs := x.graphs.map cancelNodes }) s
  else miss.foldl (fun s g => startRead (.cancelImage c g.slot) [(g.base, 64 * g.count)] s)
    (modCtx c (fun y => { y with load := .cancel miss.length }) s)

/-- The image of a graph under CANCEL has been read; what cannot be read counts as zero (log 35).
DEDUCED, unsafe (notes/assumptions/35.md). -/
def cancelImageRead (c slot : Nat) (bs : List OByte) (s : State) : State :=
  match (ctxOf s c).load, graphOf s c slot with
  | .cancel left, some g =>
    let img := (wholeRead (64 * g.count) bs).getD (zeros (64 * g.count))
    let s := modGraph c slot (fun g => { g with loaded := true, nodes := parseNodes g.count img [] }) s
    if 1 < left then modCtx c (fun x => { x with load := .cancel (left - 1) }) s
    else modCtx c (fun x => { x with load := .idle, graphs := x.graphs.map cancelNodes }) s
  | _, _ => s

/-! ## SAVE, RESTORE (R268 to R270) -/

/-- ID_VERSION (R29). -/
def idVersion : Word := 0x05010200

def Ctx.img (x : Ctx) : Nat := word64 x.imgLo x.imgHi

/-- SCT_CTX_STAT (R151). -/
def Ctx.sctStat (x : Ctx) : Word :=
  BitVec.ofNat 32 (8 * b2n (match x.emit with | .glnWait _ => !x.glnRoom | _ => false) + 4 * b2n x.granBad + 2 * b2n x.histLost +
    b2n x.rcpRej)

/-- The ten RING_ registers of an image, in address order. -/
def Ctx.ringRegs (x : Ctx) : List Word :=
  [x.subBaseLo, x.subBaseHi, x.subSize, x.subProd, x.subCons, x.cplBaseLo, x.cplBaseHi, x.cplSize, x.cplWrite, x.cplRelease]

/-- The eleven tracker registers of an image, in address order. -/
def Ctx.trkRegs (x : Ctx) : List Word :=
  [x.glnBaseLo, x.glnBaseHi, x.glnSize, x.glnWrite, x.glnCommit, x.glnRelease, x.granLo, x.granHi, x.sctStep, x.sctStat, x.lostCount]

def wordsBytes (l : List Word) : List Byte := l.flatMap (fun w => leBytes 4 w.toNat)

/-- A graph record (R269). -/
def graphRec (g : Graph) : List Byte :=
  leBytes 8 g.base ++ leBytes 8 g.succBase ++ leBytes 4 g.succLen ++ leBytes 4 g.count ++ leBytes 4 g.gid ++
    leBytes 4 g.accSeq.toNat ++ leBytes 4 g.accCpl.toNat ++ leBytes 4 g.emitted ++ leBytes 1 g.flags ++ zeros 7

/-- The 512 bytes of a context image (R268). -/
def imageBytes (x : Ctx) : List Byte :=
  let gs := x.graphs.filter (fun g => !g.refused)
  let recs := gs.flatMap graphRec
  withCrc (wordsBytes ([idVersion, 512, x.cfg, x.debt, x.scoreLo, x.scoreHi] ++ x.ringRegs ++ x.trkRegs ++
    [x.oplanLo, x.oplanHi, x.seedLo, x.seedHi]) ++ leBytes 1 gs.length ++ zeros 3 ++ recs ++ zeros (192 - recs.length) ++ zeros 188)

/-- The SAVE action in DISABLED. -/
def save (c : Nat) (s : State) : State :=
  let x := ctxOf s c
  startWrite (.save c) x.img (imageBytes x) (modCtx c (fun x => { x with state := .saving }) s)

/-- The image has been written, or could not be (R268). -/
def saveDone (c : Nat) (fail : Option Nat) (s : State) : State :=
  let s := modCtx c (fun x => { x with state := .disabled }) s
  match fail with
  | some a => logEvent 0x05 0 0 0 c 0xFFFFFFFF a (modCtx c (fun x => { x with errImg := true }) s)
  | none => s

/-- A graph record of an image, and whether it passes R270. DEDUCED, safe (notes/assumptions/64.md). -/
def graphParse (b : List Byte) : Graph × Bool :=
  let g : Graph := {
    refused := false, base := fld b 0 8, succBase := fld b 8 8, succLen := fld b 16 4, count := fld b 20 4, gid := fld b 24 4
    accSeq := BitVec.ofNat 32 (fld b 28 4), accCpl := BitVec.ofNat 32 (fld b 32 4), emitted := fld b 36 4, flags := byteAt b 40
    loaded := false, nodes := [], slot := 0 }
  (g, 1 ≤ g.count && g.count ≤ 65536 && g.emitted ≤ g.count && g.base % 64 == 0 && g.succBase % 64 == 0 && allZero b 41 7)

/-- R270: the graph records of an image that is not refused. -/
def imageOk (b : List Byte) : Option (List Graph) :=
  let n := byteAt b 124
  let gs := (List.range n).map (fun k => graphParse (slice b (128 + 48 * k) 48))
  if b.length = 512 && crcOk b 512 && fld b 4 4 == 512 && fld b 2 2 == idVersion.toNat / 65536 && n ≤ 4 &&
      allZero b 125 3 && allZero b (128 + 48 * n) (192 - 48 * n) && allZero b 320 188 && gs.all (·.2) then
    some (gs.map (·.1))
  else none

/-- The slots that restored graphs take, in order: an image names none (R268). DEDUCED, unsafe (notes/assumptions/9.md). -/
def placeGraphs (gs : List Graph) : List Graph :=
  gs.foldl (fun acc g => acc ++ [{ g with slot := graphSlot acc g.accSeq }]) []

/-- Load every register that an image lists (R270, R416). DEDUCED, safe (notes/assumptions/64.md). -/
def imageLoad (b : List Byte) (gs : List Graph) (x : Ctx) : Ctx :=
  let w := fun (off : Nat) => (BitVec.ofNat 32 (fld b off 4) : Word)
  let al := fun (off n : Nat) => (w off) &&& ~~~ (BitVec.ofNat 32 (2 ^ n - 1))
  { x with
    cfg := w 8 &&& 0x8700FFFF, debt := w 12, scoreLo := al 16 6, scoreHi := w 20
    subBaseLo := al 24 6, subBaseHi := w 28, subSize := w 32 &&& 0x1F, subProd := w 36, subCons := w 40
    cplBaseLo := al 44 6, cplBaseHi := w 48, cplSize := w 52 &&& 0x1F, cplWrite := w 56, cplRelease := w 60
    glnBaseLo := al 64 7, glnBaseHi := w 68, glnSize := w 72 &&& 0x1F, glnWrite := w 76, glnCommit := w 80, glnRelease := w 84
    granLo := al 88 6, granHi := w 92, sctStep := w 96
    granBad := bit (fld b 100 4) 2, histLost := bit (fld b 100 4) 1, rcpRej := bit (fld b 100 4) 0, lostCount := w 104
    oplanLo := al 108 6, oplanHi := w 112, seedLo := w 116, seedHi := w 120
    graphs := placeGraphs (gs.filter (fun g => g.emitted < g.count)) }

/-- The RESTORE action in DISABLED, with no graph accepted. -/
def restore (c : Nat) (s : State) : State :=
  if s.badCtx.contains c then ctxCfgBad c s
  else startRead (.restore c) [((ctxOf s c).img, 512)] (modCtx c (fun x => { x with state := .restoring }) s)

/-- The image has been read (R270). -/
def restoreRead (c : Nat) (bs : List OByte) (s : State) : State :=
  let s := modCtx c (fun x => { x with state := .disabled }) s
  match wholeRead 512 bs with
  | none => modCtx c (fun x => { x with errImg := true }) s
  | some b => match imageOk b with
    | none => modCtx c (fun x => { x with errImg := true }) s
    | some gs => modCtx c (imageLoad b gs) s

/-! ## SCH_CTX_CTRL (R259, R274, R356) -/

/-- A write of SCH_CTX_CTRL. DEDUCED, unsafe (notes/assumptions/34.md). -/
def ctxCtrl (c : Nat) (data : Word) (s : State) : State :=
  let x := ctxOf s c
  let early := !s.loader.selftestDone
  let off := x.state == .disabled
  if !ctxBuilt s c then s
  else match bits data.toNat 0 5 with
    | 0 => s
    | 1 => if early || !off || x.load != .idle then ctxSeqErr c s else enable c s
    | 2 => disable c s
    | 4 => if !off || x.load != .idle then ctxSeqErr c s else cancel c s
    | 8 => if early || !off || x.load != .idle then ctxSeqErr c s else save c s
    | 16 => if early || !off || x.load != .idle || !x.graphs.isEmpty then ctxSeqErr c s else restore c s
    | _ => ctxSeqErr c s

/-- CTX_ENABLE (R260). -/
def execCtxEnable (c : Nat) (s : State) : Answer := inRun s <|
  .next (ctxCtrl c 1 (emit (.cpAck false) s))
/-- CTX_DISABLE (R259, R261). -/
def execCtxDisable (c : Nat) (s : State) : Answer := inRun s <|
  .next (ctxCtrl c 2 (emit (.cpAck false) s))
/-- CTX_CANCEL (R259). -/
def execCtxCancel (c : Nat) (s : State) : Answer := inRun s <|
  .next (ctxCtrl c 4 (emit (.cpAck false) s))
/-- CTX_SAVE (R268). -/
def execCtxSave (c : Nat) (s : State) : Answer := inRun s <|
  .next (ctxCtrl c 8 (emit (.cpAck false) s))
/-- CTX_RESTORE (R270). -/
def execCtxRestore (c : Nat) (s : State) : Answer := inRun s <|
  .next (ctxCtrl c 16 (emit (.cpAck false) s))

/-! ## CONTEXT_DRAINED (R241, R258, R261) -/

/-- Whether a node counts as dispatched (R261, R297). DEDUCED, unsafe (notes/assumptions/33.md). -/
def Node.running (n : Node) : Bool :=
  n.stat == .dispatched && (match n.task with
    | some t => t.started
    | none => true)

/-- No swath or node of a context is dispatched. -/
def nothingRuns (s : State) (c : Nat) : Bool :=
  let x := ctxOf s c
  !s.swaths.any (fun w => w.node.ctx == c) && x.fold.isNone && !x.graphs.any (fun g => g.nodes.any Node.running)

/-- Every completed node and refused graph of a context has been emitted. -/
def allOut (x : Ctx) : Bool :=
  !x.graphs.any (fun g => g.refused || (g.nodes.drop g.emitted).any (fun n => n.stat == .completed))

/-- CONTEXT_DRAINED: a DRAINING context, or a stalled one that is leaving STOPPED, reaches DISABLED. -/
def execContextDrained (c : Nat) (s : State) : Answer := inRun s <|
  let x := ctxOf s c
  if !ctxBuilt s c || x.emit != .idle || x.accept != .idle || x.load != .idle then .next s
  else if x.state == .draining && nothingRuns s c && allOut x && (!x.cancelling || x.graphs.isEmpty) then
    .next (ctxEvent c (enterDisabled c (unprepare c s)))
  else if x.state == .stopped && x.leaving && x.graphs.isEmpty then .next (enterDisabled c s)
  else .next s

/-! ## CONTEXT_STALL (R266, R267) -/

/-- A task without a swath that waits for nothing but the commit of a step (R117, R155, R266). -/
def stepHeld (s : State) (c : Nat) (n : Node) : Bool :=
  match n.task with
  | none => false
  | some t => t.ph == .ready && t.known n && !taskFree s c n t && holdsEnded s t && !streamsReady s c n t &&
      (slotStreams n t.ops ⟨t.prog⟩).all (fun x => (slotReady s c x).isSome)

/-- A node that waits for a DMA channel, or that is about to be dispatched (R266, R296). -/
def nodeHeld (s : State) (c : Nat) (g : Graph) (k : Nat) (n : Node) : Bool :=
  let x := ctxOf s c
  canDispatch s c g k n ||
    (n.stat == .waiting && n.remaining == 0 && !graphWaits x g && mayRun x g.slot k false && n.type == 3)

/-- What the emission of a context does: `some true` it waits for glean-ring space that GLN_COMMIT, and not an older GLN_RELEASE, limits
(R136, R266); `some false` nothing is to be emitted. DEDUCED, unsafe (notes/assumptions/80.md). -/
def emitStalled (x : Ctx) : Option Bool :=
  match x.emit with
  | .idle => if x.headNode.isNone then some false else none
  | .glnWait _ => if !x.glnRoom && x.glnOldest == x.glnCommit then some true else none
  | _ => none

/-- R266, the window apart. A task that has been prepared and that R261 does not let run is neither dispatched nor held.
DEDUCED, unsafe (notes/assumptions/144.md). -/
def stalled (s : State) (c : Nat) : Option Bool :=
  let x := ctxOf s c
  if ctxBuilt s c && (x.state == .enabled || x.state == .draining) && !x.quiet && nothingRuns s c && x.load == .idle &&
      (match x.accept with | .score _ | .fields _ | .acked _ => false | _ => true) &&
      x.graphs.any (fun g => !g.refused) &&
      !x.graphs.any (fun g => (g.nodes.zipIdx).any (fun n => nodeHeld s c g n.2 n.1 ||
        (n.1.stat == .dispatched && mayRun x g.slot n.2 (n.1.task.any (·.started)) && !stepHeld s c n.1))) then
    emitStalled x
  else none

/-- Every accepted node not yet emitted takes status GRAPH_STALL; INFO goes on reporting what applied to one that had completed
(R254, R267), and its streams stay named (R145). -/
def stallNodes (cause : Nat) (g : Graph) : Graph :=
  if g.refused then g
  else { g with nodes := (g.nodes.zipIdx).map (fun n =>
    if n.2 < g.emitted then n.1
    else { n.1 with
      stat := .completed, status := stGraphStall, cause := cause, recs := [], task := none
      named := if n.1.stat == .completed then n.1.names else n.1.uses ++ n.1.named }) }

/-- The scale of a slot after the CHECK records that were not yet in the ring have gone: what the entry and the ring say (R144). -/
def Slot.settled (x : Ctx) (sl : Slot) : Slot := { sl with corr := newestCorr sl.entry x.openStep sl.recs }

/-- CONTEXT_STALL (R258, R266, R267). DESIGN CHOICE, safe (notes/assumptions/4.md). -/
def execContextStall (c : Nat) (s : State) : Answer := inRun s <|
  match stalled s c with
  | none => .next s
  | some gln =>
    let s := enginesOff c s
    let s := modTrk (fun t => { t with slots := t.slots.map (fun y => if y.ctx = c then y.settled (ctxOf s c) else y) }) s
    .next (ctxEvent c (modCtx c (fun x => { x with
      state := .stopped, errStall := true, cancelling := false
      graphs := x.graphs.map (stallNodes (if gln then 0x31 else 0x30)) }) s))

/-! ## Time slices (R263 to R265) -/

/-- A throughput context's ready swath waits for a core, for headland allocation or for a slot (R263). -/
def waitsResource (s : State) (c : Nat) : Bool :=
  !(ctxOf s c).latency && (runnable s c).any (fun n =>
    let need := swathNeeds n.1 n.2
    (taskFree s c n.1 n.2 && !(List.range s.regions.length).any (fun r => (List.range (region s r).pos.length).any (fun p =>
      coreFree s r p need.1 need.2 false))) ||
    (slotHeld s c n.1 n.2 && (slotFor s).isNone))

/-- SLICED_MODE_ENTER (R263): a ready swath has waited for SCH_CONTEND cycles. -/
def execSlicedModeEnter (s : State) : Answer := inRun s <|
  if s.sched.sliced || !(List.range s.ctxs.length).any (waitsResource s) then .next s
  else .next (slotsUnpin (chooseHolder { s with sched := { s.sched with sliced := true } }))

/-- SLICED_MODE_EXIT (R263). -/
def execSlicedModeExit (s : State) : Answer := inRun s <|
  if !s.sched.sliced || (List.range s.ctxs.length).any (waitsResource s) then .next s
  else .next (let s := endSlice s
    { s with sched := { s.sched with sliced := false } })

/-- SLICE_END (R264, R265): the holder's slice ends, its overrun begins to count, and the next holder takes the slice.
DESIGN CHOICE, safe (notes/assumptions/4.md). DEDUCED, unsafe (notes/assumptions/46.md). -/
def execSliceEnd (s : State) : Answer := inRun s <|
  if s.sched.sliced then .next (slotsUnpin (chooseHolder (endSlice s))) else .next s

end Sys2Proof.Machine
end

