-- ==== Sys2Proof/Machine/Ports.lean ====
section
/-! DEFINITION. The cluster ports: answers to reads and writes (R329 to R332, R387), memory-response time-outs (R331), inbound streams
(R393, R394), credits (R388) and liveness (R395). -/

namespace Sys2Proof.Machine

/-! ## Ends of accesses -/

/-- The node index in the log entry of a failed write of the control island (R349); 0 where no node is served (log 67).
DESIGN CHOICE, unsafe (notes/assumptions/67.md). -/
def jobNode (s : State) (k : JobKind) : Nat :=
  match k with
  | .score c | .glnBody c | .glnSeq c | .cplBody c | .cplSeq c =>
    match (ctxOf s c).headNode with
    | some (g, some _) => g.emitted
    | _ => 0
  | .cmPlanWr c _ | .cmZero c _ | .cmEntry c _ | .cmHeader c => (((ctxOf s c).fold).map (·.node.node)).getD 0
  | _ => 0

/-- A read of the control island or of a core has ended: whoever made it goes on. -/
def readDone (k : JobKind) (fail : Option Nat) (bs : List OByte) (s : State) : State :=
  match k with
  | .liveEntry => liveEntryRead (wholeRead 32 bs) s
  | .liveSection => liveSectionRead (sound bs) s
  | .accEntry c => accEntryRead c bs s
  | .accImage c => accImageRead c bs s
  | .enHeader c => enHeaderRead c bs s
  | .enImage c slot => enImageRead c slot bs s
  | .cancelImage c slot => cancelImageRead c slot bs s
  | .restore c => restoreRead c bs s
  | .taskOps n t => taskOpsRead n t bs s
  | .taskHdr n t => taskHdrRead n t bs s
  | .taskStages n t => taskStagesRead n t bs s
  | .taskTable n t stage => taskTableRead n t stage bs s
  | .sword n t addr => swordRead n t addr bs s
  | .plan n t stream => planRead n t stream bs s
  | .planList n t stream => planListRead n t stream bs s
  | .slotLoad i => foldPumpAll (slotLoaded i bs s)
  | .merge n t d => mergeRead n t d fail bs s
  | .foldRecs c => foldRead c bs s
  | .checkRead c stream => checkReadDone c stream bs s
  | .cmPlan c stream => cmPlanRead c stream bs s
  | .cmList c stream => cmListRead c stream bs s
  | .cmVec c stream => cmVecRead c stream bs s
  | .fbPlan id => fbPlanRead id bs s
  | .swathRd id => swathReadDone id bs s
  | _ => s

/-- A write that serves a context has been acknowledged. -/
def writeDone (k : JobKind) (s : State) : State :=
  match k with
  | .accScore c => accScoreWritten c s
  | .accFields c => accFieldsWritten c s
  | .score c => scoreWritten c s
  | .glnBody c => glnBodyWritten c s
  | .glnSeq c => glnSeqWritten c s
  | .cplBody c => cplBodyWritten c s
  | .cplSeq c => cplSeqWritten c s
  | .cmPlanWr c stream => zeroVector c stream s
  | .cmZero c stream => afterPlan c stream s
  | .cmEntry c stream => entryWritten c stream s
  | .cmHeader c => headerWritten c s
  | _ => s

/-- A write has ended with an acknowledgement or with its final failure (R294, R332, R350). -/
def writeEnd (k : JobKind) (fail : Option (Nat × Nat)) (s : State) : State :=
  match k with
  | .log => logWritten false fail.isSome s
  | .logSeq => logWritten true fail.isSome s
  | .dmaRec r ch => dmaRecEnd r ch false fail.isSome s
  | .dmaSeq r ch => dmaRecEnd r ch true fail.isSome s
  | .save c => saveDone c (fail.map (·.2)) s
  | .mergeWr n t _ => mergeWritten n t (fail.map (·.1)) s
  | .tail n t => tailWritten n t (fail.map (·.1)) s
  | .swathWr id _ _ => swathWriteDone id s
  | k => match fail with
    | some f => ctxWriteFail k.ctx (jobNode s k) f.2 s
    | none => writeDone k s

/-- Hand on an access whose last burst has settled. -/
def jobEnd (r : State × Option Job) : State :=
  match r.2 with
  | none => r.1
  | some j => if j.wr then writeEnd j.kind j.fail r.1 else readDone j.kind (j.fail.map (·.1)) j.buf r.1

/-! ## Answers -/

/-- How a request is answered. -/
inductive Reply where
  | data (t : Taken)
  | ack
  | err
  | timeout
  deriving DecidableEq, Repr

/-- The swath that an access of a core belongs to. -/
def jobSwath (s : State) (id : Nat) : Option Swath :=
  match jobOf s id with
  | some j => match j.kind with
    | .swathRd w | .swathWr w _ _ => swathOf s w
    | _ => none
  | none => none

/-- The source that a request is logged under (R348): the control island, a core or a DMA channel.
DEDUCED, unsafe (notes/assumptions/29.md). -/
def reqSrc (b : Burst) : Src :=
  match b.owner with
  | .ctl _ => .control
  | .core r _ _ phys _ => .core r phys
  | .dma r ch _ => .channel r ch

/-- The context that a request is logged under (R348). -/
def reqCtx (s : State) (b : Burst) : Nat :=
  match b.owner with
  | .ctl id => ((jobOf s id).map (fun j => jobCtx s j.kind)).getD noCtx
  | .core _ _ _ _ id => ((jobSwath s id).map (·.node.ctx)).getD noCtx
  | .dma r ch _ => ((chan s r ch).node.map (·.ctx)).getD noCtx

/-- Count and log what a region's reader finds in an inbound half (R328, R329): each word apart, with its address where the half answers
a request at `addr`; a word of a stream beat has none (R349).
DESIGN CHOICE, safe (notes/assumptions/30.md). DEDUCED, unsafe (notes/assumptions/68.md). -/
def noteWords (c : Nat) (addr : Option Nat) (src : Src) (ctx : Nat) (t : Taken) (s : State) : State :=
  let at' := fun (k : Nat) => (addr.map (fun a => a - a % 256 + 16 * k)).getD 0
  t.bad.foldl (fun s k => logFrom 0x02 src ctx c (at' k) (countUe 1 (srcRegion src) s)) (noteCorrected 0 src (t.corrected.map at') s)

/-- The answer to a burst of the control island (R330, R332). DEDUCED, unsafe (notes/assumptions/68.md). -/
def ctlReply (c id : Nat) (b : Burst) (x : Reply) (s : State) : State :=
  match x with
  | .data t =>
    let s := noteCorrected 0 .control (t.corrected.map (fun k => b.addr - b.addr % 256 + 16 * k)) s
    if t.bad.isEmpty then jobEnd (ctlGood b id t.bytes s) else jobEnd (ctlBad b id c .ue (countUe 1 none s))
  | .ack => jobEnd (ctlGood b id [] s)
  | .err => jobEnd (ctlBad b id c .err s)
  | .timeout => jobEnd (ctlBad b id c .timeout s)

/-- The words of an answer to a core are counted, and a time-out is logged (R329, R331). DEDUCED, unsafe (notes/assumptions/29.md). -/
def coreNote (c : Nat) (b : Burst) (x : Reply) (s : State) : State :=
  match x with
  | .data t => noteWords c (some b.addr) (reqSrc b) (reqCtx s b) t s
  | .timeout => logFrom 0x04 (reqSrc b) (reqCtx s b) (b2n b.wr) b.addr s
  | _ => s

/-- The task that a write of a core belongs to, also where its swath has been fenced off or abandoned since. -/
def jobTask (s : State) (id : Nat) : Option (NodeRef × Nat) :=
  match jobOf s id with
  | some j => match j.kind with
    | .swathWr _ n t => some (n, t)
    | _ => none
  | none => none

/-- A failed write of a core stops its task with BUS_STOP (R332, R333). -/
def coreStop (id : Nat) (b : Burst) (x : Reply) (s : State) : State :=
  match x, b.wr, jobTask s id with
  | .err, true, some (n, t) => if (taskAt s n t).isSome then taskStop n 0x41 s else s
  | .timeout, true, some (n, t) => if (taskAt s n t).isSome then taskStop n 0x43 s else s
  | _, _, _ => s

/-- The bytes of an answer are put in their places; what cannot be read stays doubted (R329).
DEDUCED, unsafe (notes/assumptions/8.md). DEDUCED, unsafe (notes/assumptions/29.md). -/
def corePut (id : Nat) (b : Burst) (x : Reply) (s : State) : State :=
  match x with
  | .data t => modJob id (fun j => { j with buf := patch j.buf b.off t.bytes }) s
  | _ => s

/-- The answer to a burst of a core (R329, R332). An answer to a request from before a fence has no effect but that a failed write
still stops its task (R333, R336). DEDUCED, unsafe (notes/assumptions/8.md). DEDUCED, safe (notes/assumptions/69.md). -/
def coreReply (c r p : Nat) (epoch : BitVec 16) (id : Nat) (b : Burst) (x : Reply) (s : State) : State :=
  let s := coreStop id b x (coreNote c b x s)
  if epochHolds s r p epoch then jobEnd (settle id (corePut id b x s)) else if b.wr then (settle id s).1 else s

/-- The answer to a burst of a DMA channel (R297, R298). DEDUCED, unsafe (notes/assumptions/29.md). -/
def dmaReply (c r ch id : Nat) (b : Burst) (x : Reply) (s : State) : State :=
  match x with
  | .data t =>
    let s := noteWords c (some b.addr) (reqSrc b) (reqCtx s b) t s
    match sound t.bytes with
    | some bytes => dmaSettle r ch id b.addr (.good bytes) s
    | none => dmaSettle r ch id b.addr .ue s
  | .ack => dmaSettle r ch id b.addr (.good []) s
  | .err => dmaSettle r ch id b.addr .err s
  | .timeout => dmaSettle r ch id b.addr .timeout (logFrom 0x04 (reqSrc b) (reqCtx s b) (b2n b.wr) b.addr s)

/-- An answered request: its owner is told, and the port presents what it can. -/
def reply (c : Nat) (b : Burst) (x : Reply) (s : State) : State :=
  let s := match b.owner with
    | .ctl id => ctlReply c id b x s
    | .core r p epoch _ id => coreReply c r p epoch id b x s
    | .dma r ch id => dmaReply c r ch id b x s
  drainCtl (drainRegion (s.build.regionOf c) s)

/-- The outstanding request of a class with a tag. -/
def reqOf (s : State) (c tag : Nat) (wr : Bool) : Option Req :=
  (port s c).out.find? (fun q => q.tag == tag && q.burst.wr == wr)

def dropReq (c : Nat) (q : Req) (s : State) : State := modPort c (fun p => { p with out := p.out.erase q }) s

/-- An answer to a request that timed out comes after all: it is discarded, and its tag is free again (R331). -/
def lateAnswer (c tag : Nat) (wr : Bool) (s : State) : State :=
  modPort c (fun p => { p with late := p.late.erase (wr, tag) }) s

/-- CPI_RDATA (R329, R330, R387): an answer with a tag that is not outstanding is discarded (R331). -/
def execCpiRdata (c tag : Nat) (err : Bool) (words : List GWord) (ue : Option Upset) (s : State) : Answer := inRun s <|
  let s := applyUpsets ue s
  match reqOf s c tag false with
  | none => .next (lateAnswer c tag false s)
  | some q =>
    .next (reply c q.burst (if err then .err else .data (takeBeat words (q.burst.addr % 256) q.burst.len)) (dropReq c q s))

/-- CPI_WRITE_ACK (R332, R387). -/
def execCpiWriteAck (c tag : Nat) (err : Bool) (s : State) : Answer := inRun s <|
  match reqOf s c tag true with
  | none => .next (lateAnswer c tag true s)
  | some q => .next (reply c q.burst (if err then .err else .ack) (dropReq c q s))

/-- MEM_RESPONSE_TIMEOUT (R331): the tag stays set aside for an answer that comes later.
DESIGN CHOICE, safe (notes/assumptions/4.md). -/
def execMemResponseTimeout (c tag : Nat) (wr : Bool) (s : State) : Answer := inRun s <|
  match reqOf s c tag wr with
  | none => .next s
  | some q => .next (reply c q.burst .timeout (modPort c (fun p => { p with late := p.late ++ [(wr, tag)] }) (dropReq c q s)))

/-- CREDIT_RETURN (R388): the counters saturate at 255, and a lost pair takes none. DEDUCED, unsafe (notes/assumptions/71.md). -/
def execCreditReturn (c rd wr st : Nat) (s : State) : Answer := inRun s <|
  if s.ports.length ≤ c || (port s c).lost then .next s
  else .next (bandsGo (s.build.regionOf c) (drainCtl (drainRegion (s.build.regionOf c) (modPort c (fun p => { p with
    rd := min 255 (p.rd + rd), wr := min 255 (p.wr + wr), st := min 255 (p.st + st) }) s))))

/-! ## Inbound streams (R393, R394) -/

/-- The receive stream open under an id: its SOPEN has been presented (R393). -/
def recvOf (s : State) (c sid : Nat) : Option OpenStream :=
  (port s c).streams.find? (fun o => o.recv && !o.closed && o.sid == sid && !unopened (port s c) sid)

/-- Whether a swath waits for a stream: it is at the stage that opened it, and its position's epoch is its own (R335).
DEDUCED, safe (notes/assumptions/69.md). -/
def streamWanted (s : State) (o : OpenStream) : Bool :=
  match swathOf s o.swath with
  | some w => w.stage == o.stage && w.band == o.band && epochHolds s w.region w.pos w.epoch
  | none => false

/-- An inbound half of a host stream; one for a stream that is not open is discarded. Its credit is returned. -/
def hostData (c sid len : Nat) (words : List GWord) (s : State) : State :=
  let s := emit (.istCredits c 1) s
  match recvOf s c sid with
  | none => s
  | some o =>
    let t := takeBeat words 0 len
    let x := posOf s o.region o.pos
    let ctx := ((swathOf s o.swath).map (·.node.ctx)).getD noCtx
    let s := noteWords c none (.core o.region x.phys) ctx t s
    if streamWanted s o then bandTake o.swath t.bytes s else s

/-- The swath whose band begins at a session's oldest delivered element (R394). DEDUCED, unsafe (notes/assumptions/70.md). -/
def tileSwath (s : State) (x : Session) : Option (Swath × Nat × Nat) :=
  s.swaths.findSome? (fun w => match swathTask s w with
    | none => none
    | some (n, t) =>
      let e := envOf s w n t
      let fmt := (e.prog.stage w.stage).fmt
      let cols := bandCols e.prog e.ops e.node w.stage
      if w.ph == .band && bits n.routeP 14 2 == 2 && bits x.route.toNat 14 2 == 2 && n.routeP % 2 ^ 14 == x.route.toNat % 2 ^ 14 &&
          x.dqPos == e.first * cols + w.got.length / wideSize fmt && epochHolds s w.region w.pos w.epoch then
        some (w, fmt, (w.need - w.got.length) / wideSize fmt)
      else none)

/-- A half of a tile delivery passes from a link port to a swath: `len` bytes at most of the session's oldest elements, as values of the
type its LOAD takes. DEDUCED, unsafe (notes/assumptions/40.md). DEDUCED, unsafe (notes/assumptions/70.md). -/
def tileData (p i len : Nat) (s : State) : State :=
  let x := session s p i
  match tileSwath s x with
  | none => s
  | some (w, fmt, room) =>
    let vs := x.dq.take (min room (len / wideSize x.delivType))
    let s := modSess p i (fun x => { x with dq := x.dq.drop vs.length, dqPos := x.dqPos + vs.length }) s
    let as := vs.map (fun v => match Val.q v with
      | some q => if fmt = x.delivType then (v, false) else roundVal fmt q
      | none => (v, false))
    -- what the LOAD's format cannot hold saturates and counts in SAT (R176)
    let s := modSwath w.id (fun w => { w with sat := w.sat + (as.filter (·.2)).length }) s
    bandTake w.id ((as.flatMap (fun v => (storeVal fmt v.1).1)).map some) s

/-- CPI_SDATA (R200, R393, R394). -/
def execCpiSdata (src : StreamSrc) (len : Nat) (words : List GWord) (s : State) : Answer := inRun s <|
  match src with
  | .cluster c sid =>
    if s.ports.length ≤ c || (port s c).lost then .next s else .next (drainPort c (hostData c sid (min len 256) words s))
  | .link p i => if sessBuilt s p i then .next (tileData p i (min len 256) s) else .next s

/-- A stream of a port closes; an SOPEN of it that has not been presented never is (R395). -/
def Port.closeStream (p : Port) (o : OpenStream) : Port :=
  { p with
    streams := p.streams.map (fun y => if y = o then { y with closed := true } else y)
    beats := p.beats.filter (fun b => !(b.op == .sopen && b.sid == o.sid)) }

/-- A receive stream closes: a band that is not complete ends as it is (R200), and a PRODUCT whose streams have closed goes on to its next
band. -/
def closeRecv (c : Nat) (o : OpenStream) (s : State) : State :=
  let s := modPort c (fun p => p.closeStream o) s
  bandPump c (tidyStreams c (if streamWanted s o then bandEnd o.swath s else s))

/-- CPI_SCLOSE (R393). -/
def execCpiSclose (c sid : Nat) (_err : Bool) (s : State) : Answer := inRun s <|
  if s.ports.length ≤ c || (port s c).lost then .next s
  else
    let s := emit (.istCredits c 1) s
    match recvOf s c sid with
    | none => .next s
    | some o => .next (drainPort c (closeRecv c o s))

/-! ## Liveness (R395) -/

/-- A region out of reset and not parked. -/
def cluWatched (s : State) (c : Nat) : Bool :=
  c < s.ports.length && !(region s (s.build.regionOf c)).parkAck

/-- CLU_ALIVE_TOGGLE (R395). -/
def execCluAliveToggle (c : Nat) (s : State) : Answer := inRun s <|
  if cluWatched s c then
    .next (emit (.cluAlive c (!(port s c).alive)) (modPort c (fun p => { p with alive := !p.alive }) s))
  else .next s

/-- A request that a loss fails is logged as a memory-response time-out (R395): here where its answer does not log it. -/
def lossLog (b : Burst) (s : State) : State :=
  match b.owner with
  | .ctl id =>
    match jobOf s id with
    | none => logFrom 0x04 .control noCtx (b2n b.wr) b.addr s
    | some j =>
      let logged := (!b.wr || j.kind.endsTask) && !j.fail.isSome && !(j.kind.retried && b.tries < s.health.retry)
      if logged then s else logFrom 0x04 .control (jobCtx s j.kind) (b2n b.wr) b.addr s
  | _ => s

/-- CLUSTER_PARTNER_LOST (R395). -/
def execClusterPartnerLost (c : Nat) (s : State) : Answer := inRun s <|
  if !cluWatched s c || (port s c).lost then .next s
  else
    let reqs := (port s c).out
    let s := modPort c (fun p => { p with lost := true, rd := 0, wr := 0, st := 0, out := [], late := [] }) s
    let s := reqs.foldl (fun s q => reply c q.burst .timeout (lossLog q.burst s)) s
    .next (((port s c).streams.filter (fun o => o.recv && !o.closed)).foldl (fun s o => closeRecv c o s) s)

/-- CLUSTER_PARTNER_RETURN (R395): the pair restarts without a credit, and the T5 grants its own again where the region's self-test has
ended, as after reset (R388). -/
def execClusterPartnerReturn (c : Nat) (s : State) : Answer := inRun s <|
  if cluWatched s c && (port s c).lost then
    let t := modPort c (fun p => { p with lost := false }) s
    .next (if (region s (s.build.regionOf c)).ready then emit (.istCredits c 32) t else t)
  else .next s

end Sys2Proof.Machine
end

