-- ==== Sys2Proof/Machine/TestPorts.lean ====
section
/-! DEFINITION. The test port of the random-bit generator (R236) and the IEEE 1500 wrapper (R400, R401). -/

namespace Sys2Proof.Machine

def modRng (f : RngTest → RngTest) (s : State) : State := { s with rng := f s.rng }
def modWrap (f : Wrapper → Wrapper) (s : State) : State := { s with wrapper := f s.wrapper }

/-- The effect of RNG_TEST_CTRL.GO (R236): a GO while BUSY is 1 is an ignored write. -/
def rngGo (s : State) : State :=
  modRng (fun r => if r.busy then { r with wrDrop := true } else { r with busy := true }) s

/-- RNG_TEST_GO (R236). -/
def execRngTestGo (s : State) : Answer := inRun s <|
  .next (rngGo (emit (.cpAck false) s))

/-- The draw that the test registers name (R225, R236). -/
def testDraw (r : RngTest) : Nat :=
  draw (r.seedHi.toNat * 2 ^ 32 + r.seedLo.toNat) r.sid.toNat r.step.toNat
    (r.subHi.toNat * 2 ^ 32 + r.subLo.toNat) r.drawIdx.toNat

/-- RNG_TEST_DONE (R236). -/
def execRngTestDone (s : State) : Answer := inRun s <|
  if s.rng.busy then
    .next (modRng (fun r => { r with
      busy := false
      outLo := BitVec.ofNat 32 (testDraw r)
      outHi := BitVec.ofNat 32 (testDraw r / 2 ^ 32) }) s)
  else .next s

/-- Select a wrapper instruction (R400). -/
def selectWir (code : Nat) (s : State) : State := modWrap (fun w => { w with wir := code }) s

/-- WRSTN_RESET (R400): the wrapper's own reset selects BYPASS and clears its registers. -/
def execWrstnReset (s : State) : Answer :=
  .next { s with wrapper := { Wrapper.reset with testEn := s.wrapper.testEn } }

/-- Shift one bit through the bypass register. -/
def shiftBypass (b : Bool) (s : State) : State :=
  emit (.wrapper [BitVec.ofNat 8 (b2n s.wrapper.bypass)]) (modWrap (fun w => { w with bypass := b }) s)

/-- Shift the level of `wsi`, which the event does not bring, through the bypass register.
DESIGN CHOICE, safe (notes/assumptions/95.md). -/
def shiftWsi (s : State) : State := shiftBypass (Config.wsiBit s.freeCtr) { s with freeCtr := s.freeCtr + 1 }

/-- A wrapper instruction: outside test mode every one acts as BYPASS (R400). DEDUCED, unsafe (notes/assumptions/98.md). -/
def wrapperRun (code : Nat) (act : State → State) (s : State) : State :=
  let s := selectWir code s
  if s.wrapper.testEn then act s else shiftWsi s

/-- WS_BYPASS (R400), and the codes 0x6 to 0xF that act as it. -/
def execWsBypass (b : WsBit) (s : State) : Answer := .next (shiftBypass b.wsi (selectWir b.code.toNat s))

/-- WS_EXTEST (R400): the boundary register drives the functional outputs and captures the inputs. -/
def execWsExtest (drive inputs : List Byte) (s : State) : Answer :=
  .next (wrapperRun 1 (fun s => emit (.boundary drive) (modWrap (fun w => { w with boundary := inputs }) s)) s)

/-- WS_INTEST (R400): the boundary register drives the internal side of the inputs. -/
def execWsIntest (drive : List Byte) (s : State) : Answer :=
  .next (wrapperRun 2 (modWrap (fun w => { w with boundary := drive })) s)

/-- The scan chains are shifted between `wpi` and `wpo` (R400); what leaves them is a free value.
DESIGN CHOICE, safe (notes/assumptions/16.md). -/
def scanOut (n : Nat) (s : State) : State :=
  emit (.wpo ((List.range n).map (fun i => Config.scanByte (s.freeCtr + i)))) { s with freeCtr := s.freeCtr + n }

/-- WS_SCAN (R400): the chains are shifted, and `wsi` to `wso` is the bypass. -/
def execWsScan (bits : List Byte) (s : State) : Answer :=
  .next (wrapperRun 3 (fun s => scanOut bits.length (shiftWsi s)) s)

/-- The status register of WS_MBIST (R400). DEDUCED, unsafe (notes/assumptions/96.md). -/
def mbistStatus (w : Wrapper) : Word := BitVec.ofNat 32 (b2n w.mbistDone * 2 ^ 31 + b2n w.mbistFail * 2 ^ 30)

/-- Whether WS_MBIST starts a self-test: it has just been selected, or no test has run since the wrapper's reset.
DEDUCED, unsafe (notes/assumptions/96.md). -/
def mbistStarts (w : Wrapper) : Bool := w.wir != 4 || (!w.mbistRun && !w.mbistDone)

/-- WS_MBIST (R400, R401): the status register is shifted out, and the self-test starts where the instruction has just been selected.
DEDUCED, unsafe (notes/assumptions/96.md). -/
def execWsMbist (s : State) : Answer :=
  let starts := mbistStarts s.wrapper
  .next (wrapperRun 4 (fun s =>
    let s := emit (.wrapper (leBytes 4 (mbistStatus s.wrapper).toNat)) s
    if starts then modWrap (fun w => { w with mbistRun := true, mbistDone := false, mbistFail := false, rows := [] }) s else s) s)

/-- WS_MBIST_DONE (R400). -/
def execWsMbistDone (rows : List FailRow) (s : State) : Answer :=
  .next (if s.wrapper.mbistRun then
      modWrap (fun w => { w with mbistRun := false, mbistDone := true, mbistFail := !rows.isEmpty, rows := rows }) s
    else s)

/-- The entry of a failing row: the layout of R364 with KIND 1 and SPARE 0 (R400). -/
def rowEntry (r : FailRow) : List Byte :=
  [1, BitVec.ofNat 8 r.region] ++ leBytes 2 r.unit ++ leBytes 2 r.row ++ [0, 0]

/-- WS_MBIST_READ (R400). -/
def execWsMbistRead (s : State) : Answer :=
  .next (wrapperRun 5 (fun s => emit (.wrapper (leBytes 4 s.wrapper.rows.length ++ s.wrapper.rows.flatMap rowEntry)) s) s)

end Sys2Proof.Machine
end

