-- ==== Sys2Proof/Machine/Registers.lean ====
section
/-! DEFINITION. The control window (15_register_index.md): where each register lies (R403 to R415), what a read returns (R14, R15) and
what a write does; and the interrupt (R397). -/

namespace Sys2Proof.Machine

/-! ## Addresses (R405, R406) -/

/-- A register block with its indices and an offset in it. -/
inductive Reg where
  | ident (off : Nat)
  | ring (c off : Nat)
  | sch (off : Nat)
  | ctx (c off : Nat)
  | bank (n off : Nat)
  | trk (off : Nat)
  | gln (c off : Nat)
  | outl (c off : Nat)
  | rcp (n k : Nat)
  | rng (off : Nat)
  | seed (c off : Nat)
  | lnk (off : Nat)
  | dom (c : Nat)
  | port (p off : Nat)
  | sess (p i off : Nat)
  | hlt (off : Nat)
  | hltRg (r off : Nat)
  | lease (r p : Nat)
  | dma (r off : Nat)
  | chan (r ch off : Nat)
  | lift (off : Nat)
  | slice (i off : Nat)
  | reserved
  deriving DecidableEq, Repr

/-- A register of a context's block of stride `w`. -/
def ctxReg (s : State) (w off : Nat) (f : Nat → Nat → Reg) : Reg :=
  if off / w < s.build.contexts then f (off / w) (off % w) else .reserved

/-- A register of a link port's block (R324, R406). -/
def portReg (s : State) (p off : Nat) : Reg :=
  if s.build.linkPorts ≤ p then .reserved
  else if off < 0x100 then .port p off
  else if off < 0x500 then .sess p ((off - 0x100) / 0x40) (off % 0x40)
  else .reserved

/-- The register at an address of the link block (R405). -/
def lnkReg (s : State) (off : Nat) : Reg :=
  if off < 0x200 then .lnk off
  else if off < 0x300 then (if (off - 0x200) / 4 < s.build.contexts then .dom ((off - 0x200) / 4) else .reserved)
  else if 0x800 ≤ off && off < 0xD00 then portReg s 15 (off - 0x800)
  else if 0x1000 ≤ off then portReg s (off / 0x1000 - 1) (off % 0x1000)
  else .reserved

/-- The register at an address of the health block (R352, R353). -/
def hltReg (s : State) (off : Nat) : Reg :=
  if off < 0x100 then .hlt off
  else if off < 0x200 then
    (if (off - 0x100) / 0x20 < s.build.regions then .hltRg ((off - 0x100) / 0x20) (off % 0x20) else .reserved)
  else if 0x1000 ≤ off && off < 0x1800 then
    (if (off - 0x1000) / 0x100 < s.build.regions && off % 0x100 / 4 < s.build.positions then
      .lease ((off - 0x1000) / 0x100) (off % 0x100 / 4) else .reserved)
  else .reserved

/-- The register at an offset of a region's block (R406, R414). -/
def regionReg (s : State) (r off : Nat) : Reg :=
  if s.build.regions ≤ r then .reserved
  else if 0xF000 ≤ off && off < 0x10000 then .dma r (off - 0xF000)
  else if 0x10000 ≤ off && off < 0x12000 then .chan r ((off - 0x10000) / 0x100) (off % 0x100)
  else .reserved

/-- The register at an address of the lift block (R224, R415). -/
def liftReg (s : State) (off : Nat) : Reg :=
  if off < 0x10000 then .lift off
  else if (off - 0x10000) / 0x40 < s.build.liftBuilt then .slice ((off - 0x10000) / 0x40) (off % 0x40)
  else .reserved

/-- The register at an address of the control window. -/
def regAt (s : State) (a : Nat) : Reg :=
  if a < 0x3000 then .ident a
  else if 0x4000 ≤ a && a < 0x5000 then ctxReg s 0x40 (a - 0x4000) .ring
  else if 0x10000 ≤ a && a < 0x11000 then .sch (a - 0x10000)
  else if 0x11000 ≤ a && a < 0x12000 then ctxReg s 0x40 (a - 0x11000) .ctx
  else if 0x20000 ≤ a && a < 0x30000 then .bank ((a - 0x20000) / 0x1000) (a % 0x1000)
  else if 0x30000 ≤ a && a < 0x31000 then .trk (a - 0x30000)
  else if 0x31000 ≤ a && a < 0x32000 then ctxReg s 0x40 (a - 0x31000) .gln
  else if 0x32000 ≤ a && a < 0x33000 then ctxReg s 0x40 (a - 0x32000) .outl
  else if 0x38000 ≤ a && a < 0x3A000 then .rcp ((a - 0x38000) / 0x20) (a % 0x20 / 4)
  else if 0x40000 ≤ a && a < 0x41000 then .rng (a - 0x40000)
  else if 0x41000 ≤ a && a < 0x41400 then ctxReg s 0x10 (a - 0x41000) .seed
  else if 0x50000 ≤ a && a < 0x60000 then lnkReg s (a - 0x50000)
  else if 0x60000 ≤ a && a < 0x70000 then hltReg s (a - 0x60000)
  else if 0x100000 ≤ a && a < 0x300000 then regionReg s ((a - 0x100000) / 0x40000) ((a - 0x100000) % 0x40000)
  else if 0x300000 ≤ a then liftReg s (a - 0x300000)
  else .reserved

/-! ## Readiness (R340, R375) -/

/-- The operations that report ready (R340, R372, R375). -/
def opsReady (s : State) : BitVec 64 :=
  if s.health.wedgedSeq then 0
  else (s.seqSlots.foldl (fun a q => match q with
    | some q => a ||| q.opset
    | none => a) (0 : BitVec 64)) &&& ~~~ shadowOps s

/-- Whether a recipe reports ready (R340, R370). DEDUCED, unsafe (notes/assumptions/54.md). -/
def rcpReady (s : State) (n : Nat) : Bool := !s.health.wedgedRecipes && (s.loader.bootDone || s.rcpApplied.contains n)

/-- RDY_STAT.LIFT_CFG_DONE (R375). DEDUCED, safe (notes/assumptions/24.md). DEDUCED, unsafe (notes/assumptions/77.md). -/
def liftCfgDone (s : State) : Bool :=
  s.loader.state != .header &&
    !(s.loader.table.zipIdx).any (fun e => e.1.type == 0x30 && resOf s.loader e.2 == resPending)

/-- A word with bit i set where the i-th of 32 tests from `lo` on holds. -/
def mask32 (lo : Nat) (f : Nat → Bool) : Word := BitVec.ofNat 32 (sumNat ((List.range 32).map (fun i => b2n (f (lo + i)) * 2 ^ i)))

/-! ## Reads (R14, R15) -/

def w32 (n : Nat) : Word := BitVec.ofNat 32 n

def readIdent (s : State) (off : Nat) : Word :=
  let l := s.loader
  match off with
  | 0x0000 => 0x48414C56
  | 0x0004 => idVersion
  | 0x0008 => w32 (s.dieIndex.toNat * 16 + s.dieCountM1.toNat)
  | 0x0010 => s.build.params0
  | 0x0014 => s.build.params1
  | 0x0018 => s.build.params2
  | 0x001C => s.build.params3
  | 0x1000 => w32 (b2n l.bootDone * 2 ^ 31 + b2n l.selftestDone * 2 ^ 30 + b2n l.imageOk * 2 ^ 29 + l.slot * 2 ^ 28 +
      b2n (liftCfgDone s) * 2 ^ 27)
  | 0x1008 => mask32 0 (fun n => n < 16 && (bank s n).ready)
  | 0x100C => mask32 0 (fun r => r < s.regions.length && (region s r).ready)
  | 0x1010 => (opsReady s).extractLsb' 0 32
  | 0x1014 => (opsReady s).extractLsb' 32 32
  | 0x1018 => mask32 0 (fun n => !s.health.wedgedSeq && (s.seqSlots.getD n none).isSome)
  | 0x2000 => imgStat l
  | 0x2004 => l.imageId
  | 0x2008 => s.verify.tmo
  | 0x2010 => s.live.addrLo
  | 0x2014 => s.live.addrHi
  | 0x201C => w32 (b2n (s.live.stage != .idle) * 2 ^ 31 + s.live.result)
  | o =>
    if 0x1020 ≤ o && o < 0x1040 then mask32 (8 * (o - 0x1020)) (rcpReady s)
    else if 0x2100 ≤ o && o < 0x2200 then
      w32 (sumNat ((List.range 4).map (fun j => resOf l (o - 0x2100 + j) * 2 ^ (8 * j))))
    else 0

def readRing (s : State) (c off : Nat) : Word :=
  let x := ctxOf s c
  match off with
  | 0x28 => w32 (4 * b2n (x.emit == .cplWait) + 2 * b2n x.subErr + b2n (x.accept != .idle))
  | o => if o < 0x28 then x.ringRegs.getD (o / 4) 0 else 0

def readSch (s : State) (off : Nat) : Word :=
  match off with
  | 0x00 => w32 (b2n s.sched.sliced * 2 ^ 31 + b2n s.sched.holder.isSome * 2 ^ 30 + (s.sched.holder.getD 0) * 2 ^ 24 +
      (s.ctxs.filter (fun x => x.state == .enabled || x.state == .draining)).length)
  | 0x04 => s.sched.stallTmo
  | 0x08 => s.sched.contend
  | 0x0C => s.sched.latRsv
  | 0x10 => s.sched.event0
  | 0x14 => s.sched.event1
  | 0x18 => s.sched.evmask0
  | 0x1C => s.sched.evmask1
  | _ => 0

def CtxState.code : CtxState → Nat
  | .disabled => 0
  | .enabled => 1
  | .draining => 2
  | .stopped => 3
  | .saving => 4
  | .restoring => 5

def readCtx (s : State) (c off : Nat) : Word :=
  let x := ctxOf s c
  match off with
  | 0x04 => x.cfg
  | 0x08 => w32 (x.state.code * 2 ^ 29 + x.graphs.length * 2 ^ 26 + b2n (s.sched.holder == some c) * 2 ^ 25 +
      sumNat ((x.graphs.filter (fun g => !g.refused)).map (fun g => g.count - g.emitted)))
  | 0x0C => w32 (16 * b2n x.errImg + 8 * b2n x.errCfg + 4 * b2n x.errSeq + 2 * b2n x.errStall + b2n x.errRefused)
  | 0x10 => x.scoreLo
  | 0x14 => x.scoreHi
  | 0x18 => x.imgLo
  | 0x1C => x.imgHi
  | 0x20 => x.debt
  | _ => 0

def CbState.code : CbState → Nat
  | .opn => 0
  | .checking => 1
  | .valid => 2
  | .rejected => 3
  | .switching => 4

def readBank (s : State) (n off : Nat) : Word :=
  let b := bank s n
  match off with
  | 0x000 => b.side0.desc
  | 0x004 => b.side1.desc
  | 0x008 => w32 (b.presetId * 256 + b2n b.live)
  | 0x00C => w32 (b.gen * 2 ^ 24 + b2n b.ready * 2 ^ 23 + b2n b.wrDrop * 2 ^ 22 + b2n b.seqErr * 2 ^ 21 + b.state.code * 2 ^ 16 +
      b.reject * 2 ^ 12 + b.flip.length)
  | 0x010 => if b.ready then b.liveSide.range else 0
  | o =>
    if 0x400 ≤ o && o < 0x800 then b.side0.tab.getD ((o - 0x400) / 4) 0
    else if 0x800 ≤ o && o < 0xC00 then b.side1.tab.getD ((o - 0x800) / 4) 0
    else 0

/-- SCT_STAT.AGREE_LATE: some stream waits past its time (R149). -/
def agreeLate (s : State) : Bool :=
  s.ctxs.any (fun x => match x.fold with
    | some f => f.streams.any (fun y => y.late && y.ph == .agree)
    | none => false)

/-- A read of a tracker register. DEDUCED, unsafe (notes/assumptions/74.md). -/
def readTrk (s : State) (off : Nat) : Word :=
  let sl := slotOf s (selCtx s) (selStream s)
  match off with
  | 0x00 => w32 (s.trk.slots.length * 2 ^ 15 + b2n (agreeLate s) * 2 ^ 14 + b2n s.trk.agreeLow * 2 ^ 13 + b2n s.trk.agreeDrop * 2 ^ 12)
  | 0x04 => s.trk.agreeTmo
  | 0x10 => s.trk.sel
  | 0x14 => match sl with
    | none => w32 (b2n (awaits s (selCtx s) (selStream s)).isSome * 2 ^ 29)
    | some y => w32 (2 ^ 31 + b2n (pinned s y) * 2 ^ 30 + b2n (awaits s (selCtx s) (selStream s)).isSome * 2 ^ 29 +
        b2n (y.ph == .ready && !y.entry.valid) * 2 ^ 28 + y.entry.hcount * 2 ^ 20 + y.entry.hold * 2 ^ 16 + y.idx)
  | 0x18 => (sl.bind Slot.scale).getD 0
  | 0x1C => (sl.map Slot.zero).getD 0
  | 0x20 => w32 ((sl.map (·.entry.step)).getD 0)
  | 0x24 => s.trk.agreeAmax
  | 0x28 => s.trk.agreeStep
  | 0x34 => w32 (b2n s.trk.reqDrop * 32 + s.trk.fbReqs.length)
  | _ => 0

def readGln (s : State) (c off : Nat) : Word := if off < 0x2C then (ctxOf s c).trkRegs.getD (off / 4) 0 else 0

def readOutl (s : State) (c off : Nat) : Word :=
  let x := ctxOf s c
  match off with
  | 0x00 => x.oplanLo
  | 0x04 => x.oplanHi
  | 0x08 => w32 (8 * b2n x.fbChange + 4 * b2n x.spilled + 2 * b2n x.arenaShort + b2n x.planBad)
  | 0x0C => x.fbEntered
  | _ => 0

/-- A read of a recipe word. DEDUCED, unsafe (notes/assumptions/75.md). -/
def readRcp (s : State) (n k : Nat) : Word :=
  let w := (s.recipes.getD n []).getD k 0
  if k = 0 then w &&& 0xFFFF7FFF else w

def readRng (s : State) (off : Nat) : Word :=
  match off with
  | 0x00 => w32 (2 * b2n s.rng.wrDrop + b2n s.rng.busy)
  | 0x10 => s.rng.seedLo
  | 0x14 => s.rng.seedHi
  | 0x18 => s.rng.sid
  | 0x1C => s.rng.step
  | 0x20 => s.rng.subLo
  | 0x24 => s.rng.subHi
  | 0x28 => s.rng.drawIdx
  | 0x30 => s.rng.outLo
  | 0x34 => s.rng.outHi
  | _ => 0

def LinkPort.flags (l : LinkPort) : Nat := 8 * b2n l.noSess + 4 * b2n l.wrDrop + 2 * b2n l.badFrame + b2n l.lostSeen

def readLnk (s : State) (off : Nat) : Word :=
  match off with
  | 0x000 => mask32 0 (fun p => p < s.lnk.length && (linkPort s p).lost)
  | 0x004 => mask32 0 (fun p => p < s.lnk.length && (linkPort s p).flags != 0)
  | 0x100 => s.exch.cfg0
  | 0x104 => s.exch.cfg1
  | 0x108 => s.exch.pos1
  | 0x10C => s.exch.tag
  | 0x110 => w32 (b2n (agrRefused s) * 2 ^ 31 + b2n (agrFull s) * 2 ^ 30 + b2n s.exch.drop * 2 ^ 29 + s.exch.buf.length)
  | 0x114 => s.exch.sentCount
  | 0x118 => s.exch.doneCount
  | _ => 0

def readPort (s : State) (p off : Nat) : Word :=
  let l := linkPort s p
  match off with
  | 0x00 => l.cfg
  | 0x04 => w32 (b2n l.ready * 2 ^ 31 + b2n l.lost * 2 ^ 30 + b2n l.inReset * 2 ^ 29) |||
      mask32 0 (fun i => i < 16 && (session s p i).state != .idle)
  | 0x08 => w32 l.flags
  | 0x0C => l.txFrames
  | 0x10 => l.rxFrames
  | 0x14 => l.bad
  | 0x18 => l.unk
  | 0x1C => l.stale
  | 0x20 => l.txDrop
  | _ => 0

def SessState.code : SessState → Nat
  | .idle => 0
  | .armed => 1
  | .ending => 2

def readSess (s : State) (p i off : Nat) : Word :=
  let x := session s p i
  match off with
  | 0x00 => x.cfg &&& sessCfgBits
  | 0x04 => x.fmt &&& sessFmtBits
  | 0x08 => x.tag
  | 0x0C => x.elems
  | 0x10 => x.dcols
  | 0x14 => x.route
  | 0x18 => x.tile
  | 0x20 => w32 (x.state.code * 2 ^ 30 + x.armErr * 2 ^ 24 + 8 * b2n x.loss + 4 * b2n x.cbsumBad + 2 * b2n x.sat + b2n x.seqErr)
  | 0x24 => x.cbsum
  | 0x28 => x.lostfur
  | 0x2C => x.satcnt
  | 0x30 => x.poisfur
  | 0x34 => x.tiles
  | _ => 0

/-- HLT_WEDGED (R340, R351). -/
def wedgedWord (s : State) : Word :=
  w32 (2 * b2n s.health.wedgedSeq + b2n s.health.wedgedRecipes + 2 ^ 16 * (mask32 0 (fun n => n < 16 && (bank s n).wedged)).toNat)

def readHlt (s : State) (off : Nat) : Word :=
  let h := s.health
  match off with
  | 0x00 => w32 (b2n (wedgedWord s != 0) * 2 ^ 31 + b2n h.ctxStop * 2 ^ 30 + b2n h.fenced * 2 ^ 29 + b2n h.coreLost * 2 ^ 28)
  | 0x04 => h.cfg
  | 0x08 => h.memTmo
  | 0x0C => wedgedWord s
  | 0x10 => h.ceCount
  | 0x14 => h.ueCount
  | 0x18 => h.fenceDrop
  | 0x1C => h.coreCtrl
  | 0x20 => h.logBaseLo
  | 0x24 => h.logBaseHi
  | 0x28 => w32 h.logLog2
  | 0x2C => h.logWrite
  | 0x30 => h.logRelease
  | 0x34 => h.logLost
  | _ => 0

def readHltRg (s : State) (r off : Nat) : Word :=
  let x := region s r
  let ret := fun (c : Nat) => (x.phys.getD c Phys.reset).retired
  match off with
  | 0x00 => w32 (x.active * 2 ^ 17 + b2n x.spareFree * 2 ^ 16 + x.retired * 2 ^ 8)
  | 0x04 => mask32 0 ret
  | 0x08 => mask32 32 ret
  | 0x0C => w32 (b2n (ret 64))
  | 0x10 => x.ce
  | 0x14 => x.ue
  | _ => 0

def readLease (s : State) (r p : Nat) : Word :=
  let x := posOf s r p
  w32 (b2n x.vacant * 2 ^ 31 + x.phys * 2 ^ 24 + x.epoch.toNat)

def readDma (s : State) (r off : Nat) : Word :=
  let d := (region s r).dma
  match off with
  | 0x00 => w32 (b2n d.stopped * 2 ^ 31 + b2n d.draining * 2 ^ 30 + b2n d.ownDrop * 2 ^ 29 + b2n d.seqErr * 2 ^ 28 +
      d.errCh * 2 ^ 16 + d.errCause * 2 ^ 8)
  | 0x08 => w32 (b2n d.autoResume)
  | 0x0C => d.own
  | 0x10 => d.hoplim
  | 0x14 => w32 d.errAddr
  | 0x18 => w32 (d.errAddr / 2 ^ 32)
  | 0x1C => d.event
  | 0x20 => d.evmask
  | 0x24 => d.stops
  | _ => 0

def ChanState.code : ChanState → Nat
  | .idle => 0
  | .active => 1
  | .ending => 2

/-- A read of a channel register (R301). DMA_POS reads the length of the acknowledged prefix modulo 2^32.
DEDUCED, unsafe (notes/assumptions/130.md). -/
def readChan (s : State) (r ch off : Nat) : Word :=
  let c := chan s r ch
  if 32 ≤ ch then 0
  else match off with
    | 0x40 => w32 (c.state.code * 2 ^ 30 + b2n (!bit (region s r).dma.own.toNat ch) * 2 ^ 29 + c.status * 2 ^ 16 + c.cause * 2 ^ 8 +
        c.blkf * 16 + 2 * b2n c.wrDrop + b2n c.seqErr)
    | 0x44 => w32 c.pos
    | 0x48 => w32 c.hops
    | 0x4C => c.run
    | 0x50 => c.cfg
    | 0x54 => c.cplLo
    | 0x58 => c.cplHi
    | o => if o < 0x3C then c.regs.getD (o / 4) 0 else 0

/-- The global lift registers (R224). DEDUCED, unsafe (notes/assumptions/83.md). -/
def readLift (s : State) (off : Nat) : Word :=
  match off with
  | 0x00 => s.lftCtrl
  | 0x04 => w32 ((s.slices.filter (fun x => x.seen && !x.ready)).length * 2 ^ 16 + (s.slices.filter (·.lost)).length)
  | o =>
    if 0x100 ≤ o && o < 0x180 && 8 * (o - 0x100) < s.build.liftMax then
      mask32 (8 * (o - 0x100)) (fun i => i < s.slices.length && (liftSlice s i).flags != 0)
    else 0

def readSlice (s : State) (i off : Nat) : Word :=
  let x := liftSlice s i
  match off with
  | 0x00 => x.cfg
  | 0x04 => w32 (b2n x.ready * 2 ^ 31 + b2n x.opn * 2 ^ 30 + b2n x.lost * 2 ^ 29 + b2n x.inReset * 2 ^ 28 +
      sumNat ((List.range 4).map (fun n => b2n (x.win n).loaded * 2 ^ (24 + n) + b2n (x.win n).sideNo * 2 ^ (20 + n))))
  | 0x08 => w32 x.flags
  | 0x0C => x.poisonCnt
  | 0x10 => x.mismatchCnt
  | 0x14 => x.dropCnt
  | 0x18 => x.emitCnt
  | 0x1C => x.lastFidx
  | 0x20 => x.lastTags
  | _ => 0

/-- What a register reads as; a reserved address reads 0 (R403). DESIGN CHOICE, safe (notes/assumptions/78.md). -/
def readReg (s : State) (x : Reg) : Word :=
  match x with
  | .ident off => readIdent s off
  | .ring c off => readRing s c off
  | .sch off => readSch s off
  | .ctx c off => readCtx s c off
  | .bank n off => readBank s n off
  | .trk off => readTrk s off
  | .gln c off => readGln s c off
  | .outl c off => readOutl s c off
  | .rcp n k => readRcp s n k
  | .rng off => readRng s off
  | .seed c off => if off = 0 then (ctxOf s c).seedLo else if off = 4 then (ctxOf s c).seedHi else 0
  | .lnk off => readLnk s off
  | .dom c => w32 (s.lnkDom.getD c 0).toNat
  | .port p off => readPort s p off
  | .sess p i off => readSess s p i off
  | .hlt off => readHlt s off
  | .hltRg r off => readHltRg s r off
  | .lease r p => readLease s r p
  | .dma r off => readDma s r off
  | .chan r ch off => readChan s r ch off
  | .lift off => readLift s off
  | .slice i off => readSlice s i off
  | .reserved => 0

/-! ## Writes (R14) -/

/-- The bit of a W1C field after a write. -/
def clr (b : Bool) (data : Word) (i : Nat) : Bool := b && !bit data.toNat i

def writeIdent (off : Nat) (data : Word) (s : State) : State :=
  match off with
  | 0x2008 => { s with verify := { s.verify with tmo := data } }
  | 0x2010 => { s with live := { s.live with addrLo := data &&& 0xFFFFFFC0 } }
  | 0x2014 => { s with live := { s.live with addrHi := data } }
  | 0x2018 => if bit data.toNat 0 then liveGo s else s
  | _ => s

/-- Change a context's RW* field: only while it is DISABLED (R259). -/
def rwCtx (c : Nat) (f : Ctx → Ctx) (s : State) : State := if (ctxOf s c).state == .disabled then modCtx c f s else s

def writeRing (c off : Nat) (data : Word) (s : State) : State :=
  match off with
  | 0x00 => rwCtx c (fun x => { x with subBaseLo := data &&& 0xFFFFFFC0 }) s
  | 0x04 => rwCtx c (fun x => { x with subBaseHi := data }) s
  | 0x08 => rwCtx c (fun x => { x with subSize := data &&& 0x1F }) s
  | 0x0C => subProdWrite c data s
  | 0x10 => rwCtx c (fun x => { x with subCons := data }) s
  | 0x14 => rwCtx c (fun x => { x with cplBaseLo := data &&& 0xFFFFFFC0 }) s
  | 0x18 => rwCtx c (fun x => { x with cplBaseHi := data }) s
  | 0x1C => rwCtx c (fun x => { x with cplSize := data &&& 0x1F }) s
  | 0x20 => rwCtx c (fun x => { x with cplWrite := data }) s
  | 0x24 => cplReleaseWrite c data s
  | 0x28 => modCtx c (fun x => { x with subErr := clr x.subErr data 1 }) s
  | _ => s

def modSched (f : Sched → Sched) (s : State) : State := { s with sched := f s.sched }

/-- The bits of SCH_EVMASK0 (`lo` 0) or SCH_EVMASK1 (`lo` 32) that stand for built contexts: the others are reserved (R10, R273). -/
def ctxMask (s : State) (lo : Nat) : Word := BitVec.ofNat 32 (2 ^ min 32 (s.ctxs.length - lo) - 1)

/-- A write of the scheduler's registers (R273). The bits of contexts that are not built are reserved: they stay 0 (R10). -/
def writeSch (off : Nat) (data : Word) (s : State) : State :=
  match off with
  | 0x04 => modSched (fun x => { x with stallTmo := data }) s
  | 0x08 => modSched (fun x => { x with contend := data }) s
  | 0x0C => modSched (fun x => { x with latRsv := data &&& 0x3F }) s
  | 0x10 => modSched (fun x => { x with event0 := w1c x.event0 data }) s
  | 0x14 => modSched (fun x => { x with event1 := w1c x.event1 data }) s
  | 0x18 => modSched (fun x => { x with evmask0 := data &&& ctxMask s 0 }) s
  | 0x1C => modSched (fun x => { x with evmask1 := data &&& ctxMask s 32 }) s
  | _ => s

def writeCtx (c off : Nat) (data : Word) (s : State) : State :=
  match off with
  | 0x00 => ctxCtrl c data s
  | 0x04 => rwCtx c (fun x => { x with cfg := data &&& 0x8700FFFF }) s
  | 0x0C => modCtx c (fun x => { x with
      errImg := clr x.errImg data 4, errCfg := clr x.errCfg data 3, errSeq := clr x.errSeq data 2
      errStall := clr x.errStall data 1, errRefused := clr x.errRefused data 0 }) s
  | 0x10 => rwCtx c (fun x => { x with scoreLo := data &&& 0xFFFFFFC0 }) s
  | 0x14 => rwCtx c (fun x => { x with scoreHi := data }) s
  | 0x18 => modCtx c (fun x => { x with imgLo := data &&& 0xFFFFFFC0 }) s
  | 0x1C => modCtx c (fun x => { x with imgHi := data }) s
  | _ => s

/-- A write of a codebook bank. DEDUCED, unsafe (notes/assumptions/75.md). -/
def writeBank (n off : Nat) (data : Word) (s : State) : State :=
  match off with
  | 0x008 =>
    advance (cbCtrlWrite n (BitVec.ofNat 4 (bits data.toNat 8 4)) (bit data.toNat 3) (bit data.toNat 1) (bit data.toNat 2) s)
  | 0x00C =>
    if ldrHolds s 0x10 n then modBank n (fun b => { b with wrDrop := true }) s
    else modBank n (fun b => { b with wrDrop := clr b.wrDrop data 22, seqErr := clr b.seqErr data 21 }) s
  | 0x010 => if ldrHolds s 0x10 n then modBank n (fun b => { b with wrDrop := true }) s else s
  | o => if sideOffset o then sideWrite n (BitVec.ofNat 12 o) data s else s

/-- The two request bits of SCT_AGREE_CTRL and SCT_OUT_CTRL: both together are ignored with a flag (R150, R172). -/
def either (data : Word) (f g both : State → State) (s : State) : State :=
  match bit data.toNat 0, bit data.toNat 1 with
  | true, true => both s
  | true, false => f s
  | false, true => g s
  | false, false => s

def writeTrk (off : Nat) (data : Word) (s : State) : State :=
  match off with
  | 0x00 => modTrk (fun t => { t with agreeLow := clr t.agreeLow data 13, agreeDrop := clr t.agreeDrop data 12 }) s
  | 0x04 => modTrk (fun t => { t with agreeTmo := data }) s
  | 0x10 => modTrk (fun t => { t with sel := data &&& 0x003FFFFF }) s
  | 0x24 => modTrk (fun t => { t with agreeAmax := data }) s
  | 0x28 => modTrk (fun t => { t with agreeStep := data }) s
  | 0x2C => either data agreeDeliver agreeLocal agreeDropped s
  | 0x30 => either data (fbRequest true) (fbRequest false) reqDropped s
  | 0x34 => modTrk (fun t => { t with reqDrop := clr t.reqDrop data 5 }) s
  | _ => s

def writeGln (c off : Nat) (data : Word) (s : State) : State :=
  match off with
  | 0x00 => rwCtx c (fun x => { x with glnBaseLo := data &&& 0xFFFFFF80 }) s
  | 0x04 => rwCtx c (fun x => { x with glnBaseHi := data }) s
  | 0x08 => rwCtx c (fun x => { x with glnSize := data &&& 0x1F }) s
  | 0x0C => rwCtx c (fun x => { x with glnWrite := data }) s
  | 0x14 => glnReleaseWrite c data s
  | 0x18 => rwCtx c (fun x => { x with granLo := data &&& 0xFFFFFFC0 }) s
  | 0x1C => rwCtx c (fun x => { x with granHi := data }) s
  | 0x24 => modCtx c (fun x => { x with
      granBad := clr x.granBad data 2, histLost := clr x.histLost data 1, rcpRej := clr x.rcpRej data 0 }) s
  | _ => s

def writeOutl (c off : Nat) (data : Word) (s : State) : State :=
  match off with
  | 0x00 => rwCtx c (fun x => { x with oplanLo := data &&& 0xFFFFFFC0 }) s
  | 0x04 => rwCtx c (fun x => { x with oplanHi := data }) s
  | 0x08 => modCtx c (fun x => { x with
      fbChange := clr x.fbChange data 3, spilled := clr x.spilled data 2, arenaShort := clr x.arenaShort data 1
      planBad := clr x.planBad data 0 }) s
  | _ => s

/-- A recipe word is written once the loader has released the recipe, and never in a wedged store (R341, R370, R410).
DEDUCED, unsafe (notes/assumptions/75.md). -/
def writeRcp (n k : Nat) (data : Word) (s : State) : State :=
  if s.health.wedgedRecipes || ldrHolds s 0x11 n then s
  else { s with recipes := modAt s.recipes n (fun r => modAt r k (fun _ => if k = 0 then data &&& 0xFFFF7FFF else data)) }

def writeRng (off : Nat) (data : Word) (s : State) : State :=
  let test := fun (f : RngTest → RngTest) => modRng (fun r => if r.busy then { r with wrDrop := true } else f r) s
  match off with
  | 0x00 => modRng (fun r => { r with wrDrop := clr r.wrDrop data 1 }) s
  | 0x10 => test (fun r => { r with seedLo := data })
  | 0x14 => test (fun r => { r with seedHi := data })
  | 0x18 => test (fun r => { r with sid := data &&& 0x00FFFFFF })
  | 0x1C => test (fun r => { r with step := data })
  | 0x20 => test (fun r => { r with subLo := data })
  | 0x24 => test (fun r => { r with subHi := data &&& 0xFF })
  | 0x28 => test (fun r => { r with drawIdx := data &&& 0x00FFFFFF })
  | 0x2C => if bit data.toNat 0 then rngGo s else test id
  | 0x30 | 0x34 => test id
  | _ => s

def writeSeed (c off : Nat) (data : Word) (s : State) : State :=
  if 8 ≤ off then s
  else if (ctxOf s c).state == .disabled then
    modCtx c (fun x => if off < 4 then { x with seedLo := data } else { x with seedHi := data }) s
  else modRng (fun r => { r with wrDrop := true }) s

def writeLnk (off : Nat) (data : Word) (s : State) : State :=
  if off = 0x110 then modExch (fun e => { e with drop := clr e.drop data 29 }) s else agrCfgWrite off data s

def writePort (p off : Nat) (data : Word) (s : State) : State :=
  match off with
  | 0x00 => modLnk p (fun l => { l with cfg := data &&& 0x1F }) s
  | 0x08 => modLnk p (fun l => { l with
      noSess := clr l.noSess data 3, wrDrop := clr l.wrDrop data 2, badFrame := clr l.badFrame data 1
      lostSeen := clr l.lostSeen data 0 }) s
  | 0x24 => if bit data.toNat 0 then lnkClear p s else s
  | _ => s

/-- An RW* field of a session: while it is not IDLE the write is ignored and flagged (R306). -/
def rwSess (p i : Nat) (f : Session → Session) (s : State) : State :=
  if (session s p i).state == .idle then modSess p i f s else modLnk p (fun l => { l with wrDrop := true }) s

def writeSess (p i off : Nat) (data : Word) (s : State) : State :=
  match off with
  | 0x00 => rwSess p i (fun x => { x with cfg := data }) s
  | 0x04 => rwSess p i (fun x => { x with fmt := data }) s
  | 0x08 => rwSess p i (fun x => { x with tag := data }) s
  | 0x0C => rwSess p i (fun x => { x with elems := data }) s
  | 0x10 => rwSess p i (fun x => { x with dcols := data }) s
  | 0x14 => rwSess p i (fun x => { x with route := data &&& 0xFFFF }) s
  | 0x18 => rwSess p i (fun x => { x with tile := data }) s
  | 0x1C => sessCtrl p i (bit data.toNat 0) (bit data.toNat 1) s
  | 0x20 => modSess p i (fun x => { x with
      loss := clr x.loss data 3, cbsumBad := clr x.cbsumBad data 2, sat := clr x.sat data 1, seqErr := clr x.seqErr data 0 }) s
  | _ => s

/-- A field of the fault-log ring that keeps its value while the ring is set up (R351). DEDUCED, unsafe (notes/assumptions/73.md). -/
def rwLog (f : Health → Health) (s : State) : State := if s.health.ring = 0 then modHealth f s else s

def writeHlt (off : Nat) (data : Word) (s : State) : State :=
  match off with
  | 0x00 => modHealth (fun h => { h with
      ctxStop := clr h.ctxStop data 30, fenced := clr h.fenced data 29, coreLost := clr h.coreLost data 28 }) s
  | 0x04 => modHealth (fun h => { h with cfg := data &&& 0x1FF }) s
  | 0x08 => modHealth (fun h => { h with memTmo := data }) s
  | 0x1C => coreCtrl data s
  | 0x20 => rwLog (fun h => { h with logBaseLo := data &&& 0xFFFFFFE0 }) s
  | 0x24 => rwLog (fun h => { h with logBaseHi := data }) s
  | 0x28 => logSize data s
  | 0x2C => rwLog (fun h => { h with logWrite := data }) s
  | 0x30 => modHealth (fun h => { h with logRelease := data }) s
  | _ => s

def writeDma (r off : Nat) (data : Word) (s : State) : State :=
  match off with
  | 0x00 => modDma r (fun d => { d with ownDrop := clr d.ownDrop data 29, seqErr := clr d.seqErr data 28 }) s
  | 0x04 => if bit data.toNat 0 then dmaResume r s else s
  | 0x08 => modDma r (fun d => { d with autoResume := bit data.toNat 0 }) s
  | 0x0C => dmaOwn r data s
  | 0x10 => modDma r (fun d => { d with hoplim := data }) s
  | 0x1C => modDma r (fun d => { d with event := w1c d.event data }) s
  | 0x20 => modDma r (fun d => { d with evmask := data }) s
  | _ => s

/-- An RW* field of a channel: flagged and ignored unless the channel is IDLE and direct (R301). -/
def rwChan (r ch : Nat) (f : Chan → Chan) (s : State) : State :=
  if (chan s r ch).state == .idle && bit (region s r).dma.own.toNat ch then modChan r ch f s
  else modChan r ch (fun c => { c with wrDrop := true }) s

/-- The bits of a block register that are not reserved (R301). -/
def chanMask (off : Nat) : Word :=
  match off with
  | 0x30 => 0x00000F33
  | 0x34 => 0xFFFFFFC0
  | _ => 0xFFFFFFFF

def writeChan (r ch off : Nat) (data : Word) (s : State) : State :=
  match off with
  | 0x3C => dmaCtrl r ch (bit data.toNat 0) (bit data.toNat 1) s
  | 0x40 => modChan r ch (fun c => { c with wrDrop := clr c.wrDrop data 1, seqErr := clr c.seqErr data 0 }) s
  | 0x50 => rwChan r ch (fun c => { c with cfg := data &&& 0x703 }) s
  | 0x54 => rwChan r ch (fun c => { c with cplLo := data &&& 0xFFFFFFE0 }) s
  | 0x58 => rwChan r ch (fun c => { c with cplHi := data }) s
  | o =>
    if o < 0x3C then rwChan r ch (fun c => { c with regs := modAt c.regs (o / 4) (fun _ => data &&& chanMask o) }) s else s

def writeSlice (i off : Nat) (data : Word) (s : State) : State :=
  match off with
  | 0x00 => lftCfgWrite i data s
  | 0x08 => modSlice i (fun x => { x with flags := (w1c (w32 x.flags) data).toNat }) s
  | 0x24 => if bit data.toNat 0 then lftClear i s else s
  | _ => s

/-- What a write of a register does; a reserved address ignores it (R403), and so does one without a field that is written. -/
def writeReg (x : Reg) (data : Word) (s : State) : State :=
  match x with
  | .ident off => writeIdent off data s
  | .ring c off => writeRing c off data s
  | .sch off => writeSch off data s
  | .ctx c off => writeCtx c off data s
  | .bank n off => writeBank n off data s
  | .trk off => writeTrk off data s
  | .gln c off => writeGln c off data s
  | .outl c off => writeOutl c off data s
  | .rcp n k => writeRcp n k data s
  | .rng off => writeRng off data s
  | .seed c off => writeSeed c off data s
  | .lnk off => writeLnk off data s
  | .dom c => { s with lnkDom := modAt s.lnkDom c (fun _ => BitVec.ofNat 16 data.toNat) }
  | .port p off => writePort p off data s
  | .sess p i off => writeSess p i off data s
  | .hlt off => writeHlt off data s
  | .dma r off => writeDma r off data s
  | .chan r ch off => if ch < 32 then writeChan r ch off data s else s
  | .lift off => if off = 0 then { s with lftCtrl := data &&& 0x1F } else s
  | .slice i off => writeSlice i off data s
  | .hltRg _ _ | .lease _ _ | .reserved => s

/-! ## The interrupt (R397) -/

/-- The level of t5_irq. -/
def t5Irq (s : State) : Bool :=
  s.sched.event0 &&& s.sched.evmask0 != 0 || s.sched.event1 &&& s.sched.evmask1 != 0 ||
    s.regions.any (fun r => r.dma.event &&& r.dma.evmask != 0)

/-! ## The outputs in reset, in test mode and between transfers (R398) -/

/-- The levels at the T5's outputs, those of the lift and of the link apart (`liftPins`, `linkPins`): between transfers, in which they hold
what the record of outputs says for the length of a beat. `none` is a level that the spec leaves open there. The per-slice and per-cluster
outputs of one name hold one level, but for `clu_alive`. -/
structure T5Pins where
  cpAck : Bool
  cpRdata : Word
  cpErr : Option Bool
  cpoDValid : Bool
  cpoRValid : BitVec 2
  /-- Every other `cpo_` output. -/
  cpoRest : Option Nat
  cpiCrSt : BitVec 2
  cluAlive : List Bool
  rgnParkAck : List Bool
  irq : Bool
  vfyReq : Bool
  vfyDigest : List Byte
  vfyType : Nat
  vfyTarget : Nat
  vfySect : Nat
  xspiCsB : Bool
  xspiSck : Option Bool
  /-- Whether the T5 drives `xspi_dq`: in a read it does so in the command and address phases only (R358). -/
  xspiDqDriven : Option Bool
  lclDnReq : Option Bool
  lclDnData : Option Word
  lclUpAck : Option Bool
  deriving DecidableEq, Repr

/-- The reset column and the test column of R398, which are equal. -/
def pinsHeld (s : State) : T5Pins where
  cpAck := false
  cpRdata := 0
  cpErr := some false
  cpoDValid := false
  cpoRValid := 0
  cpoRest := some 0
  cpiCrSt := 0
  cluAlive := s.ports.map (fun _ => false)
  rgnParkAck := s.regions.map (fun _ => false)
  irq := false
  vfyReq := false
  vfyDigest := zeros 48
  vfyType := 0
  vfyTarget := 0
  vfySect := 0
  xspiCsB := true
  xspiSck := some false
  xspiDqDriven := some false
  lclDnReq := some false
  lclDnData := some 0
  lclUpAck := some false

/-- The levels of a T5 that runs (R358, R368, R380, R395, R397): the loader port is idle while the loader has no read under way. -/
def pinsRun (s : State) : T5Pins where
  cpAck := false
  cpRdata := 0
  cpErr := none
  cpoDValid := false
  cpoRValid := 0
  cpoRest := none
  cpiCrSt := 0
  cluAlive := s.ports.map (·.alive)
  rgnParkAck := s.regions.map (·.parkAck)
  irq := t5Irq s
  vfyReq := s.verify.req
  vfyDigest := s.verify.digest
  vfyType := s.verify.type
  vfyTarget := s.verify.target
  vfySect := s.verify.sect
  xspiCsB := s.loader.read == .none
  xspiSck := if s.loader.read == .none then some false else none
  xspiDqDriven := if s.loader.read == .none then some false else none
  lclDnReq := none
  lclDnData := none
  lclUpAck := none

/-- The outputs (R398, R400): in test mode EXTEST has the boundary register drive them instead, which answers `none`. -/
def t5Pins (s : State) : Option T5Pins :=
  if s.wrapper.testEn && s.wrapper.wir == 1 then none
  else if s.rst = .run && !s.wrapper.testEn then some (pinsRun s)
  else some (pinsHeld s)

/-! ## Requests of the control port (R383) -/

/-- Whether a request completes with cp_err 1: misaligned, or to the block of a parked region. -/
def cpFails (s : State) (a : Nat) : Bool :=
  a % 4 != 0 || (0x100000 ≤ a && a < 0x300000 && regionAck s ((a - 0x100000) / 0x40000))

end Sys2Proof.Machine
end

