-- ==== Sys2Proof/Machine/Reset.lean ====
section
/-! DEFINITION. Full reset and test mode (R354, R355, R400), and the control port's requests (R383). -/

namespace Sys2Proof.Machine

/-- Every island is held in reset: every register is at its reset value (R16, R354, R416). What is built, the wrapper, the queue
and the model's own fields are no part of it. -/
def resetTo (r : Rst) (s : State) : State :=
  { State.resetOf s.build 0 0 with
    rst := r, pending := s.pending, wrapper := s.wrapper, outs := s.outs, freeCtr := s.freeCtr }

/-- The effect of a control-port write (R383): a full reset requested through RDY_RESET begins after the acknowledgement (R354). -/
def cpWrite (a : Nat) (data : Word) (s : State) : State :=
  if cpFails s a then emit (.cpAck true) s
  else
    let s := emit (.cpAck false) s
    if a = 0x1004 then
      if bits data.toNat 16 16 = 0xD1E5 && bit data.toNat 0 then resetTo .requested s else s
    else writeReg (regAt s a) data s

/-- The answer to a control-port read (R15, R383). DESIGN CHOICE, safe (notes/assumptions/78.md). -/
def cpRead (a : Nat) (s : State) : State :=
  if cpFails s a then emit (.cpRead true 0) s else emit (.cpRead false (readReg s (regAt s a))) s

/-- Serve a request of the control port. DESIGN CHOICE, safe (notes/assumptions/78.md). -/
def cpServe (q : CpReq) (s : State) : State :=
  if q.we then cpWrite q.addr.toNat q.data s else cpRead q.addr.toNat s

/-- The end of a full reset (R27, R355 steps 1 and 2, R383): the straps are sampled, the loader reads the header of the primary slot,
and a request still held is served. -/
def resetEnd (dieIndex dieCountM1 : BitVec 4) (held : Option CpReq) (s : State) : State :=
  let s := { State.resetOf s.build dieIndex dieCountM1 with
    pending := s.pending, wrapper := s.wrapper, outs := s.outs ++ [flashRead 0 32], freeCtr := s.freeCtr }
  match held with
  | some q => cpServe q s
  | none => s

/-- T5_RESET_ASSERT (R354). -/
def execT5ResetAssert (s : State) : Answer := .next (resetTo .pin s)

/-- T5_RESET_RELEASE (R27, R355, R383); in test mode the logic stays in reset (R400). -/
def execT5ResetRelease (dieIndex dieCountM1 : BitVec 4) (held : Option CpReq) (s : State) : Answer :=
  if s.rst = .pin && !s.wrapper.testEn then .next (resetEnd dieIndex dieCountM1 held s) else .next s

/-- RDY_RESET_FULL (R354, R375): a write of RDY_RESET with FULL. -/
def execRdyResetFull (key : BitVec 16) (s : State) : Answer := inRun s <|
  .next (cpWrite 0x1004 (BitVec.ofNat 32 (key.toNat * 2 ^ 16 + 1)) s)

/-- REQUESTED_RESET_END (R354): 64 control cycles have passed; the reset ends as a release does. -/
def execRequestedResetEnd (dieIndex dieCountM1 : BitVec 4) (held : Option CpReq) (s : State) : Answer :=
  if s.rst = .requested then .next (resetEnd dieIndex dieCountM1 held s) else .next s

/-- REGISTER_WRITE (R10, R14, R383, R403). -/
def execRegisterWrite (addr : BitVec 22) (data : Word) (s : State) : Answer := inRun s <|
  .next (cpWrite addr.toNat data s)

/-- TEST_MODE_ENTER (R400): t5_test_en goes to 1 and the functional logic is held in reset.
DESIGN CHOICE, safe (notes/assumptions/28.md). DESIGN CHOICE, safe (notes/assumptions/76.md). -/
def execTestModeEnter (s : State) : Answer :=
  if s.wrapper.testEn then .next s
  else .next (modWrap (fun w => { w with testEn := true }) (resetTo .pin s))

/-- TEST_MODE_EXIT (R400): t5_test_en goes to 0 while t5_reset_b is 0; a full reset follows with its release.
DESIGN CHOICE, safe (notes/assumptions/28.md). -/
def execTestModeExit (s : State) : Answer := .next (modWrap (fun w => { w with testEn := false }) s)

/-! ## Time (R34, R35) -/

/-- Every island counts a cycle of its own clock (R35). -/
def countCycle (s : State) : State :=
  { s with
    ctlTime := s.ctlTime + 1
    ldrTime := s.ldrTime + 1
    regions := s.regions.map (fun r => { r with time := r.time + 1 })
    slices := s.slices.map (fun x => { x with time := x.time + 1 })
    lnk := s.lnk.map (fun l => { l with time := l.time + 1 }) }

/-- A moment in which no command arrives: the islands count, and in sliced mode the slice goes to the context that is to have it (R264).
DESIGN CHOICE, unsafe (notes/assumptions/2.md). -/
def tick (s : State) : State := if s.rst = .run then yieldSlice (countCycle s) else s

end Sys2Proof.Machine
end

