-- ==== Sys2Proof/Machine/Dispatch.lean ====
section
/-! DEFINITION. What each command does to everything but the queue: one call of its meaning for every command. -/

namespace Sys2Proof.Machine

/-- The effect of a command. -/
def exec (i : Instr) (s : State) : Host.Outcome State Fault Refusal :=
  match i with
  | .t5ResetAssert => Sys2Proof.Machine.execT5ResetAssert s
  | .t5ResetRelease dieIndex dieCountM1 held => Sys2Proof.Machine.execT5ResetRelease dieIndex dieCountM1 held s
  | .rdyResetFull key => Sys2Proof.Machine.execRdyResetFull key s
  | .requestedResetEnd dieIndex dieCountM1 held => Sys2Proof.Machine.execRequestedResetEnd dieIndex dieCountM1 held s
  | .registerWrite addr data => Sys2Proof.Machine.execRegisterWrite addr data s
  | .ldrHeaderReadDone data => Sys2Proof.Machine.execLdrHeaderReadDone data s
  | .ldrTableReadDone data => Sys2Proof.Machine.execLdrTableReadDone data s
  | .ldrSectionReadDone data => Sys2Proof.Machine.execLdrSectionReadDone data s
  | .ldrReadTimeout => Sys2Proof.Machine.execLdrReadTimeout s
  | .verifyAnswer accept => Sys2Proof.Machine.execVerifyAnswer accept s
  | .verifyTimeout => Sys2Proof.Machine.execVerifyTimeout s
  | .regionSelftestDone region fails => Sys2Proof.Machine.execRegionSelftestDone region fails s
  | .controlSelftestDone fails => Sys2Proof.Machine.execControlSelftestDone fails s
  | .imgLiveGo => Sys2Proof.Machine.execImgLiveGo s
  | .liveCodebookApply => Sys2Proof.Machine.execLiveCodebookApply s
  | .seqCodeShadowSwap => Sys2Proof.Machine.execSeqCodeShadowSwap s
  | .cbLoadPreset bank preset commit switch => Sys2Proof.Machine.execCbLoadPreset bank preset commit switch s
  | .cbCommit bank preset switch => Sys2Proof.Machine.execCbCommit bank preset switch s
  | .cbCheckDone bank => Sys2Proof.Machine.execCbCheckDone bank s
  | .cbSwitch bank preset ue => Sys2Proof.Machine.execCbSwitch bank preset ue s
  | .cbSideWrite bank offset data => Sys2Proof.Machine.execCbSideWrite bank offset data s
  | .ringSubProdWrite ctx data => Sys2Proof.Machine.execRingSubProdWrite ctx data s
  | .acceptEntry ctx ue => Sys2Proof.Machine.execAcceptEntry ctx ue s
  | .acceptancePoint ctx => Sys2Proof.Machine.execAcceptancePoint ctx s
  | .nodeDispatch ctx graph node ue => Sys2Proof.Machine.execNodeDispatch ctx graph node ue s
  | .commitHeaderWrite ctx => Sys2Proof.Machine.execCommitHeaderWrite ctx s
  | .agreedValueArrival ctx stream step value => Sys2Proof.Machine.execAgreedValueArrival ctx stream step value s
  | .agreeTimeout ctx stream => Sys2Proof.Machine.execAgreeTimeout ctx stream s
  | .agreeDeliver => Sys2Proof.Machine.execAgreeDeliver s
  | .agreeLocal => Sys2Proof.Machine.execAgreeLocal s
  | .fbForce => Sys2Proof.Machine.execFbForce s
  | .fbRelease => Sys2Proof.Machine.execFbRelease s
  | .slotEvict slot => Sys2Proof.Machine.execSlotEvict slot s
  | .swathDispatch ctx graph node region pos rows ue => Sys2Proof.Machine.execSwathDispatch ctx graph node region pos rows ue s
  | .twoPassSecondPass ctx graph node => Sys2Proof.Machine.execTwoPassSecondPass ctx graph node s
  | .swathComplete region pos swath => Sys2Proof.Machine.execSwathComplete region pos swath s
  | .taskComplete ctx graph node => Sys2Proof.Machine.execTaskComplete ctx graph node s
  | .nodeEmit ctx => Sys2Proof.Machine.execNodeEmit ctx s
  | .recordSeqWrite src => Sys2Proof.Machine.execRecordSeqWrite src s
  | .ringCplReleaseWrite ctx data => Sys2Proof.Machine.execRingCplReleaseWrite ctx data s
  | .glnReleaseWrite ctx data => Sys2Proof.Machine.execGlnReleaseWrite ctx data s
  | .ctxEnable ctx => Sys2Proof.Machine.execCtxEnable ctx s
  | .ctxDisable ctx => Sys2Proof.Machine.execCtxDisable ctx s
  | .ctxCancel ctx => Sys2Proof.Machine.execCtxCancel ctx s
  | .ctxSave ctx => Sys2Proof.Machine.execCtxSave ctx s
  | .ctxRestore ctx => Sys2Proof.Machine.execCtxRestore ctx s
  | .contextDrained ctx => Sys2Proof.Machine.execContextDrained ctx s
  | .slicedModeEnter => Sys2Proof.Machine.execSlicedModeEnter s
  | .slicedModeExit => Sys2Proof.Machine.execSlicedModeExit s
  | .sliceEnd => Sys2Proof.Machine.execSliceEnd s
  | .contextStall ctx => Sys2Proof.Machine.execContextStall ctx s
  | .cpiRdata cluster tag err words ue => Sys2Proof.Machine.execCpiRdata cluster tag err words ue s
  | .cpiSdata src len words => Sys2Proof.Machine.execCpiSdata src len words s
  | .cpiSclose cluster sid err => Sys2Proof.Machine.execCpiSclose cluster sid err s
  | .cpiWriteAck cluster tag err => Sys2Proof.Machine.execCpiWriteAck cluster tag err s
  | .creditReturn cluster rd wr st => Sys2Proof.Machine.execCreditReturn cluster rd wr st s
  | .memResponseTimeout cluster tag wr => Sys2Proof.Machine.execMemResponseTimeout cluster tag wr s
  | .cluAliveToggle cluster => Sys2Proof.Machine.execCluAliveToggle cluster s
  | .clusterPartnerLost cluster => Sys2Proof.Machine.execClusterPartnerLost cluster s
  | .clusterPartnerReturn cluster => Sys2Proof.Machine.execClusterPartnerReturn cluster s
  | .regionParkRequest region => Sys2Proof.Machine.execRegionParkRequest region s
  | .regionParkAck region => Sys2Proof.Machine.execRegionParkAck region s
  | .regionUnpark region => Sys2Proof.Machine.execRegionUnpark region s
  | .coreAliveTimeout region pos => Sys2Proof.Machine.execCoreAliveTimeout region pos s
  | .hltRetire data => Sys2Proof.Machine.execHltRetire data s
  | .coreFenceSettled region pos => Sys2Proof.Machine.execCoreFenceSettled region pos s
  | .zombieRequest region phys pos epoch addr wr => Sys2Proof.Machine.execZombieRequest region phys pos epoch addr wr s
  | .zombieAliveToggle region phys => Sys2Proof.Machine.execZombieAliveToggle region phys s
  | .hltLogSizeWrite data => Sys2Proof.Machine.execHltLogSizeWrite data s
  | .dmaOwnWrite region data => Sys2Proof.Machine.execDmaOwnWrite region data s
  | .dmaStart region chan => Sys2Proof.Machine.execDmaStart region chan s
  | .dmaDisable region chan => Sys2Proof.Machine.execDmaDisable region chan s
  | .dmaBurstGrant region wr => Sys2Proof.Machine.execDmaBurstGrant region wr s
  | .dmaHop region chan => Sys2Proof.Machine.execDmaHop region chan s
  | .dmaRunEnd region chan => Sys2Proof.Machine.execDmaRunEnd region chan s
  | .dmaEngineStopped region => Sys2Proof.Machine.execDmaEngineStopped region s
  | .dmaAutoResume region => Sys2Proof.Machine.execDmaAutoResume region s
  | .dmaResume region => Sys2Proof.Machine.execDmaResume region s
  | .rngTestGo => Sys2Proof.Machine.execRngTestGo s
  | .rngTestDone => Sys2Proof.Machine.execRngTestDone s
  | .liftResetAssert slice => Sys2Proof.Machine.execLiftResetAssert slice s
  | .liftResetRelease slice fails => Sys2Proof.Machine.execLiftResetRelease slice fails s
  | .liftCfgWrite slice data => Sys2Proof.Machine.execLiftCfgWrite slice data s
  | .liftWindowLoad slice window => Sys2Proof.Machine.execLiftWindowLoad slice window s
  | .lclTransferTimeout slice => Sys2Proof.Machine.execLclTransferTimeout slice s
  | .liftCodeBeat slice beat => Sys2Proof.Machine.execLiftCodeBeat slice beat s
  | .liftScaleLine slice line first ue => Sys2Proof.Machine.execLiftScaleLine slice line first ue s
  | .liftLineTimeout slice => Sys2Proof.Machine.execLiftLineTimeout slice s
  | .liftOutputBeat slice => Sys2Proof.Machine.execLiftOutputBeat slice s
  | .liftAliveToggle slice => Sys2Proof.Machine.execLiftAliveToggle slice s
  | .liftPartnerLost slice => Sys2Proof.Machine.execLiftPartnerLost slice s
  | .liftPartnerReturn slice => Sys2Proof.Machine.execLiftPartnerReturn slice s
  | .lftClrCounters slice => Sys2Proof.Machine.execLftClrCounters slice s
  | .lnkArm port session => Sys2Proof.Machine.execLnkArm port session s
  | .lnkDisarm port session => Sys2Proof.Machine.execLnkDisarm port session s
  | .lnkSessionIdle port session => Sys2Proof.Machine.execLnkSessionIdle port session s
  | .lnkLocalElements port => Sys2Proof.Machine.execLnkLocalElements port s
  | .lnkFrameTransmit port => Sys2Proof.Machine.execLnkFrameTransmit port s
  | .lnkFrameReceive port frame err ue => Sys2Proof.Machine.execLnkFrameReceive port frame err ue s
  | .lnkFrameTimeout port session => Sys2Proof.Machine.execLnkFrameTimeout port session s
  | .lnkAliveToggle port => Sys2Proof.Machine.execLnkAliveToggle port s
  | .lnkPartnerLost port => Sys2Proof.Machine.execLnkPartnerLost port s
  | .lnkPartnerReturn port => Sys2Proof.Machine.execLnkPartnerReturn port s
  | .lnkPortResetAssert port => Sys2Proof.Machine.execLnkPortResetAssert port s
  | .lnkPortResetRelease port fails => Sys2Proof.Machine.execLnkPortResetRelease port fails s
  | .lnkPClrCounters port => Sys2Proof.Machine.execLnkPClrCounters port s
  | .lnkAgrCfgWrite offset data => Sys2Proof.Machine.execLnkAgrCfgWrite offset data s
  | .testModeEnter => Sys2Proof.Machine.execTestModeEnter s
  | .wrstnReset => Sys2Proof.Machine.execWrstnReset s
  | .wsBypass bit => Sys2Proof.Machine.execWsBypass bit s
  | .wsExtest drive inputs => Sys2Proof.Machine.execWsExtest drive inputs s
  | .wsIntest drive => Sys2Proof.Machine.execWsIntest drive s
  | .wsScan bits => Sys2Proof.Machine.execWsScan bits s
  | .wsMbist => Sys2Proof.Machine.execWsMbist s
  | .wsMbistDone rows => Sys2Proof.Machine.execWsMbistDone rows s
  | .wsMbistRead => Sys2Proof.Machine.execWsMbistRead s
  | .testModeExit => Sys2Proof.Machine.execTestModeExit s

end Sys2Proof.Machine
end

