-- ==== Sys2Proof/Safety.lean ====
section
/-! DEFINITION. What every state of a run shows: the units are those that are built, and the cluster ports keep the rules of their
requests; and how statements say what an effect leaves alone. -/

namespace Sys2Proof.Machine

/-- A cluster port keeps its rules: no counter above 255 (R388), and no two outstanding requests of one class with the same tag
(R387). -/
def Port.ok (p : Port) : Prop :=
  p.rd ≤ 255 ∧ p.wr ≤ 255 ∧ p.st ≤ 255 ∧ (p.out.map (fun q => (q.burst.wr, q.tag))).Nodup

/-- The state holds exactly the units that are built (R10, R33, R406). -/
structure State.Built (s : State) : Prop where
  banks : s.banks.length = 16
  recipes : s.recipes.length = 256
  seqSlots : s.seqSlots.length = 16
  regions : s.regions.length = s.build.regions
  ports : s.ports.length = s.build.clusters
  slices : s.slices.length = s.build.liftBuilt
  lnk : s.lnk.length = s.build.linkPorts
  lnkDom : s.lnkDom.length = s.build.contexts
  ctxs : s.ctxs.length = s.build.contexts

/-- The invariant of every state. -/
structure State.Inv (s : State) : Prop where
  built : s.Built
  ports : ∀ p ∈ s.ports, p.ok

/-- `s` with what the traffic of the block touches taken from `t`: the accesses of the control island and their bursts, the
cluster ports, the fault log and the health registers, and what has been driven at the ports. Nothing else differs from `s`. -/
def State.withTraffic (s t : State) : State :=
  { s with
    ports := t.ports, ctlWait := t.ctlWait, jobs := t.jobs, nextJob := t.nextJob, health := t.health, outs := t.outs }

/-- From `s` to `t` consumer `c` has been counted off every switch that waited for it (R78 step 2): it is gone from the consumers that
the switch of a bank still waits for, and where it was the last of them the live side has toggled, the generation has advanced and the
bank is OPEN (R78 step 3), the BANKSWITCH node that started the switch has completed, and those that waited for it are REJECTED with cause
0x0B (R80). No other bank has changed. -/
def State.CountedOff (c : Consumer) (s t : State) : Prop :=
  ∀ n, n < 16 →
    let b := bank s n
    let rest := b.flip.filter (· != c)
    (b.state ≠ .switching ∨ c ∉ b.flip → bank t n = b) ∧
    (b.state = .switching → c ∈ b.flip → rest ≠ [] → bank t n = { b with flip := rest }) ∧
    (b.state = .switching → c ∈ b.flip → rest = [] →
      bank t n = { b with live := !b.live, gen := (b.gen + 1) % 256, state := .opn, flip := [], node := none, waits := [] } ∧
      ∀ r m, nodeOf s r = some m → m.stat = .dispatched →
        let ended := fun (status cause : Nat) => ∃ k, nodeOf t r = some k ∧ k.stat = .completed ∧ k.status = status ∧ k.cause = cause
        (b.node = some r → (∀ m, m < 16 → m ≠ n → r ∉ (bank s m).waits) → ended 0 0) ∧
        (r ∈ b.waits → (∀ m, m < 16 → (bank s m).node ≠ some r) → ended 0x16 0x0B))

/-- From `s` to `t` nothing but the traffic of the block has changed. -/
def State.Quiet (s t : State) : Prop := t = s.withTraffic t

end Sys2Proof.Machine
end

