-- ==== Sys2Proof/Certificates/Slice0/Obligations.lean ====
section
/-! DEFINITION. The statements for the provers: what the machine does as a whole, command by command what each family does and leaves
alone, and what its codes and words keep. `State.withTraffic` says that only the traffic of the block has changed (Safety.lean). -/

open Sys2Proof Sys2Proof.Machine

/-! ## The machine -/

/-- Tier 1. A step takes the command at the front of the queue and runs it on the state with the queue's rest. -/
def Obligations.StepRunsFront : Prop :=
  ∀ (c : Instr) (rest : List Instr) (s : State), step { s with pending := c :: rest } = exec c { s with pending := rest }

/-- Tier 1. With an empty queue the islands' counters advance by one while no reset is in force; outside sliced mode nothing else changes,
and in sliced mode the context whose turn it is takes the slice where none holds it, and the slots that the one before it pinned are
unpinned (`slotsUnpin`: RegionParking). That an empty queue counts time, and that a slice is
taken then, are the model's choices (notes/assumptions/2.md, notes/assumptions/46.md). -/
def Obligations.IdleCountsTime : Prop :=
  ∀ s : State, s.pending = [] →
    let u : State := { s with
      ctlTime := s.ctlTime + 1, ldrTime := s.ldrTime + 1
      regions := s.regions.map (fun r => { r with time := r.time + 1 })
      slices := s.slices.map (fun x => { x with time := x.time + 1 })
      lnk := s.lnk.map (fun l => { l with time := l.time + 1 }) }
    (s.rst ≠ .run → step s = .next s) ∧
    (s.rst = .run → s.sched.sliced = false → step s = .next u) ∧
    (s.rst = .run → s.sched.sliced = true → s.sched.holder = none →
      (nextHolder u = none → step s = .next u) ∧ ∀ c, nextHolder u = some c → step s = .next (takeSlice c u)) ∧
    (s.rst = .run → ∃ t, (step s = .next t ∨ step s = .next (slotsUnpin t)) ∧ t = { u with sched := t.sched, ctxs := t.ctxs })

/-- Tier 1. The invariant holds right after reset. -/
def Obligations.ResetInv : Prop := State.reset.Inv

/-- Tier 3. Every step keeps the invariant: the units are those that are built; no credit counter of a cluster port exceeds 255; and no two
outstanding requests of one direction on one port carry the same tag. -/
def Obligations.StepKeepsInv : Prop := ∀ s t : State, s.Inv → step s = .next t → t.Inv

/-- Tier 2. No command changes what is built or the queue of commands. -/
def Obligations.ExecKeepsQueue : Prop :=
  ∀ (c : Instr) (s t : State), exec c s = .next t → t.pending = s.pending ∧ t.build = s.build

/-- Tier 2. While a full reset is in force or the T5 is in test mode, no command changes anything, but for those of reset, of test mode and
of the wrapper. -/
def Obligations.NothingHappensInReset : Prop :=
  ∀ (c : Instr) (s : State), s.rst ≠ .run →
    match c with
    | .t5ResetAssert | .t5ResetRelease _ _ _ | .requestedResetEnd _ _ _ | .testModeEnter | .testModeExit | .wrstnReset
    | .wsBypass _ | .wsExtest _ _ | .wsIntest _ | .wsScan _ | .wsMbist | .wsMbistDone _ | .wsMbistRead => True
    | _ => exec c s = .next s

/-! ## Full reset and test mode -/

/-- Tier 1. `t5_reset_b` at 0, or a write of RDY_RESET with its key and FULL, puts every register at its reset value; the write is
acknowledged first, and one with another key only gets its acknowledgement. The reset ends with the straps sampled, every register at
its reset value, and the octal DDR read of 32 bytes at flash offset 0; a requested one ends exactly as a release of `t5_reset_b` does. The outputs
hold the reset column of R398 in a full reset, and its test column in test mode where EXTEST does not drive them. -/
def Obligations.FullReset : Prop :=
  (∀ s : State,
     exec .t5ResetAssert s = .next { State.resetOf s.build 0 0 with
       rst := .pin, pending := s.pending, wrapper := s.wrapper, outs := s.outs, freeCtr := s.freeCtr } ∧
     (s.rst = .run → ∀ key : BitVec 16, exec (.rdyResetFull key) s = .next (
       if key = 0xD1E5 then { State.resetOf s.build 0 0 with
         rst := .requested, pending := s.pending, wrapper := s.wrapper, outs := s.outs ++ [.cpAck false], freeCtr := s.freeCtr }
       else { s with outs := s.outs ++ [.cpAck false] }))) ∧
  (∀ (s : State) (x y : BitVec 4),
     let t : State := { State.resetOf s.build x y with
       pending := s.pending, wrapper := s.wrapper, outs := s.outs ++ [.xspiRead 0xEE 0x11 0 20 32], freeCtr := s.freeCtr }
     (s.rst = .pin → s.wrapper.testEn = false → exec (.t5ResetRelease x y none) s = .next t) ∧
     (s.rst = .requested → exec (.requestedResetEnd x y none) s = .next t)) ∧
  -- the outputs in a full reset, and in test mode where EXTEST does not drive them
  (∀ s : State, (s.rst ≠ .run ∧ s.wrapper.testEn = false) ∨ (s.wrapper.testEn = true ∧ s.wrapper.wir ≠ 1) →
     t5Pins s = some {
       cpAck := false, cpRdata := 0, cpErr := some false, cpoDValid := false, cpoRValid := 0, cpoRest := some 0, cpiCrSt := 0
       cluAlive := List.replicate s.ports.length false, rgnParkAck := List.replicate s.regions.length false, irq := false
       vfyReq := false, vfyDigest := List.replicate 48 0, vfyType := 0, vfyTarget := 0, vfySect := 0
       xspiCsB := true, xspiSck := some false, xspiDqDriven := some false
       lclDnReq := some false, lclDnData := some 0, lclUpAck := some false })

/-- Tier 1. A request of the control port that is still held when a full reset ends is taken as a new one: a misaligned one is answered with
cp_err 1, and a read of ID_STRAP gives the straps just sampled. -/
def Obligations.HeldRequest : Prop :=
  ∀ (s : State) (x y : BitVec 4) (w : Word), s.rst = .pin → s.wrapper.testEn = false →
    (∃ t, exec (.t5ResetRelease x y (some ⟨true, 0x000002, w⟩)) s = .next t ∧
      t.outs = s.outs ++ [.xspiRead 0xEE 0x11 0 20 32, .cpAck true]) ∧
    (∃ t, exec (.t5ResetRelease x y (some ⟨false, 0x000008, w⟩)) s = .next t ∧
      t.outs = s.outs ++ [.xspiRead 0xEE 0x11 0 20 32, .cpRead false (BitVec.ofNat 32 (x.toNat * 16 + y.toNat))])

/-- Tier 1. `t5_test_en` at 1 holds the functional logic in reset; at 0 again the logic stays in reset until its release, which is the
model's choice (notes/assumptions/28.md); and the wrapper's own reset clears its registers and nothing else. In test mode the boundary
register drives and captures, the scan chains shift out values that the spec leaves open while one bit goes through the bypass, the status
of the self-test is shifted out, and the self-test starts where WS_MBIST has just been selected or none has run since the wrapper's reset,
ends with its failing rows, and has them shifted out behind their count. BYPASS, under any of its codes, shifts one bit, and outside test
mode every other instruction of the wrapper acts as it does. The level of wsi with those instructions is free (notes/assumptions/95.md);
that the instruction register holds the code that was selected outside test mode too is notes/assumptions/98.md, and when the status is
shifted and a self-test starts is notes/assumptions/96.md. -/
def Obligations.TestWrapper : Prop :=
  (∀ s : State,
     (s.wrapper.testEn = false → exec .testModeEnter s = .next { State.resetOf s.build 0 0 with
       rst := .pin, pending := s.pending, wrapper := { s.wrapper with testEn := true }, outs := s.outs, freeCtr := s.freeCtr }) ∧
     exec .testModeExit s = .next { s with wrapper := { s.wrapper with testEn := false } } ∧
     exec .wrstnReset s = .next { s with wrapper := { Wrapper.reset with testEn := s.wrapper.testEn } }) ∧
  (∀ s : State, s.wrapper.testEn = true →
     let old : Out := .wrapper [BitVec.ofNat 8 (b2n s.wrapper.bypass)]
     let status : Out := .wrapper (leBytes 4 (b2n s.wrapper.mbistDone * 2 ^ 31 + b2n s.wrapper.mbistFail * 2 ^ 30))
     let starts := s.wrapper.wir ≠ 4 ∨ (s.wrapper.mbistRun = false ∧ s.wrapper.mbistDone = false)
     (∀ d i, exec (.wsExtest d i) s = .next { s with
       wrapper := { s.wrapper with wir := 1, boundary := i }, outs := s.outs ++ [.boundary d] }) ∧
     (∀ d, exec (.wsIntest d) s = .next { s with wrapper := { s.wrapper with wir := 2, boundary := d } }) ∧
     (∀ bits, ∃ b out, out.length = bits.length ∧ exec (.wsScan bits) s = .next { s with
       wrapper := { s.wrapper with wir := 3, bypass := b }, freeCtr := s.freeCtr + 1 + bits.length
       outs := s.outs ++ [old, .wpo out] }) ∧
     (starts → exec .wsMbist s = .next { s with
       wrapper := { s.wrapper with wir := 4, mbistRun := true, mbistDone := false, mbistFail := false, rows := [] }
       outs := s.outs ++ [status] }) ∧
     (¬ starts → exec .wsMbist s = .next { s with outs := s.outs ++ [status] }) ∧
     (s.wrapper.mbistRun = true → ∀ rows, exec (.wsMbistDone rows) s = .next { s with
       wrapper := { s.wrapper with mbistRun := false, mbistDone := true, mbistFail := !rows.isEmpty, rows := rows } }) ∧
     exec .wsMbistRead s = .next { s with
       wrapper := { s.wrapper with wir := 5 }
       outs := s.outs ++ [.wrapper (leBytes 4 s.wrapper.rows.length ++ s.wrapper.rows.flatMap rowEntry)] }) ∧
  (∀ s : State,
     let out := s.outs ++ [.wrapper [BitVec.ofNat 8 (b2n s.wrapper.bypass)]]
     let shifts := fun (wir : Nat) (x : Answer) => ∃ b, x = .next { s with
       wrapper := { s.wrapper with wir := wir, bypass := b }, freeCtr := s.freeCtr + 1, outs := out }
     (∀ b : WsBit, exec (.wsBypass b) s = .next { s with
       wrapper := { s.wrapper with wir := b.code.toNat, bypass := b.wsi }, outs := out }) ∧
     (s.wrapper.testEn = false →
       (∀ d i, shifts 1 (exec (.wsExtest d i) s)) ∧ (∀ d, shifts 2 (exec (.wsIntest d) s)) ∧
       (∀ d, shifts 3 (exec (.wsScan d) s)) ∧ shifts 4 (exec .wsMbist s) ∧ shifts 5 (exec .wsMbistRead s)))

/-! ## Random bits -/

/-- Tier 1. GO starts a test draw and makes BUSY 1; while BUSY is 1 it is ignored and sets WR_DROP. The draw that ends is that of the test
registers, and the worked example of the generator is the draw it gives. -/
def Obligations.RandomBits : Prop :=
  (∀ s : State, s.rst = .run →
     exec .rngTestGo s = .next { s with
       outs := s.outs ++ [.cpAck false]
       rng := if s.rng.busy then { s.rng with wrDrop := true } else { s.rng with busy := true } } ∧
     (s.rng.busy = true → exec .rngTestDone s = .next { s with rng := { s.rng with
       busy := false
       outLo := BitVec.ofNat 32 (draw (s.rng.seedHi.toNat * 2 ^ 32 + s.rng.seedLo.toNat) s.rng.sid.toNat s.rng.step.toNat
         (s.rng.subHi.toNat * 2 ^ 32 + s.rng.subLo.toNat) s.rng.drawIdx.toNat)
       outHi := BitVec.ofNat 32 (draw (s.rng.seedHi.toNat * 2 ^ 32 + s.rng.seedLo.toNat) s.rng.sid.toNat s.rng.step.toNat
         (s.rng.subHi.toNat * 2 ^ 32 + s.rng.subLo.toNat) s.rng.drawIdx.toNat / 2 ^ 32) } })) ∧
  (draw 0xA3B195E170AB6FD2 0 1 0 1 = 0xA3B195E170AB6FD2)

/-! ## The loader -/

/-- Tier 2. The header that has been read: a valid one leads to the read of the whole section table in one transfer; where it is not valid,
the primary slot gives way to the alternate slot, and the alternate slot to no image. -/
def Obligations.LoaderHeader : Prop :=
  ∀ (s : State) (data : List Byte), s.rst = .run → s.loader.read = .header →
    (headerOk s.build data = true → exec (.ldrHeaderReadDone data) s = .next { s with
      loader := { s.loader with read := .table data }
      outs := s.outs ++ [.xspiRead 0xEE 0x11 (if s.loader.slot = 0 then 32 else 0x1000020) 20 (32 * fld data 6 2)] }) ∧
    (headerOk s.build data = false → s.loader.slot = 0 → ∃ t, exec (.ldrHeaderReadDone data) s = .next t ∧
      t.loader = { s.loader with slot := 1, read := .header } ∧ t = { s.withTraffic t with loader := t.loader } ∧
      t.outs.getLast? = some (.xspiRead 0xEE 0x11 0x1000000 20 32)) ∧
    (headerOk s.build data = false → s.loader.slot = 1 → s.loader.todo = [] → s.loader.ready = [] →
      s.live.stage ≠ .waitVerify → s.loader.selftestDone = false → ∃ t, exec (.ldrHeaderReadDone data) s = .next t ∧
      t.loader = { s.loader with slot := 0, read := .none, state := .noImage } ∧
      t = { s.withTraffic t with loader := t.loader })

/-- Tier 2. A section table whose CRC holds is in use. Where it has no TRIM and no REPAIR section, the self-tests come next, and every entry
is pending. -/
def Obligations.LoaderTable : Prop :=
  ∀ (s : State) (h data : List Byte), s.rst = .run → s.loader.read = .table h →
    data.length = 32 * fld h 6 2 → crc32c (h.take 28 ++ data) = fld h 28 4 →
    (∀ e ∈ (chunks 32 data).map Section.mk, e.type ≠ 1 ∧ e.type ≠ 2) → s.loader.ready = [] → s.loader.applying = [] →
    s.live.stage ≠ .waitVerify → s.verify.presented = none → s.loader.selftestDone = false →
    exec (.ldrTableReadDone data) s = .next { s with loader := { s.loader with
      state := .selftest, read := .none, table := (chunks 32 data).map Section.mk
      res := ((chunks 32 data).map Section.mk).map (fun _ => 2)
      imageId := BitVec.ofNat 32 (fld h 12 4), imageOk := true, todo := [] } }

/-- Tier 2. A section whose CRC holds is presented on the verify handshake where that is free: the digest of its entry and its bytes, its
type, target and index, with the toggle of vfy_req. One whose CRC fails is read again while it has been read again less than twice. A
read whose strobe does not toggle is handled as a CRC failure: after two rereads the section ends with result 0x10 and a fault-log
entry. That the address of a section is taken modulo 2^32 is the model's reading (notes/assumptions/147.md). -/
def Obligations.LoaderSections : Prop :=
  (∀ (s : State) (k tries : Nat) (data : List Byte) (e : Section), s.rst = .run → s.loader.read = .sect k tries →
     s.loader.table.getD k ⟨[]⟩ = e →
     (data.length = e.length → crc32c data = e.crc → s.loader.todo = [] → s.loader.ready = [] → s.verify.presented = none →
       (s.loader.state = .early ∨ s.loader.state = .sections) →
       exec (.ldrSectionReadDone data) s = .next { s with
         loader := { s.loader with read := .none, ready := [] }
         verify := { s.verify with
           req := !s.verify.req, digest := sha384 (e.raw ++ data), type := e.type, target := e.target, sect := k
           presented := some (.boot k), bytes := data, timed := s.verify.tmo != 0 }
         outs := s.outs ++ [.vfyPresent (sha384 (e.raw ++ data)) e.type e.target k] }) ∧
     (crc32c data ≠ e.crc → tries < 2 → exec (.ldrSectionReadDone data) s = .next { s with
       loader := { s.loader with read := .sect k (tries + 1) }
       outs := s.outs ++ [.xspiRead 0xEE 0x11 (BitVec.ofNat 32 ((if s.loader.slot = 0 then 0 else 0x1000000) + e.offset)) 20 e.length] })) ∧
  (∀ (s : State) (k tries : Nat) (e : Section), s.rst = .run → s.loader.read = .sect k tries →
     s.loader.table.getD k ⟨[]⟩ = e →
     (tries < 2 → exec .ldrReadTimeout s = .next { s with
       loader := { s.loader with read := .sect k (tries + 1) }
       outs := s.outs ++ [.xspiRead 0xEE 0x11 (BitVec.ofNat 32 ((if s.loader.slot = 0 then 0 else 0x1000000) + e.offset)) 20 e.length] }) ∧
     (2 ≤ tries → s.loader.todo = [] → ∀ j, s.verify.presented = some (.boot j) →
       (s.loader.state = .early ∨ s.loader.state = .sections) → ∃ t, exec .ldrReadTimeout s = .next t ∧
       t = { s.withTraffic t with loader := { s.loader with
         read := .none, res := modAt s.loader.res k (fun _ => 0x10), applying := s.loader.applying.filter (· != k) } } ∧
       (s.health.ring = 0 → s.health.queue.length < 64 →
         t.health.queue = s.health.queue ++ [⟨0x71, 4, 0, 0, 0xFFFF, k, e.offset, s.ldrTime % 2 ^ 32⟩])))

/-- Tier 2. The answer of the verify handshake: an accepted RECIPES section is written into the store and ends with result 0x01; a refused
section, and one refused by the time-out, leaves its target as it was and ends with 0x11 or 0x12. Here while another section is read. -/
def Obligations.VerifyAnswers : Prop :=
  ∀ (s : State) (k : Nat) (e : Section), s.rst = .run → s.verify.presented = some (.boot k) →
    s.loader.table.getD k ⟨[]⟩ = e → s.loader.read ≠ .none → s.loader.ready = [] → s.live.stage ≠ .waitVerify →
    s.loader.state = .sections →
    let ended := fun (res : Nat) => { s.loader with
      res := modAt s.loader.res k (fun _ => res), applying := s.loader.applying.filter (· != k) }
    (e.type = 0x11 → s.health.wedgedRecipes = false → ∃ t, exec (.verifyAnswer true) s = .next t ∧
      t = { s with
        loader := ended 0x01, verify := { s.verify with presented := none }, rcpApplied := t.rcpApplied
        recipes := (patch s.recipes e.target ((chunks 32 s.verify.bytes).map (fun r => (chunks 4 r).map (fun w =>
          BitVec.ofNat 32 (leNat w))))).take s.recipes.length }) ∧
    (∃ t, exec (.verifyAnswer false) s = .next t ∧
      t = { s.withTraffic t with loader := ended 0x11, verify := { s.verify with presented := none } }) ∧
    (s.verify.timed = true → ∃ t, exec .verifyTimeout s = .next t ∧
      t = { s.withTraffic t with loader := ended 0x12, verify := { s.verify with presented := none } })

/-- Tier 2. A region's self-test makes the region ready and gives each of its ports 32 IST credits; that of the control island sets
SELFTEST_DONE; each failing store is logged with code 0x75 and its row. The last self-test to end begins the sections of the image with
the read of the first that is pending, its address modulo 2^32 (the model's reading, notes/assumptions/147.md), or, where none is, ends the
boot sequence with BOOT_DONE and its entry 0x78. Of the stores that
fail, a codebook bank, the recipe store and the sequencer store are wedged; a DMA channel's buffer, a context's store entry, a tracker slot
and an entry of the agreement buffer are recorded as unusable; a core whose headland slice fails is retired, and where the spare is free it
takes the core's position; a scoreboard line in error changes nothing more. -/
def Obligations.SelfTestsEnd : Prop :=
  (∀ s : State, s.rst = .run → s.loader.todo = [] → s.loader.ready = [] → s.live.stage ≠ .waitVerify →
     s.loader.state = .selftest →
     let opened := fun (r : Nat) => ({ s with
       regions := modAt s.regions r (fun x => { x with ready := true })
       outs := s.outs ++ (List.range s.build.clustersPerRegion).map (fun k =>
         .istCredits (r * s.build.clustersPerRegion + k) 32) } : State)
     let control : State := { s with loader := { s.loader with selftestDone := true } }
     let noted := fun (kind r : Nat) (unit : FailStore → Nat) (fails : List SelfFail) (u : State) => fails.foldl (fun u f =>
       failStore r f.store (logEvent 0x75 kind r (unit f.store) 0xFFFF ((failCode f.store).1 * 2 ^ 16 + (failCode f.store).2) f.row u)) u
     (∀ r fails, r < s.regions.length → (region s r).ready = false → s.loader.selftestDone = false →
       exec (.regionSelftestDone r fails) s = .next (noted 1 r failUnit fails (opened r))) ∧
     (∀ fails, s.loader.selftestDone = false → (∃ x ∈ s.regions, x.ready = false) →
       exec (.controlSelftestDone fails) s = .next (noted 0 0 (fun _ => 0) fails control)) ∧
     (s.loader.read = .none → s.loader.applying = [] → s.verify.presented = none →
       let pend := (List.range s.loader.table.length).filter (fun k => s.loader.res.getD k 0 == 2)
       let goesOn := fun (u : State) (x : Answer) =>
         (pend = [] → let l := { u.loader with state := .done, todo := [], bootDone := true }
           x = .next (logEvent 0x78 4 0 0 0xFFFF (imgStat l).toNat l.imageId.toNat { u with loader := l })) ∧
         (∀ k ks, pend = k :: ks → let e := s.loader.table.getD k ⟨[]⟩
           knownType e.type = true → entryBad e = false → offsetBad s.loader.table.length e = false →
           dupOpen s.loader k e = false → entryDup s.loader k e = false → e.length ≠ 0 → x = .next { u with
             loader := { u.loader with state := .sections, todo := ks, read := .sect k 0 }
             outs := u.outs ++ [.xspiRead 0xEE 0x11 (BitVec.ofNat 32 ((if s.loader.slot = 0 then 0 else 0x1000000) + e.offset)) 20 e.length] })
       (s.loader.selftestDone = false → (∀ x ∈ s.regions, x.ready = true) → goesOn control (exec (.controlSelftestDone []) s)) ∧
       (∀ r, r < s.regions.length → (region s r).ready = false → s.loader.selftestDone = true →
         (∀ e, e < s.regions.length → e ≠ r → (region s e).ready = true) →
         goesOn (opened r) (exec (.regionSelftestDone r []) s)))) ∧
  (∀ (s : State) (r : Nat),
     (∀ c, failStore r (.dmaBuffer c) s = { s with
       regions := modAt s.regions r (fun x => { x with badChans := x.badChans ++ [c] }) }) ∧
     (∀ c, failStore r (.context c) s = { s with badCtx := s.badCtx ++ [c] }) ∧
     (∀ t, failStore r (.slot t) s = { s with badSlots := s.badSlots ++ [t] }) ∧
     (∀ e, failStore r (.agreement e) s = { s with exch := { s.exch with bad := s.exch.bad ++ [e] } }) ∧
     (∀ l, failStore r (.scoreboard l) s = s) ∧
     (∀ n, n < s.banks.length → (bank (failStore r (.bank n) s) n).wedged = true) ∧
     (failStore r .recipes s).health.wedgedRecipes = true ∧ (failStore r .seqCode s).health.wedgedSeq = true ∧
     (∀ c p y, c < 64 → (region s r).phys[c]? = some y → y.retired = false →
       firstIdx (fun x : Pos => !x.vacant && x.phys == c) (region s r).pos = some p →
       let t := failStore r (.headland c) s
       (region t r).phys[c]? = some { y with retired := true } ∧ (region t r).spareFree = false ∧
       (∀ e, e ≠ r → region t e = region s e) ∧ (∀ q, q ≠ p → posOf t r q = posOf s r q) ∧
       posOf t r p = if (region s r).spareFree then { posOf s r p with phys := 64 } else { posOf s r p with vacant := true }))

/-- Tier 2. GO of a live update after BOOT_DONE starts the read of its entry; before BOOT_DONE or while one runs it is only acknowledged. A
live codebook whose bank has come to rest enters CHECKING, its live side, LIVE and GEN as they were. -/
def Obligations.LiveUpdates : Prop :=
  (∀ s : State, s.rst = .run →
     (s.loader.bootDone = true → s.live.stage = .idle → ∃ t, exec .imgLiveGo s = .next t ∧
       t.live = { s.live with stage := .readEntry, buf := s.live.addrHi.toNat * 2 ^ 32 + s.live.addrLo.toNat } ∧
       t = { s.withTraffic t with live := t.live } ∧
       (∃ j ∈ t.jobs, j.kind = .liveEntry)) ∧
     (s.loader.bootDone = false ∨ s.live.stage ≠ .idle → exec .imgLiveGo s = .next { s with outs := s.outs ++ [.cpAck false] })) ∧
  (∀ (s : State) (n : Nat), s.rst = .run → s.live.stage = .waitBank → s.live.entry.target = n → n < s.banks.length →
     (bank s n).wedged = false → ((bank s n).state = .opn ∨ (bank s n).state = .valid ∨ (bank s n).state = .rejected) →
     s.live.entry.param = 0 → ∃ t, exec .liveCodebookApply s = .next t ∧
       t = { s with live := { s.live with stage := .checking }, banks := t.banks } ∧
       (bank t n).state = .checking ∧ (bank t n).live = (bank s n).live ∧ (bank t n).gen = (bank s n).gen ∧
       ((bank s n).liveValid = true → (bank t n).liveSide = (bank s n).liveSide) ∧ (∀ m, m ≠ n → bank t m = bank s m))

/-- Tier 2. When every task that runs under the old code of a slot has completed, the shadow becomes the slot and the update ends with
result 0x01. -/
def Obligations.SeqCodeSwap : Prop :=
  ∀ (s : State) (t : Nat) (q old : SeqSlot), s.rst = .run → s.seqShadow = some (t, q) → s.seqSlots.getD t none = some old →
    tasksUnder s old.opset = false → s.health.wedgedSeq = false →
    exec .seqCodeShadowSwap s = .next { s with
      seqShadow := none, seqSlots := modAt s.seqSlots t (fun _ => some q)
      live := { s.live with result := 0x01, stage := .idle } }

/-! ## Codebook banks -/

/-- Tier 2. A write to the descriptor or the table of the writable side is stored, and returns a bank in VALID or REJECTED to OPEN with
REJECT as it was; a write to the other side, and any write while the bank is checking or switching, is ignored and sets WR_DROP. -/
def Obligations.CodebookSideWrite : Prop :=
  ∀ (s : State) (n : Nat) (off : BitVec 12) (data : Word), s.rst = .run → n < 16 → n < s.banks.length → bankHeld s n = false →
    (bank s n).wedged = false → off.toNat % 4 = 0 → (off.toNat < 8 ∨ (0x400 ≤ off.toNat ∧ off.toNat < 0xC00)) →
    let one : Bool := decide (off.toNat = 4 ∨ 0x800 ≤ off.toNat)
    let b := bank s n
    ((b.writable = one ∧ b.state ≠ .checking ∧ b.state ≠ .switching →
      ∃ t, exec (.cbSideWrite n off data) s = .next t ∧ t = { s with outs := s.outs ++ [.cpAck false], banks := t.banks } ∧
        (off.toNat < 8 → (bank t n).side one = { b.side one with desc := data &&& 0xFF3F }) ∧
        (0x400 ≤ off.toNat → (bank t n).side one = { b.side one with
          tab := modAt (b.side one).tab (off.toNat % 0x400 / 4) (fun _ => data) }) ∧
        (bank t n).side (!one) = b.side (!one) ∧ (bank t n).reject = b.reject ∧ (bank t n).live = b.live ∧
        (bank t n).state = (if b.state = .valid ∨ b.state = .rejected then .opn else b.state) ∧ ∀ m, m ≠ n → bank t m = bank s m) ∧
    (b.writable ≠ one ∨ b.state = .checking ∨ b.state = .switching →
      exec (.cbSideWrite n off data) s = .next { s with
        outs := s.outs ++ [.cpAck false], banks := modAt s.banks n (fun b => { b with wrDrop := true }) }))

/-- Tier 2. COMMIT in OPEN, VALID or REJECTED enters CHECKING; in another state it is ignored and sets SEQ_ERR. -/
def Obligations.CodebookCommit : Prop :=
  ∀ (s : State) (n : Nat) (p : BitVec 4) (sw : Bool), s.rst = .run → n < 16 → n < s.banks.length → bankHeld s n = false →
    (bank s n).wedged = false →
    ((bank s n).state = .opn ∨ (bank s n).state = .valid ∨ (bank s n).state = .rejected →
      ∃ t, exec (.cbCommit n p sw) s = .next t ∧ t = { s with outs := s.outs ++ [.cpAck false], banks := t.banks } ∧
        bank t n = { bank s n with
          presetId := p.toNat, user := .sw, state := .checking, todo := if sw then [.switch] else [] } ∧
        ∀ m, m ≠ n → bank t m = bank s m) ∧
    ((bank s n).state = .checking ∨ (bank s n).state = .switching →
      ∃ t, exec (.cbCommit n p sw) s = .next t ∧ t = { s with outs := s.outs ++ [.cpAck false], banks := t.banks } ∧
        bank t n = { bank s n with presetId := p.toNat, seqErr := true } ∧ ∀ m, m ≠ n → bank t m = bank s m)

/-- Tier 2. LOAD_PRESET copies a known preset into the writable side and enters CHECKING, and a known preset passes the check; an unknown
one leaves the side as it is, sets REJECT to 8 and enters REJECTED. Here once the boot sequence has ended. -/
def Obligations.CodebookLoadPreset : Prop :=
  ∀ (s : State) (n : Nat) (p : BitVec 4), s.rst = .run → n < 16 → n < s.banks.length → bankHeld s n = false →
    (bank s n).wedged = false → ((bank s n).state = .opn ∨ (bank s n).state = .valid ∨ (bank s n).state = .rejected) →
    s.loader.state = .done → s.loader.todo = [] → s.loader.ready = [] → s.live.stage ≠ .waitVerify →
    ∃ t, exec (.cbLoadPreset n p false false) s = .next t ∧ t = { s with outs := s.outs ++ [.cpAck false], banks := t.banks } ∧
      (∀ side, preset p.toNat = some side → bank t n = { ((bank s n).setSide (bank s n).writable side) with
        presetId := p.toNat, user := .sw, state := .checking, todo := [] } ∧ side.check = 0) ∧
      (preset p.toNat = none → bank t n = { bank s n with
        presetId := p.toNat, user := .sw, reject := 8, state := .rejected, todo := [] }) ∧
      ∀ m, m ≠ n → bank t m = bank s m

/-- Tier 2. A check that passes ends in VALID, or, at a first load, sets LIVE_VALID and returns to OPEN; one that fails ends in REJECTED
with its cause. Here for a check that software started. -/
def Obligations.CodebookCheckDone : Prop :=
  ∀ (s : State) (n : Nat), s.rst = .run → n < 16 → n < s.banks.length → (bank s n).state = .checking → (bank s n).user = .sw →
    (bank s n).todo = [] → s.loader.state = .done → s.loader.todo = [] → s.loader.ready = [] → s.live.stage ≠ .waitVerify →
    ∃ t, exec (.cbCheckDone n) s = .next t ∧ t = { s with banks := t.banks } ∧
      (let code := ((bank s n).side (bank s n).writable).check
       if code = 0 then bank t n = { bank s n with
         reject := 0, liveValid := true, state := if (bank s n).liveValid then .valid else .opn }
       else bank t n = { bank s n with reject := code, state := .rejected }) ∧
      ∀ m, m ≠ n → bank t m = bank s m

/-- Tier 2. SWITCH of a bank in VALID: a lift slice that holds the bank takes the new side at once, unless an emission of the bank is open:
then it has the new side pending; or, where its window is not loaded, it is to be reloaded. A slice with a pending side takes it into use
with the next scale line it takes, and under NONE with its next furrow, and codes are lifted with it from there; the last consumer to do so
ends the switch. Where no core runs a swath and no slice has such an emission every consumer has flipped, so LIVE toggles, GEN advances and
the bank is OPEN; until then the bank stays in SWITCHING with its live side. SWITCH in any other state is ignored and sets SEQ_ERR. That a
core whose fence has not settled is not waited for is the model's reading (notes/assumptions/122.md). -/
def Obligations.CodebookSwitch : Prop :=
  (∀ (s : State) (i n w : Nat) (em : Emission) (sd : Side), s.rst = .run → sliceBuilt s i = true →
    let sl := liftSlice s i
    sl.ready = true → sl.winOf n = some w → (sl.win w).next = some sd → sl.em = some em → em.fmt.bank = n → em.refused = false →
    let flips := fun (t : State) (b : CodeBeat) (byte : Nat → Nat) =>
      (liftSlice t i).win w = { sl.win w with sideNo := !(sl.win w).sideNo, side := sd, next := none } ∧
      ((bank s n).state = .switching → (bank s n).flip = [.slice i] →
        (bank t n).state = .opn ∧ (bank t n).live = !(bank s n).live) ∧
      ∃ o, (liftSlice t i).out = sl.out ++ [o] ∧
        let l := (List.range b.nfur).flatMap (fun g => (beatCodes sd.width em.fmt.furrow b g).map (liftLane sd em.fmt.mode (byte g) false))
        o.lanes = l ++ List.replicate (64 - l.length) 0
    (∀ b : CodeBeat, b.ue = false → b.nfur ≠ 0 → b.nfur ≤ 64 / em.fmt.furrow → em.endF ≤ b.fidx →
      (em.fmt.scaleCode = 0 → b.opn = false → sl.beats = [] → sl.part = { Partial.empty with prev := sl.part.prev } →
        ∃ t, exec (.liftCodeBeat i b) s = .next t ∧ flips t b (fun _ => 0)) ∧
      (∀ at' since (l : List Byte), em.fmt.mode ≠ .unscaled → sl.beats = [⟨b, at'⟩] → sl.lines = [] →
        sl.part = { Partial.empty with waitFrom := some since, prev := sl.part.prev } →
        (∀ cl, em.cur = some cl → cl.first ≠ 56 * (b.fidx / 56)) → b.fidx % 56 + b.nfur ≤ 56 → l.length = 64 →
        let L : LiftLine := ⟨l, !em.tookFirst, false, max sl.time (sl.lastLine + 1)⟩
        L.tag = em.tag → L.furrow = 56 * (b.fidx / 56) → lineCheck l n (b2n (!(sl.win w).sideNo)) = fld l 6 2 →
        ∃ t, exec (.liftScaleLine i l (!em.tookFirst) false) s = .next t ∧
          flips t b (fun g => L.scales.getD (b.fidx + g - 56 * (b.fidx / 56)) 0)))) ∧
  ∀ (s : State) (n : Nat) (p : BitVec 4), s.rst = .run → n < 16 → n < s.banks.length → bankHeld s n = false →
    (bank s n).wedged = false →
    let b := bank s n
    let keeps := fun (sl : Slice) => ∃ w e, sl.winOf n = some w ∧ sl.inReset = false ∧ sl.lost = false ∧ (sl.win w).loaded = true ∧
      sl.em = some e ∧ e.fmt.bank = n
    (b.state = .valid → ∃ t, exec (.cbSwitch n p none) s = .next t ∧
      t = { s with outs := s.outs ++ [.cpAck false], banks := t.banks, slices := t.slices } ∧
      (s.swaths = [] → (∀ sl ∈ s.slices, ¬ keeps sl) → bank t n = { b with
        presetId := p.toNat, user := .sw, state := .opn, flip := [], todo := [], node := none, waits := [], live := !b.live
        gen := (b.gen + 1) % 256 }) ∧
      ((busyCores s ≠ [] ∨ ∃ sl ∈ s.slices, keeps sl) → (bank t n).state = .switching ∧ (bank t n).live = b.live ∧
        (bank t n).gen = b.gen ∧ ∀ x ∈ busyCores s, x ∈ (bank t n).flip) ∧
      (∀ i sl, s.slices[i]? = some sl →
        (sl.winOf n = none → liftSlice t i = sl) ∧
        (keeps sl → .slice i ∈ (bank t n).flip) ∧
        ∀ w, sl.winOf n = some w →
          let becomes := fun (f : Window → Window) => liftSlice t i = { sl with wins := modAt sl.wins w f }
          (sl.inReset = true ∨ sl.lost = true ∨ (sl.win w).loaded = false → becomes (fun x => { x with loaded := false })) ∧
          (keeps sl → becomes (fun x => { x with next := some (b.side (!b.live)) })) ∧
          (sl.inReset = false → sl.lost = false → (sl.win w).loaded = true → ¬ keeps sl →
            becomes (fun x => { x with sideNo := !b.live, side := b.side (!b.live), next := none }))) ∧
      ∀ m, m ≠ n → bank t m = bank s m) ∧
    (b.state ≠ .valid → ∃ t, exec (.cbSwitch n p none) s = .next t ∧
      t = { s with outs := s.outs ++ [.cpAck false], banks := t.banks } ∧
      (b.state = .opn ∨ b.state = .rejected → bank t n = { b with presetId := p.toNat, user := .sw, seqErr := true, todo := [] }) ∧
      (b.state = .checking ∨ b.state = .switching → bank t n = { b with presetId := p.toNat, seqErr := true }) ∧
      ∀ m, m ≠ n → bank t m = bank s m)

/-! ## Rings, graphs and nodes -/

/-- Tier 2. A doorbell write is stored, unless it would pass the ring's size or move backwards outside DISABLED: then it is ignored and sets
SUB_ERR. -/
def Obligations.SubmissionDoorbell : Prop :=
  ∀ (s : State) (c : Nat) (data : Word), s.rst = .run → c < s.ctxs.length →
    let x := ctxOf s c
    let bad := 2 ^ x.subSize.toNat < dist32 data x.subCons ∨ (x.state ≠ .disabled ∧ 2 ^ 31 ≤ dist32 data x.subProd)
    ∃ t, exec (.ringSubProdWrite c data) s = .next t ∧ t = { s with outs := s.outs ++ [.cpAck false], ctxs := t.ctxs } ∧
      (bad → ctxOf t c = { x with subErr := true }) ∧ (¬ bad → ctxOf t c = { x with subProd := data }) ∧
      ∀ d, d ≠ c → ctxOf t d = ctxOf s d

/-- Tier 2. A release write is stored; where the emission of the context waits for room that it makes, the next record's body is written.
SEQ of a record is written once the rest of the record is acknowledged: a completion record at 32 bytes per index, a glean record at 128
bytes per index. That the index is that of RING_CPL_WRITE also where the register was rewritten is notes/assumptions/129.md. -/
def Obligations.RecordRings : Prop :=
  (∀ (s : State) (c : Nat) (data : Word), s.rst = .run → c < s.ctxs.length →
     let x := ctxOf s c
     (x.emit = .idle →
       exec (.ringCplReleaseWrite c data) s = .next { s with
         outs := s.outs ++ [.cpAck false], ctxs := modAt s.ctxs c (fun y => { y with cplRelease := data }) } ∧
       exec (.glnReleaseWrite c data) s = .next { s with
         outs := s.outs ++ [.cpAck false], ctxs := modAt s.ctxs c (fun y => { y with glnRelease := data }) }) ∧
     (x.emit = .cplWait → ({ x with cplRelease := data } : Ctx).cplRoom = true →
       ∃ t, exec (.ringCplReleaseWrite c data) s = .next t ∧ t = { s.withTraffic t with ctxs := t.ctxs } ∧
         ctxOf t c = { x with cplRelease := data, emit := .cplBody } ∧ (∃ j ∈ t.jobs, j.kind = .cplBody c)) ∧
     (∀ k g n r, x.emit = .glnWait k → x.headNode = some (g, some n) → n.recs[k]? = some r →
       ({ x with glnRelease := data } : Ctx).glnRoom = true →
       ∃ t, exec (.glnReleaseWrite c data) s = .next t ∧ t = { s.withTraffic t with ctxs := t.ctxs } ∧
         ctxOf t c = { x with glnRelease := data, emit := .glnBody k } ∧ (∃ j ∈ t.jobs, j.kind = .glnBody c))) ∧
  (∀ (s : State) (c : Nat), s.rst = .run → c < s.ctxs.length →
     let x := ctxOf s c
     (x.emit = .cplBodyDone → exec (.recordSeqWrite (.ctx c)) s = .next (startWrite (.cplSeq c)
       (word64 x.cplBaseLo x.cplBaseHi + 32 * (x.cplWrite.toNat % 2 ^ x.cplSize.toNat)) (leBytes 4 x.cplWrite.toNat)
       { s with ctxs := modAt s.ctxs c (fun y => { y with emit := .cplSeq }) })) ∧
     (∀ k, x.emit = .glnBodyDone k → exec (.recordSeqWrite (.ctx c)) s = .next (startWrite (.glnSeq c)
       (word64 x.glnBaseLo x.glnBaseHi + 128 * (x.glnWrite.toNat % 2 ^ x.glnSize.toNat)) (leBytes 4 x.glnWrite.toNat)
       { s with ctxs := modAt s.ctxs c (fun y => { y with emit := .glnSeq k }) })))

/-- Tier 2. An enabled context with a free graph slot and an entry in its ring begins to accept it with a read of the entry's 64 bytes; once
bytes 48 to 63 are acknowledged, RING_SUB_CONS advances and the graph is accepted. That the slot an entry takes is ACC_SEQ modulo 4, and is
the one that must be free, is the model's reading (notes/assumptions/9.md). -/
def Obligations.GraphAcceptance : Prop :=
  ∀ (s : State) (c : Nat), s.rst = .run → c < s.ctxs.length →
    let x := ctxOf s c
    (x.state = .enabled → x.quiet = false → x.accept = .idle → x.subCons ≠ x.subProd → x.graphs.length < 4 →
      (∀ g ∈ x.graphs, g.slot ≠ x.subCons.toNat % 4) →
      exec (.acceptEntry c none) s = .next (startRead (.accEntry c)
        [(word64 x.subBaseLo x.subBaseHi + 64 * (x.subCons.toNat % 2 ^ x.subSize.toNat), 64)]
        { s with ctxs := modAt s.ctxs c (fun y => { y with accept := .entry }) })) ∧
    (∀ g, x.accept = .acked g → exec (.acceptancePoint c) s = .next { s with
      ctxs := modAt s.ctxs c (fun y => { y with
        accept := .idle, subCons := BitVec.ofNat 32 ((y.subCons.toNat + 1) % 2 ^ 32), graphs := y.graphs ++ [g] }) })

/-- Tier 2. The next node of a context is dispatched: a TASK or FILL begins with the read of its 256-byte operand block; a NOP, and a COMMIT
of the committed step, completes at once; a DMA node starts a run on its channel, the fetch of CHAIN as its first hop; a COMMIT of the open
step, or a CHECK of every stream, with records in the ring becomes the context's fold and reads them; a BANKSWITCH switches a bank in VALID
at once or when the busy cores have flipped, waits where a switch that CB_CTRL has requested is in progress, and is REJECTED with cause 0x0B
in another state or for a wedged bank; and a node that breaks a rule of its dispatch completes REJECTED with the lowest cause. That the
operand block is read here and the program with the task's first swath is the model's reading (notes/assumptions/15.md), and so is that the
lowest cause of a task is sought once all of it is known (notes/assumptions/41.md), that a BANKSWITCH that waits for a switch has started
(notes/assumptions/123.md), that a hop counts as the run asks for its fetch (notes/assumptions/145.md) and that the open step is taken
modulo 2^32 (notes/assumptions/137.md); which region runs a DMA node that names none is the model's choice (notes/assumptions/120.md). -/
def Obligations.NodeDispatch : Prop :=
  ∀ (s : State) (c g k : Nat) (n : Node), s.rst = .run → nodeOf s ⟨c, g, k⟩ = some n → requeuedIn s ⟨c, g, k⟩ = none →
    nextNode s c = some ⟨c, g, k⟩ → n.stat ≠ .completed →
    let completes := fun (status cause : Nat) => ∃ t, exec (.nodeDispatch c g k none) s = .next t ∧ t = { s with ctxs := t.ctxs } ∧
      ∃ m, nodeOf t ⟨c, g, k⟩ = some m ∧ m.stat = .completed ∧ m.status = status ∧ m.cause = cause
    let runs := fun (t : State) => exec (.nodeDispatch c g k none) s = .next t ∧
      ∃ m, nodeOf t ⟨c, g, k⟩ = some m ∧ m.stat = .dispatched ∧ m.desc = n.desc
    (∀ cause, lowest (dispatchCauses (ctxOf s c) n) = some cause → completes 0x16 cause) ∧
    (dispatchCauses (ctxOf s c) n = [] →
      ((n.type = 1 ∨ n.type = 2) → n.opsAt % 64 = 0 → ∃ u tk m,
        exec (.nodeDispatch c g k none) s = .next (startRead (.taskOps ⟨c, g, k⟩ s.nextTask) [(n.opsAt, 256)] u) ∧
        u = { s with ctxs := u.ctxs, nextTask := s.nextTask + 1 } ∧ nodeOf u ⟨c, g, k⟩ = some m ∧ m.stat = .dispatched ∧
        m.desc = n.desc ∧ m.task = some tk ∧ tk.id = s.nextTask ∧ tk.ph = .ops ∧ tk.started = false ∧
        ∀ d, d ≠ c → ctxOf u d = ctxOf s d) ∧
      ((n.type = 0 ∨ (n.type = 4 ∧ n.step ≠ (ctxOf s c).openStep)) → completes 0 0) ∧
      (n.type = 3 → ∀ r ch, dmaPlace s n = some (r, ch) → ch < (region s r).dma.chans.length → ∃ t, runs t ∧
        t = { s with ctxs := t.ctxs, regions := t.regions } ∧
        chan t r ch = { runStart (chan s r ch) (some ⟨c, g, k⟩) n.dmaPrio with hops := 1, fetchAt := some n.chain }) ∧
      (((n.type = 4 ∧ n.step = (ctxOf s c).openStep) ∨ (n.type = 5 ∧ n.stream = 0xFFFF)) → (ctxOf s c).ringSegs ≠ [] →
        ∃ u f m, exec (.nodeDispatch c g k none) s = .next (startRead (.foldRecs c) (ctxOf s c).ringSegs u) ∧
          u = { s with ctxs := u.ctxs } ∧ nodeOf u ⟨c, g, k⟩ = some m ∧ m.stat = .dispatched ∧ m.desc = n.desc ∧
          (ctxOf u c).fold = some f ∧ f.node = ⟨c, g, k⟩ ∧ f.check = decide (n.type = 5) ∧ f.step = n.step ∧ f.reading = true ∧
          ∀ d, d ≠ c → ctxOf u d = ctxOf s d) ∧
      (n.type = 6 → n.bank < s.banks.length →
        ((bank s n.bank).wedged = true ∨ ((bank s n.bank).state ≠ .valid ∧
          ((bank s n.bank).state ≠ .switching ∨ (bank s n.bank).node ≠ none)) → completes 0x16 0x0B) ∧
        ((bank s n.bank).wedged = false → (bank s n.bank).state = .switching → (bank s n.bank).node = none → ∃ t, runs t ∧
          t = { s with
            ctxs := t.ctxs, banks := modAt s.banks n.bank (fun b => { b with waits := b.waits ++ [⟨c, g, k⟩] }) }) ∧
        ((bank s n.bank).state = .valid → (bank s n.bank).wedged = false → (∀ sl ∈ s.slices, sl.winOf n.bank = none) →
          (busyCores s ≠ [] → ∃ t, runs t ∧ t = { s with ctxs := t.ctxs, banks := t.banks } ∧
            (bank t n.bank).state = .switching ∧ (bank t n.bank).node = some ⟨c, g, k⟩ ∧
            (bank t n.bank).live = (bank s n.bank).live ∧ (bank t n.bank).flip = busyCores s) ∧
          (busyCores s = [] → ∃ t, exec (.nodeDispatch c g k none) s = .next t ∧ t = { s with ctxs := t.ctxs, banks := t.banks } ∧
            (∃ m, nodeOf t ⟨c, g, k⟩ = some m ∧ m.stat = .completed ∧ m.status = 0 ∧ m.cause = 0) ∧
            (bank t n.bank).state = .opn ∧ (bank t n.bank).live = !(bank s n.bank).live))))

/-- Tier 2. Nodes are emitted in node order: the emission of the next completed node begins with the write of its status to the scoreboard,
at its graph slot's 256 KiB and 4 bytes per node. The last two bytes of the entry and the slot that a graph takes are the model's choice
(notes/assumptions/9.md). -/
def Obligations.NodeEmission : Prop :=
  ∀ (s : State) (c : Nat) (g : Graph) (n : Node), s.rst = .run → c < s.ctxs.length →
    (ctxOf s c).emits = true → (ctxOf s c).emit = .idle → (ctxOf s c).headNode = some (g, some n) →
    exec (.nodeEmit c) s = .next (startWrite (.score c)
      (word64 (ctxOf s c).scoreLo (ctxOf s c).scoreHi + g.slot * 262144 + 4 * g.emitted)
      (leBytes 1 n.status ++ leBytes 1 n.cause ++ [0, 0x80])
      { s with ctxs := modAt s.ctxs c (fun x => { x with emit := .score }) })

/-! ## Contexts -/

/-- Tier 2. ENABLE of a disabled context whose configuration passes reads the 64 bytes of its commit header; one whose configuration fails
sets CFG_BAD and leaves it DISABLED. -/
def Obligations.ContextEnable : Prop :=
  ∀ (s : State) (c : Nat), s.rst = .run → c < s.ctxs.length → s.loader.selftestDone = true → (ctxOf s c).state = .disabled →
    (ctxOf s c).load = .idle →
    ((ctxOf s c).configOk = true → s.badCtx.contains c = false → exec (.ctxEnable c) s = .next (startRead (.enHeader c)
      [(word64 (ctxOf s c).granLo (ctxOf s c).granHi + 64 * 0xFFFF, 64)]
      { s with outs := s.outs ++ [.cpAck false], ctxs := modAt s.ctxs c (fun x => { x with load := .header }) })) ∧
    ((ctxOf s c).configOk = false ∨ s.badCtx.contains c = true → exec (.ctxEnable c) s = .next { s with
      outs := s.outs ++ [.cpAck false], ctxs := modAt s.ctxs c (fun x => { x with errCfg := true, load := .idle }) })

/-- Tier 2. DISABLE takes an enabled context to DRAINING, and a stopped one out of STOPPED: one that a failure stopped at once, its graphs
discarded, a stalled one once it has drained. CANCEL takes a disabled context with all images at hand to DRAINING with every node that is
not emitted CANCELLED with cause 0x21. Every action in a state that does not allow it only sets SEQ_ERR: ENABLE, CANCEL, SAVE and RESTORE
anywhere but in DISABLED, those but CANCEL before the self-tests have ended, RESTORE with graphs accepted, and DISABLE in a state other
than ENABLED and STOPPED. That they set it too while ENABLE or CANCEL still reads its structures, and that DISABLE of a context that a
failure stopped discards its graphs, are the model's readings (notes/assumptions/34.md). -/
def Obligations.ContextDisableCancel : Prop :=
  ∀ (s : State) (c : Nat), s.rst = .run → c < s.ctxs.length →
    let x := ctxOf s c
    let set := fun (f : Ctx → Ctx) =>
      (Host.Outcome.next { s with outs := s.outs ++ [.cpAck false], ctxs := modAt s.ctxs c f } : Answer)
    let err := set (fun x => { x with errSeq := true })
    (x.state = .enabled → x.accept = .idle → exec (.ctxDisable c) s = set (fun x => { x with state := .draining })) ∧
    (x.state = .stopped → x.quiet = false → exec (.ctxDisable c) s = set (fun x => { x with leaving := true })) ∧
    (x.state = .stopped → x.quiet = true → (∀ w ∈ s.swaths, w.node.ctx ≠ c) → ∃ t, exec (.ctxDisable c) s = .next t ∧
      (ctxOf t c).state = .disabled ∧ (ctxOf t c).graphs = [] ∧ (ctxOf t c).quiet = false ∧ (∀ y ∈ t.trk.slots, y.ctx ≠ c) ∧
      ∀ d, d ≠ c → ctxOf t d = ctxOf s d) ∧
    (x.state = .disabled → x.load = .idle → (∀ g ∈ x.graphs, g.loaded = true) →
      ∃ t, exec (.ctxCancel c) s = .next t ∧ t = { s with outs := s.outs ++ [.cpAck false], ctxs := t.ctxs } ∧
        ctxOf t c = { x with state := .draining, cancelling := true, graphs := x.graphs.map cancelNodes } ∧
        (∀ g ∈ (ctxOf t c).graphs, g.refused = false → ∀ n ∈ g.nodes.drop g.emitted,
          n.stat = .completed ∧ n.status = 0x11 ∧ n.cause = 0x21) ∧ ∀ d, d ≠ c → ctxOf t d = ctxOf s d) ∧
    (x.state ≠ .enabled → x.state ≠ .stopped → exec (.ctxDisable c) s = err) ∧
    (x.state ≠ .disabled ∨ x.load ≠ .idle → exec (.ctxCancel c) s = err) ∧
    (x.state ≠ .disabled ∨ x.load ≠ .idle ∨ s.loader.selftestDone = false →
      exec (.ctxEnable c) s = err ∧ exec (.ctxSave c) s = err ∧ exec (.ctxRestore c) s = err) ∧
    (x.graphs ≠ [] → exec (.ctxRestore c) s = err)

/-- Tier 2. SAVE of a disabled context writes its 512-byte image; RESTORE of one with no graph accepted reads it. -/
def Obligations.ContextSaveRestore : Prop :=
  ∀ (s : State) (c : Nat), s.rst = .run → c < s.ctxs.length → s.loader.selftestDone = true → (ctxOf s c).state = .disabled →
    (ctxOf s c).load = .idle →
    (exec (.ctxSave c) s = .next (startWrite (.save c) (word64 (ctxOf s c).imgLo (ctxOf s c).imgHi) (imageBytes (ctxOf s c))
      { s with outs := s.outs ++ [.cpAck false], ctxs := modAt s.ctxs c (fun x => { x with state := .saving }) })) ∧
    ((ctxOf s c).graphs = [] → s.badCtx.contains c = false → exec (.ctxRestore c) s = .next (startRead (.restore c)
      [(word64 (ctxOf s c).imgLo (ctxOf s c).imgHi, 512)]
      { s with outs := s.outs ++ [.cpAck false], ctxs := modAt s.ctxs c (fun x => { x with state := .restoring }) }))

/-- Tier 2. A draining context of which no swath or node is dispatched and every completed node has been emitted reaches DISABLED, gives up
its slots and raises its event; the graphs whose nodes are not all emitted stay, for SAVE, ENABLE or CANCEL, and a task whose first swath
has not been dispatched, which is no dispatched node (notes/assumptions/33.md), goes back to waiting. A context that CANCEL drains goes on
until every graph is out, and so does a stopped one that DISABLE takes to DISABLED. Until then nothing changes. -/
def Obligations.ContextDrained : Prop :=
  ∀ (s : State) (c : Nat), s.rst = .run → c < s.ctxs.length →
    let x := ctxOf s c
    let idle := x.emit = .idle ∧ x.accept = .idle ∧ x.load = .idle
    let prepared := fun (n : Node) => ∃ tk, n.task = some tk ∧ tk.started = false
    let runs := x.fold ≠ none ∨ (∃ w ∈ s.swaths, w.node.ctx = c) ∨
      ∃ g ∈ x.graphs, ∃ n ∈ g.nodes, n.stat = .dispatched ∧ ¬ prepared n
    let unsent := ∃ g ∈ x.graphs, g.refused = true ∨ ∃ n ∈ g.nodes.drop g.emitted, n.stat = .completed
    let disabled := fun (t : State) (gs : List Graph) =>
      ctxOf t c = { x with state := .disabled, quiet := false, leaving := false, cancelling := false, graphs := gs } ∧
      (∀ sl ∈ t.trk.slots, sl.ctx ≠ c) ∧ (∀ sl ∈ s.trk.slots, sl.ctx ≠ c → sl ∈ t.trk.slots) ∧ ∀ d, d ≠ c → ctxOf t d = ctxOf s d
    (x.state = .draining → idle → ¬ runs → ¬ unsent → (x.cancelling = true → x.graphs = []) →
      ∃ t gs, exec (.contextDrained c) s = .next t ∧ disabled t gs ∧
        t = { s.withTraffic t with ctxs := t.ctxs, trk := t.trk, sched := t.sched } ∧
        (gs.length = x.graphs.length ∧ ∀ (i : Nat) (g : Graph), x.graphs[i]? = some g → ∃ h : Graph, gs[i]? = some h ∧ h = { g with nodes := h.nodes } ∧
          h.nodes.length = g.nodes.length ∧ ∀ (k : Nat) (n : Node), g.nodes[k]? = some n →
            (prepared n → h.nodes[k]? = some { n with stat := .waiting, task := none }) ∧ (¬ prepared n → h.nodes[k]? = some n)) ∧
        (c < 32 → t.sched = { s.sched with event0 := setBit s.sched.event0 c }) ∧
        (32 ≤ c → t.sched = { s.sched with event1 := setBit s.sched.event1 (c - 32) })) ∧
    (x.state = .stopped → x.leaving = true → idle → x.graphs = [] → ∃ t, exec (.contextDrained c) s = .next t ∧ disabled t [] ∧
      t = { s.withTraffic t with ctxs := t.ctxs, trk := t.trk }) ∧
    ((x.state = .draining ∧ (runs ∨ unsent ∨ (x.cancelling = true ∧ x.graphs ≠ []))) ∨
        (x.state = .stopped ∧ (x.leaving = false ∨ x.graphs ≠ [])) ∨ (x.state ≠ .draining ∧ x.state ≠ .stopped) ∨ ¬ idle →
      exec (.contextDrained c) s = .next s)

/-- Tier 2. A stalled context stops: every accepted node not yet emitted takes status GRAPH_STALL, with cause 0x30, or 0x31 where the
emission waits for glean-ring space that GLN_COMMIT limits (which is the case where it is the older of the two counts:
notes/assumptions/80.md; that no stall is taken during an accept pass is notes/assumptions/144.md); STALL is set and the context's event
raised. No slot is given up. -/
def Obligations.ContextStall : Prop :=
  ∀ (s : State) (c : Nat) (gln : Bool), s.rst = .run → c < s.ctxs.length → stalled s c = some gln →
    ∃ t, exec (.contextStall c) s = .next t ∧ (ctxOf t c).state = .stopped ∧ (ctxOf t c).errStall = true ∧
      (ctxOf t c).emit = .idle ∧
      (∀ g ∈ (ctxOf t c).graphs, g.refused = false → ∀ n ∈ g.nodes.drop g.emitted,
        n.stat = .completed ∧ n.status = 0x15 ∧ n.cause = if gln then 0x31 else 0x30) ∧
      t.trk.slots.map (·.idx) = s.trk.slots.map (·.idx) ∧ (∀ y ∈ s.trk.slots, y.ctx ≠ c → y ∈ t.trk.slots) ∧
      t = { s.withTraffic t with ctxs := t.ctxs, trk := t.trk, sched := t.sched } ∧
      (c < 32 → t.sched = { s.sched with event0 := setBit s.sched.event0 c }) ∧
      (32 ≤ c → t.sched = { s.sched with event1 := setBit s.sched.event1 (c - 32) }) ∧ ∀ d, d ≠ c → ctxOf t d = ctxOf s d

/-- Tier 2. Sliced mode begins where a ready throughput swath waits for a resource, and ends where none does; the holder's slice ends, and a
context that takes a slice pays its debt. The overrun of a slice is the time from its end until the last swath dispatched during it
completes, and is added to the debt of its context; the next slice of the context lasts Q - min(D, Q - floor(Q / 4)), and the debt falls
by the rest of Q. With the holder the pins of its slots change (`slotsUnpin`: RegionParking). That slices are told apart by a number of the
model's own is notes/assumptions/46.md, and which slots a context that is switched out pins is notes/assumptions/94.md. -/
def Obligations.SlicedMode : Prop :=
  (∀ (s : State) (r p id : Nat) (w : Swath) (n : Node) (tk : Task), s.rst = .run → swathOf s id = some w → w.region = r → w.pos = p →
    w.epoch = (posOf s r p).epoch → (posOf s r p).vacant = false → w.ph = .done → sending s w = false → swathTask s w = some (n, tk) →
    tk.done + w.rows ≠ n.rows →
    let runs := fun (k : Nat) => s.swaths.any (fun y => decide (y.id ≠ id) && decide (y.node.ctx = w.node.ctx) && decide (y.slice = some k))
    let x := ctxOf s w.node.ctx
    ∃ t, exec (.swathComplete r p id) s = .next (slotsUnpin t) ∧ t = { s with banks := t.banks, ctxs := t.ctxs, swaths := t.swaths } ∧
      ((∀ b ∈ s.banks, b.state ≠ .switching) → t.banks = s.banks) ∧
      (ctxOf t w.node.ctx).debt = cntSat x.debt (sumNat ((x.overrun.filter (fun o => !runs o.1)).map (fun o => s.ctlTime - o.2))) ∧
      (ctxOf t w.node.ctx).overrun = x.overrun.filter (fun o => runs o.1)) ∧
  ∀ s : State, s.rst = .run →
    -- the context that is to hold the slice next takes it, where there is one: its debt and the slice's length
    let given := fun (u : State) (x : Answer) =>
      (nextHolder u = none → x = .next (slotsUnpin u)) ∧
      ∀ c, nextHolder u = some c →
        let q := max (bits (ctxOf s c).cfg.toNat 0 16) 1 * 1024
        let pay := min (ctxOf s c).debt.toNat (q - q / 4)
        x = .next (slotsUnpin { u with
          sched := { u.sched with holder := some c, sliceLen := q - pay, sliceNo := s.sched.sliceNo + 1 }
          ctxs := modAt u.ctxs c (fun y => { y with debt := BitVec.ofNat 32 ((ctxOf s c).debt.toNat - pay) }) })
    let swathsOf' := fun (c k : Nat) => s.swaths.any (fun w => decide (w.node.ctx = c) && decide (w.slice = some k))
    let ended := fun (t : State) => ∀ h, s.sched.holder = some h → h < s.ctxs.length → (ctxOf t h).overrun =
      (ctxOf s h).overrun ++ (if swathsOf' h s.sched.sliceNo then [(s.sched.sliceNo, s.ctlTime)] else [])
    (s.sched.sliced = false → (∃ c < s.ctxs.length, waitsResource s c = true) →
      (∃ t, exec .slicedModeEnter s = .next (slotsUnpin t) ∧ t.sched.sliced = true ∧ t = { s with sched := t.sched, ctxs := t.ctxs }) ∧
      (s.sched.holder = none → given { s with sched := { s.sched with sliced := true } } (exec .slicedModeEnter s))) ∧
    (s.sched.sliced = true → (∀ c < s.ctxs.length, waitsResource s c = false) → ∃ t, exec .slicedModeExit s = .next t ∧
      t = { s with sched := t.sched, ctxs := t.ctxs } ∧ ended t ∧
      t.sched = { s.sched with sliced := false, holder := none, lastHolder := s.sched.holder.getD s.sched.lastHolder }) ∧
    (s.sched.sliced = true → ∀ h, s.sched.holder = some h → ∃ t, exec .sliceEnd s = .next (slotsUnpin t) ∧
      t = { s with sched := t.sched, ctxs := t.ctxs } ∧ t.sched.lastHolder = h ∧ ended t ∧
      given { s with
        sched := { s.sched with holder := none, lastHolder := h }
        ctxs := modAt s.ctxs h (fun y => { y with overrun := y.overrun ++
          (if swathsOf' h s.sched.sliceNo then [(s.sched.sliceNo, s.ctlTime)] else []) }) } (exec .sliceEnd s)) ∧
    (s.sched.sliced = true → s.sched.holder = none → given s (exec .sliceEnd s))

/-! ## Commits, the tracker and the exchange -/

/-- Tier 2. The fold of a commit. A stream whose slot holds its entry and its records of the step is folded from them under its recipe, as
the commit has first read it; where it has no plan and is not shared, the write of its new granary entry begins at once. With a plan, the
plan entry and the list that the channel vector and the pending request give are written, the vector is zeroed, and then the granary entry
is written, unless the stream is shared, which then awaits its agreed value. That the plan entry and the list are written as one access,
both at once, and that the vector is zeroed when both are acknowledged, is the model's reading (notes/assumptions/58.md). The entry holds
the step, the window of recent amax values with the newest first, the scale and the zero point of the next step, and the counters. Once it
is acknowledged the stream has committed and its slot holds the new entry. Once every stream has committed, the header of the granary is
written: 64 bytes at SCT_GRAN + 64 * 0xFFFF, with the step, one commit more, and GLN_COMMIT at the records now written; that nothing else of
the context changes yet is the model's reading (notes/assumptions/12.md), and so is that a recipe that is not ready is read as it is stored
(notes/assumptions/121.md). -/
def Obligations.CommitHeader : Prop :=
  let folded := fun (old : GEntry) (recs : List GRec) (corrs idx : Nat) (r : Recipe) (step : Nat) =>
    let own := (foldSpan old recs r).2
    let hist := own :: (if old.valid then old.hist.take 15 else [])
    let hc := min ((if old.valid then old.hcount else 0) + 1) 16
    let hold := if overflowed recs r then r.hold else if old.valid then old.hold else 0
    ({ step := step, recipe := if old.valid then old.recipe else idx, valid := true, hcount := hc
       tnext := tensorScale (maxNat (hist.take (min r.window hc))) r (if 0 < hold then r.boost else 0)
         (if old.valid then old.tnext else r.tSeed)
       znext := (foldSpan old recs r).1, hist := hist.take hc, lastAmax := (maxOf (·.amax) recs).toNat, hold := hold - 1
       ovf := sat16 (old.ovf + b2n (overflowed recs r)), cold := sat16 (old.cold + b2n (recs.any GRec.cold))
       corr := sat16 (old.corr + corrs) } : GEntry)
  (∀ (s : State) (c : Nat) (f : Fold) (sl : Slot) (y : CommitStream), (ctxOf s c).fold = some f → foldStream s c sl.stream = some y →
     let recs := sl.recs.filter (fun r => r.step == f.step && r.tracked)
     let ri := if sl.entry.valid then sl.entry.recipe else ((recs.head?).map (·.recipe)).getD 0
     let r := f.rcp s ri
     recs ≠ [] → (sl.entry.valid = false ∨ sl.entry.step ≠ f.step) → s.health.wedgedRecipes = false → r.valid = true →
     (ctxOf s c).oplan = 0 → r.shared = false →
     let e := folded sl.entry recs (sl.recs.filter (fun r => r.step == f.step && r.corrects)).length ri r f.step
     ∃ u, commitStart c f sl s = startWrite (.cmEntry c sl.stream) ((ctxOf s c).gran sl.stream) (GEntry.bytes sl.stream e) u ∧
       u = { s with ctxs := u.ctxs } ∧ (∃ z, foldStream u c sl.stream = some z ∧ z.ph = .entryWr ∧ z.new = e) ∧
       ∀ d, d ≠ c → ctxOf u d = ctxOf s d) ∧
  (∀ (s : State) (c tag x st id : Nat) (q : Req) (j : Job) (f : Fold) (y : CommitStream), s.rst = .run → c < s.ports.length →
     q.burst.owner = .ctl id → jobOf s id = some j → j.left ≤ 1 → j.fail = none →
     (ctxOf s x).fold = some f → f.check = false → foldStream s x st = some y →
     let ends := fun (u : State) => u.ports = modAt s.ports c (fun p => { p with out := p.out.erase q }) ∧
       u.jobs = s.jobs.filter (fun k => k.id != id) ∧ ∀ d, d ≠ x → ctxOf u d = ctxOf s d
     let presents := fun (u : State) => drainCtl (drainRegion (s.build.regionOf c) u)
     (∀ words bs, reqOf s c tag false = some q → j.kind = .cmVec x st → j.wr = false → q.burst.tries = 0 →
       let k := takeBeat words (q.burst.addr % 256) q.burst.len
       k.corrected = [] → k.bad = [] → sound (patch j.buf q.burst.off k.bytes) = some bs →
       let r := commitPlan y.plan f.step y.overflow ((List.range y.plan.chans).map (fun i => fld bs (2 * i) 2)) (fbReqOf s x st)
       ∃ u, exec (.cpiRdata c tag false words none) s = .next (presents (startWrites (.cmPlanWr x st)
           [((ctxOf s x).oplan + 64 * st, r.plan.raw), (r.plan.area, listBytes r.plan.list)] u)) ∧ ends u ∧
         u = { s with ports := u.ports, jobs := u.jobs, ctxs := u.ctxs, trk := { s.trk with
           fbReqs := s.trk.fbReqs.filter (fun a => a.ctx != x || a.stream != st) } } ∧
         foldStream u x st = some { y with plan := r.plan, ph := .planWr } ∧
         (ctxOf u x).fbChange = ((ctxOf s x).fbChange || r.fbChange) ∧ (ctxOf u x).spilled = ((ctxOf s x).spilled || r.spilled) ∧
         (ctxOf u x).arenaShort = ((ctxOf s x).arenaShort || r.short) ∧
         (ctxOf u x).fbEntered = cntSat (ctxOf s x).fbEntered (b2n r.entered)) ∧
     (reqOf s c tag true = some q → j.wr = true →
       let r : Recipe := ⟨y.rcp⟩
       let e := folded y.old y.recs y.corrs y.rcpIdx r f.step
       (j.kind = .cmPlanWr x st → ∃ u, exec (.cpiWriteAck c tag false) s = .next (presents (startWrite (.cmZero x st)
           (y.plan.area + 512) (zeros (vecBytes y.plan)) u)) ∧ ends u ∧ u = { s with ports := u.ports, jobs := u.jobs, ctxs := u.ctxs } ∧
         foldStream u x st = some { y with ph := .zeroWr }) ∧
       (j.kind = .cmZero x st → r.shared = false → ∃ u, exec (.cpiWriteAck c tag false) s = .next (presents
           (startWrite (.cmEntry x st) ((ctxOf s x).gran st) (GEntry.bytes st e) u)) ∧ ends u ∧
         u = { s with ports := u.ports, jobs := u.jobs, ctxs := u.ctxs } ∧
         foldStream u x st = some { y with ph := .entryWr, new := e, changed := true }) ∧
       (j.kind = .cmZero x st → r.shared = true → (∀ sl, slotOf s x st = some sl → sl.early = none) →
         ∃ t, exec (.cpiWriteAck c tag false) s = .next t ∧ awaits t x st = some f.step ∧
           t = { s.withTraffic t with ctxs := t.ctxs, exch := t.exch }) ∧
       (j.kind = .cmEntry x st → ∀ sl, slotOf s x st = some sl → sl.ph = .ready →
         ∃ t z, exec (.cpiWriteAck c tag false) s = .next t ∧ t = { s.withTraffic t with ctxs := t.ctxs, trk := t.trk } ∧
           foldStream t x st = some { y with ph := .done } ∧ slotOf t x st = some z ∧ z.entry = y.new ∧ z.corr = none ∧
           z.recs = sl.recs ∧ z.idx = sl.idx))) ∧
  (∀ (s : State) (c : Nat) (f : Fold), s.rst = .run → c < s.ctxs.length → (ctxOf s c).fold = some f → f.check = false →
    f.reading = false → f.header = false → (∀ y ∈ f.streams, y.ph = .done) →
    exec (.commitHeaderWrite c) s = .next (startWrite (.cmHeader c)
      (word64 (ctxOf s c).granLo (ctxOf s c).granHi + 64 * 0xFFFF)
      (withCrc (leBytes 4 (f.step % 2 ^ 32) ++ leBytes 2 0xFFFF ++ zeros 2 ++ leBytes 4 (((ctxOf s c).commits.toNat + 1) % 2 ^ 32) ++
        leBytes 4 (ctxOf s c).glnWrite.toNat ++ zeros 44))
      { s with ctxs := modAt s.ctxs c (fun x => { x with fold := some { f with header := true } }) }))

/-- Tier 2. A value that the exchange hands to the tracker leaves the exchange. Where it is that of the awaited step the stream's entry is
written with it, and a value below the entry's own maximum sets AGREE_LOW; where it is that of the next step, the stream is resident and
none is kept yet, it is kept; otherwise it is dropped with AGREE_DROP. A wait that is too long is logged once with code 0x39, with the
stream and its step, and goes on. KIND 1 and UNIT 0x200 of that entry are the model's choice (notes/assumptions/63.md). -/
def Obligations.AgreedValues : Prop :=
  (∀ (s : State) (c x : Nat) (step : Word) (v : BitVec 16), s.rst = .run → (⟨c, x, step, v.toNat⟩ : Arrival) ∈ s.exch.arrivals →
     let u := { s with exch := { s.exch with arrivals := s.exch.arrivals.erase ⟨c, x, step, v.toNat⟩ } }
     let dropped : Answer := .next { u with trk := { s.trk with agreeDrop := true } }
     (awaits s c x = none → exec (.agreedValueArrival c x step v) s = dropped) ∧
     (∀ n, awaits s c x = some n →
       (step.toNat ≠ n → slotOf s c x = none → exec (.agreedValueArrival c x step v) s = dropped) ∧
       (∀ sl, slotOf s c x = some sl → step.toNat ≠ n →
         (step ≠ BitVec.ofNat 32 n + 1 ∨ sl.early ≠ none → exec (.agreedValueArrival c x step v) s = dropped) ∧
         (step = BitVec.ofNat 32 n + 1 → sl.early = none → exec (.agreedValueArrival c x step v) s = .next { u with
           trk := { s.trk with
             slots := s.trk.slots.map (fun y => if y.idx = sl.idx then { y with early := some (step.toNat, v.toNat) } else y) } })) ∧
       (step.toNat = n → ∀ y, foldStream s c x = some y → ∃ t, exec (.agreedValueArrival c x step v) s = .next t ∧
         t = { u.withTraffic t with ctxs := t.ctxs, trk := t.trk } ∧
         t.trk = { s.trk with agreeLow := s.trk.agreeLow || decide (v.toNat < y.own) } ∧
         foldStream t c x = some { y with ph := .entryWr, new := y.entry n (some v.toNat), changed := true } ∧
         ∀ d, d ≠ c → ctxOf t d = ctxOf s d))) ∧
  (∀ (s : State) (c x n : Nat) (y : CommitStream), s.rst = .run → c < s.ctxs.length → awaits s c x = some n →
     foldStream s c x = some y →
     (y.late = true → exec (.agreeTimeout c x) s = .next s) ∧
     (y.late = false → ∃ t reg, exec (.agreeTimeout c x) s = .next t ∧ t = logEvent 0x39 1 reg 0x200 c x n { s with ctxs := t.ctxs } ∧
       awaits t c x = some n ∧ (∃ z, foldStream t c x = some z ∧ z.late = true) ∧ ∀ d, d ≠ c → ctxOf t d = ctxOf s d))

/-- Tier 2. DELIVER and LOCAL act on the selected stream only where it awaits the step of SCT_AGREE_STEP; otherwise they are dropped with
AGREE_DROP. LOCAL takes the stream's own value; DELIVER takes SCT_AGREE_AMAX, and a NaN or a negative value is dropped too. That a value
of DELIVER below the stream's own maximum sets AGREE_LOW is the model's reading (notes/assumptions/59.md). -/
def Obligations.AgreeBySoftware : Prop :=
  ∀ s : State, s.rst = .run →
    let c := bits s.trk.sel.toNat 16 6
    let x := bits s.trk.sel.toNat 0 16
    let n := s.trk.agreeStep.toNat
    let dropped : Answer := .next { s with outs := s.outs ++ [.cpAck false], trk := { s.trk with agreeDrop := true } }
    (awaits s c x ≠ some n → exec .agreeDeliver s = dropped ∧ exec .agreeLocal s = dropped) ∧
    ((0x7F800000 < s.trk.agreeAmax.toNat ∧ s.trk.agreeAmax.toNat ≠ 0x80000000) → exec .agreeDeliver s = dropped) ∧
    (awaits s c x = some n → ∀ y, foldStream s c x = some y →
      (∃ t, exec .agreeLocal s = .next t ∧ t = { s.withTraffic t with ctxs := t.ctxs } ∧
        foldStream t c x = some { y with ph := .entryWr, new := y.entry n (some y.own), changed := true } ∧
        ∀ d, d ≠ c → ctxOf t d = ctxOf s d) ∧
      (∀ v, deliverValue s.trk.agreeAmax = some v → ∃ t, exec .agreeDeliver s = .next t ∧
        t = { s.withTraffic t with ctxs := t.ctxs, trk := { s.trk with agreeLow := s.trk.agreeLow || decide (v < y.own) } } ∧
        foldStream t c x = some { y with ph := .entryWr, new := y.entry n (some v), changed := true } ∧
        ∀ d, d ≠ c → ctxOf t d = ctxOf s d))

/-- Tier 1. A fallback request of the selected stream is dropped with REQ_DROP where its context is DISABLED, where it has no plan, or where
the sixteen requests are taken; otherwise the stream's plan entry is read, and the request keeps its place among those that are being read
(notes/assumptions/48.md). A slot that is not pinned can be evicted; the eviction writes nothing and changes nothing but the tracker's
slots, but that a CHECK or COMMIT that waits for a slot goes on. A slot that is pinned, that is still being loaded, that keeps an agreed
value of the next step, or whose stream's commit has yet to take its agreed value (notes/assumptions/57.md) stays. -/
def Obligations.TrackerRequests : Prop :=
  (∀ s : State, s.rst = .run →
     let c := bits s.trk.sel.toNat 16 6
     let x := bits s.trk.sel.toNat 0 16
     let p := word64 (ctxOf s c).oplanLo (ctxOf s c).oplanHi
     let dropped : Answer := .next { s with outs := s.outs ++ [.cpAck false], trk := { s.trk with reqDrop := true } }
     let asked := fun (force : Bool) => (Host.Outcome.next (startRead (.fbPlan s.nextJob) [(p + 64 * x, 64)] { s with
       outs := s.outs ++ [.cpAck false]
       trk := { s.trk with fbAsks := s.trk.fbAsks ++ [⟨s.nextJob, ⟨c, x, force⟩, none⟩] } }) : Answer)
     ((s.ctxs.length ≤ c ∨ (ctxOf s c).state = .disabled ∨ p = 0 ∨
         (16 ≤ s.trk.fbReqs.length ∧ ∀ q ∈ s.trk.fbReqs, ¬ (q.ctx = c ∧ q.stream = x))) →
       exec .fbForce s = dropped ∧ exec .fbRelease s = dropped) ∧
     (c < s.ctxs.length → (ctxOf s c).state ≠ .disabled → p ≠ 0 →
       (s.trk.fbReqs.length < 16 ∨ ∃ q ∈ s.trk.fbReqs, q.ctx = c ∧ q.stream = x) →
       exec .fbForce s = asked true ∧ exec .fbRelease s = asked false)) ∧
  (∀ (s : State) (i : Nat) (sl : Slot), s.rst = .run → slotAt s i = some sl →
     let u := { s with trk := { s.trk with slots := s.trk.slots.filter (fun y => y.idx != i) } }
     let stays := sl.ph ≠ .ready ∨ sl.early ≠ none ∨ pinned s sl = true ∨ agreeing s sl.ctx sl.stream = true
     (¬ stays → exec (.slotEvict i) s = .next (foldPumpAll u)) ∧
     (¬ stays → (∀ x ∈ s.ctxs, x.fold = none) → exec (.slotEvict i) s = .next u) ∧
     (stays → exec (.slotEvict i) s = .next s))

/-! ## Tasks and swaths -/

/-- Tier 2. The swath that the scheduler offers a position. Where the task's program is not known it is read first; a task whose step has
been committed meanwhile is REJECTED with cause 0x02; slots are loaded for streams that are not resident. Else the swath is placed under
the position's epoch, with the rows that follow those dispatched before it and the sides of its banks; with the first swath of a task T and
Z are taken, and the scale words and the plan entries of its streams are read. A task that is to be rejected is given no swath: those
readings alone are made, for a lower cause. A rerun takes the rows of the abandoned swath again and is logged with code 0x0B. With the start
of the swath its core is counted off every switch that waits for it; the last consumer toggles LIVE, advances GEN and completes the
BANKSWITCH nodes that wait. A context that holds the slice gives it up first where one of higher PRIO is ready (notes/assumptions/46.md).
Which swath is offered, where a task may be divided, when its program is read and how a lower cause is looked for are readings of the spec
(notes/assumptions/45.md, notes/assumptions/10.md, notes/assumptions/15.md, notes/assumptions/41.md), and so are which side a swath under a
switch takes (notes/assumptions/37.md) and which plan entries a task reads (notes/assumptions/125.md). -/
def Obligations.SwathPlaced : Prop :=
  ∀ (s u : State) (c g k r p rows : Nat) (n : Node) (tk : Task), s.rst = .run → yieldSlice s = u →
    nodeOf u ⟨c, g, k⟩ = some n → n.task = some tk →
    let node : NodeRef := ⟨c, g, k⟩
    let cmd := exec (.swathDispatch c g k r p rows none) s
    let others := fun (t : State) => ∀ d, d ≠ c → (∀ b ∈ s.banks, ∀ y, (b.node = some y ∨ y ∈ b.waits) → y.ctx ≠ d) → ctxOf t d = ctxOf u d
    let open' := (ctxOf u c).sctStep.toNat < n.step
    let resident := ∀ x ∈ slotStreams n tk.ops ⟨tk.prog⟩, (slotReady u c x).isSome = true
    (s.sched.sliced = false → u = s) ∧
    (offered u r p = some node → tk.known n = false → (tk.started = true ∨ open') → ∃ v,
      cmd = .next (startRead (.taskHdr node tk.id) [(n.prog, 128)] v) ∧ v = { u with ctxs := v.ctxs } ∧
      taskOf v node = some { tk with ph := .header, ask := some (r, p, rows) } ∧ ∀ d, d ≠ c → ctxOf v d = ctxOf u d) ∧
    (offered u r p = some node → tk.started = false → ¬ open' → n.stat = .dispatched → (∀ b ∈ s.banks, b.node ≠ some node ∧ node ∉ b.waits) →
      ∃ t m, cmd = .next (slotsUnpin t) ∧ nodeOf t node = some m ∧ m.stat = .completed ∧ m.status = 0x16 ∧ m.cause = 0x02) ∧
    (tk.ph = .ready → tk.known n = true → tk.started = false → open' → ¬ resident → cmd = .next (taskSlots node n tk u)) ∧
    (offered u r p = some node → tk.known n = true → (tk.started = false → open' ∧ resident) →
      (∀ b ∈ s.banks, b.node ≠ some node ∧ node ∉ b.waits) →
      let placed := fun (t : State) (row0 : Nat) (poison : Bool) =>
        (∃ w, t.swaths = u.swaths ++ [w] ∧ w.id = u.nextSwath ∧ w.region = r ∧ w.pos = p ∧ w.epoch = (posOf u r p).epoch ∧
          w.phys = (posOf u r p).phys ∧ w.node = node ∧ w.task = tk.id ∧ w.row0 = row0 ∧ w.rows = rows ∧ w.poison = poison ∧
          w.ph = .setup ∧ w.sides = swathSides u tk ∧
          w.slice = if u.sched.sliced = true ∧ u.sched.holder = some c then some u.sched.sliceNo else none) ∧
        t.nextSwath = u.nextSwath + 1 ∧ t.sched = { u.sched with lastServed := c } ∧ others t ∧
        s.CountedOff (.core r (posOf u r p).phys) t ∧ ((∀ b ∈ s.banks, b.state ≠ .switching) → t.banks = s.banks)
      let runs := fun (t : State) => cmd = .next (if tk.ph = .run then swathBegin u.nextSwath t else t)
      let words := if n.isFill = true ∨ (⟨tk.prog⟩ : Prog).ok tk.ops = false then [] else taskWords tk.ops ⟨tk.prog⟩
      let plans := if n.isFill = true then [] else taskStreams n tk.ops ⟨tk.prog⟩
      let read := if (ctxOf u c).oplan = 0 then [] else plans
      -- the readings that come with the first swath, or where a lower cause is looked for: in `v` the task stands as `t'` with them
      let setup := fun (v : State) (t' : Task) (bad : List Nat) =>
        let scaled := { tk with scales := taskScales u c tk }
        taskOf v node = some { t' with
          ph := .setup, scales := scaled.scales, left := words.length + read.length, plans := plans.map Plan.zero, ask := none
          bad := lowest (bad ++ (scaleCauses { u with banks := v.banks } node n scaled).1) } ∧
        cmd = .next (setupGo node n (read.foldl (fun s x => startRead (.plan node tk.id x) [((ctxOf u c).oplan + 64 * x, 64)] s)
          (words.foldl (fun s a => startRead (.sword node tk.id a) [(a, 16)] s) v)))
      (∀ cause, tk.bad = some cause → ∃ v, setup v tk [cause] ∧ v = { u with ctxs := v.ctxs } ∧
        ∀ d, d ≠ c → ctxOf v d = ctxOf u d) ∧
      (tk.bad = none →
        (tk.reruns = [] → rowsOk n tk tk.next rows = true → tk.started = true → ∃ t, placed t tk.next false ∧ runs t ∧
          t = { u with banks := t.banks, ctxs := t.ctxs, sched := t.sched, swaths := t.swaths, nextSwath := t.nextSwath } ∧
          taskOf t node = some { tk with next := tk.next + rows }) ∧
        (tk.reruns = [] → rowsOk n tk tk.next rows = true → tk.started = false → ∃ v, placed v tk.next false ∧
          v = { u with banks := v.banks, ctxs := v.ctxs, sched := v.sched, swaths := v.swaths, nextSwath := v.nextSwath } ∧
          setup v { tk with next := tk.next + rows, started := true } []) ∧
        (∀ y ys, tk.reruns = y :: ys → y.rows = rows → tk.started = true → ∃ t, placed t y.row0 y.poison ∧ runs t ∧
          taskOf t node = some { tk with reruns := ys } ∧
          t = logEvent 0x0B 1 r (posOf u r p).phys c (2 ^ 31 * b2n y.poison + k) 0
            { u with banks := t.banks, ctxs := t.ctxs, sched := t.sched, swaths := t.swaths, nextSwath := t.nextSwath })))

/-- Tier 2. A swath whose work is done reports under its position's epoch and leaves its core; what it counted is handed to its task. With
the last rows of the first of two passes the task waits for its second; with the last rows of the final one it enters its tail. The report
of a swath of another epoch changes nothing. A core that then runs no swath is idle and counted off every switch that waits for it (that it
flips where its last swath leaves is notes/assumptions/37.md); the last consumer toggles LIVE, advances GEN and completes the BANKSWITCH
nodes that wait. Slots that the swath pinned unpin (`slotsUnpin`: RegionParking). That the last swath of its pass reads the partials of a
reduced axis and forms the tree is the model's reading (notes/assumptions/38.md). -/
def Obligations.SwathReports : Prop :=
  ∀ (s : State) (r p id : Nat) (w : Swath) (n : Node) (tk : Task), s.rst = .run → swathOf s id = some w → w.region = r → w.pos = p →
    (w.epoch ≠ (posOf s r p).epoch → exec (.swathComplete r p id) s = .next s) ∧
    (w.epoch = (posOf s r p).epoch → (posOf s r p).vacant = false → w.ph = .done → sending s w = false → swathTask s w = some (n, tk) →
      (∀ b ∈ s.banks, b.node ≠ some w.node ∧ w.node ∉ b.waits) →
      let left := fun (t : State) => t.swaths = s.swaths.filter (fun y => y.id != id) ∧
        (∀ d, d ≠ w.node.ctx → (∀ b ∈ s.banks, ∀ y, (b.node = some y ∨ y ∈ b.waits) → y.ctx ≠ d) → ctxOf t d = ctxOf s d) ∧
        ((∃ y ∈ s.swaths, y.id ≠ id ∧ y.region = r ∧ y.pos = p) ∨ (∀ b ∈ s.banks, b.state ≠ .switching) → t.banks = s.banks) ∧
        ((∀ y ∈ s.swaths, y.id ≠ id → ¬ (y.region = r ∧ y.pos = p)) → s.CountedOff (.core r w.phys) t)
      (tk.done + w.rows ≠ n.rows → ∃ t, exec (.swathComplete r p id) s = .next (slotsUnpin t) ∧ left t ∧
        t = { s with banks := t.banks, ctxs := t.ctxs, swaths := t.swaths } ∧ taskOf t w.node = some (tk.take w)) ∧
      let segs := treeSegs (envOf s w n tk)
      (lastSwath w n tk = true → w.treed = false → segLen segs ≠ 0 → exec (.swathComplete r p id) s = .next (coreRead w segs
        { s with swaths := s.swaths.map (fun y => if y.id = id then { y with ph := .tree } else y) })) ∧
      (tk.done + w.rows = n.rows → (w.treed = true ∨ segLen segs = 0) → tk.final = false → ∃ t,
        exec (.swathComplete r p id) s = .next (slotsUnpin t) ∧ left t ∧
        t = { s with banks := t.banks, ctxs := t.ctxs, swaths := t.swaths } ∧ taskOf t w.node = some { tk.take w with ph := .folded }) ∧
      (tk.done + w.rows = n.rows → (w.treed = true ∨ segLen segs = 0) → tk.final = true → ∃ t u,
        exec (.swathComplete r p id) s = .next (slotsUnpin t) ∧ left t ∧
        t = { s.withTraffic t with banks := t.banks, ctxs := t.ctxs, swaths := t.swaths } ∧ taskOf t w.node = some u ∧ u.ph = .tail ∧
        u.done = tk.done + w.rows ∧ u.poisoned = (tk.poisoned || w.poisoned)))

/-- Tier 2. The second pass of a task gives its cold destinations the scale of what the first one measured, the span about the zero point
where the recipe has one, and all its rows are dispatched again. A task whose tail is written and none of whose writes is open completes
with the status, cause and flags of what applied to it, and with one record for each of its destinations. -/
def Obligations.TaskEnds : Prop :=
  (∀ (s : State) (c g k : Nat) (tk : Task), s.rst = .run → taskOf s ⟨c, g, k⟩ = some tk → tk.ph = .folded →
     let old := fun (d : Nat) => tk.scales.getD d default
     let rcp := fun (d : Nat) => (⟨(old d).rcp⟩ : Recipe)
     let st := fun (d : Nat) => tk.stats.getD d Stats.none
     ∃ t u, exec (.twoPassSecondPass c g k) s = .next t ∧ t = { s with ctxs := t.ctxs } ∧ taskOf t ⟨c, g, k⟩ = some u ∧
       u.ph = .run ∧ u.final = true ∧ u.next = 0 ∧ u.done = 0 ∧ u.ops = tk.ops ∧ u.prog = tk.prog ∧
       (∀ d, d < 4 → (old d).cold ≠ .twoPass → u.scales[d]? = some (old d)) ∧
       (∀ d, d < 4 → (old d).cold = .twoPass →
         let sets := fun (span : Q) => u.scales[d]? = some { old d with t := tensorScale (bf16Up span) (rcp d) 0 (rcp d).tSeed }
         ((rcp d).zpMode = 0 → sets (wordQ (BitVec.ofNat 32 (st d).amax))) ∧
         ((rcp d).zpMode ≠ 0 → ∀ a b, (st d).xmax = some a → (st d).xmin = some b → sets (spanAbout a b (old d).z)) ∧
         ((rcp d).zpMode ≠ 0 → (st d).xmax = none ∨ (st d).xmin = none → sets Q.zero)) ∧
       ∀ e, e ≠ c → ctxOf t e = ctxOf s e) ∧
  (∀ (s : State) (c g k : Nat) (n : Node) (tk : Task), s.rst = .run → nodeOf s ⟨c, g, k⟩ = some n → n.stat = .dispatched →
     n.task = some tk →
     (tk.ph = .tail → tk.tailLeft = 0 → tk.merges = [] → (∀ j ∈ s.jobs, j.kind.writesFor ⟨c, g, k⟩ tk.id = false) →
       ∃ t m, exec (.taskComplete c g k) s = .next t ∧ t = { s with ctxs := t.ctxs } ∧ nodeOf t ⟨c, g, k⟩ = some m ∧
         m.stat = .completed ∧ m.status = (taskApplied n tk).status ∧ m.cause = (taskApplied n tk).cause ∧
         m.info = (taskApplied n tk).info ∧ m.recs.length = (recDests n tk).length ∧ m.desc = n.desc ∧
         ∀ e, e ≠ c → ctxOf t e = ctxOf s e) ∧
     (tk.ph ≠ .tail ∨ tk.tailLeft ≠ 0 ∨ tk.merges ≠ [] ∨ (∃ j ∈ s.jobs, j.kind.writesFor ⟨c, g, k⟩ tk.id = true) →
       exec (.taskComplete c g k) s = .next s))

/-! ## Cluster ports -/

/-- Tier 2. An answer with a tag that is not outstanding is discarded, and frees the tag where the request had timed out; so is one to a
request from before a fence, but that a failed write still stops its task. A good answer to one of several bursts of the control island
places its bytes and leaves one burst less; a failed one, an answer with a word that cannot be corrected among them, is presented again or
waits for a port while it may be retried, and then is the failure of the access, with its code and its address. An answer to a core places
its bytes, a word that cannot be corrected leaving its bytes in doubt; one with an error leaves all of them so. A failed write of a core
stops its task with cause 0x41, or 0x43 after a time-out. An acknowledgement of a DMA write advances the run, data of a DMA read joins the
channel's buffer, and a failure makes the channel a culprit, with the cause of its kind, and stops the engine; of a channel that fails again
the lowest cause is kept too. The model's readings are when that one counts (notes/assumptions/146.md), how
a failure is logged (notes/assumptions/29.md), that a core's read which fails leaves all its bytes in doubt and the core goes on
(notes/assumptions/8.md), and that a failed write from before a fence still stops its task (notes/assumptions/69.md). -/
def Obligations.PortAnswers : Prop :=
  ∀ (s : State) (c tag : Nat), s.rst = .run → c < s.ports.length →
    let late := fun (wr : Bool) => (Host.Outcome.next { s with
      ports := modAt s.ports c (fun p => { p with late := p.late.erase (wr, tag) }) } : Answer)
    (∀ err words, reqOf s c tag false = none → exec (.cpiRdata c tag err words none) s = late false) ∧
    (∀ err, reqOf s c tag true = none → exec (.cpiWriteAck c tag err) s = late true) ∧
    (∀ wr, reqOf s c tag wr = none → exec (.memResponseTimeout c tag wr) s = .next s) ∧
    (∀ q, reqOf s c tag false = some q →
      let rdata := fun (words : List GWord) => exec (.cpiRdata c tag false words none) s
      let failed := exec (.cpiRdata c tag true [] none) s
      let timedOut := exec (.memResponseTimeout c tag false) s
      let taken := fun (words : List GWord) => takeBeat words (q.burst.addr % 256) q.burst.len
      (∀ id j, q.burst.owner = .ctl id → jobOf s id = some j →
        let again := fun (x : Answer) => ∃ t, x = .next t ∧ t = s.withTraffic t ∧ jobOf t id = some j ∧
          ({ q.burst with tries := q.burst.tries + 1 } ∈ t.ctlWait ∨
            ∃ p ∈ t.ports, ∃ r ∈ p.out, r.burst = { q.burst with tries := q.burst.tries + 1 })
        let ends := fun (x : Answer) (code : Nat) => ∃ t, x = .next t ∧ t = s.withTraffic t ∧
          jobOf t id = some { j with left := j.left - 1, fail := some (code, q.burst.addr) }
        (∀ words, 2 ≤ j.left → q.burst.tries = 0 → (taken words).corrected = [] → (taken words).bad = [] →
          ∃ t, rdata words = .next t ∧ t = s.withTraffic t ∧
            jobOf t id = some { j with left := j.left - 1, buf := patch j.buf q.burst.off (taken words).bytes }) ∧
        (j.kind.retried = true → q.burst.tries < s.health.retry →
          again failed ∧ again timedOut ∧ ∀ words, (taken words).bad ≠ [] → again (rdata words)) ∧
        (j.kind.retried = true → s.health.retry ≤ q.burst.tries → 2 ≤ j.left → j.fail = none →
          ends failed 0x06 ∧ ends timedOut 0x04 ∧ ∀ words, (taken words).bad ≠ [] → ends (rdata words) 0x02)) ∧
      (∀ r p e phys id, q.burst.owner = .core r p e phys id →
        (epochHolds s r p e = false → ∀ words, (taken words).corrected = [] → (taken words).bad = [] →
          ∃ t, rdata words = .next t ∧ t = s.withTraffic t ∧ t.jobs = s.jobs) ∧
        (∀ j, epochHolds s r p e = true → jobOf s id = some j → 2 ≤ j.left →
          (∀ words, ∃ t, rdata words = .next t ∧ t = { s.withTraffic t with regions := t.regions } ∧
            jobOf t id = some { j with left := j.left - 1, buf := patch j.buf q.burst.off (taken words).bytes }) ∧
          ∀ x, (x = failed ∨ x = timedOut) → ∃ t, x = .next t ∧ t = s.withTraffic t ∧
            jobOf t id = some { j with left := j.left - 1 })) ∧
      (∀ r ch fid fl, q.burst.owner = .dma r ch fid → (chan s r ch).flights.find? (fun y => y.id == fid) = some fl →
        let rest := (chan s r ch).flights.filter (fun y => y.id != fid)
        let only := fun (t : State) => t = { s.withTraffic t with regions := t.regions } ∧
          (∀ e, e ≠ r → region t e = region s e) ∧ ∀ e, e ≠ ch → chan t r e = chan s r e
        let stops := fun (x : Answer) (cause : Nat) => ∃ t, x = .next t ∧ only t ∧ (chan t r ch).flights = rest ∧
          (region t r).dma.draining = true ∧ (region t r).dma.culprits =
            (if (region s r).dma.culprits.any (fun y => y.chan == ch) then
              (region s r).dma.culprits.map (fun y => if y.chan = ch then { y with low := min y.low cause } else y)
             else (region s r).dma.culprits ++ [⟨ch, cause, q.burst.addr, cause⟩])
        (∀ words bytes, fl.kind = .read → fl.block = (chan s r ch).block → (chan s r ch).state = .active →
          sound (taken words).bytes = some bytes → ∃ t, rdata words = .next t ∧ only t ∧
            chan t r ch = { chan s r ch with
              flights := rest, buf := (chan s r ch).buf ++ [(fl.pos, orderUnits fl.desc fl.width bytes)] }) ∧
        (∀ words, sound (taken words).bytes = none → stops (rdata words) 0x44) ∧
        (fl.kind ≠ .write → stops failed (if fl.kind = .fetch then 0x42 else 0x40) ∧ stops timedOut 0x43))) ∧
    (∀ q, reqOf s c tag true = some q →
      let acked := exec (.cpiWriteAck c tag false) s
      let failed := exec (.cpiWriteAck c tag true) s
      let timedOut := exec (.memResponseTimeout c tag true) s
      (∀ id j, q.burst.owner = .ctl id → jobOf s id = some j → 2 ≤ j.left →
        (∃ t, acked = .next t ∧ t = s.withTraffic t ∧ jobOf t id = some { j with left := j.left - 1 }) ∧
        (j.kind.retried = true → s.health.retry ≤ q.burst.tries → j.fail = none → ∃ t, failed = .next t ∧ t = s.withTraffic t ∧
          jobOf t id = some { j with left := j.left - 1, fail := some (0x05, q.burst.addr) })) ∧
      (∀ r p e phys id j k node task, q.burst.owner = .core r p e phys id → jobOf s id = some j → j.kind = .swathWr k node task →
        2 ≤ j.left →
        (∃ t, acked = .next t ∧ t = s.withTraffic t ∧ jobOf t id = some { j with left := j.left - 1 }) ∧
        ∀ tk, taskOf s node = some tk → tk.id = task →
          let stops := fun (x : Answer) (cause : Nat) => ∃ t, x = .next t ∧ t = { s.withTraffic t with ctxs := t.ctxs } ∧
            taskOf t node = some { tk with stop := some (min (tk.stop.getD cause) cause) } ∧
            ∀ d, d ≠ node.ctx → ctxOf t d = ctxOf s d
          stops failed 0x41 ∧ stops timedOut 0x43) ∧
      (∀ r ch fid fl, q.burst.owner = .dma r ch fid → (chan s r ch).flights.find? (fun y => y.id == fid) = some fl → fl.kind = .write →
        let rest := (chan s r ch).flights.filter (fun y => y.id != fid)
        let only := fun (t : State) => t = { s.withTraffic t with regions := t.regions } ∧
          (∀ e, e ≠ r → region t e = region s e) ∧ ∀ e, e ≠ ch → chan t r e = chan s r e
        (fl.block = (chan s r ch).block → ∃ t, acked = .next t ∧ only t ∧
          let a := (chan s r ch).acked ++ [(fl.pos, fl.len)]
          let pos := advancePos a.length (chan s r ch).pos a
          chan t r ch = { chan s r ch with flights := rest, pos := pos, acked := a.filter (fun y => pos < y.1 + y.2) }) ∧
        ∀ x cause, ((x = failed ∧ cause = 0x41) ∨ (x = timedOut ∧ cause = 0x43)) → ∃ t, x = .next t ∧ only t ∧
          (chan t r ch).flights = rest ∧ (region t r).dma.draining = true ∧ (region t r).dma.culprits =
            if (region s r).dma.culprits.any (fun y => y.chan == ch) then
              (region s r).dma.culprits.map (fun y => if y.chan = ch then { y with low := min y.low cause } else y)
            else (region s r).dma.culprits ++ [⟨ch, cause, q.burst.addr, cause⟩]))

/-- Tier 2. The acknowledgement of a commit header ends the commit: SCT_STEP takes the committed step, GLN_COMMIT passes every record
written, and the COMMIT node completes with status OK. That all of this happens at that acknowledgement is the model's reading
(notes/assumptions/12.md). -/
def Obligations.CommitEnds : Prop :=
  ∀ (s : State) (c tag x id : Nat) (q : Req) (j : Job) (f : Fold) (n : Node), s.rst = .run → c < s.ports.length →
    reqOf s c tag true = some q → q.burst.owner = .ctl id → jobOf s id = some j → j.kind = .cmHeader x → j.wr = true → j.left ≤ 1 →
    j.fail = none → (ctxOf s x).fold = some f → f.node.ctx = x → nodeOf s f.node = some n → n.stat = .dispatched →
    ∃ t m, exec (.cpiWriteAck c tag false) s = .next t ∧ t = { s.withTraffic t with ctxs := t.ctxs, trk := t.trk } ∧
      (ctxOf t x).sctStep = BitVec.ofNat 32 f.step ∧ (ctxOf t x).glnCommit = (ctxOf s x).glnWrite ∧ (ctxOf t x).fold = none ∧
      (ctxOf t x).commits.toNat = ((ctxOf s x).commits.toNat + 1) % 2 ^ 32 ∧
      nodeOf t f.node = some m ∧ m.stat = .completed ∧ m.status = 0 ∧ m.cause = 0 ∧
      (∀ y ∈ t.trk.slots, y.ctx = x → y.recs = [] ∧ y.corr = none) ∧ ∀ d, d ≠ x → ctxOf t d = ctxOf s d

/-- Tier 2. Returned credits are added to the counters of the pair, which saturate at 255; a lost pair takes none. Where anything waits for
a credit it is then presented, oldest first, and a swath whose streams of one band have closed goes on to its next (notes/assumptions/38.md);
a credit that the region's DMA engine also waits for is left to it where a core was served last in that direction
(notes/assumptions/31.md); and that a lost pair takes none is the model's reading (notes/assumptions/71.md). -/
def Obligations.CreditsReturn : Prop :=
  ∀ (s : State) (c rd wr st : Nat), s.rst = .run →
    let u : State := { s with ports := modAt s.ports c (fun p => { p with
      rd := min 255 (p.rd + rd), wr := min 255 (p.wr + wr), st := min 255 (p.st + st) }) }
    (s.ports.length ≤ c ∨ (port s c).lost = true → exec (.creditReturn c rd wr st) s = .next s) ∧
    (c < s.ports.length → (port s c).lost = false →
      let v := drainCtl (drainRegion (s.build.regionOf c) u)
      exec (.creditReturn c rd wr st) s = .next (bandsGo (s.build.regionOf c) v) ∧
      ((∀ w ∈ s.swaths, w.ph ≠ .bandNext) → exec (.creditReturn c rd wr st) s = .next v)) ∧
    (c < s.ports.length → (port s c).lost = false → s.ctlWait = [] → (∀ p ∈ s.ports, p.wait = [] ∧ p.beats = []) →
      (∀ w ∈ s.swaths, w.ph ≠ .bandNext) → exec (.creditReturn c rd wr st) s = .next u)

/-- Tier 2. Each half of an inbound stream returns one credit. One for a stream that is not open is discarded; one that a swath waits for
joins what it has received; and a close ends a stream, and with it the band of the swath that waits. A PRODUCT's swath of several bands
exchanges them one after the other: the operand of the next is sent once the streams of the band before it have closed
(notes/assumptions/38.md), and never by a core that has been fenced. A tile delivery hands the oldest elements of its session to the swath
that waits for them (which swath that is, is notes/assumptions/70.md), as values of the type that its LOAD takes, those that saturate
counted (notes/assumptions/40.md). -/
def Obligations.InboundStreams : Prop :=
  ∀ (s : State) (c sid len : Nat) (words : List GWord), s.rst = .run →
    let credited : State := { s with outs := s.outs ++ [.istCredits c 1] }
    (c < s.ports.length → (port s c).lost = false → (port s c).wait = [] → (port s c).beats = [] →
      (recvOf s c sid = none → exec (.cpiSdata (.cluster c sid) len words) s = .next credited ∧
        ∀ err, exec (.cpiSclose c sid err) s = .next credited) ∧
      (∀ o w, recvOf s c sid = some o → swathOf s o.swath = some w →
        (streamWanted s o = true → w.ph = .band → len ≤ 256 → (takeBeat words 0 len).corrected = [] → (takeBeat words 0 len).bad = [] →
          w.got.length + (takeBeat words 0 len).bytes.length < w.need →
          ∃ t v, exec (.cpiSdata (.cluster c sid) len words) s = .next t ∧
            t = { s with outs := s.outs ++ [.istCredits c 1], swaths := t.swaths } ∧ swathOf t o.swath = some v ∧
            v.got = w.got ++ (takeBeat words 0 len).bytes ∧ v.ph = .band ∧ v.stage = w.stage ∧ v.need = w.need) ∧
        (streamWanted s o = false → ∀ err,
          let u : State := { credited with ports := modAt s.ports c (fun p => { p with
            streams := (p.streams.map (fun y => if y = o then { y with closed := true } else y)).filter
              (fun y => !y.closed || (swathOf s y.swath).isSome) }) }
          exec (.cpiSclose c sid err) s = .next (drainPort c (bandPump c u)) ∧
          ((∀ y ∈ s.swaths, y.ph ≠ .bandNext) → exec (.cpiSclose c sid err) s = .next u)) ∧
        (streamWanted s o = true → w.ph = .band → ∀ err, exec (.cpiSclose c sid err) s = .next (drainPort c (bandPump c (tidyStreams c
          (bandDone o.swath { credited with ports := modAt s.ports c (fun p => { p with
            streams := p.streams.map (fun y => if y = o then { y with closed := true } else y) }) }))))))) ∧
    (∀ (u : State) (id : Nat) (w : Swath) (n : Node) (tk : Task), swathOf u id = some w → swathTask u w = some (n, tk) →
      let e := envOf u w n tk
      let streams := (port u (w.cluster u)).streams.filter (fun o => o.swath == w.id && o.stage == w.stage && !o.closed)
      (w.ph ≠ .bandNext ∨ streams ≠ [] ∨ epochHolds u w.region w.pos w.epoch = false → bandGo id u = u) ∧
      (w.ph = .bandNext → streams = [] → epochHolds u w.region w.pos w.epoch = true → bandGo id u =
        let v := sendStream w e (productSend e w.stage w.band w) e.node.routeP u
        bandOpen e ((swathOf v w.id).getD w) v)) ∧
    (s.ports.length ≤ c ∨ (port s c).lost = true → exec (.cpiSdata (.cluster c sid) len words) s = .next s ∧
      ∀ err, exec (.cpiSclose c sid err) s = .next s) ∧
    (∀ p i, sessBuilt s p i = true → len ≤ 256 →
      (tileSwath s (session s p i) = none → exec (.cpiSdata (.link p i) len words) s = .next s) ∧
      (∀ w fmt room, tileSwath s (session s p i) = some (w, fmt, room) →
        let x := session s p i
        let vs := x.dq.take (min room (len / wideSize x.delivType))
        let as := fun (v : Val) => match Val.q v with
          | some q => if fmt = x.delivType then (v, false) else roundVal fmt q
          | none => (v, false)
        exec (.cpiSdata (.link p i) len words) s = .next (bandTake w.id ((vs.flatMap (fun v => (storeVal fmt (as v).1).1)).map some)
          (modSwath w.id (fun y => { y with sat := y.sat + (vs.filter (fun v => (as v).2)).length })
            (modSess p i (fun y => { y with dq := y.dq.drop vs.length, dqPos := y.dqPos + vs.length }) s)))))

/-- Tier 2. A watched cluster toggles `clu_alive`. When the partner of its port pair is lost the pair gives up its credits, each request
outstanding on it counts as timed out, and is logged so, and each receive stream as closed early; when it returns, the pair starts without
a credit and is given 32 IST credits anew where its region is ready. -/
def Obligations.ClusterPartner : Prop :=
  ∀ (s : State) (c : Nat), s.rst = .run → c < s.ports.length → (region s (s.build.regionOf c)).parkAck = false →
    exec (.cluAliveToggle c) s = .next { s with
      ports := modAt s.ports c (fun p => { p with alive := !p.alive }), outs := s.outs ++ [.cluAlive c (!(port s c).alive)] } ∧
    ((port s c).lost = false →
      let u : State := { s with
        ports := modAt s.ports c (fun p => { p with lost := true, rd := 0, wr := 0, st := 0, out := [], late := [] }) }
      let v := (port s c).out.foldl (fun t q => reply c q.burst .timeout (lossLog q.burst t)) u
      exec (.clusterPartnerLost c) s = .next
        (((port v c).streams.filter (fun o => o.recv && !o.closed)).foldl (fun t o => closeRecv c o t) v) ∧
      ((port s c).out = [] → (∀ o ∈ (port s c).streams, o.recv = false ∨ o.closed = true) → exec (.clusterPartnerLost c) s = .next u)) ∧
    (∀ (b : Burst) (id : Nat) (j : Job), b.owner = .ctl id → jobOf s id = some j → j.kind.retried = true → b.tries < s.health.retry →
      lossLog b s = logEvent 0x04 0 0 0 (jobCtx s j.kind) (if b.wr then 1 else 0) b.addr s) ∧
    (∀ (b : Burst) (id : Nat), b.owner = .ctl id → jobOf s id = none →
      lossLog b s = logEvent 0x04 0 0 0 0xFFFF (if b.wr then 1 else 0) b.addr s) ∧
    ((port s c).lost = true → exec (.clusterPartnerReturn c) s = .next { s with
      ports := modAt s.ports c (fun p => { p with lost := false })
      outs := s.outs ++ (if (region s (s.build.regionOf c)).ready then [.istCredits c 32] else []) })

/-! ## Regions and health -/

/-- Tier 2. A request to park a region evicts the slots homed in it that are not pinned, and those that are as they unpin; the region is
parked once nothing of it is under way; and when the request ends it takes work again, a swath between two of its bands too
(notes/assumptions/38.md). Nothing else but the region's two lines, slots and waiting traffic changes, save that a CHECK or COMMIT that
waits for a slot goes on (`foldPumpAll`). A slot in whose stream an early agreed value waits leaves too (notes/assumptions/57.md). -/
def Obligations.RegionParking : Prop :=
  ∀ (s : State) (r : Nat), s.rst = .run → r < s.regions.length →
    let gone := fun (t : State) => ∀ sl ∈ s.trk.slots, s.build.homeRegion sl.idx = r → pinned s sl = false → slotAt t sl.idx = none
    let evicted := fun (t : State) => gone t ∧ ∀ sl ∈ s.trk.slots, s.build.homeRegion sl.idx ≠ r → sl ∈ t.trk.slots
    (∃ t, exec (.regionParkRequest r) s = .next (foldPumpAll t) ∧ evicted t ∧ ((∀ x ∈ t.ctxs, x.fold = none) → foldPumpAll t = t) ∧
      t = { s with regions := modAt s.regions r (fun x => { x with parkReq := true })
                   trk := t.trk, jobs := t.jobs, ctlWait := t.ctlWait }) ∧
    ((region s r).parkReq = true → (region s r).parkAck = false → parkQuiet s r = true →
      ∃ t, exec (.regionParkAck r) s = .next t ∧ evicted t ∧
        t = { s with regions := modAt s.regions r (fun x => { x with parkAck := true })
                     trk := t.trk, jobs := t.jobs, ctlWait := t.ctlWait }) ∧
    ((region s r).parkReq = false ∨ (region s r).parkAck = true ∨ parkQuiet s r = false → exec (.regionParkAck r) s = .next s) ∧
    ((region s r).parkReq = true →
      let u : State := { s with regions := modAt s.regions r (fun x => { x with parkReq := false, parkAck := false }) }
      exec (.regionUnpark r) s = .next (foldPumpAll (bandsGo r (drainCtl (drainRegion r u)))) ∧
      ((∀ w ∈ s.swaths, w.ph ≠ .bandNext) → (∀ x ∈ s.ctxs, x.fold = none) →
        ∃ t, exec (.regionUnpark r) s = .next t ∧ t = u.withTraffic t)) ∧
    -- what `slotsUnpin` does, wherever nodes let go of slots
    (((∀ x ∈ s.regions, x.parkReq = false) → slotsUnpin s = s) ∧
      ((region s r).parkReq = true → ∃ t, slotsUnpin s = foldPumpAll t ∧ gone t ∧
        t = { s with trk := t.trk, jobs := t.jobs, ctlWait := t.ctlWait } ∧
        (∀ sl ∈ s.trk.slots, (region s (s.build.homeRegion sl.idx)).parkReq = false → sl ∈ t.trk.slots) ∧
        ∀ sl ∈ s.trk.slots, pinned s sl = true → (∀ y ∈ s.trk.slots, y.idx = sl.idx → y = sl) → sl ∈ t.trk.slots))

/-- Tier 2. A core that is lost, and one that software retires, is fenced: its position's epoch advances by one, the position is vacant, and
the core is held in reset. Once no request of it is outstanding its swaths are abandoned, the core is counted off every switch that waits
for it and is retired, and the spare core, where it is free, takes the position. -/
def Obligations.CoreFencing : Prop :=
  ∀ (s : State) (r p : Nat), s.rst = .run → posBuilt s r p = true →
    let x := posOf s r p
    let dead := fun (t : State) (cause : Nat) => posOf t r p = { x with vacant := true, epoch := x.epoch + 1 } ∧
      (∀ q, q ≠ p → posOf t r q = posOf s r q) ∧ (∀ e, e ≠ r → region t e = region s e) ∧ t.health.coreLost = true ∧
      (region t r).fences = (region s r).fences ++ [⟨p, x.phys, x.epoch, cause⟩] ∧
      (∀ y, (region s r).phys[x.phys]? = some y →
        (region t r).phys[x.phys]? = some { y with fenced := true, logged := false, held := false })
    (x.vacant = false → (region s r).ready = true → (region s r).parkAck = false → ∃ t, exec (.coreAliveTimeout r p) s = .next t ∧
      dead t 1 ∧ t = { s with health := { s.health with coreLost := true }, regions := t.regions, ports := t.ports }) ∧
    (∀ data : Word, data.toNat / 2 ^ 31 = 1 → bits data.toNat 8 3 = r → bits data.toNat 0 6 = p → x.vacant = false →
      ∃ t, exec (.hltRetire data) s = .next t ∧ dead t 3 ∧ t = { s with
        outs := s.outs ++ [.cpAck false], health := { s.health with coreLost := true, coreCtrl := data &&& 0x73F }
        regions := t.regions, ports := t.ports }) ∧
    (x.vacant = true ∨ (region s r).ready = false ∨ (region s r).parkAck = true → exec (.coreAliveTimeout r p) s = .next s) ∧
    (∀ data : Word, (data.toNat / 2 ^ 31 = 0 ∨ (bits data.toNat 8 3 = r ∧ bits data.toNat 0 6 = p ∧ x.vacant = true)) → exec (.hltRetire data) s = .next { s with
      outs := s.outs ++ [.cpAck false], health := { s.health with coreCtrl := data &&& 0x73F } }) ∧
    (∀ f, (region s r).fences.find? (fun f => f.pos == p) = some f →
      (fenceOpen s r f = true → exec (.coreFenceSettled r p) s = .next s) ∧
      (fenceOpen s r f = false → ∃ t, exec (.coreFenceSettled r p) s = .next (slotsUnpin t) ∧
        t = { s.withTraffic t with banks := t.banks, ctxs := t.ctxs, swaths := t.swaths, regions := t.regions } ∧
        ((∀ w ∈ s.swaths, w.region = r → w.pos = p → w.epoch = f.epoch → w.phys = f.phys) → s.CountedOff (.core r f.phys) t) ∧
        ((∀ b ∈ s.banks, b.state ≠ .switching) → t.banks = s.banks) ∧
        (∀ w ∈ t.swaths, w ∈ s.swaths ∧ ¬ (w.region = r ∧ w.pos = p ∧ w.epoch = f.epoch)) ∧
        (∀ y, (region s r).phys[f.phys]? = some y → (region t r).phys[f.phys]? = some { y with retired := true }) ∧
        (region t r).fences = (region s r).fences.filter (fun g => g.pos != p) ∧ (region t r).spareFree = false ∧
        posOf t r p = if (region s r).spareFree then { x with vacant := false, phys := 64 } else x))

/-- Tier 2. A request that a fenced core still sends is dropped and counted, and the first one is logged; a toggle of its liveness holds it
in reset. An entry of the fault log kept until now is written once the ring has a size, and its SEQ last. -/
def Obligations.ZombiesAndLog : Prop :=
  ∀ s : State, s.rst = .run →
    (∀ r c p epoch a wr y, posBuilt s r p = true → (region s r).phys[c]? = some y → y.fenced = true → epoch ≠ (posOf s r p).epoch →
      let h := { s.health with fenceDrop := cntSat s.health.fenceDrop 1, fenced := true }
      (y.logged = true → exec (.zombieRequest r c p epoch a wr) s = .next { s with health := h }) ∧
      (y.logged = false → exec (.zombieRequest r c p epoch a wr) s = .next (logEvent 0x0A 1 r c 0xFFFF (p * 2 ^ 16 + epoch.toNat) a
        (modPhys r c (fun y => { y with logged := true }) { s with health := h })))) ∧
    (∀ r c y, (region s r).phys[c]? = some y → (y.fenced = true → exec (.zombieAliveToggle r c) s = .next
        (modPhys r c (fun y => { y with held := true }) s)) ∧
      (y.fenced = false → exec (.zombieAliveToggle r c) s = .next s)) ∧
    (∀ data : Word, let n := bits data.toNat 0 5
      (n < 6 ∨ 20 < n ∨ s.health.queue = [] ∨ s.health.phase ≠ .idle → exec (.hltLogSizeWrite data) s = .next { s with
        outs := s.outs ++ [.cpAck false], health := { s.health with logLog2 := n } }) ∧
      (6 ≤ n → n ≤ 20 → ∀ e es, s.health.queue = e :: es → s.health.phase = .idle →
        dist32 s.health.logWrite s.health.logRelease < 2 ^ n → ∃ t, exec (.hltLogSizeWrite data) s = .next t ∧ t = s.withTraffic t ∧
          t.health = { s.health with logLog2 := n, phase := .body } ∧ ∃ j ∈ t.jobs, j.kind = .log ∧ j.wr = true) ∧
      (6 ≤ n → n ≤ 20 → ∀ e es, s.health.queue = e :: es → s.health.phase = .idle →
        2 ^ n ≤ dist32 s.health.logWrite s.health.logRelease → exec (.hltLogSizeWrite data) s = .next { s with
          outs := s.outs ++ [.cpAck false]
          health := { s.health with logLog2 := n, queue := [], logLost := cntSat s.health.logLost (es.length + 1) } })) ∧
    (s.health.phase = .bodyDone → exec (.recordSeqWrite .log) s = .next (startWrite .logSeq
      (s.health.logBaseHi.toNat * 2 ^ 32 + s.health.logBaseLo.toNat + 32 * (s.health.logWrite.toNat % 2 ^ s.health.ring))
      (leBytes 4 s.health.logWrite.toNat) { s with health := { s.health with phase := .seq } }))

/-! ## DMA -/

/-- Tier 2. The commands of a region's DMA engine by registers: DMA_OWN takes the bits of idle channels only, and sets OWN_DROP where it meets
the bit of another; START of an idle direct channel begins a run with the block in its registers, or ends it REJECTED where that block
breaks a rule; DISABLE of a running one ends it CANCELLED; RESUME ends a stop once every channel is idle; and in a parked region each is
answered with an error. That a channel counts as ENDING from the moment its outcome is decided is notes/assumptions/26.md, and that a core
burst which left its turn to the channel is then presented is notes/assumptions/31.md: what DISABLE presents so is what `drainRegion`
presents; that DISABLE ends the run of a channel CANCELLED also where a burst of it has failed and the engine drains is
notes/assumptions/119.md. -/
def Obligations.DmaCommands : Prop :=
  ∀ (s : State) (r : Nat), s.rst = .run → r < s.regions.length →
    let d := (region s r).dma
    let kept := fun (t : State) => t = { s with outs := s.outs ++ [.cpAck false], regions := t.regions } ∧
      ∀ e, e ≠ r → region t e = region s e
    let erred := fun (t : State) (ch : Nat) => kept t ∧ chan t r ch = { chan s r ch with seqErr := true } ∧
      ∀ e, e ≠ ch → chan t r e = chan s r e
    ((region s r).parkAck = true → ∀ ch data, let no : Answer := .next { s with outs := s.outs ++ [.cpAck true] }
      exec (.dmaOwnWrite r data) s = no ∧ exec (.dmaStart r ch) s = no ∧ exec (.dmaDisable r ch) s = no ∧ exec (.dmaResume r) s = no) ∧
    ((region s r).parkAck = false →
      (∀ data : Word, ∃ t, exec (.dmaOwnWrite r data) s = .next t ∧ kept t ∧
        (∀ ch, ch < 32 → (region t r).dma.own.getLsbD ch =
          if (chan s r ch).state = .idle then data.getLsbD ch else d.own.getLsbD ch) ∧
        ((∃ ch < 32, (chan s r ch).state ≠ .idle) → (region t r).dma.ownDrop = true) ∧
        ((∀ ch < 32, (chan s r ch).state = .idle) → (region t r).dma.ownDrop = d.ownDrop) ∧
        (region t r).dma = { d with own := (region t r).dma.own, ownDrop := (region t r).dma.ownDrop }) ∧
      (d.stopped = true → allIdle d = true → exec (.dmaResume r) s = .next { s with
        outs := s.outs ++ [.cpAck false], regions := modAt s.regions r (fun x => { x with dma := { d with stopped := false } }) }) ∧
      (d.stopped = false ∨ allIdle d = false → exec (.dmaResume r) s = .next { s with
        outs := s.outs ++ [.cpAck false], regions := modAt s.regions r (fun x => { x with dma := { d with seqErr := true } }) }) ∧
      (∀ ch, ch < d.chans.length → let c := chan s r ch
        (d.own.getLsbD ch = true → c.state = .idle → d.stopped = false → d.draining = false → (region s r).parkReq = false →
          ¬ ch ∈ (region s r).badChans → ∃ t, exec (.dmaStart r ch) s = .next t ∧ kept t ∧ (∀ e, e ≠ ch → chan t r e = chan s r e) ∧
            (chan t r ch).run.toNat = (c.run.toNat + 1) % 2 ^ 32 ∧ (chan t r ch).fault = blockFault c.regs true ∧
            (chan t r ch).blockAddr = 0 ∧ (chan t r ch).pos = 0 ∧ (chan t r ch).hops = 0 ∧ (chan t r ch).node = none ∧
            (blockFault c.regs true = 0 → (chan t r ch).state = .active ∧ (chan t r ch).running = true ∧
              (chan t r ch).outcome = none ∧ (chan t r ch).srcIdx = 0 ∧ (chan t r ch).dstIdx = 0) ∧
            (blockFault c.regs true ≠ 0 → (chan t r ch).state = .ending ∧ (chan t r ch).outcome = some (0x16, 0x0D))) ∧
        (d.own.getLsbD ch = false ∨ c.state ≠ .idle ∨ d.stopped = true ∨ d.draining = true ∨ (region s r).parkReq = true ∨
            ch ∈ (region s r).badChans → ∃ t, exec (.dmaStart r ch) s = .next t ∧ erred t ch) ∧
        (d.own.getLsbD ch = true → c.state = .active → ∃ u, exec (.dmaDisable r ch) s = .next (drainRegion r u) ∧ kept u ∧
          (∀ e, e ≠ ch → chan u r e = chan s r e) ∧
          chan u r ch = { c with state := .ending, fetchAt := none, outcome := some (c.outcome.getD (0x11, 0x21)) }) ∧
        (d.own.getLsbD ch = false ∨ c.state ≠ .active → ∃ t, exec (.dmaDisable r ch) s = .next t ∧ erred t ch)))

/-- Tier 2. The engine on its own: a block that is done is followed by the next one of its chain, unless the hops are spent, which ends the
run with cause 0x50; once every burst of a stopping engine has settled it is stopped, its culprits end with their causes, also where another
outcome but that of DISABLE had been decided, other direct runs with 0x48, and runs of nodes are taken back to be run again; a stop ends by
itself where AUTO_RESUME says so. A culprit's run ends with the lowest cause of its failed bursts while ERR_CAUSE and ERR_ADDR hold the
first, and a hop counts as the run asks for its fetch: the model's readings (notes/assumptions/146.md, notes/assumptions/145.md). That a
channel reads ENDING from the moment its outcome is decided, by HOP_LIMIT or by a stop, is the model's reading (notes/assumptions/26.md),
and so are that a node taken back is queued in the engine's own region (notes/assumptions/62.md), and that bursts of a completion record are
not waited for (notes/assumptions/132.md); the context in the log entry of a culprit is its choice (notes/assumptions/131.md). -/
def Obligations.DmaEngine : Prop :=
  ∀ (s : State) (r : Nat), s.rst = .run → r < s.regions.length →
    let d := (region s r).dma
    (∀ ch, ch < d.chans.length → ch < 32 → let c := chan s r ch
      d.stopped = false → d.draining = false → c.state = .active → c.fetchAt = none → blockDone c = true →
      (blockOf c.regs).next ≠ 0 → ((blockOf c.regs).barrier = true → ∀ f ∈ c.flights, f.kind ≠ .write) →
      ∃ t, exec (.dmaHop r ch) s = .next t ∧ t = { s with regions := t.regions } ∧ (∀ e, e ≠ r → region t e = region s e) ∧
        (∀ e, e ≠ ch → chan t r e = chan s r e) ∧
        let hopped := { c with running := false, doneBlocks := c.doneBlocks ++ [(c.block, (blockOf c.regs).size)] }
        (c.hops + 1 ≤ max d.hoplim.toNat 1 → chan t r ch = { hopped with
          hops := c.hops + 1, fetchAt := some (blockOf c.regs).next }) ∧
        (max d.hoplim.toNat 1 < c.hops + 1 → chan t r ch = { hopped with
          state := .ending, outcome := some (c.outcome.getD (0x14, 0x50)) })) ∧
    (d.draining = true → (∀ c ∈ d.chans, c.flights = []) → ∃ t, exec (.dmaEngineStopped r) s = .next t ∧
      t = { s.withTraffic t with regions := t.regions } ∧ (∀ e, e ≠ r → region t e = region s e) ∧
      (region t r).dma.stopped = true ∧ (region t r).dma.draining = false ∧ (region t r).dma.culprits = [] ∧
      (region t r).dma.stops = cntSat d.stops 1 ∧ (region t r).dma.own = d.own ∧
      (∀ x xs, d.culprits = x :: xs →
        (region t r).dma.errCh = x.chan ∧ (region t r).dma.errCause = x.cause ∧ (region t r).dma.errAddr = x.addr) ∧
      ∀ ch, ch < d.chans.length → ch < 32 → let c := chan s r ch
        (∀ x, d.culprits.find? (fun y => y.chan == ch) = some x →
          (c.state = .idle ∨ c.outcome = some (0x11, 0x21) → chan t r ch = c) ∧
          (c.state ≠ .idle → c.outcome ≠ some (0x11, 0x21) → chan t r ch = { c with
            state := .ending, fetchAt := none, outcome := some (0x12, x.low) })) ∧
        (d.culprits.find? (fun y => y.chan == ch) = none →
          (c.state ≠ .active → chan t r ch = c) ∧
          (c.state = .active → c.node = none → chan t r ch = { c with
            state := .ending, fetchAt := none, outcome := some (c.outcome.getD (0x12, 0x48)) }) ∧
          ∀ n, c.state = .active → c.node = some n →
            chan t r ch = { c with state := .idle, running := false, fetchAt := none, node := none } ∧
            n ∈ (region t r).requeued)) ∧
    (d.stopped = true → d.autoResume = true → allIdle d = true → exec (.dmaAutoResume r) s = .next { s with
      regions := modAt s.regions r (fun x => { x with dma := { d with stopped := false } }) })

/-- Tier 2. The arbiter's channel presents one burst on the region's port with the most credits; and a run whose bursts have all settled
ends: the node it runs completes with its status, a direct run that asks for it writes its completion record, SEQ last, and otherwise
the channel is idle at once. That a direct channel reads ENDING while its record is written is the model's reading
(notes/assumptions/26.md), and that a core burst which left its turn to the record is presented with it is notes/assumptions/31.md: what
follows such a record is what `drainRegion` presents. -/
def Obligations.DmaBursts : Prop :=
  ∀ (s : State) (r : Nat), s.rst = .run → r < s.regions.length →
    let d := (region s r).dma
    (∀ ch p sp bytes, d.stopped = false → d.draining = false → arbiter d true = some ch → bestPort s (regionPorts s r) true = some p →
      writeReady (chan s r ch) = some (sp, bytes) → ∃ t, exec (.dmaBurstGrant r true) s = .next t ∧
        t = { s.withTraffic t with regions := t.regions } ∧ (∀ e, e ≠ r → region t e = region s e) ∧
        (∀ e, e ≠ ch → chan t r e = chan s r e) ∧ (chan t r ch).dstIdx = (chan s r ch).dstIdx + sp.units ∧
        (chan t r ch).flights.length = (chan s r ch).flights.length + 1 ∧
        ∃ q ∈ (port t p).out, q.burst = ⟨.dma r ch (chan s r ch).nextFlight, true, sp.addr, bytes.length, 0, 0, bytes⟩) ∧
    (∀ ch p k sp len, d.stopped = false → d.draining = false → arbiter d false = some ch →
      bestPort s (regionPorts s r) false = some p → readReady (chan s r ch) = some (k, sp, len) →
      ∃ t, exec (.dmaBurstGrant r false) s = .next t ∧
        t = { s.withTraffic t with regions := t.regions } ∧ (∀ e, e ≠ r → region t e = region s e) ∧
        (∀ e, e ≠ ch → chan t r e = chan s r e) ∧
        (chan t r ch).srcIdx = (chan s r ch).srcIdx + (if k = .fetch then 0 else sp.units) ∧
        (k = .fetch → (chan t r ch).fetchAt = none) ∧
        ∃ q ∈ (port t p).out, q.burst = ⟨.dma r ch (chan s r ch).nextFlight, false, sp.addr, len, 0, 0, []⟩) ∧
    (∀ ch st ca, ch < d.chans.length → ch < 32 → let c := chan s r ch
      c.state ≠ .idle → c.flights = [] → c.recPh = .none → (∀ x ∈ d.culprits, x.chan ≠ ch) →
      (c.outcome = some (st, ca) ∨ (c.outcome = none ∧ st = 0 ∧ ca = 0 ∧ blockDone c = true ∧ (blockOf c.regs).next = 0 ∧
        d.draining = false ∧ d.stopped = false)) →
      (c.node = none → c.cfg.getLsbD 0 = true → exec (.dmaRunEnd r ch) s = .next (drainRegion r (startWrite (.dmaRec r ch)
        (word64 c.cplLo c.cplHi + 4) ((dmaRecord r ch st ca ((region s r).time % 2 ^ 32) c).drop 4)
        (modChan r ch (fun c => { c with
          state := .ending, status := st, cause := ca, blkf := if st = 0x16 then c.fault else 0, outcome := some (st, ca)
          recPh := .body }) s)))) ∧
      (c.node = none → c.cfg.getLsbD 0 = false → ∃ t, exec (.dmaRunEnd r ch) s = .next t ∧ t = { s with regions := t.regions } ∧
        (chan t r ch).state = .idle ∧ (chan t r ch).status = st ∧ (chan t r ch).cause = ca ∧ (chan t r ch).outcome = none ∧
        (chan t r ch).blkf = (if st = 0x16 then c.fault else 0) ∧
        (region t r).dma.event = if c.cfg.getLsbD 1 then setBit d.event ch else d.event) ∧
      (∀ n m, c.node = some n → nodeOf s n = some m → m.stat ≠ .completed → ∃ t m', exec (.dmaRunEnd r ch) s = .next t ∧
        t = { s with regions := t.regions, ctxs := t.ctxs } ∧ (chan t r ch).state = .idle ∧ nodeOf t n = some m' ∧
        m'.stat = .completed ∧ m'.status = st ∧ m'.cause = ca)) ∧
    (∀ ch, ch < d.chans.length → (chan s r ch).recPh = .bodyDone →
      exec (.recordSeqWrite (.dma r ch)) s = .next (drainRegion r (startWrite (.dmaSeq r ch)
        (word64 (chan s r ch).cplLo (chan s r ch).cplHi) (leBytes 4 (chan s r ch).run.toNat)
        (modChan r ch (fun c => { c with recPh := .seq }) s))))

/-! ## Lift slices -/

/-- Tier 2. Reset, liveness and loss of a lift slice: reset and loss end an open emission, empty its buffers and mark its windows for
reload, and count the slice off every switch that waits for it, the last consumer ending the switch; reset leaves LOST as it is, and
`lift_alive` falls to 0 in it; a release that finds failing rows in a buffer keeps the slice
from ever being ready and logs each of them (that the operand brings those rows is notes/assumptions/6.md); a loss sets LOST and is
logged. That exactly one ended emission is counted, whatever the buffers hold, is the model's reading (notes/assumptions/128.md). -/
def Obligations.LiftReset : Prop :=
  ∀ (s : State) (i : Nat), s.rst = .run → sliceBuilt s i = true →
    let sl := liftSlice s i
    let only := fun (t : State) => ∀ e, e ≠ i → liftSlice t e = liftSlice s e
    let counted := fun (t : State) => s.CountedOff (.slice i) t ∧
      ((∀ b ∈ s.banks, b.state = .switching → .slice i ∉ b.flip) → t.banks = s.banks ∧ t.ctxs = s.ctxs)
    let emptied := fun (t : State) => (liftSlice t i).beats = [] ∧ (liftSlice t i).lines = [] ∧ (liftSlice t i).out = [] ∧
      (liftSlice t i).em = none ∧ (liftSlice t i).part = Partial.empty ∧ (liftSlice t i).cfg = sl.cfg ∧
      (liftSlice t i).poisonCnt = sl.poisonCnt ∧ (liftSlice t i).emitCnt = (if sl.opn then cntMod sl.emitCnt 1 else sl.emitCnt) ∧
      ∀ w ∈ (liftSlice t i).wins, w.loaded = false ∧ w.next = none
    (sl.inReset = false → ∃ t, exec (.liftResetAssert i) s = .next t ∧ counted t ∧ t = { s with
      banks := t.banks, ctxs := t.ctxs, slices := t.slices, outs := s.outs ++ (if sl.alive then [.liftAlive i false] else []) } ∧
      only t ∧ emptied t ∧
      (liftSlice t i).inReset = true ∧ (liftSlice t i).lost = sl.lost ∧ (liftSlice t i).alive = false ∧
      (liftSlice t i).ready = false) ∧
    (sl.inReset = true → ∀ fails : List Nat, exec (.liftResetRelease i fails) s =
      .next (fails.foldl (fun u row => logEvent 0x75 2 0 i 0xFFFF (i * 2 ^ 16 + 3) row u)
        { s with slices := modAt s.slices i (fun x => { x with
          inReset := false, seen := true, failed := x.failed || !fails.isEmpty }) })) ∧
    (sl.inReset = false → exec (.liftAliveToggle i) s = .next { s with
      outs := s.outs ++ [.liftAlive i (!sl.alive)], slices := modAt s.slices i (fun x => { x with alive := !x.alive }) }) ∧
    (sl.inReset = false → sl.lost = false → ∃ t, exec (.liftPartnerLost i) s = .next t ∧ counted t ∧
        t = logEvent 0x28 2 0 i 0xFFFF 0 0 { s with banks := t.banks, ctxs := t.ctxs, slices := t.slices } ∧ only t ∧
        emptied t ∧ (liftSlice t i).lost = true ∧ (liftSlice t i).flags = sl.flags ||| 1 ∧ (liftSlice t i).ready = false) ∧
    (sl.lost = true → exec (.liftPartnerReturn i) s = .next { s with
      slices := modAt s.slices i (fun x => { x with lost := false }) })

/-- Tier 2. LFT_CFG of a slice whose section the loader has released is written only outside an emission and with no bank named twice; a
write that meets both refusals sets WR_DROP alone, which is the model's reading (notes/assumptions/108.md). A window that keeps its bank
keeps its contents, any other is to be loaded. LFT_CLR clears the counters. A window is loaded with the live side of its bank, once that is
valid, and is to be loaded again when a transfer over the lift control link takes too long, which counts the slice off every switch that
waits for it. -/
def Obligations.LiftConfiguration : Prop :=
  ∀ (s : State) (i : Nat), s.rst = .run → sliceBuilt s i = true →
    let sl := liftSlice s i
    let acked := fun (f : Slice → Slice) => (Host.Outcome.next { s with
      outs := s.outs ++ [.cpAck false], slices := modAt s.slices i f } : Answer)
    (∀ v : Word,
      (ldrHolds s 0x30 i = true ∨ sl.opn = true → exec (.liftCfgWrite i v) s = acked (fun x => { x with flags := x.flags ||| 64 })) ∧
      (ldrHolds s 0x30 i = false → sl.opn = false → cfgClash v = true →
        exec (.liftCfgWrite i v) s = acked (fun x => { x with flags := x.flags ||| 128 })) ∧
      (ldrHolds s 0x30 i = false → sl.opn = false → cfgClash v = false → ∃ t, exec (.liftCfgWrite i v) s = .next t ∧
        t = { s with outs := s.outs ++ [.cpAck false], slices := t.slices } ∧ (liftSlice t i).cfg = v &&& 0xFFFF000F ∧
        (∀ w, w < sl.wins.length → (v.getLsbD w = true ∧ sl.enabled w = true ∧ sl.bank w = bits v.toNat (16 + 4 * w) 4 →
            (liftSlice t i).win w = sl.win w) ∧
          (v.getLsbD w = false ∨ sl.enabled w = false ∨ sl.bank w ≠ bits v.toNat (16 + 4 * w) 4 →
            (liftSlice t i).win w = Window.reset)) ∧
        liftSlice t i = { sl with cfg := (liftSlice t i).cfg, wins := (liftSlice t i).wins })) ∧
    exec (.lftClrCounters i) s = acked (fun x => { x with
      poisonCnt := 0, mismatchCnt := 0, dropCnt := 0, emitCnt := 0, lastFidx := 0, lastTags := 0 }) ∧
    (∀ w, w < 4 → sl.inReset = false → sl.lost = false → sl.enabled w = true → (sl.win w).loaded = false →
      (bank s (sl.bank w)).ready = true → (bank s (sl.bank w)).state ≠ .switching →
      exec (.liftWindowLoad i w) s = .next { s with
        outs := s.outs ++ [.lclWindow i w ((bank s (sl.bank w)).liveSide.desc :: (bank s (sl.bank w)).liveSide.tab)]
        slices := modAt s.slices i (fun x => { x with
          wins := modAt x.wins w (fun _ => ⟨true, (bank s (sl.bank w)).live, (bank s (sl.bank w)).liveSide, none⟩) }) }) ∧
    (∃ t, exec (.lclTransferTimeout i) s = .next t ∧ s.CountedOff (.slice i) t ∧
      ((∀ b ∈ s.banks, b.state = .switching → .slice i ∉ b.flip) → t.banks = s.banks ∧ t.ctxs = s.ctxs) ∧ t = { s with
        banks := t.banks, ctxs := t.ctxs
        slices := modAt s.slices i (fun x => { x with wins := x.wins.map (fun w => { w with loaded := false, next := none }) }) })

/-- Tier 2. The beats and lines of a lift slice. A slice takes a code beat or a scale line only while it is ready and has room. Each code
of a beat is lifted by the codebook of its window, with the scale byte of its furrow where the emission has scale lines: an UNSCALED
emission goes on beat by beat; under UE5M3 or E8M0 a furrow waits for its line, and later furrows of that line use its bytes. A beat leaves
three cycles after it came or was resolved, or later. A refused emission gives poison and takes no line; a beat outside an emission, one
that goes back over earlier furrows, and a line that does not fit are mismatches: poison, the counters, the last mismatch, and the first
of an emission in the fault log. An output beat appears once, and a furrow whose line does not come is poisoned and counted. That a line
held as current leaves its room in the buffer, and which tag LINE_TAG shows, are readings of the spec (notes/assumptions/25.md). -/
def Obligations.LiftBeats : Prop :=
  ∀ (s : State) (i : Nat), s.rst = .run → sliceBuilt s i = true →
    let sl := liftSlice s i
    let n := max sl.time (sl.lastBeat + 1)
    let m := max sl.time (sl.lastLine + 1)
    let rested := sl.ready = true ∧ (∀ y ∈ sl.wins, y.next = none)
    let waits := fun (from' : Option Nat) => sl.part = { Partial.empty with waitFrom := from', prev := sl.part.prev }
    let only := fun (t : State) => ∀ e, e ≠ i → liftSlice t e = liftSlice s e
    let fits := fun (fmt : FmtWord) (b : CodeBeat) => b.nfur ≠ 0 ∧ b.nfur ≤ 64 / fmt.furrow ∧ b.ue = false
    let lifted := fun (fmt : FmtWord) (side : Side) (byte : Nat → Nat) (b : CodeBeat) =>
      let l := (List.range b.nfur).flatMap (fun g =>
        (beatCodes side.width fmt.furrow b g).map (liftLane side fmt.mode (byte (b.fidx + g)) false))
      l ++ List.replicate (64 - l.length) 0
    let gives := fun (t : State) (fmt : FmtWord) (b : CodeBeat) (due : Nat) (lanes : List (BitVec 20)) => ∃ o,
      (liftSlice t i).out = sl.out ++ [o] ∧ o.first = b.opn ∧ o.last = b.last ∧ o.groups = groupBits fmt.furrow b.nfur ∧
      o.due = max (due + 3) (sl.lastOut + 1) ∧ o.lanes = lanes
    let goesOn := fun (t : State) (b : CodeBeat) (e : Emission) =>
      (liftSlice t i).em = (if b.last then none else some { e with endF := b.fidx + b.nfur }) ∧ (liftSlice t i).beats = [] ∧
      (liftSlice t i).emitCnt = (if b.last then cntMod sl.emitCnt 1 else sl.emitCnt)
    let missed := fun (t : State) (f k lineTag : Nat) (em : Option Emission) (logged : Bool) =>
      let tags := (em.map (·.tag)).getD 0 * 2 ^ 16 + lineTag
      only t ∧ (liftSlice t i).mismatchCnt = cntSat sl.mismatchCnt k ∧ (liftSlice t i).poisonCnt = cntSat sl.poisonCnt k ∧
      (liftSlice t i).flags = sl.flags ||| 2 ∧ (liftSlice t i).lastFidx = BitVec.ofNat 32 f ∧
      (liftSlice t i).lastTags = BitVec.ofNat 32 tags ∧
      t = if logged then { s with slices := t.slices } else logEvent 0x29 2 0 i 0xFFFF (f + 1 - k) tags { s with slices := t.slices }
    (sl.ready = false → ∀ b l f u, exec (.liftCodeBeat i b) s = .next s ∧ exec (.liftScaleLine i l f u) s = .next s) ∧
    (4 ≤ sl.beats.length → ∀ b, exec (.liftCodeBeat i b) s = .next s) ∧
    (2 ≤ sl.lines.length → ∀ l f u, exec (.liftScaleLine i l f u) s = .next s) ∧
    (∀ b : CodeBeat, rested → sl.beats = [] → waits none →
      (sl.em = none → b.opn = true → fits b.fmt b →
        let e : Emission := ⟨b.fmt, b.tag, false, false, 0, false, none⟩
        (∀ w, sl.winOf b.fmt.bank = some w → (sl.win w).loaded = true → badFormat b.fmt = false →
          (b.fmt.mode = .unscaled → ∃ t, exec (.liftCodeBeat i b) s = .next t ∧ t = { s with slices := t.slices } ∧ only t ∧
            goesOn t b e ∧ (liftSlice t i).lines = sl.lines ∧ (liftSlice t i).mismatchCnt = sl.mismatchCnt ∧
            gives t b.fmt b n (lifted b.fmt (sl.win w).side (fun _ => 0) b)) ∧
          (b.fmt.mode ≠ .unscaled → sl.lines = [] → ∃ t, exec (.liftCodeBeat i b) s = .next t ∧ t = { s with slices := t.slices } ∧
            only t ∧ (liftSlice t i).em = some e ∧ (liftSlice t i).beats = [⟨b, n⟩] ∧ (liftSlice t i).out = sl.out ∧
            (liftSlice t i).part = { Partial.empty with waitFrom := some (max n sl.part.prev), prev := sl.part.prev })) ∧
        (badFormat b.fmt = true ∨ sl.winOf b.fmt.bank = none → ∃ t, exec (.liftCodeBeat i b) s = .next t ∧
          t = { s with slices := t.slices } ∧ only t ∧ goesOn t b { e with refused := true } ∧ (liftSlice t i).lines = sl.lines ∧
          (liftSlice t i).mismatchCnt = sl.mismatchCnt ∧ (liftSlice t i).poisonCnt = cntSat sl.poisonCnt b.nfur ∧
          (liftSlice t i).flags = (sl.flags ||| (if badFormat b.fmt then 16 else 0)) |||
            (if sl.winOf b.fmt.bank = none then 8 else 0) ∧
          gives t b.fmt b n (poisonLanes b.fmt.furrow b.nfur))) ∧
      (sl.em = none → b.opn = false → ∃ t, exec (.liftCodeBeat i b) s = .next t ∧ missed t b.fidx 1 (headTag sl) none sl.strayLogged ∧
        (liftSlice t i).beats = [] ∧ ∃ o, (liftSlice t i).out = sl.out ++ [o] ∧ o.lanes = List.replicate 64 l20Poison ∧ o.groups = 15 ∧
          o.first = false ∧ o.last = false) ∧
      (∀ em, sl.em = some em → b.opn = false → em.refused = false → fits em.fmt b →
        (∀ (side : Side) (byte : Nat → Nat), em.endF ≤ b.fidx →
          ((em.fmt.mode = .unscaled ∧ ∃ w, sl.winOf em.fmt.bank = some w ∧ side = (sl.win w).side) ∨
            (em.fmt.mode ≠ .unscaled ∧ ∃ cl, em.cur = some cl ∧ cl.bad = false ∧ side = cl.side ∧
              ∀ g, g < b.nfur → cl.first = 56 * ((b.fidx + g) / 56) ∧
                byte (b.fidx + g) = cl.bytes.getD (b.fidx + g - cl.first) 0)) →
          ∃ t, exec (.liftCodeBeat i b) s = .next t ∧ t = { s with slices := t.slices } ∧ only t ∧ goesOn t b em ∧
            (liftSlice t i).lines = sl.lines ∧ (liftSlice t i).mismatchCnt = sl.mismatchCnt ∧
            gives t em.fmt b n (lifted em.fmt side byte b)) ∧
        (b.fidx < em.endF → ∃ t, exec (.liftCodeBeat i b) s = .next t ∧
          missed t (b.fidx + b.nfur - 1) b.nfur (headTag sl) (some em) em.logged ∧ (liftSlice t i).beats = [] ∧
          gives t em.fmt b n (poisonLanes em.fmt.furrow b.nfur)))) ∧
    (∀ (l : List Byte) (f u : Bool), sl.ready = true → sl.lines.length < 2 → sl.beats = [] →
      exec (.liftScaleLine i l f u) s = .next { s with
        slices := modAt s.slices i (fun x => { x with
          lines := x.lines ++ [⟨l.take 64 ++ zeros (64 - l.length), f, u, m⟩], time := m, lastLine := m }) }) ∧
    (∀ (l : List Byte) (b : CodeBeat) (at' since w : Nat) (em : Emission), rested → l.length = 64 → sl.lines = [] →
      sl.beats = [⟨b, at'⟩] → waits (some since) → sl.em = some em → em.refused = false → em.fmt.mode ≠ .unscaled →
      em.endF ≤ b.fidx → fits em.fmt b → sl.winOf em.fmt.bank = some w →
      (∀ cl, em.cur = some cl → cl.first ≠ 56 * (b.fidx / 56)) →
      let L : LiftLine := ⟨l, !em.tookFirst, false, m⟩
      let good : Bool := decide (L.tag = em.tag ∧ L.furrow % 56 = 0 ∧
        lineCheck l em.fmt.bank (b2n (sl.win w).sideNo) = fld l 6 2)
      let held : Emission := { em with tookFirst := true, cur := some ⟨56 * (b.fidx / 56), L.scales, !good, L.tag, (sl.win w).side⟩ }
      (good = true → L.furrow = 56 * (b.fidx / 56) → b.fidx % 56 + b.nfur ≤ 56 →
        ∃ t, exec (.liftScaleLine i l (!em.tookFirst) false) s = .next t ∧ t = { s with slices := t.slices } ∧ only t ∧
          goesOn t b held ∧ (liftSlice t i).lines = [] ∧ (liftSlice t i).mismatchCnt = sl.mismatchCnt ∧
          gives t em.fmt b (max at' (m + 1))
            (lifted em.fmt (sl.win w).side (fun f => L.scales.getD (f - 56 * (b.fidx / 56)) 0) b)) ∧
      (good = false → b.nfur = 1 → ∃ t, exec (.liftScaleLine i l (!em.tookFirst) false) s = .next t ∧
        missed t b.fidx 1 L.tag (some em) em.logged ∧ goesOn t b { held with logged := true } ∧ (liftSlice t i).lines = [] ∧
        gives t em.fmt b (max at' (m + 1)) (poisonLanes em.fmt.furrow 1)) ∧
      (good = true → L.furrow < 56 * (b.fidx / 56) → ∃ t, exec (.liftScaleLine i l (!em.tookFirst) false) s = .next t ∧
        t = { s with slices := t.slices } ∧ only t ∧ (liftSlice t i).lines = [] ∧ (liftSlice t i).dropCnt = cntSat sl.dropCnt 1 ∧
        (liftSlice t i).flags = sl.flags ||| 4 ∧ (liftSlice t i).out = sl.out ∧ (liftSlice t i).beats = sl.beats)) ∧
    (∀ o os, sl.out = o :: os → exec (.liftOutputBeat i) s = .next { s with
      outs := s.outs ++ [.liftBeat i o.lanes o.groups o.poison o.first o.last]
      slices := modAt s.slices i (fun x => { x with out := os, time := max sl.time o.due }) }) ∧
    (∀ w em, sl.part.waitFrom = some w → sl.em = some em → sl.lost = false → sl.inReset = false → sl.lines = [] →
      exec (.liftLineTimeout i) s = .next (liftRun i { s with slices := modAt s.slices i (fun _ => { sl with
        poisonCnt := cntSat sl.poisonCnt 1, flags := sl.flags ||| 32, time := max sl.time (w + lineWait s)
        part := { sl.part with
          lanes := sl.part.lanes ++ List.replicate em.fmt.furrow l20Poison
          done := sl.part.done + 1, k := max sl.time (w + lineWait s) + 1, waitFrom := none } }) }))

/-! ## Link ports -/

/-- Tier 2. A session is armed with a snapshot of its codebook, its counters at zero and its tile counter kept; a configuration that may not
be armed is refused with the first reason, MODE 3 and a reserved bit of LNK_S_CFG or LNK_S_FMT (as last written: notes/assumptions/111.md)
before any other; DISARM ends an open tile; and the session is idle once nothing of it is left. An ARM or a
DISARM in the wrong state sets SEQ_ERR. -/
def Obligations.LinkSessions : Prop :=
  ∀ (s : State) (p i : Nat), s.rst = .run → sessBuilt s p i = true → i < (linkPort s p).sessions.length →
    let x := session s p i
    let acked := fun (t : State) (y : Session) => t = { s with outs := s.outs ++ [.cpAck false], lnk := t.lnk } ∧ session t p i = y ∧
      (∀ j, j ≠ i → session t p j = session s p j) ∧ ∀ q, q ≠ p → linkPort t q = linkPort s q
    (x.state = .idle → armError s p i = 0 → ∃ t y, exec (.lnkArm p i) s = .next t ∧ acked t y ∧ y.state = .armed ∧ y.armErr = 0 ∧
      y.cfg = x.cfg ∧ y.fmt = x.fmt ∧ y.tile = x.tile ∧ y.rxTile = x.tile ∧ y.seq = 0 ∧ y.lostfur = 0 ∧ y.satcnt = 0 ∧
      y.poisfur = 0 ∧ y.tiles = 0 ∧ y.dq = [] ∧ y.dqPos = 0 ∧
      (x.wide = false → y.snap = (bank s x.fmtw.bank).liveSide ∧
        y.cbsum = BitVec.ofNat 32 (crc32c (snapBytes (bank s x.fmtw.bank).liveSide))) ∧
      (x.wide = true → y.cbsum = 0)) ∧
    (x.mode = 3 ∨ x.cfg &&& 0x7E0FCFC ≠ 0 ∨ x.fmt &&& 0xF0000000 ≠ 0 → armError s p i = 1) ∧
    (x.state = .idle → armError s p i ≠ 0 → ∃ t, exec (.lnkArm p i) s = .next t ∧ acked t { x with armErr := armError s p i }) ∧
    (x.state ≠ .idle → ∃ t, exec (.lnkArm p i) s = .next t ∧ acked t { x with seqErr := true }) ∧
    (x.state = .idle → ∃ t, exec (.lnkDisarm p i) s = .next t ∧ acked t { x with seqErr := true }) ∧
    (x.state = .armed → x.mode = 0 → ∃ t, exec (.lnkDisarm p i) s = .next t ∧ acked t { x with
      state := .ending, loc := [], locLost := [], enc := [], loss := x.loss || !x.loc.isEmpty || !x.enc.isEmpty || decide (0 < x.doneF) }) ∧
    (x.state = .armed → x.mode ≠ 0 → x.rxNext = 0 → x.loc = [] → x.rxq = [] → ∃ t, exec (.lnkDisarm p i) s = .next t ∧
      acked t { x with state := .ending, locLost := [], enc := [] }) ∧
    (x.state = .ending → exec (.lnkDisarm p i) s = .next { s with outs := s.outs ++ [.cpAck false] }) ∧
    (x.state = .ending → x.dq = [] → (∀ l ∈ s.lnk, ∀ f ∈ l.txq, ¬ (f.port = p ∧ f.session = i)) →
      exec (.lnkSessionIdle p i) s = .next (modSess p i (fun y => { y with state := .idle }) s)) ∧
    (x.state ≠ .ending ∨ x.dq ≠ [] → exec (.lnkSessionIdle p i) s = .next s)

/-- Tier 2. Frames and elements of a link port. Local elements go to their armed session, or are discarded with NOSESS (those of a RELAY
session too: notes/assumptions/97.md); the frame whose turn it is, in the rotation of notes/assumptions/27.md, leaves with its SEQ and its
CRC, that of the exchange with the exchange's entries. An arriving frame that fails a check of its form, its length or its CRC is discarded
and counted, as is one whose tag no session has, one that does not fit its session, and one whose furrows have all been passed. A DATA
frame that passes its checks moves a REDUCE session to the furrow after its last: the furrows between the next expected one and its first
are lost, those it repeats are left out, and the others wait for their local elements, or are added to them, rounded, and delivered; a RELAY
session sends the frame on, bytes kept, with one hop more. An AMAX frame's entry is dropped where no level, domain or key takes it; else it
waits in the agreement buffer for the local value, or is folded into it and sent on, or carries the agreed value, which is sent on and
handed to the tracker, also where its key is not open here; that its own LEVEL says which level takes it is the model's reading
(notes/assumptions/104.md), and so is that HOPS of what a session sends on is that of the furrow used last (notes/assumptions/110.md). A
second collect entry for a key is dropped, also after the key has closed; for how long the first is remembered is the model's reading
(notes/assumptions/133.md). A REDUCE tile whose next frame does not come loses the rest of its furrows. -/
def Obligations.LinkFrames : Prop :=
  ∀ (s : State) (p : Nat), s.rst = .run → lnkBuilt s p = true →
    let l := linkPort s p
    let only := fun (t : State) => ∀ q, q ≠ p → linkPort t q = linkPort s q
    (∀ c rest, l.tileIn = c :: rest →
      let x := session s p c.session
      (x.state ≠ .armed ∨ x.mode = 2 → exec (.lnkLocalElements p) s = .next { s with
        lnk := modAt s.lnk p (fun y => { y with tileIn := rest, noSess := true }) }) ∧
      (x.state = .armed → x.mode = 0 → x.loc.length + (chunkVals x c.bytes).length < x.furElems x.doneF →
        ∃ t, exec (.lnkLocalElements p) s = .next t ∧ t = { s with lnk := t.lnk } ∧ only t ∧ (linkPort t p).tileIn = rest ∧
          session t p c.session = { x with loc := x.loc ++ chunkVals x c.bytes })) ∧
    (l.tileIn = [] → exec (.lnkLocalElements p) s = .next s) ∧
    (l.inReset = true ∨ l.lost = true ∨ nextPlace l.lastServed (txPlaces s p) = none → exec (.lnkFrameTransmit p) s = .next s) ∧
    (∀ pl f, l.inReset = false → l.lost = false → nextPlace l.lastServed (txPlaces s p) = some pl → pl < 512 →
      l.txq.find? (fun f => txPlace f == pl) = some f → ∃ t, exec (.lnkFrameTransmit p) s = .next t ∧
        t = { s with outs := s.outs ++ [.lnkFrame p (frameBytes f (session s f.port f.session).seq)], lnk := t.lnk } ∧
        (linkPort t p).txq = l.txq.erase f ∧ (linkPort t p).lastServed = pl ∧ (linkPort t p).txFrames = cntMod l.txFrames 1 ∧
        (f.port < s.lnk.length → f.session < (linkPort s f.port).sessions.length →
          (session t f.port f.session).seq = cntMod (session s f.port f.session).seq 1)) ∧
    (∀ pl, l.inReset = false → l.lost = false → nextPlace l.lastServed (txPlaces s p) = some pl → 512 ≤ pl →
      let of' := s.exch.tx.filter (fun e => e.key.level == pl - 512)
      let es := of'.take 512
      exec (.lnkFrameTransmit p) s = .next { s with
        lnk := modAt s.lnk p (fun y => { y with lastServed := pl, txFrames := cntMod y.txFrames 1 })
        outs := s.outs ++ [.lnkFrame p (frameBytes ⟨p, 0, 1, (level s (pl - 512)).tag, 0, 0, es.length, 0, false, false, 0, 0,
          es.flatMap agrBytes⟩ s.exch.seq)]
        exch := { s.exch with
          tx := s.exch.tx.filter (fun e => e.key.level != pl - 512) ++ of'.drop 512
          sentCount := cntMod s.exch.sentCount es.length, seq := cntMod s.exch.seq 1 } }) ∧
    (∀ b err, l.inReset = false →
      (rxHeld s p = true → l.lost = false → exec (.lnkFrameReceive p b err none) s = .next s) ∧
      (l.lost = true → exec (.lnkFrameReceive p b err none) s = .next { s with
        lnk := modAt s.lnk p (fun y => { y with rxFrames := cntMod y.rxFrames 1 }) }) ∧
      (rxHeld s p = false → l.lost = false →
        (err = true ∨ b.length < 32 ∨ byteAt b 0 ≠ 5 ∨ 1 < byteAt b 1 ∨ 3 < byteAt b 19 ∨ fld b 28 4 ≠ crc32c (b.take 28 ++ b.drop 32)) →
        exec (.lnkFrameReceive p b err none) s = .next { s with
          lnk := modAt s.lnk p (fun y => { y with rxFrames := cntMod y.rxFrames 1, badFrame := true, bad := cntSat y.bad 1 }) }) ∧
      (rxHeld s p = false → l.lost = false → err = false → 32 ≤ b.length → byteAt b 0 = 5 → byteAt b 1 = 0 → byteAt b 19 ≤ 3 →
        fld b 28 4 = crc32c (b.take 28 ++ b.drop 32) → sessOf l (fld b 2 2) = none →
        exec (.lnkFrameReceive p b err none) s = .next { s with
          lnk := modAt s.lnk p (fun y => { y with rxFrames := cntMod y.rxFrames 1, badFrame := true, unk := cntSat y.unk 1 }) })) ∧
    (∀ b, l.inReset = false → l.lost = false → rxHeld s p = false → 32 ≤ b.length → byteAt b 0 = 5 → byteAt b 19 ≤ 3 →
      fld b 28 4 = crc32c (b.take 28 ++ b.drop 32) →
      let f := parseFrame b
      let recv := exec (.lnkFrameReceive p b false none) s
      let counted := fun (g : LinkPort → LinkPort) =>
        ({ s with lnk := modAt s.lnk p (fun y => g { y with rxFrames := cntMod y.rxFrames 1 }) } : State)
      (byteAt b 1 = 0 → ∀ i, sessOf l f.tag = some i →
        let x := session s p i
        let tf := x.tileFurrows
        let stale := f.tile.toNat < x.rxTile.toNat ∨ (f.tile = x.rxTile ∧ f.first + f.nfur ≤ x.rxNext)
        let skip := if f.tile = x.rxTile then f.first - x.rxNext
          else (tf - x.rxNext) + tf * (f.tile.toNat - x.rxTile.toNat - 1) + f.first
        let a := if f.tile = x.rxTile then x.rxNext - f.first else 0
        let furs := ((List.range f.nfur).drop a).map (fun k => frameFurrow x f k (x.furElems (f.first + k)))
        let moved : Session := { x with
          loss := x.loss || decide (0 < skip), lostfur := cntSat x.lostfur skip, cbsumBad := x.cbsumBad || f.cbsum != x.cbsum
          poisfur := cntSat (cntSat x.poisfur skip) (furs.filter (·.2)).length
          rxTile := cntMod f.tile ((f.first + f.nfur) / tf), rxNext := (f.first + f.nfur) % tf }
        let only' := fun (t : State) => recv = .next t ∧ t = { s with lnk := t.lnk } ∧
          (linkPort t p).rxFrames = cntMod l.rxFrames 1 ∧ ∀ j, j ≠ i → session t p j = session s p j
        (b.length ≠ 32 + payloadLen f.wide x.fl x.snap.width f.nfur ∨ f.wide ≠ x.wide ∨ tf < f.first + f.nfur →
          recv = .next (counted (fun y => { y with badFrame := true, bad := cntSat y.bad 1 }))) ∧
        (b.length = 32 + payloadLen f.wide x.fl x.snap.width f.nfur → f.wide = x.wide → f.first + f.nfur ≤ tf →
          (stale → recv = .next (counted (fun y => { y with stale := cntSat y.stale 1 }))) ∧
          (¬ stale → 0 < f.nfur → x.rxNext < tf →
            (x.mode = 1 → x.loc = [] → 0 < x.furElems x.doneF → (∀ y ∈ x.rxq, y ≠ .lost 0) → ∃ t, only' t ∧ only t ∧
              session t p i = { moved with
                rxq := x.rxq ++ (if skip = 0 then [] else [.lost skip]) ++ furs.map (fun v => .fur v.1 v.2 f.hops) }) ∧
            (x.mode = 1 → x.fwd = false → x.deliv = true → x.rxq = [] → skip = 0 → a = 0 → f.nfur = 1 →
              0 < x.furElems x.doneF → x.loc.length = x.furElems x.doneF → 0 ∉ x.locLost → ∃ t, only' t ∧ only t ∧
                (session t p i).rxq = [] ∧ (session t p i).loc = [] ∧ (session t p i).rxNext = moved.rxNext ∧
                (session t p i).encHops = f.hops ∧
                (session t p i).doneF = (if tf ≤ x.doneF + 1 then 0 else x.doneF + 1) ∧
                (session t p i).dq = x.dq ++ (List.zipWith (fun v l => match v, Val.q l with
                  | some v, some l => fp32P (v.add l)
                  | _, _ => poison) (frameFurrow x f 0 (x.furElems f.first)).1 x.loc).map (fun v => match Val.q v with
                    | none => poison
                    | some q => (roundVal x.delivType q).1)) ∧
            (x.mode = 2 → x.fwd = true → x.deliv = false → skip = 0 → a = 0 → (linkPort s x.fwdPort).inReset = false →
              (linkPort s x.fwdPort).lost = false → ∃ t, only' t ∧ (∀ q, q ≠ p → q ≠ x.fwdPort → linkPort t q = linkPort s q) ∧
                (session t p i).rxTile = moved.rxTile ∧ (session t p i).rxNext = moved.rxNext ∧
                (session t p i).poisfur = moved.poisfur ∧ (session t p i).cbsumBad = moved.cbsumBad ∧
                (linkPort t x.fwdPort).txq = (linkPort s x.fwdPort).txq ++ [⟨p, i, 0, x.txTag, f.first, f.tile.toNat, f.nfur,
                  min (f.hops + 1) 255, f.wide, f.last, f.t, f.cbsum, f.payload⟩])))) ∧
      (byteAt b 1 = 1 → b.length = 32 + 16 * f.nfur →
        let taken := ∃ v < 2, (level s v).en = true ∧ (level s v).recvPort = p ∧ (level s v).tag = f.tag
        (¬ taken → recv = .next (counted (fun y => { y with badFrame := true, unk := cntSat y.unk 1 }))) ∧
        (taken → f.nfur = 1 → s.exch.rest = [] →
          let e := agrParse f.payload
          let k := e.key
          let lv := level s k.level
          let becomes := fun (x : Exchange) => recv = .next { counted id with exch := x }
          let x := s.exch
          let closed := x.opn.filter (fun o => o.key != k)
          let took := x.collected ++ [k]
          let bad := 1 < e.phase ∨ 1 < k.level ∨ lv.en = false ∨ domainCtx s k.domain = none
          (bad → becomes { x with drop := true }) ∧
          (¬ bad → e.phase = 0 → agrOpenOf s k = none →
            (lv.pos = 0 ∨ k ∈ x.collected → becomes { x with drop := true }) ∧
            (lv.pos ≠ 0 → k ∉ x.collected → becomes { x with buf := x.buf ++ [e], collected := took })) ∧
          (¬ bad → e.phase = 0 → ∀ o, agrOpenOf s k = some o →
            (o.sent = true → becomes { x with drop := true }) ∧
            (o.sent = false → lv.pos + 1 ≠ lv.size → becomes { x with
              opn := x.opn.map (fun z => if z.key = k then ⟨k, max o.x e.value, true⟩ else z), collected := took
              tx := x.tx ++ [⟨k, max o.x e.value, 0⟩] }) ∧
            (o.sent = false → lv.pos + 1 = lv.size → k.level = 0 → (level s 1).en = false → ∀ c, domainCtx s k.domain = some c →
              becomes { x with
                opn := closed, arrivals := x.arrivals ++ [⟨c, k.stream, k.step, max o.x e.value⟩], collected := took
                doneCount := cntMod x.doneCount 1
                tx := x.tx ++ (if lv.size = 1 then [] else [⟨k, max o.x e.value, 1⟩]) })) ∧
          (¬ bad → e.phase = 1 →
            (lv.pos + 1 = lv.size → becomes { x with drop := true }) ∧
            (lv.pos + 1 ≠ lv.size → ∀ c, domainCtx s k.domain = some c →
              let k0 : AgrKey := { k with level := 0 }
              becomes { x with
                opn := closed.filter (fun o => o.key != k0), arrivals := x.arrivals ++ [⟨c, k.stream, k.step, e.value⟩]
                doneCount := cntMod x.doneCount 1
                tx := x.tx ++ (if lv.pos + 2 = lv.size then [] else [⟨k, e.value, 1⟩]) ++
                  (if k.level = 0 ∨ (level s 0).size = 1 then [] else [⟨k0, e.value, 1⟩]) }))))) ∧
    (∀ i, i < 16 → i < l.sessions.length → let x := session s p i
      (x.receives = false ∨ tileOpen x = false → exec (.lnkFrameTimeout p i) s = .next s) ∧
      (x.receives = true → x.mode = 1 → x.loc = [] → x.rxq = [] → 0 < x.rxNext → x.rxNext < x.tileFurrows →
        0 < x.furElems x.doneF → ∃ t, exec (.lnkFrameTimeout p i) s = .next t ∧ t = { s with lnk := t.lnk } ∧ only t ∧
          session t p i = { x with
            loss := true, lostfur := cntSat x.lostfur (x.tileFurrows - x.rxNext)
            poisfur := cntSat x.poisfur (x.tileFurrows - x.rxNext), rxTile := cntMod x.rxTile 1, rxNext := 0
            rxq := [.lost (x.tileFurrows - x.rxNext)] }))

/-- Tier 2. Liveness, loss, reset and counters of a link port, and the exchange's configuration registers, which are written only while no
entry waits. Reset leaves LOST as it is; a release that finds failing rows logs each of them (that the operand brings those rows is
notes/assumptions/6.md). The entry of a refused level has KIND, REGION and UNIT 0 (R28). -/
def Obligations.LinkPorts : Prop :=
  (∀ (s : State) (p : Nat), s.rst = .run → lnkBuilt s p = true →
    let l := linkPort s p
    let mod := fun (f : LinkPort → LinkPort) => ({ s with lnk := modAt s.lnk p f } : State)
    (l.inReset = false → exec (.lnkAliveToggle p) s = .next { mod (fun y => { y with alive := !y.alive }) with
      outs := s.outs ++ [.lnkAlive p (!l.alive)] }) ∧
    (l.inReset = false → l.lost = false → (∀ x ∈ l.sessions, x.rxq = [] ∧ x.loc = [] ∧ x.rxNext = 0) →
      exec (.lnkPartnerLost p) s = .next (logEvent 0x30 3 0 p 0xFFFF 0 0 (mod (fun y => { y with
        lost := true, lostSeen := true, txq := [], txDrop := cntSat y.txDrop y.txq.length })))) ∧
    (l.inReset = true ∨ l.lost = true → exec (.lnkPartnerLost p) s = .next s) ∧
    exec (.lnkPartnerReturn p) s = .next (mod (fun y => { y with lost := false })) ∧
    (l.inReset = false → (∀ x ∈ l.sessions, x.state = .idle) → exec (.lnkPortResetAssert p) s = .next { s with
      lnk := modAt s.lnk p (fun y => { y with inReset := true, txq := [], alive := false })
      outs := s.outs ++ (if l.alive then [.lnkAlive p false] else []) }) ∧
    (l.inReset = false → ∀ i x, l.sessions[i]? = some x → i < 16 → x.state = .armed → x.mode = 0 → ∃ t y,
      exec (.lnkPortResetAssert p) s = .next t ∧ (linkPort t p).sessions[i]? = some y ∧ y.state = .ending ∧ y.loss = true ∧
      (linkPort t p).inReset = true ∧ (linkPort t p).lost = l.lost) ∧
    (l.inReset = true → ∀ fails : List Nat, exec (.lnkPortResetRelease p fails) s =
      .next (fails.foldl (fun u row => logEvent 0x75 3 0 p 0xFFFF (p * 2 ^ 16 + 3) row u)
        (mod (fun y => { y with inReset := false, failed := y.failed || !fails.isEmpty })))) ∧
    exec (.lnkPClrCounters p) s = .next { mod (fun y => { y with
      txFrames := 0, rxFrames := 0, bad := 0, unk := 0, stale := 0, txDrop := 0 }) with outs := s.outs ++ [.cpAck false] }) ∧
  (∀ (s : State) (off : BitVec 12) (v : Word), s.rst = .run →
    let acked := fun (f : Exchange → Exchange) => (Host.Outcome.next { s with outs := s.outs ++ [.cpAck false], exch := f s.exch } : Answer)
    (off.toNat % 4 ≠ 0 → exec (.lnkAgrCfgWrite off v) s = .next { s with outs := s.outs ++ [.cpAck true] }) ∧
    ((off = 0x100 ∨ off = 0x104 ∨ off = 0x108 ∨ off = 0x10C) → s.exch.buf ≠ [] →
      exec (.lnkAgrCfgWrite off v) s = acked (fun e => { e with drop := true })) ∧
    (s.exch.buf = [] →
      (v.getLsbD 31 = false ∨ s.dieIndex.toNat ≤ s.dieCountM1.toNat ∨ s.exch.refLogged = true →
        exec (.lnkAgrCfgWrite 0x100 v) s = acked (fun e => { e with cfg0 := v &&& 0x80001F1F })) ∧
      (v.getLsbD 31 = true → s.dieCountM1.toNat < s.dieIndex.toNat → s.exch.refLogged = false →
        exec (.lnkAgrCfgWrite 0x100 v) s = .next (logEvent 0x31 0 0 0 0xFFFF (s.dieIndex.toNat * 16 + s.dieCountM1.toNat) 0 { s with
          outs := s.outs ++ [.cpAck false], exch := { s.exch with cfg0 := v &&& 0x80001F1F, refLogged := true } })) ∧
      exec (.lnkAgrCfgWrite 0x104 v) s = acked (fun e => { e with cfg1 := v &&& 0x8FFF1F1F }) ∧
      exec (.lnkAgrCfgWrite 0x108 v) s = acked (fun e => { e with pos1 := v &&& 0xFFF }) ∧
      exec (.lnkAgrCfgWrite 0x10C v) s = acked (fun e => { e with tag := v })))

/-! ## Registers -/

/-- Tier 2. Writes through the control port. A misaligned one, and one to the block of a parked region, is answered with cp_err 1 and
ignored; one to a reserved address is answered and ignored. The registers named, of the scheduler, the contexts and their rings, the
tracker, the recipes, the random-bit generator, the DMA engines and channels, the link ports and their sessions, health, lift and the
loader, show that a field written only in DISABLED, or while its channel or session is idle, keeps its value otherwise, in a channel, a
session or the test registers with WR_DROP set, that a W1C field loses the bits written as 1, that reserved bits stay 0, and that nothing
but the register written changes; the event masks of contexts that are not built are such reserved bits. The reserved bits of LNK_S_CFG and
LNK_S_FMT are kept for ARM to judge, which is the model's reading (notes/assumptions/111.md). -/
def Obligations.RegisterWrites : Prop :=
  ∀ (s : State) (a : BitVec 22) (v : Word), s.rst = .run →
    let acked : State := { s with outs := s.outs ++ [.cpAck false] }
    let gives := fun (t : State) => exec (.registerWrite a v) s = .next t
    let bit' := fun (old : Bool) (i : Nat) => old && !v.getLsbD i
    (a.toNat % 4 ≠ 0 → gives { s with outs := s.outs ++ [.cpAck true] }) ∧
    (∀ r, r < s.regions.length → (region s r).parkAck = true → 0x100000 + 0x40000 * r ≤ a.toNat →
      a.toNat < 0x100000 + 0x40000 * (r + 1) → a.toNat < 0x300000 → gives { s with outs := s.outs ++ [.cpAck true] }) ∧
    (a.toNat % 4 = 0 → a.toNat < 0x100000 ∨ 0x300000 ≤ a.toNat → regAt s a.toNat = .reserved → gives acked) ∧
    exec (.registerWrite 0x010004 v) s = .next { acked with sched := { s.sched with stallTmo := v } } ∧
    exec (.registerWrite 0x010010 v) s = .next { acked with sched := { s.sched with event0 := s.sched.event0 &&& ~~~ v } } ∧
    exec (.registerWrite 0x010018 v) s = .next { acked with sched := { s.sched with
      evmask0 := v &&& BitVec.ofNat 32 (2 ^ min 32 s.ctxs.length - 1) } } ∧
    exec (.registerWrite 0x030000 v) s = .next { acked with trk := { s.trk with
      agreeLow := bit' s.trk.agreeLow 13, agreeDrop := bit' s.trk.agreeDrop 12 } } ∧
    exec (.registerWrite 0x030004 v) s = .next { acked with trk := { s.trk with agreeTmo := v } } ∧
    exec (.registerWrite 0x030010 v) s = .next { acked with trk := { s.trk with sel := v &&& 0x3FFFFF } } ∧
    exec (.registerWrite 0x030024 v) s = .next { acked with trk := { s.trk with agreeAmax := v } } ∧
    exec (.registerWrite 0x030028 v) s = .next { acked with trk := { s.trk with agreeStep := v } } ∧
    exec (.registerWrite 0x030034 v) s = .next { acked with trk := { s.trk with reqDrop := bit' s.trk.reqDrop 5 } } ∧
    exec (.registerWrite 0x060004 v) s = .next { acked with health := { s.health with cfg := v &&& 0x1FF } } ∧
    exec (.registerWrite 0x300000 v) s = .next { acked with lftCtrl := v &&& 0x1F } ∧
    exec (.registerWrite 0x002008 v) s = .next { acked with verify := { s.verify with tmo := v } } ∧
    (∀ c : Nat, c < s.build.contexts → c < 64 → ctxBuilt s c = true →
      let held := fun (base off : Nat) (f : Ctx → Ctx) => a.toNat = base + 0x40 * c + off →
        ((ctxOf s c).state = .disabled → gives { acked with ctxs := modAt s.ctxs c f }) ∧
        ((ctxOf s c).state ≠ .disabled → gives acked)
      held 0x011000 0x04 (fun x => { x with cfg := v &&& 0x8700FFFF }) ∧
      held 0x011000 0x10 (fun x => { x with scoreLo := v &&& 0xFFFFFFC0 }) ∧
      held 0x004000 0x00 (fun x => { x with subBaseLo := v &&& 0xFFFFFFC0 }) ∧ held 0x004000 0x04 (fun x => { x with subBaseHi := v }) ∧
      held 0x004000 0x08 (fun x => { x with subSize := v &&& 0x1F }) ∧ held 0x004000 0x10 (fun x => { x with subCons := v }) ∧
      held 0x004000 0x14 (fun x => { x with cplBaseLo := v &&& 0xFFFFFFC0 }) ∧ held 0x004000 0x18 (fun x => { x with cplBaseHi := v }) ∧
      held 0x004000 0x1C (fun x => { x with cplSize := v &&& 0x1F }) ∧ held 0x004000 0x20 (fun x => { x with cplWrite := v }) ∧
      held 0x031000 0x00 (fun x => { x with glnBaseLo := v &&& 0xFFFFFF80 }) ∧ held 0x031000 0x04 (fun x => { x with glnBaseHi := v }) ∧
      held 0x031000 0x08 (fun x => { x with glnSize := v &&& 0x1F }) ∧ held 0x031000 0x0C (fun x => { x with glnWrite := v }) ∧
      held 0x031000 0x18 (fun x => { x with granLo := v &&& 0xFFFFFFC0 }) ∧ held 0x031000 0x1C (fun x => { x with granHi := v }) ∧
      held 0x032000 0x00 (fun x => { x with oplanLo := v &&& 0xFFFFFFC0 }) ∧ held 0x032000 0x04 (fun x => { x with oplanHi := v }) ∧
      (a.toNat = 0x004000 + 0x40 * c + 0x28 → gives { acked with
        ctxs := modAt s.ctxs c (fun x => { x with subErr := bit' x.subErr 1 }) }) ∧
      (a.toNat = 0x031000 + 0x40 * c + 0x10 → gives acked) ∧
      (a.toNat = 0x031000 + 0x40 * c + 0x24 → gives { acked with ctxs := modAt s.ctxs c (fun x => { x with
        granBad := bit' x.granBad 2, histLost := bit' x.histLost 1, rcpRej := bit' x.rcpRej 0 }) })) ∧
    (∀ n k : Nat, n < 256 → k < 8 → a.toNat = 0x038000 + 0x20 * n + 4 * k →
      (s.health.wedgedRecipes = false → ldrHolds s 0x11 n = false → gives { acked with
        recipes := modAt s.recipes n (fun r => modAt r k (fun _ => if k = 0 then v &&& 0xFFFF7FFF else v)) }) ∧
      (s.health.wedgedRecipes = true → gives acked)) ∧
    (∀ off f, ((off = 0x10 ∧ f = fun (r : RngTest) => { r with seedLo := v }) ∨ (off = 0x18 ∧ f = fun r => { r with sid := v &&& 0xFFFFFF }) ∨
        (off = 0x24 ∧ f = fun r => { r with subHi := v &&& 0xFF }) ∨ (off = 0x30 ∧ f = fun r => r)) → a.toNat = 0x040000 + off →
      (s.rng.busy = false → gives { acked with rng := f s.rng }) ∧
      (s.rng.busy = true → gives { acked with rng := { s.rng with wrDrop := true } })) ∧
    (∀ r : Nat, r < s.build.regions → r < s.regions.length → (region s r).parkAck = false →
      let d := (region s r).dma
      let set := fun (f : Dma → Dma) => gives { acked with regions := modAt s.regions r (fun x => { x with dma := f x.dma }) }
      (a.toNat = 0x100000 + 0x40000 * r + 0xF000 → a.toNat < 0x300000 →
        set (fun d => { d with ownDrop := bit' d.ownDrop 29, seqErr := bit' d.seqErr 28 })) ∧
      (a.toNat = 0x100000 + 0x40000 * r + 0xF010 → a.toNat < 0x300000 → set (fun d => { d with hoplim := v })) ∧
      (a.toNat = 0x100000 + 0x40000 * r + 0xF01C → a.toNat < 0x300000 → set (fun d => { d with event := d.event &&& ~~~ v })) ∧
      (∀ ch off : Nat, ch < 32 → a.toNat = 0x100000 + 0x40000 * r + 0x10000 + 0x100 * ch + off → a.toNat < 0x300000 →
        let c := chan s r ch
        let put := fun (f : Chan → Chan) => set (fun d => { d with chans := modAt d.chans ch f })
        let held := fun (f : Chan → Chan) => (c.state = .idle → d.own.getLsbD ch = true → put f) ∧
          (c.state ≠ .idle ∨ d.own.getLsbD ch = false → put (fun c => { c with wrDrop := true }))
        (off < 0x3C → off % 4 = 0 → held (fun c => { c with regs := modAt c.regs (off / 4) (fun _ =>
          if off = 0x30 then v &&& 0xF33 else if off = 0x34 then v &&& 0xFFFFFFC0 else v) })) ∧
        (off = 0x50 → held (fun c => { c with cfg := v &&& 0x703 })) ∧
        (off = 0x54 → held (fun c => { c with cplLo := v &&& 0xFFFFFFE0 })) ∧ (off = 0x58 → held (fun c => { c with cplHi := v })) ∧
        (off = 0x40 → put (fun c => { c with wrDrop := bit' c.wrDrop 1, seqErr := bit' c.seqErr 0 })))) ∧
    (∀ p i off : Nat, p < 15 → p < s.build.linkPorts → i < 16 → a.toNat = 0x050000 + 0x1000 * (p + 1) + 0x100 + 0x40 * i + off →
      let held := fun (f : Session → Session) =>
        ((session s p i).state = .idle → gives { acked with
          lnk := modAt s.lnk p (fun l => { l with sessions := modAt l.sessions i f }) }) ∧
        ((session s p i).state ≠ .idle → gives { acked with lnk := modAt s.lnk p (fun l => { l with wrDrop := true }) })
      (off = 0x00 → held (fun x => { x with cfg := v })) ∧ (off = 0x04 → held (fun x => { x with fmt := v })) ∧
      (off = 0x08 → held (fun x => { x with tag := v })) ∧ (off = 0x0C → held (fun x => { x with elems := v })) ∧
      (off = 0x10 → held (fun x => { x with dcols := v })) ∧ (off = 0x14 → held (fun x => { x with route := v &&& 0xFFFF })) ∧
      (off = 0x18 → held (fun x => { x with tile := v })) ∧
      (off = 0x20 → gives { acked with lnk := modAt s.lnk p (fun l => { l with sessions := modAt l.sessions i (fun x => { x with
        loss := bit' x.loss 3, cbsumBad := bit' x.cbsumBad 2, sat := bit' x.sat 1, seqErr := bit' x.seqErr 0 }) }) })) ∧
    (∀ p : Nat, p < 15 → p < s.build.linkPorts → a.toNat = 0x050000 + 0x1000 * (p + 1) + 8 → gives { acked with
      lnk := modAt s.lnk p (fun l => { l with
        noSess := bit' l.noSess 3, wrDrop := bit' l.wrDrop 2, badFrame := bit' l.badFrame 1, lostSeen := bit' l.lostSeen 0 }) })

/-! ## Codes and guarded words -/

/-- Tier 2. The codes of a furrow form a little-endian bit stream: code j stands in bits w * j + w - 1 to w * j of the number that the
furrow's bytes spell, and reading the stream gives the codes back. -/
def Obligations.StoredCodes : Prop :=
  ∀ (w : Nat) (codes : List Nat), (∀ c ∈ codes, c < 2 ^ w) → codes.length * w % 8 = 0 →
    (packCodes w codes).length = codes.length * w / 8 ∧
    (∀ j (h : j < codes.length), leNat (packCodes w codes) / 2 ^ (w * j) % 2 ^ w = codes[j]) ∧
    unpackCodes w codes.length (packCodes w codes) = codes

/-- Tier 2. The guard bits of a word of sixteen bytes make it good, no other guard bits do, and a word in which any bits of one data byte
have flipped is corrected to the bytes that were sent. -/
def Obligations.GuardedWords : Prop :=
  ∀ d : List Byte, d.length = 16 →
    g16Check (guarded d) = .good d ∧
    (∀ g : BitVec 16, g ≠ g16Guard d → g16Check ⟨d, g⟩ ≠ .good d) ∧
    ∀ (i : Nat) (e : BitVec 8), i < 16 → e ≠ 0 → g16Check ⟨modAt d i (fun b => b ^^^ e), g16Guard d⟩ = .corrected d
end

