-- ==== Sys2Proof/Laws/Frames.lean ====
section
/-! SUPPORT. What the shared operations leave alone: presentation, accesses of the control island and the fault log touch nothing but
the traffic of the block; and the fault log while its ring is not set up. -/

namespace Sys2Proof.Machine

theorem State.Quiet.refl (s : State) : s.Quiet s := rfl

theorem State.Quiet.trans {a b c : State} (h : a.Quiet b) (k : b.Quiet c) : a.Quiet c := by
  unfold State.Quiet at *
  rw [h] at k
  exact k

theorem present_quiet {s₀ s : State} {c : Nat} {b : Burst} (h : s₀.Quiet s) : s₀.Quiet (present c b s) := by
  refine h.trans ?_
  unfold present
  split <;> rfl

theorem emit_quiet {s₀ s : State} {o : Out} (h : s₀.Quiet s) : s₀.Quiet (emit o s) := h.trans rfl

theorem modPort_quiet {s₀ s : State} {c : Nat} {f : Port → Port} (h : s₀.Quiet s) : s₀.Quiet (modPort c f s) := h.trans rfl

theorem modHealth_quiet {s₀ s : State} {f : Health → Health} (h : s₀.Quiet s) : s₀.Quiet (modHealth f s) := h.trans rfl

theorem modJob_quiet {s₀ s : State} {i : Nat} {f : Job → Job} (h : s₀.Quiet s) : s₀.Quiet (modJob i f s) := h.trans rfl

theorem drainCtlAux_quiet {k : Nat} : ∀ {s₀ s : State} {kept rest : List Burst}, s₀.Quiet s →
    s₀.Quiet (drainCtlAux k kept rest s) := by
  induction k with
  | zero => exact fun h => h.trans rfl
  | succ k ih =>
    intro s₀ s kept rest h
    cases rest with
    | nil => exact h.trans rfl
    | cons b rest =>
      rw [drainCtlAux]
      split
      · exact ih h
      · split
        · exact ih (present_quiet h)
        · exact ih h

theorem drainCtl_quiet {s₀ s : State} (h : s₀.Quiet s) : s₀.Quiet (drainCtl s) := drainCtlAux_quiet h

theorem startRead_quiet {s₀ s : State} {k : JobKind} {l : List (Nat × Nat)} (h : s₀.Quiet s) : s₀.Quiet (startRead k l s) :=
  drainCtl_quiet (h.trans rfl)

theorem startWrites_quiet {s₀ s : State} {k : JobKind} {l : List (Nat × List Byte)} (h : s₀.Quiet s) :
    s₀.Quiet (startWrites k l s) :=
  drainCtl_quiet (h.trans rfl)

theorem startWrite_quiet {s₀ s : State} {k : JobKind} {a : Nat} {d : List Byte} (h : s₀.Quiet s) :
    s₀.Quiet (startWrite k a d s) := startWrites_quiet h

theorem logPump_quiet {s₀ s : State} (h : s₀.Quiet s) : s₀.Quiet (logPump s) := by
  unfold logPump
  dsimp only
  split
  · exact h
  · split
    · exact h
    · split
      · exact modHealth_quiet h
      · exact startWrite_quiet (modHealth_quiet h)

theorem logEvent_quiet {s₀ s : State} {code kind reg unit ctx d0 a : Nat} (h : s₀.Quiet s) :
    s₀.Quiet (logEvent code kind reg unit ctx d0 a s) := by
  unfold logEvent
  dsimp only
  split
  · exact logPump_quiet (modHealth_quiet h)
  · exact modHealth_quiet h

theorem drainCore_quiet {k : Nat} : ∀ {s₀ s : State} {c : Nat}, s₀.Quiet s → s₀.Quiet (drainCore k c s) := by
  induction k with
  | zero => exact fun h => h
  | succ k ih =>
    intro s₀ s c h
    rw [drainCore]
    split
    · exact ih (modPort_quiet (present_quiet (modPort_quiet h)))
    · split
      · exact ih (modPort_quiet (present_quiet (h.trans rfl)))
      · exact h

theorem drainBeats_quiet {k : Nat} : ∀ {s₀ s : State} {c : Nat}, s₀.Quiet s → s₀.Quiet (drainBeats k c s) := by
  induction k with
  | zero => exact fun h => h
  | succ k ih =>
    intro s₀ s c h
    rw [drainBeats]
    split
    · exact h
    · split
      · exact ih (emit_quiet (modPort_quiet h))
      · exact h

theorem drainPort_quiet {s₀ s : State} {c : Nat} (h : s₀.Quiet s) : s₀.Quiet (drainPort c s) :=
  drainBeats_quiet (drainCore_quiet h)

theorem drainRegion_quiet {s₀ s : State} {r : Nat} (h : s₀.Quiet s) : s₀.Quiet (drainRegion r s) := by
  unfold drainRegion
  generalize regionPorts s r = l
  induction l generalizing s with
  | nil => exact h
  | cons c l ih => exact ih (drainPort_quiet h)

theorem coreIssue_quiet {s₀ s : State} {c : Nat} {l : List Burst} (h : s₀.Quiet s) : s₀.Quiet (coreIssue c l s) :=
  drainPort_quiet (modPort_quiet h)

theorem beatIssue_quiet {s₀ s : State} {c : Nat} {l : List Beat} (h : s₀.Quiet s) : s₀.Quiet (beatIssue c l s) :=
  drainPort_quiet (modPort_quiet h)

/-- While the ring of the fault log is not set up, an event waits in the queue, or is counted as lost (R350). -/
theorem logEvent_unset {s : State} {code kind reg unit ctx d0 a : Nat} (h : s.health.ring = 0) :
    logEvent code kind reg unit ctx d0 a s =
      if s.health.queue.length < 64 then
        { s with health := { s.health with
          queue := s.health.queue ++ [⟨code, kind, reg, unit, ctx, d0, a, islandTime s kind reg unit % 2 ^ 32⟩] } }
      else { s with health := { s.health with logLost := cntSat s.health.logLost 1 } } := by
  have pump : ∀ t : State, t.health.ring = 0 → logPump t = t := by
    intro t ht
    unfold logPump
    simp [ht]
  unfold logEvent logRoom
  dsimp only
  rw [if_pos h]
  simp only [decide_eq_true_eq]
  split
  · exact pump _ h
  · rfl

/-! ## Slots that leave a region that is to park (R380) -/

theorem slotsPark_frame (r : Nat) (s : State) : slotsPark r s =
    { s with trk := (slotsPark r s).trk, jobs := (slotsPark r s).jobs, ctlWait := (slotsPark r s).ctlWait } := rfl

/-- The slots that leave are slots of the tracker; the accesses that loaded them end; nothing else changes. -/
theorem slotsLeave_frame (s : State) : slotsLeave s =
    { s with trk := (slotsLeave s).trk, jobs := (slotsLeave s).jobs, ctlWait := (slotsLeave s).ctlWait } := by
  unfold slotsLeave
  generalize List.range s.regions.length = l
  let kept := fun u : State => u = { s with trk := u.trk, jobs := u.jobs, ctlWait := u.ctlWait }
  suffices h : ∀ t : State, kept t → kept (l.foldl (fun s r => if (region s r).parkReq then slotsPark r s else s) t) from h s rfl
  induction l with
  | nil => exact fun t h => h
  | cons r l ih =>
    intro t h
    refine ih _ ?_
    show kept (if (region t r).parkReq then slotsPark r t else t)
    split
    · exact (slotsPark_frame r t).trans (by rw [h])
    · exact h

/-- Where no region is asked to park, slots that unpin stay. -/
theorem slotsUnpin_idle {s : State} (h : ∀ x ∈ s.regions, x.parkReq = false) : slotsUnpin s = s := by
  unfold slotsUnpin
  have : s.regions.any (·.parkReq) = false := by simpa using h
  simp [this]

/-- A CHECK or COMMIT goes on only where there is one. -/
theorem foldPumpAll_idle {s : State} (h : ∀ x ∈ s.ctxs, x.fold = none) : foldPumpAll s = s := by
  have none : ∀ c, (ctxOf s c).fold = none := by
    intro c
    unfold ctxOf
    rw [List.getD_eq_getElem?_getD]
    cases e : s.ctxs[c]? with
    | none => rfl
    | some x => exact h x (List.mem_of_getElem? e)
  unfold foldPumpAll
  generalize List.range s.ctxs.length = l
  induction l with
  | nil => rfl
  | cons c l ih => rw [List.foldl_cons, show foldPump c s = s by unfold foldPump; rw [none c], ih]

/-! ## The loader's sequence where it has nothing to do -/

/-- The completion of a node changes the contexts alone. -/
theorem completeNode_frame (r : NodeRef) (status cause : Nat) (s : State) :
    completeNode r status cause s = { s with ctxs := (completeNode r status cause s).ctxs } := by
  unfold completeNode
  split
  · rfl
  · split <;> rfl

/-- What turning the waiting nodes of a bank away can change: that bank has none, and the nodes' contexts. -/
theorem bankTurnAway_frame (n : Nat) (s : State) : bankTurnAway n s =
    { s with
      banks := modAt s.banks n (fun b => { b with waits := [] }), ctxs := (bankTurnAway n s).ctxs } := by
  have h : ∀ (l : List NodeRef) (u : State), l.foldl (fun s r => completeNode r stRejected 0x0B s) u =
      { u with ctxs := (l.foldl (fun s r => completeNode r stRejected 0x0B s) u).ctxs } := by
    intro l
    induction l with
    | nil => intro u; rfl
    | cons r l ih =>
      intro u
      rw [List.foldl_cons, ih, completeNode_frame]
  exact h _ _

/-- Where no node waits at the bank, nothing but the empty list is written. -/
theorem bankTurnAway_idle {n : Nat} {s : State} (h : (bank s n).waits = []) :
    bankTurnAway n s = modBank n (fun b => { b with waits := [] }) s := by
  unfold bankTurnAway
  rw [h]
  rfl

/-- No section waits to be taken or presented, and no live update waits for the handshake. -/
theorem vfyNext_idle {s : State} (h1 : s.loader.ready = []) (h2 : s.live.stage ≠ .waitVerify) : vfyNext s = s := by
  unfold vfyNext
  split
  · rfl
  · simp [h1, h2]

theorem takeSections_none {k : Nat} {s : State} (h : s.loader.todo = [] ∨ s.loader.read ≠ .none) : takeSections k s = s := by
  cases k with
  | zero => rfl
  | succ k =>
    rw [takeSections]
    rcases h with h | h
    · simp [h]
    · simp [h]

/-- Once the boot sequence has ended, or before its table has been read, the loader goes on with nothing. -/
theorem advance_idle {s : State} (h : s.loader.state = .done ∨ s.loader.state = .header) (h1 : s.loader.todo = [])
    (h2 : s.loader.ready = []) (h3 : s.live.stage ≠ .waitVerify) : advance s = s := by
  unfold advance
  rw [ldrAdvance, takeSections_none (.inl h1), vfyNext_idle h2 h3]
  rcases h with h | h <;> simp [h]

/-- While a section is read the sequence waits. -/
theorem advance_reading {s : State} (h : s.loader.state = .early ∨ s.loader.state = .sections) (h1 : s.loader.read ≠ .none)
    (h2 : s.loader.ready = []) (h3 : s.live.stage ≠ .waitVerify) : advance s = s := by
  unfold advance
  rw [ldrAdvance, takeSections_none (.inr h1), vfyNext_idle h2 h3]
  rcases h with h | h <;> simp [h, stepEnded, h1]

end Sys2Proof.Machine
end

