-- ==== Sys2Proof/Laws/Keeps.lean ====
section
/-! SUPPORT. What every operation keeps: what is built, the queue, and the invariant. The relation, and the laws of the primitive
updates; the other files of this folder carry it to every operation and to every command. -/

namespace Sys2Proof.Machine

/-- From `a` to `t` nothing has changed what is built or the queue, and the invariant, where it held, holds. -/
structure Keeps (a t : State) : Prop where
  build : t.build = a.build
  pending : t.pending = a.pending
  inv : a.Inv → t.Inv

theorem Keeps.refl (a : State) : Keeps a a := ⟨rfl, rfl, id⟩

theorem Keeps.trans {a b c : State} (h : Keeps a b) (k : Keeps b c) : Keeps a c :=
  ⟨k.build.trans h.build, k.pending.trans h.pending, fun i => k.inv (h.inv i)⟩

/-- An answer's next state keeps what `Keeps` says. -/
def AKeeps (a : State) (r : Answer) : Prop := ∀ t, r = .next t → Keeps a t

theorem AKeeps.next {a t : State} (h : Keeps a t) : AKeeps a (.next t) := by
  intro u e
  cases e
  exact h

theorem AKeeps.inRun {a s : State} {r : Answer} (h : Keeps a s) (k : AKeeps a r) : AKeeps a (inRun s r) := by
  unfold Machine.inRun
  split
  · exact k
  · exact AKeeps.next h

/-- A fold keeps what each of its steps keeps. -/
theorem foldl_keeps {α : Type} {a : State} {f : State → α → State} (hf : ∀ s x, Keeps a s → Keeps a (f s x)) (l : List α) :
    ∀ {s : State}, Keeps a s → Keeps a (l.foldl f s) := by
  induction l with
  | nil => exact fun h => h
  | cons x xs ih => exact fun h => ih (hf _ x h)

/-- The same for a fold that carries something beside the state. -/
theorem foldl_fst_keeps {α β : Type} {a : State} {f : State × β → α → State × β}
    (hf : ∀ y x, Keeps a y.1 → Keeps a (f y x).1) (l : List α) : ∀ {y : State × β}, Keeps a y.1 → Keeps a (l.foldl f y).1 := by
  induction l with
  | nil => exact fun h => h
  | cons x xs ih => exact fun h => ih (hf _ x h)

/-- A state that keeps the number of units of each kind, what is built, the queue and the ports keeps all. -/
theorem Keeps.of_parts {a s t : State} (h : Keeps a s) (hb : t.build = s.build) (hq : t.pending = s.pending)
    (h1 : t.banks.length = s.banks.length) (h2 : t.recipes.length = s.recipes.length)
    (h3 : t.seqSlots.length = s.seqSlots.length) (h4 : t.regions.length = s.regions.length)
    (h5 : t.ports.length = s.ports.length) (h6 : t.slices.length = s.slices.length) (h7 : t.lnk.length = s.lnk.length)
    (h8 : t.lnkDom.length = s.lnkDom.length) (h9 : t.ctxs.length = s.ctxs.length)
    (hp : (∀ p ∈ s.ports, p.ok) → ∀ p ∈ t.ports, p.ok) : Keeps a t := by
  refine ⟨hb.trans h.build, hq.trans h.pending, fun i => ?_⟩
  have k := h.inv i
  refine ⟨⟨h1.trans k.built.banks, h2.trans k.built.recipes, h3.trans k.built.seqSlots, ?_, ?_, ?_, ?_, ?_, ?_⟩, hp k.ports⟩
  · rw [h4, hb]; exact k.built.regions
  · rw [h5, hb]; exact k.built.ports
  · rw [h6, hb]; exact k.built.slices
  · rw [h7, hb]; exact k.built.lnk
  · rw [h8, hb]; exact k.built.lnkDom
  · rw [h9, hb]; exact k.built.ctxs

/-- An update of the fields that hold no built units and no ports keeps all. -/
theorem Keeps.upd {a s : State} (h : Keeps a s) {rst : Rst} {di dc : BitVec 4} {ct lt : Nat} {ldr : Loader} {vf : Verify} {lv : Live}
    {ra : List Nat} {sh : Option (Nat × SeqSlot)} {rg : RngTest} {wr : Wrapper} {cw : List Burst} {js : List Job} {nj : Nat}
    {he : Health} {lc : Word} {ex : Exchange} {sc : Sched} {tk : Tracker} {sw : List Swath} {nt ns : Nat} {bc bs : List Nat}
    {os : List Out} {fc : Nat} :
    Keeps a { build := s.build, pending := s.pending, rst := rst, dieIndex := di, dieCountM1 := dc, ctlTime := ct, ldrTime := lt
              loader := ldr, verify := vf, live := lv, banks := s.banks, recipes := s.recipes, rcpApplied := ra
              seqSlots := s.seqSlots, seqShadow := sh, rng := rg, wrapper := wr, regions := s.regions, ports := s.ports
              ctlWait := cw, jobs := js, nextJob := nj, health := he, lftCtrl := lc, slices := s.slices, lnk := s.lnk
              exch := ex, lnkDom := s.lnkDom, ctxs := s.ctxs, sched := sc, trk := tk, swaths := sw, nextTask := nt
              nextSwath := ns, badCtx := bc, badSlots := bs, outs := os, freeCtr := fc } :=
  h.of_parts rfl rfl rfl rfl rfl rfl rfl rfl rfl rfl rfl id

theorem emit_keeps {a s : State} {o : Out} (h : Keeps a s) : Keeps a (emit o s) := h.upd

@[simp] theorem length_modAt {α : Type} (l : List α) (i : Nat) (f : α → α) : (modAt l i f).length = l.length := by
  simp [modAt]

theorem mem_modAt {α : Type} {P : α → Prop} {l : List α} {i : Nat} {f : α → α} (hf : ∀ x, P x → P (f x)) (hl : ∀ x ∈ l, P x) :
    ∀ x ∈ modAt l i f, P x := by
  intro x hx
  obtain ⟨j, hj, rfl⟩ := List.getElem_of_mem hx
  simp only [modAt, List.getElem_modify]
  simp only [modAt, List.length_modify] at hj
  split
  · exact hf _ (hl _ (List.getElem_mem hj))
  · exact hl _ (List.getElem_mem hj)

/-- A slot of supplementary code that is written keeps all. -/
theorem Keeps.upd_seq {a s : State} {i : Nat} {f : Option SeqSlot → Option SeqSlot} {sh : Option (Nat × SeqSlot)} (h : Keeps a s) :
    Keeps a { s with seqSlots := modAt s.seqSlots i f, seqShadow := sh } :=
  h.of_parts rfl rfl rfl rfl (length_modAt _ _ _) rfl rfl rfl rfl rfl rfl id

/-- A write of LNK_DOM keeps all. -/
theorem Keeps.upd_dom {a s : State} {i : Nat} {f : BitVec 16 → BitVec 16} (h : Keeps a s) :
    Keeps a { s with lnkDom := modAt s.lnkDom i f } :=
  h.of_parts rfl rfl rfl rfl rfl rfl rfl rfl rfl (length_modAt _ _ _) rfl id

theorem modRegion_keeps {a s : State} {r : Nat} {f : Region → Region} (h : Keeps a s) : Keeps a (modRegion r f s) :=
  h.of_parts rfl rfl rfl rfl rfl (length_modAt _ _ _) rfl rfl rfl rfl rfl id

theorem modBank_keeps {a s : State} {r : Nat} {f : Bank → Bank} (h : Keeps a s) : Keeps a (modBank r f s) :=
  h.of_parts rfl rfl (length_modAt _ _ _) rfl rfl rfl rfl rfl rfl rfl rfl id

theorem modSlice_keeps {a s : State} {r : Nat} {f : Slice → Slice} (h : Keeps a s) : Keeps a (modSlice r f s) :=
  h.of_parts rfl rfl rfl rfl rfl rfl rfl (length_modAt _ _ _) rfl rfl rfl id

theorem modLnk_keeps {a s : State} {r : Nat} {f : LinkPort → LinkPort} (h : Keeps a s) : Keeps a (modLnk r f s) :=
  h.of_parts rfl rfl rfl rfl rfl rfl rfl rfl (length_modAt _ _ _) rfl rfl id

theorem modCtx_keeps {a s : State} {r : Nat} {f : Ctx → Ctx} (h : Keeps a s) : Keeps a (modCtx r f s) :=
  h.of_parts rfl rfl rfl rfl rfl rfl rfl rfl rfl rfl (length_modAt _ _ _) id

/-- An update of a port keeps all where it keeps the rules of a port. -/
theorem modPort_keeps {a s : State} {c : Nat} {f : Port → Port} (hf : ∀ p : Port, p.ok → (f p).ok) (h : Keeps a s) :
    Keeps a (modPort c f s) :=
  h.of_parts rfl rfl rfl rfl rfl rfl (length_modAt _ _ _) rfl rfl rfl rfl (fun k => mem_modAt hf k)

/-- An update that keeps the requests and the counters of a port keeps its rules. -/
theorem Port.ok_of_eq {p q : Port} (h : p.ok) (h1 : q.rd = p.rd) (h2 : q.wr = p.wr) (h3 : q.st = p.st) (h4 : q.out = p.out) :
    q.ok := by
  unfold Port.ok at *
  rw [h1, h2, h3, h4]
  exact h

/-- An update of a port that keeps its counters and its requests keeps all. -/
theorem modPort_keeps_rest {a s : State} {c : Nat} {f : Port → Port}
    (hf : ∀ p : Port, (f p).rd = p.rd ∧ (f p).wr = p.wr ∧ (f p).st = p.st ∧ (f p).out = p.out) (h : Keeps a s) :
    Keeps a (modPort c f s) :=
  modPort_keeps (fun p k => Port.ok_of_eq k (hf p).1 (hf p).2.1 (hf p).2.2.1 (hf p).2.2.2) h

/-- The tag that a port gives a new request is used by no other of its class (R387). -/
theorem freeTag_fresh {p : Port} {wr : Bool} {t : Nat} (h : freeTag p wr = some t) :
    ∀ q ∈ p.out, q.burst.wr = wr → q.tag ≠ t := by
  intro q hq hw e
  unfold freeTag at h
  rcases Option.or_eq_some_iff.1 h with h | ⟨-, h⟩
  all_goals
    have h1 := List.find?_some h
    simp only [Bool.and_eq_true, Bool.not_eq_true', decide_eq_true_eq, List.contains_eq_mem, decide_eq_false_iff_not] at h1
    refine h1.1 (List.mem_map.2 ⟨q, List.mem_filter.2 ⟨hq, ?_⟩, e⟩)
    simp [hw]

/-- A burst that is presented takes a credit and a tag of its own (R387, R388). -/
theorem present_keeps {a s : State} {c : Nat} {b : Burst} (h : Keeps a s) : Keeps a (present c b s) := by
  unfold present
  split
  · exact h
  · rename_i t ht
    refine emit_keeps (h.of_parts rfl rfl rfl rfl rfl rfl (length_modAt _ _ _) rfl rfl rfl rfl (fun k => ?_))
    intro x hx
    obtain ⟨j, hj, rfl⟩ := List.getElem_of_mem hx
    simp only [modPort, modAt, List.length_modify] at hj
    have hx := k _ (List.getElem_mem hj)
    simp only [modPort, modAt, List.getElem_modify]
    split
    · rename_i e
      subst e
      have hp : port s c = s.ports[c] := by simp [port, hj]
      rw [hp] at ht
      have hf := freeTag_fresh ht
      unfold Port.ok at hx ⊢
      refine ⟨?_, ?_, hx.2.2.1, ?_⟩
      · dsimp only; split <;> omega
      · dsimp only; split <;> omega
      · simp only [List.map_append, List.map_cons, List.map_nil]
        rw [List.nodup_append]
        refine ⟨hx.2.2.2, by simp, ?_⟩
        intro y hy z hz e
        simp only [List.mem_singleton] at hz
        subst hz
        subst e
        obtain ⟨q, hq, e⟩ := List.mem_map.1 hy
        simp only [Prod.mk.injEq] at e
        exact hf q hq e.1 e.2
    · exact hx

/-- A request that is answered leaves its port (R387). -/
theorem dropReq_keeps {a s : State} {c : Nat} {q : Req} (h : Keeps a s) : Keeps a (dropReq c q s) :=
  modPort_keeps (fun _ k => ⟨k.1, k.2.1, k.2.2.1, k.2.2.2.sublist (List.erase_sublist.map _)⟩) h

/-- A full reset keeps what is built and the queue, and the invariant holds in it (R354, R416). -/
theorem resetTo_keeps {a s : State} {r : Rst} (h : Keeps a s) : Keeps a (resetTo r s) := by
  refine ⟨h.build, h.pending, fun _ => ⟨⟨?_, ?_, ?_, ?_, ?_, ?_, ?_, ?_, ?_⟩, ?_⟩⟩
  iterate 9 exact List.length_replicate
  intro p hp
  rw [List.eq_of_mem_replicate hp]
  simp [Port.ok, Port.reset]

/-- The end of a full reset, but for a request that is held (R355). -/
theorem released_keeps {a s : State} {x y : BitVec 4} {o : List Out} (h : Keeps a s) :
    Keeps a { State.resetOf s.build x y with
      pending := s.pending, wrapper := s.wrapper, outs := o, freeCtr := s.freeCtr } := by
  refine ⟨h.build, h.pending, fun _ => ⟨⟨?_, ?_, ?_, ?_, ?_, ?_, ?_, ?_, ?_⟩, ?_⟩⟩
  iterate 9 exact List.length_replicate
  intro p hp
  rw [List.eq_of_mem_replicate hp]
  simp [Port.ok, Port.reset]

end Sys2Proof.Machine
end

