-- ==== Sys2Proof/Laws/KeepsOps.lean ====
section
/-! SUPPORT. What the shared operations, the test ports and the codebook banks keep. -/

namespace Sys2Proof.Machine

theorem emits_keeps {s₀ : State} {os : List Out} {s : State} (h : Keeps s₀ s) :
    Keeps s₀ (emits os s) := by
  unfold emits
  try dsimp only
  repeat' (first
    | with_reducible assumption
    | split
    | dsimp only
    | with_reducible apply Keeps.upd)

theorem modDma_keeps {s₀ : State} {r : Nat} {f : Dma → Dma} {s : State} (h : Keeps s₀ s) :
    Keeps s₀ (modDma r f s) := by
  unfold modDma
  try dsimp only
  repeat' (first
    | with_reducible assumption
    | with_reducible apply modRegion_keeps)

theorem modChan_keeps {s₀ : State} {r : Nat} {ch : Nat} {f : Chan → Chan} {s : State} (h : Keeps s₀ s) :
    Keeps s₀ (modChan r ch f s) := by
  unfold modChan
  try dsimp only
  repeat' (first
    | with_reducible assumption
    | with_reducible apply modDma_keeps)

theorem modPos_keeps {s₀ : State} {r : Nat} {p : Nat} {f : Pos → Pos} {s : State} (h : Keeps s₀ s) :
    Keeps s₀ (modPos r p f s) := by
  unfold modPos
  try dsimp only
  repeat' (first
    | with_reducible assumption
    | with_reducible apply modRegion_keeps)

theorem modPhys_keeps {s₀ : State} {r : Nat} {c : Nat} {f : Phys → Phys} {s : State} (h : Keeps s₀ s) :
    Keeps s₀ (modPhys r c f s) := by
  unfold modPhys
  try dsimp only
  repeat' (first
    | with_reducible assumption
    | with_reducible apply modRegion_keeps)

theorem modSess_keeps {s₀ : State} {p : Nat} {i : Nat} {f : Session → Session} {s : State} (h : Keeps s₀ s) :
    Keeps s₀ (modSess p i f s) := by
  unfold modSess
  try dsimp only
  repeat' (first
    | with_reducible assumption
    | with_reducible apply modLnk_keeps)

theorem modHealth_keeps {s₀ : State} {f : Health → Health} {s : State} (h : Keeps s₀ s) :
    Keeps s₀ (modHealth f s) := by
  unfold modHealth
  try dsimp only
  repeat' (first
    | with_reducible assumption
    | split
    | dsimp only
    | with_reducible apply Keeps.upd)

theorem modLoader_keeps {s₀ : State} {f : Loader → Loader} {s : State} (h : Keeps s₀ s) :
    Keeps s₀ (modLoader f s) := by
  unfold modLoader
  try dsimp only
  repeat' (first
    | with_reducible assumption
    | split
    | dsimp only
    | with_reducible apply Keeps.upd)

theorem modJob_keeps {s₀ : State} {id : Nat} {f : Job → Job} {s : State} (h : Keeps s₀ s) :
    Keeps s₀ (modJob id f s) := by
  unfold modJob
  try dsimp only
  repeat' (first
    | with_reducible assumption
    | split
    | dsimp only
    | with_reducible apply Keeps.upd)

theorem drainCtlAux_keeps {s₀ : State} {k : Nat} {kept rest : List Burst} {s : State} (h : Keeps s₀ s) :
    Keeps s₀ (drainCtlAux k kept rest s) := by
  induction k generalizing kept rest s with
  | zero => exact Keeps.upd h
  | succ k ih =>
    cases rest with
    | nil => exact Keeps.upd h
    | cons b rest =>
      rw [drainCtlAux]
      split
      · exact ih h
      · split
        · exact ih (present_keeps h)
        · exact ih h

theorem drainCtl_keeps {s₀ : State} {s : State} (h : Keeps s₀ s) :
    Keeps s₀ (drainCtl s) := by
  unfold drainCtl
  try dsimp only
  repeat' (first
    | with_reducible assumption
    | with_reducible apply drainCtlAux_keeps)

theorem startRead_keeps {s₀ : State} {kind : JobKind} {segs : List (Nat × Nat)} {s : State} (h : Keeps s₀ s) :
    Keeps s₀ (startRead kind segs s) := by
  unfold startRead
  try dsimp only
  repeat' (first
    | with_reducible assumption
    | with_reducible apply drainCtl_keeps
    | with_reducible refine foldl_keeps (fun _ _ _ => ?_) _ ?_
    | with_reducible refine foldl_fst_keeps (fun _ _ _ => ?_) _ ?_
    | split
    | dsimp only
    | with_reducible apply Keeps.upd)

theorem startWrites_keeps {s₀ : State} {kind : JobKind} {segs : List (Nat × List Byte)} {s : State} (h : Keeps s₀ s) :
    Keeps s₀ (startWrites kind segs s) := by
  unfold startWrites
  try dsimp only
  repeat' (first
    | with_reducible assumption
    | with_reducible apply drainCtl_keeps
    | split
    | dsimp only
    | with_reducible apply Keeps.upd)

theorem startWrite_keeps {s₀ : State} {kind : JobKind} {addr : Nat} {data : List Byte} {s : State} (h : Keeps s₀ s) :
    Keeps s₀ (startWrite kind addr data s) := by
  unfold startWrite
  try dsimp only
  repeat' (first
    | with_reducible assumption
    | with_reducible apply startWrites_keeps)

theorem logPump_keeps {s₀ : State} {s : State} (h : Keeps s₀ s) :
    Keeps s₀ (logPump s) := by
  unfold logPump
  try dsimp only
  repeat' (first
    | with_reducible assumption
    | with_reducible apply modHealth_keeps
    | with_reducible apply startWrite_keeps
    | split)

theorem logEvent_keeps {s₀ : State} {code : Nat} {kind : Nat} {reg : Nat} {unit : Nat} {ctx : Nat} {d0 : Nat} {a : Nat} {s : State} (h : Keeps s₀ s) :
    Keeps s₀ (logEvent code kind reg unit ctx d0 a s) := by
  unfold logEvent
  try dsimp only
  repeat' (first
    | with_reducible assumption
    | with_reducible apply logPump_keeps
    | with_reducible apply modHealth_keeps
    | split)

theorem logFrom_keeps {s₀ : State} {code : Nat} {src : Src} {ctx : Nat} {d0 : Nat} {a : Nat} {s : State} (h : Keeps s₀ s) :
    Keeps s₀ (logFrom code src ctx d0 a s) := by
  unfold logFrom
  try dsimp only
  repeat' (first
    | with_reducible assumption
    | with_reducible apply logEvent_keeps)

theorem noteCorrected_keeps {s₀ : State} {store : Nat} {src : Src} {addrs : List Nat} {s : State} (h : Keeps s₀ s) :
    Keeps s₀ (noteCorrected store src addrs s) := by
  unfold noteCorrected
  try dsimp only
  repeat' (first
    | with_reducible assumption
    | with_reducible apply modHealth_keeps
    | with_reducible apply modRegion_keeps
    | with_reducible apply logFrom_keeps
    | with_reducible refine foldl_keeps (fun _ _ _ => ?_) _ ?_
    | with_reducible refine foldl_fst_keeps (fun _ _ _ => ?_) _ ?_
    | split)

theorem countUe_keeps {s₀ : State} {n : Nat} {reg : Option Nat} {s : State} (h : Keeps s₀ s) :
    Keeps s₀ (countUe n reg s) := by
  unfold countUe
  try dsimp only
  repeat' (first
    | with_reducible assumption
    | with_reducible apply modHealth_keeps
    | with_reducible apply modRegion_keeps
    | split)

theorem dropJobs_keeps {s₀ : State} {f : JobKind → Bool} {s : State} (h : Keeps s₀ s) :
    Keeps s₀ (dropJobs f s) := by
  unfold dropJobs
  try dsimp only
  repeat' (first
    | with_reducible assumption
    | split
    | dsimp only
    | with_reducible apply Keeps.upd)

theorem settle_keeps {s₀ : State} {id : Nat} {s : State} (h : Keeps s₀ s) :
    Keeps s₀ (settle id s).1 := by
  unfold settle
  try dsimp only
  repeat' (first
    | with_reducible assumption
    | with_reducible apply modJob_keeps
    | split
    | dsimp only
    | with_reducible apply Keeps.upd)

theorem ctlGood_keeps {s₀ : State} {b : Burst} {id : Nat} {bytes : List OByte} {s : State} (h : Keeps s₀ s) :
    Keeps s₀ (ctlGood b id bytes s).1 := by
  unfold ctlGood
  try dsimp only
  repeat' (first
    | with_reducible assumption
    | with_reducible apply noteCorrected_keeps
    | with_reducible apply settle_keeps
    | with_reducible apply modJob_keeps
    | split)

theorem ctlBad_keeps {s₀ : State} {b : Burst} {id : Nat} {cluster : Nat} {f : BurstFail} {s : State} (h : Keeps s₀ s) :
    Keeps s₀ (ctlBad b id cluster f s).1 := by
  unfold ctlBad
  try dsimp only
  repeat' (first
    | with_reducible assumption
    | with_reducible apply drainCtl_keeps
    | with_reducible apply logEvent_keeps
    | with_reducible apply settle_keeps
    | with_reducible apply modJob_keeps
    | split
    | dsimp only
    | with_reducible apply Keeps.upd)

/-- Whose turn a port's next burst is leaves its credits and its open bursts. -/
theorem grant_rest (wr dma : Bool) (p : Port) :
    (p.grant wr dma).rd = p.rd ∧ (p.grant wr dma).wr = p.wr ∧ (p.grant wr dma).st = p.st ∧ (p.grant wr dma).out = p.out := by
  unfold Port.grant
  split <;> exact ⟨rfl, rfl, rfl, rfl⟩

theorem drainCore_keeps {s₀ : State} {k c : Nat} {s : State} (h : Keeps s₀ s) : Keeps s₀ (drainCore k c s) := by
  induction k generalizing s with
  | zero => exact h
  | succ k ih =>
    rw [drainCore]
    split
    · exact ih (modPort_keeps_rest (grant_rest _ _)
        (present_keeps (modPort_keeps_rest (fun _ => ⟨rfl, rfl, rfl, rfl⟩) h)))
    · split
      · exact ih (modPort_keeps_rest (grant_rest _ _) (present_keeps (Keeps.upd h)))
      · exact h

theorem drainBeats_keeps {s₀ : State} {k c : Nat} {s : State} (h : Keeps s₀ s) : Keeps s₀ (drainBeats k c s) := by
  induction k generalizing s with
  | zero => exact h
  | succ k ih =>
    rw [drainBeats]
    split
    · exact h
    · split
      · exact ih (emit_keeps (modPort_keeps
          (fun _ q => ⟨q.1, q.2.1, Nat.le_trans (Nat.sub_le _ _) q.2.2.1, q.2.2.2⟩) h))
      · exact h

theorem drainPort_keeps {s₀ : State} {c : Nat} {s : State} (h : Keeps s₀ s) :
    Keeps s₀ (drainPort c s) := by
  unfold drainPort
  try dsimp only
  repeat' (first
    | with_reducible assumption
    | with_reducible apply drainCore_keeps
    | with_reducible apply drainBeats_keeps)

theorem drainRegion_keeps {s₀ : State} {r : Nat} {s : State} (h : Keeps s₀ s) :
    Keeps s₀ (drainRegion r s) := by
  unfold drainRegion
  try dsimp only
  repeat' (first
    | with_reducible assumption
    | with_reducible apply drainPort_keeps
    | with_reducible refine foldl_keeps (fun _ _ _ => ?_) _ ?_)

theorem coreIssue_keeps {s₀ : State} {c : Nat} {bs : List Burst} {s : State} (h : Keeps s₀ s) :
    Keeps s₀ (coreIssue c bs s) := by
  unfold coreIssue
  try dsimp only
  repeat' (first
    | with_reducible assumption
    | with_reducible apply drainPort_keeps
    | ((with_reducible apply modPort_keeps_rest); exact fun _ => ⟨rfl, rfl, rfl, rfl⟩))

theorem beatIssue_keeps {s₀ : State} {c : Nat} {bs : List Beat} {s : State} (h : Keeps s₀ s) :
    Keeps s₀ (beatIssue c bs s) := by
  unfold beatIssue
  try dsimp only
  repeat' (first
    | with_reducible assumption
    | with_reducible apply drainPort_keeps
    | ((with_reducible apply modPort_keeps_rest); exact fun _ => ⟨rfl, rfl, rfl, rfl⟩))

theorem modGraph_keeps {s₀ : State} {c : Nat} {slot : Nat} {f : Graph → Graph} {s : State} (h : Keeps s₀ s) :
    Keeps s₀ (modGraph c slot f s) := by
  unfold modGraph
  try dsimp only
  repeat' (first
    | with_reducible assumption
    | with_reducible apply modCtx_keeps)

theorem modNode_keeps {s₀ : State} {r : NodeRef} {f : Node → Node} {s : State} (h : Keeps s₀ s) :
    Keeps s₀ (modNode r f s) := by
  unfold modNode
  try dsimp only
  repeat' (first
    | with_reducible assumption
    | with_reducible apply modGraph_keeps)

theorem modTask_keeps {s₀ : State} {r : NodeRef} {f : Task → Task} {s : State} (h : Keeps s₀ s) :
    Keeps s₀ (modTask r f s) := by
  unfold modTask
  try dsimp only
  repeat' (first
    | with_reducible assumption
    | with_reducible apply modNode_keeps)

theorem completeNode_keeps {s₀ : State} {n : NodeRef} {status : Nat} {cause : Nat} {s : State} (h : Keeps s₀ s) :
    Keeps s₀ (completeNode n status cause s) := by
  unfold completeNode
  try dsimp only
  repeat' (first
    | with_reducible assumption
    | with_reducible apply modGraph_keeps
    | split)

theorem modRng_keeps {s₀ : State} {f : RngTest → RngTest} {s : State} (h : Keeps s₀ s) :
    Keeps s₀ (modRng f s) := by
  unfold modRng
  try dsimp only
  repeat' (first
    | with_reducible assumption
    | split
    | dsimp only
    | with_reducible apply Keeps.upd)

theorem modWrap_keeps {s₀ : State} {f : Wrapper → Wrapper} {s : State} (h : Keeps s₀ s) :
    Keeps s₀ (modWrap f s) := by
  unfold modWrap
  try dsimp only
  repeat' (first
    | with_reducible assumption
    | split
    | dsimp only
    | with_reducible apply Keeps.upd)

theorem rngGo_keeps {s₀ : State} {s : State} (h : Keeps s₀ s) :
    Keeps s₀ (rngGo s) := by
  unfold rngGo
  try dsimp only
  repeat' (first
    | with_reducible assumption
    | with_reducible apply modRng_keeps)

theorem execRngTestGo_keeps {s₀ : State} {s : State} (h : Keeps s₀ s) :
    AKeeps s₀ (execRngTestGo s) := by
  unfold execRngTestGo
  try dsimp only
  repeat' (first
    | with_reducible assumption
    | with_reducible apply rngGo_keeps
    | with_reducible apply emit_keeps
    | with_reducible apply AKeeps.next
    | with_reducible refine AKeeps.inRun h ?_)

theorem execRngTestDone_keeps {s₀ : State} {s : State} (h : Keeps s₀ s) :
    AKeeps s₀ (execRngTestDone s) := by
  unfold execRngTestDone
  try dsimp only
  repeat' (first
    | with_reducible assumption
    | with_reducible apply modRng_keeps
    | with_reducible apply AKeeps.next
    | with_reducible refine AKeeps.inRun h ?_
    | split)

theorem selectWir_keeps {s₀ : State} {code : Nat} {s : State} (h : Keeps s₀ s) :
    Keeps s₀ (selectWir code s) := by
  unfold selectWir
  try dsimp only
  repeat' (first
    | with_reducible assumption
    | with_reducible apply modWrap_keeps)

theorem execWrstnReset_keeps {s₀ : State} {s : State} (h : Keeps s₀ s) :
    AKeeps s₀ (execWrstnReset s) := by
  unfold execWrstnReset
  try dsimp only
  repeat' (first
    | with_reducible assumption
    | with_reducible apply AKeeps.next
    | split
    | dsimp only
    | with_reducible apply Keeps.upd)

theorem shiftBypass_keeps {s₀ : State} {b : Bool} {s : State} (h : Keeps s₀ s) :
    Keeps s₀ (shiftBypass b s) := by
  unfold shiftBypass
  try dsimp only
  repeat' (first
    | with_reducible assumption
    | with_reducible apply emit_keeps
    | with_reducible apply modWrap_keeps)

theorem shiftWsi_keeps {s₀ : State} {s : State} (h : Keeps s₀ s) :
    Keeps s₀ (shiftWsi s) := by
  unfold shiftWsi
  try dsimp only
  repeat' (first
    | with_reducible assumption
    | with_reducible apply shiftBypass_keeps
    | split
    | dsimp only
    | with_reducible apply Keeps.upd)

theorem wrapperRun_keeps {s₀ : State} {code : Nat} {act : State → State} {s : State}
    (ha : ∀ s, Keeps s₀ s → Keeps s₀ (act s)) (h : Keeps s₀ s) : Keeps s₀ (wrapperRun code act s) := by
  unfold wrapperRun
  dsimp only
  split
  · exact ha _ (selectWir_keeps h)
  · exact shiftWsi_keeps (selectWir_keeps h)

theorem execWsBypass_keeps {s₀ : State} {b : WsBit} {s : State} (h : Keeps s₀ s) :
    AKeeps s₀ (execWsBypass b s) := by
  unfold execWsBypass
  try dsimp only
  repeat' (first
    | with_reducible assumption
    | with_reducible apply shiftBypass_keeps
    | with_reducible apply selectWir_keeps
    | with_reducible apply AKeeps.next)

theorem execWsExtest_keeps {s₀ : State} {drive : List Byte} {inputs : List Byte} {s : State} (h : Keeps s₀ s) :
    AKeeps s₀ (execWsExtest drive inputs s) := by
  unfold execWsExtest
  try dsimp only
  repeat' (first
    | with_reducible assumption
    | with_reducible refine wrapperRun_keeps (fun _ _ => ?_) ?_
    | with_reducible apply emit_keeps
    | with_reducible apply modWrap_keeps
    | with_reducible apply AKeeps.next)

theorem execWsIntest_keeps {s₀ : State} {drive : List Byte} {s : State} (h : Keeps s₀ s) :
    AKeeps s₀ (execWsIntest drive s) := by
  unfold execWsIntest
  try dsimp only
  repeat' (first
    | with_reducible assumption
    | with_reducible refine wrapperRun_keeps (fun _ _ => ?_) ?_
    | with_reducible apply modWrap_keeps
    | with_reducible apply AKeeps.next)

theorem scanOut_keeps {s₀ : State} {n : Nat} {s : State} (h : Keeps s₀ s) :
    Keeps s₀ (scanOut n s) := by
  unfold scanOut
  try dsimp only
  repeat' (first
    | with_reducible assumption
    | with_reducible apply emit_keeps
    | split
    | dsimp only
    | with_reducible apply Keeps.upd)

theorem execWsScan_keeps {s₀ : State} {bits : List Byte} {s : State} (h : Keeps s₀ s) :
    AKeeps s₀ (execWsScan bits s) := by
  unfold execWsScan
  try dsimp only
  repeat' (first
    | with_reducible assumption
    | with_reducible refine wrapperRun_keeps (fun _ _ => ?_) ?_
    | with_reducible apply scanOut_keeps
    | with_reducible apply shiftWsi_keeps
    | with_reducible apply AKeeps.next)

theorem execWsMbist_keeps {s₀ : State} {s : State} (h : Keeps s₀ s) :
    AKeeps s₀ (execWsMbist s) := by
  unfold execWsMbist
  try dsimp only
  repeat' (first
    | with_reducible assumption
    | with_reducible refine wrapperRun_keeps (fun _ _ => ?_) ?_
    | with_reducible apply emit_keeps
    | with_reducible apply modWrap_keeps
    | with_reducible apply AKeeps.next
    | split)

theorem execWsMbistDone_keeps {s₀ : State} {rows : List FailRow} {s : State} (h : Keeps s₀ s) :
    AKeeps s₀ (execWsMbistDone rows s) := by
  unfold execWsMbistDone
  try dsimp only
  repeat' (first
    | with_reducible assumption
    | with_reducible apply modWrap_keeps
    | with_reducible apply AKeeps.next
    | split)

theorem execWsMbistRead_keeps {s₀ : State} {s : State} (h : Keeps s₀ s) :
    AKeeps s₀ (execWsMbistRead s) := by
  unfold execWsMbistRead
  try dsimp only
  repeat' (first
    | with_reducible assumption
    | with_reducible refine wrapperRun_keeps (fun _ _ => ?_) ?_
    | with_reducible apply emit_keeps
    | with_reducible apply AKeeps.next)

theorem endSection_keeps {s₀ : State} {k : Nat} {res : Nat} {s : State} (h : Keeps s₀ s) :
    Keeps s₀ (endSection k res s) := by
  unfold endSection
  try dsimp only
  repeat' (first
    | with_reducible assumption
    | with_reducible apply modLoader_keeps
    | with_reducible apply logEvent_keeps
    | split)

theorem endLive_keeps {s₀ : State} {res : Nat} {s : State} (h : Keeps s₀ s) :
    Keeps s₀ (endLive res s) := by
  unfold endLive
  try dsimp only
  repeat' (first
    | with_reducible assumption
    | with_reducible apply logEvent_keeps
    | split
    | dsimp only
    | with_reducible apply Keeps.upd)

theorem bankTurnAway_keeps {s₀ : State} {n : Nat} {s : State} (h : Keeps s₀ s) :
    Keeps s₀ (bankTurnAway n s) :=
  foldl_keeps (fun _ _ h => completeNode_keeps h) _ (modBank_keeps h)

theorem wedgeBank_keeps {s₀ : State} {n : Nat} {s : State} (h : Keeps s₀ s) :
    Keeps s₀ (wedgeBank n s) := by
  unfold wedgeBank
  try dsimp only
  repeat' (first
    | with_reducible assumption
    | with_reducible apply bankTurnAway_keeps
    | with_reducible apply logEvent_keeps
    | with_reducible apply modBank_keeps
    | split)

theorem wedgeRecipes_keeps {s₀ : State} {s : State} (h : Keeps s₀ s) :
    Keeps s₀ (wedgeRecipes s) := by
  unfold wedgeRecipes
  try dsimp only
  repeat' (first
    | with_reducible assumption
    | with_reducible apply logEvent_keeps
    | with_reducible apply modHealth_keeps
    | split)

theorem wedgeSeq_keeps {s₀ : State} {s : State} (h : Keeps s₀ s) :
    Keeps s₀ (wedgeSeq s) := by
  unfold wedgeSeq
  try dsimp only
  repeat' (first
    | with_reducible assumption
    | with_reducible apply logEvent_keeps
    | with_reducible apply modHealth_keeps
    | split)

theorem sideWrite_keeps {s₀ : State} {n : Nat} {offset : BitVec 12} {data : Word} {s : State} (h : Keeps s₀ s) :
    Keeps s₀ (sideWrite n offset data s) := by
  unfold sideWrite
  try dsimp only
  repeat' (first
    | with_reducible assumption
    | with_reducible apply modBank_keeps
    | split)

theorem switchDone_keeps {s₀ : State} {n : Nat} {s : State} (h : Keeps s₀ s) :
    Keeps s₀ (switchDone n s) := by
  unfold switchDone
  try dsimp only
  repeat' (first
    | with_reducible assumption
    | with_reducible apply bankTurnAway_keeps
    | with_reducible apply modBank_keeps
    | with_reducible apply completeNode_keeps
    | split)

theorem cbFlip_keeps {s₀ : State} {n : Nat} {c : Consumer} {s : State} (h : Keeps s₀ s) :
    Keeps s₀ (cbFlip n c s) := by
  unfold cbFlip
  try dsimp only
  repeat' (first
    | with_reducible assumption
    | with_reducible apply modBank_keeps
    | with_reducible apply switchDone_keeps
    | split)

theorem cbFlipAll_keeps {s₀ : State} {c : Consumer} {s : State} (h : Keeps s₀ s) :
    Keeps s₀ (cbFlipAll c s) := by
  unfold cbFlipAll
  try dsimp only
  repeat' (first
    | with_reducible assumption
    | with_reducible apply cbFlip_keeps
    | with_reducible refine foldl_keeps (fun _ _ _ => ?_) _ ?_)

theorem switchStart_keeps {s₀ : State} {n : Nat} {node : Option NodeRef} {s : State} (h : Keeps s₀ s) :
    Keeps s₀ (switchStart n node s) := by
  have h1 : Keeps s₀ { s with slices := (s.slices.map (fun sl => sliceMeets sl n ((bank s n).side (!(bank s n).live))
      (!(bank s n).live))).map (·.1) } :=
    h.of_parts rfl rfl rfl rfl rfl rfl rfl (by simp) rfl rfl rfl id
  unfold switchStart
  dsimp only
  split
  · exact switchDone_keeps (modBank_keeps h1)
  · exact modBank_keeps h1

theorem runActs_keeps {s₀ : State} {n : Nat} {acts : List CbAct} {after : Bool} {s : State} (h : Keeps s₀ s) :
    Keeps s₀ (runActs n acts after s) := by
  induction acts generalizing after s with
  | nil => exact modBank_keeps h
  | cons x xs ih =>
    cases x <;> rw [runActs] <;> repeat' (first
      | with_reducible assumption
      | with_reducible apply ih
      | with_reducible apply switchStart_keeps
      | with_reducible apply modBank_keeps
      | split)

theorem cbCtrlWrite_keeps {s₀ : State} {n : Nat} {presetId : BitVec 4} {load : Bool} {commit : Bool} {switch : Bool} {s : State} (h : Keeps s₀ s) :
    Keeps s₀ (cbCtrlWrite n presetId load commit switch s) := by
  unfold cbCtrlWrite
  try dsimp only
  repeat' (first
    | with_reducible assumption
    | with_reducible apply modBank_keeps
    | with_reducible apply runActs_keeps
    | split)

theorem checkDone_keeps {s₀ : State} {n : Nat} {s : State} (h : Keeps s₀ s) :
    Keeps s₀ (checkDone n s) := by
  unfold checkDone
  try dsimp only
  repeat' (first
    | with_reducible assumption
    | with_reducible apply modBank_keeps
    | with_reducible apply endSection_keeps
    | with_reducible apply endLive_keeps
    | with_reducible apply runActs_keeps
    | split)

end Sys2Proof.Machine
end

