-- ==== Sys2Proof/Laws/KeepsUnits.lean ====
section
/-! SUPPORT. What the lift slices, the loader, the DMA engines and the link codec keep. -/

namespace Sys2Proof.Machine

theorem liftCommit_keeps {s₀ : State} {i : Nat} {x : LiftRun} {s : State} (h : Keeps s₀ s) :
    Keeps s₀ (liftCommit i x s) := by
  unfold liftCommit
  try dsimp only
  repeat' (first
    | with_reducible assumption
    | with_reducible apply modSlice_keeps
    | with_reducible apply logEvent_keeps
    | with_reducible apply countUe_keeps
    | with_reducible apply cbFlip_keeps
    | with_reducible refine foldl_keeps (fun _ _ _ => ?_) _ ?_)

theorem liftRun_keeps {s₀ : State} {i : Nat} {s : State} (h : Keeps s₀ s) :
    Keeps s₀ (liftRun i s) := by
  unfold liftRun
  try dsimp only
  repeat' (first
    | with_reducible assumption
    | with_reducible apply liftCommit_keeps)

theorem sliceStop_keeps {s₀ : State} {i : Nat} {s : State} (h : Keeps s₀ s) :
    Keeps s₀ (sliceStop i s) := by
  unfold sliceStop
  try dsimp only
  repeat' (first
    | with_reducible assumption
    | with_reducible apply liftCommit_keeps)

theorem sliceOffSwitches_keeps {s₀ : State} {i : Nat} {s : State} (h : Keeps s₀ s) :
    Keeps s₀ (sliceOffSwitches i s) := by
  unfold sliceOffSwitches
  try dsimp only
  repeat' (first
    | with_reducible assumption
    | with_reducible apply cbFlip_keeps
    | with_reducible refine foldl_keeps (fun _ _ _ => ?_) _ ?_
    | with_reducible refine foldl_fst_keeps (fun _ _ _ => ?_) _ ?_
    | split)

theorem lftCfgSet_keeps {s₀ : State} {i : Nat} {v : Word} {s : State} (h : Keeps s₀ s) :
    Keeps s₀ (lftCfgSet i v s) := by
  unfold lftCfgSet
  try dsimp only
  repeat' (first
    | with_reducible assumption
    | with_reducible apply modSlice_keeps
    | split)

theorem execLiftResetAssert_keeps {s₀ : State} {i : Nat} {s : State} (h : Keeps s₀ s) :
    AKeeps s₀ (execLiftResetAssert i s) := by
  unfold execLiftResetAssert
  try dsimp only
  repeat' (first
    | with_reducible assumption
    | with_reducible apply modSlice_keeps
    | with_reducible apply sliceOffSwitches_keeps
    | with_reducible apply sliceStop_keeps
    | with_reducible apply emit_keeps
    | with_reducible apply AKeeps.next
    | with_reducible refine AKeeps.inRun h ?_
    | split)

theorem execLiftResetRelease_keeps {s₀ : State} {i : Nat} {fails : List Nat} {s : State} (h : Keeps s₀ s) :
    AKeeps s₀ (execLiftResetRelease i fails s) := by
  unfold execLiftResetRelease
  try dsimp only
  repeat' (first
    | with_reducible assumption
    | with_reducible apply modSlice_keeps
    | with_reducible apply logEvent_keeps
    | with_reducible apply AKeeps.next
    | with_reducible refine AKeeps.inRun h ?_
    | with_reducible refine foldl_keeps (fun _ _ _ => ?_) _ ?_
    | with_reducible refine foldl_fst_keeps (fun _ _ _ => ?_) _ ?_
    | split)

theorem lftCfgWrite_keeps {s₀ : State} {i : Nat} {v : Word} {s : State} (h : Keeps s₀ s) :
    Keeps s₀ (lftCfgWrite i v s) := by
  unfold lftCfgWrite
  try dsimp only
  repeat' (first
    | with_reducible assumption
    | with_reducible apply modSlice_keeps
    | with_reducible apply lftCfgSet_keeps
    | split)

theorem execLiftCfgWrite_keeps {s₀ : State} {i : Nat} {v : Word} {s : State} (h : Keeps s₀ s) :
    AKeeps s₀ (execLiftCfgWrite i v s) := by
  unfold execLiftCfgWrite
  try dsimp only
  repeat' (first
    | with_reducible assumption
    | with_reducible apply lftCfgWrite_keeps
    | with_reducible apply emit_keeps
    | with_reducible apply AKeeps.next
    | with_reducible refine AKeeps.inRun h ?_)

theorem execLiftWindowLoad_keeps {s₀ : State} {i : Nat} {w : Nat} {s : State} (h : Keeps s₀ s) :
    AKeeps s₀ (execLiftWindowLoad i w s) := by
  unfold execLiftWindowLoad
  try dsimp only
  repeat' (first
    | with_reducible assumption
    | with_reducible apply emit_keeps
    | with_reducible apply modSlice_keeps
    | with_reducible apply AKeeps.next
    | with_reducible refine AKeeps.inRun h ?_
    | split)

theorem execLclTransferTimeout_keeps {s₀ : State} {i : Nat} {s : State} (h : Keeps s₀ s) :
    AKeeps s₀ (execLclTransferTimeout i s) := by
  unfold execLclTransferTimeout
  try dsimp only
  repeat' (first
    | with_reducible assumption
    | with_reducible apply modSlice_keeps
    | with_reducible apply sliceOffSwitches_keeps
    | with_reducible apply AKeeps.next
    | with_reducible refine AKeeps.inRun h ?_
    | split)

theorem execLiftCodeBeat_keeps {s₀ : State} {i : Nat} {b : CodeBeat} {s : State} (h : Keeps s₀ s) :
    AKeeps s₀ (execLiftCodeBeat i b s) := by
  unfold execLiftCodeBeat
  try dsimp only
  repeat' (first
    | with_reducible assumption
    | with_reducible apply liftRun_keeps
    | with_reducible apply modSlice_keeps
    | with_reducible apply AKeeps.next
    | with_reducible refine AKeeps.inRun h ?_
    | split)

theorem execLiftScaleLine_keeps {s₀ : State} {i : Nat} {line : List Byte} {first : Bool} {ue : Bool} {s : State} (h : Keeps s₀ s) :
    AKeeps s₀ (execLiftScaleLine i line first ue s) := by
  unfold execLiftScaleLine
  try dsimp only
  repeat' (first
    | with_reducible assumption
    | with_reducible apply liftRun_keeps
    | with_reducible apply modSlice_keeps
    | with_reducible apply AKeeps.next
    | with_reducible refine AKeeps.inRun h ?_
    | split)

theorem execLiftLineTimeout_keeps {s₀ : State} {i : Nat} {s : State} (h : Keeps s₀ s) :
    AKeeps s₀ (execLiftLineTimeout i s) := by
  unfold execLiftLineTimeout
  try dsimp only
  repeat' (first
    | with_reducible assumption
    | with_reducible apply liftRun_keeps
    | with_reducible apply modSlice_keeps
    | with_reducible apply AKeeps.next
    | with_reducible refine AKeeps.inRun h ?_
    | split)

theorem execLiftOutputBeat_keeps {s₀ : State} {i : Nat} {s : State} (h : Keeps s₀ s) :
    AKeeps s₀ (execLiftOutputBeat i s) := by
  unfold execLiftOutputBeat
  try dsimp only
  repeat' (first
    | with_reducible assumption
    | with_reducible apply emit_keeps
    | with_reducible apply modSlice_keeps
    | with_reducible apply AKeeps.next
    | with_reducible refine AKeeps.inRun h ?_
    | split)

theorem execLiftAliveToggle_keeps {s₀ : State} {i : Nat} {s : State} (h : Keeps s₀ s) :
    AKeeps s₀ (execLiftAliveToggle i s) := by
  unfold execLiftAliveToggle
  try dsimp only
  repeat' (first
    | with_reducible assumption
    | with_reducible apply emit_keeps
    | with_reducible apply modSlice_keeps
    | with_reducible apply AKeeps.next
    | with_reducible refine AKeeps.inRun h ?_
    | split)

theorem execLiftPartnerLost_keeps {s₀ : State} {i : Nat} {s : State} (h : Keeps s₀ s) :
    AKeeps s₀ (execLiftPartnerLost i s) := by
  unfold execLiftPartnerLost
  try dsimp only
  repeat' (first
    | with_reducible assumption
    | with_reducible apply sliceOffSwitches_keeps
    | with_reducible apply logEvent_keeps
    | with_reducible apply modSlice_keeps
    | with_reducible apply sliceStop_keeps
    | with_reducible apply AKeeps.next
    | with_reducible refine AKeeps.inRun h ?_
    | split)

theorem execLiftPartnerReturn_keeps {s₀ : State} {i : Nat} {s : State} (h : Keeps s₀ s) :
    AKeeps s₀ (execLiftPartnerReturn i s) := by
  unfold execLiftPartnerReturn
  try dsimp only
  repeat' (first
    | with_reducible assumption
    | with_reducible apply modSlice_keeps
    | with_reducible apply AKeeps.next
    | with_reducible refine AKeeps.inRun h ?_
    | split)

theorem lftClear_keeps {s₀ : State} {i : Nat} {s : State} (h : Keeps s₀ s) :
    Keeps s₀ (lftClear i s) := by
  unfold lftClear
  try dsimp only
  repeat' (first
    | with_reducible assumption
    | with_reducible apply modSlice_keeps
    | split)

theorem execLftClrCounters_keeps {s₀ : State} {i : Nat} {s : State} (h : Keeps s₀ s) :
    AKeeps s₀ (execLftClrCounters i s) := by
  unfold execLftClrCounters
  try dsimp only
  repeat' (first
    | with_reducible assumption
    | with_reducible apply lftClear_keeps
    | with_reducible apply emit_keeps
    | with_reducible apply AKeeps.next
    | with_reducible refine AKeeps.inRun h ?_)

theorem retireAtReset_keeps {s₀ : State} {r : Nat} {c : Nat} {cause : Nat} {s : State} (h : Keeps s₀ s) :
    Keeps s₀ (retireAtReset r c cause s) := by
  unfold retireAtReset
  try dsimp only
  repeat' (first
    | with_reducible assumption
    | with_reducible apply modPhys_keeps
    | with_reducible apply modPos_keeps
    | with_reducible apply modRegion_keeps
    | with_reducible apply logEvent_keeps
    | split)

theorem repairEntry_keeps {s₀ : State} {k : Nat} {e : List Byte} {s : State} (h : Keeps s₀ s) :
    Keeps s₀ (repairEntry k e s) := by
  unfold repairEntry
  try dsimp only
  repeat' (first
    | with_reducible assumption
    | with_reducible apply logEvent_keeps
    | with_reducible apply retireAtReset_keeps
    | with_reducible apply modLoader_keeps
    | split)

theorem vfyPresent_keeps {s₀ : State} {p : Presented} {e : Section} {sect : Nat} {bytes : List Byte} {s : State} (h : Keeps s₀ s) :
    Keeps s₀ (vfyPresent p e sect bytes s) := by
  unfold vfyPresent
  try dsimp only
  repeat' (first
    | with_reducible assumption
    | with_reducible apply emit_keeps
    | split
    | dsimp only
    | with_reducible apply Keeps.upd)

theorem vfyNext_keeps {s₀ : State} {s : State} (h : Keeps s₀ s) :
    Keeps s₀ (vfyNext s) := by
  unfold vfyNext
  try dsimp only
  repeat' (first
    | with_reducible assumption
    | with_reducible apply vfyPresent_keeps
    | with_reducible apply modLoader_keeps
    | split
    | dsimp only
    | with_reducible apply Keeps.upd)

theorem readSection_keeps {s₀ : State} {k : Nat} {tries : Nat} {s : State} (h : Keeps s₀ s) :
    Keeps s₀ (readSection k tries s) := by
  unfold readSection
  try dsimp only
  repeat' (first
    | with_reducible assumption
    | with_reducible apply emit_keeps
    | with_reducible apply modLoader_keeps)

theorem takeSections_keeps {s₀ : State} {x0 : Nat} {x1 : State} (h : Keeps s₀ x1) :
    Keeps s₀ (takeSections x0 x1) := by
  induction x0 generalizing x1 with
  | zero => unfold takeSections; first | exact h | exact Keeps.upd h
  | succ k ih =>
  rw [takeSections]
  try dsimp only
  repeat' (first
    | with_reducible assumption
    | with_reducible apply ih
    | with_reducible apply modLoader_keeps
    | with_reducible apply endSection_keeps
    | with_reducible apply readSection_keeps
    | split)

theorem bootDone_keeps {s₀ : State} {s : State} (h : Keeps s₀ s) :
    Keeps s₀ (bootDone s) := by
  unfold bootDone
  try dsimp only
  repeat' (first
    | with_reducible assumption
    | with_reducible apply modLoader_keeps
    | with_reducible apply logEvent_keeps)

theorem ldrAdvance_keeps {s₀ : State} {x0 : Nat} {x1 : State} (h : Keeps s₀ x1) :
    Keeps s₀ (ldrAdvance x0 x1) := by
  induction x0 generalizing x1 with
  | zero => unfold ldrAdvance; first | exact h | exact Keeps.upd h
  | succ k ih =>
  rw [ldrAdvance]
  try dsimp only
  repeat' (first
    | with_reducible assumption
    | with_reducible apply ih
    | with_reducible apply vfyNext_keeps
    | with_reducible apply takeSections_keeps
    | with_reducible apply modLoader_keeps
    | with_reducible apply bootDone_keeps
    | split)

theorem advance_keeps {s₀ : State} {s : State} (h : Keeps s₀ s) :
    Keeps s₀ (advance s) := by
  unfold advance
  try dsimp only
  repeat' (first
    | with_reducible assumption
    | with_reducible apply ldrAdvance_keeps)

theorem slotBad_keeps {s₀ : State} {s : State} (h : Keeps s₀ s) :
    Keeps s₀ (slotBad s) := by
  unfold slotBad
  try dsimp only
  repeat' (first
    | with_reducible assumption
    | with_reducible apply logEvent_keeps
    | with_reducible apply emit_keeps
    | with_reducible apply modLoader_keeps
    | with_reducible apply advance_keeps
    | split)

theorem applyCodebook_keeps {s₀ : State} {e : Section} {bytes : List Byte} {user : CbUser} {s : State} (h : Keeps s₀ s) :
    Keeps s₀ (applyCodebook e bytes user s) := by
  unfold applyCodebook
  try dsimp only
  repeat' (first
    | with_reducible assumption
    | with_reducible apply modBank_keeps
    | with_reducible apply endSection_keeps
    | with_reducible apply endLive_keeps
    | with_reducible apply runActs_keeps
    | split)

theorem writeRecipes_keeps {s₀ : State} {n : Nat} {bytes : List Byte} {s : State} (h : Keeps s₀ s) :
    Keeps s₀ (writeRecipes n bytes s) := by
  refine h.of_parts rfl rfl rfl ?_ rfl rfl rfl rfl rfl rfl rfl id
  simp only [writeRecipes, patch, List.length_take, List.length_append, List.length_drop]
  omega

theorem writeLiftCfg_keeps {s₀ : State} {t : Nat} {bytes : List Byte} {s : State} (h : Keeps s₀ s) :
    Keeps s₀ (writeLiftCfg t bytes s) := by
  unfold writeLiftCfg
  try dsimp only
  repeat' (first
    | with_reducible assumption
    | with_reducible apply lftCfgSet_keeps
    | with_reducible refine foldl_keeps (fun _ _ _ => ?_) _ ?_
    | with_reducible refine foldl_fst_keeps (fun _ _ _ => ?_) _ ?_
    | split)

theorem applySection_keeps {s₀ : State} {k : Nat} {bytes : List Byte} {s : State} (h : Keeps s₀ s) :
    Keeps s₀ (applySection k bytes s) := by
  unfold applySection
  try dsimp only
  repeat' (first
    | with_reducible assumption
    | with_reducible apply endSection_keeps
    | with_reducible apply modLoader_keeps
    | with_reducible apply repairEntry_keeps
    | with_reducible apply applyCodebook_keeps
    | with_reducible apply writeRecipes_keeps
    | with_reducible apply writeLiftCfg_keeps
    | with_reducible refine foldl_keeps (fun _ _ _ => ?_) _ ?_
    | with_reducible refine foldl_fst_keeps (fun _ _ _ => ?_) _ ?_
    | split
    | dsimp only
    | with_reducible apply Keeps.upd_seq)

theorem liveCodebook_keeps {s₀ : State} {s : State} (h : Keeps s₀ s) :
    Keeps s₀ (liveCodebook s) := by
  unfold liveCodebook
  try dsimp only
  repeat' (first
    | with_reducible assumption
    | with_reducible apply endLive_keeps
    | with_reducible apply applyCodebook_keeps
    | split
    | dsimp only
    | with_reducible apply Keeps.upd)

theorem applyLive_keeps {s₀ : State} {s : State} (h : Keeps s₀ s) :
    Keeps s₀ (applyLive s) := by
  unfold applyLive
  try dsimp only
  repeat' (first
    | with_reducible assumption
    | with_reducible apply endLive_keeps
    | with_reducible apply liveCodebook_keeps
    | with_reducible apply writeRecipes_keeps
    | with_reducible apply writeLiftCfg_keeps
    | split
    | dsimp only
    | with_reducible apply Keeps.upd)

theorem liveEntryRead_keeps {s₀ : State} {bytes : Option (List Byte)} {s : State} (h : Keeps s₀ s) :
    Keeps s₀ (liveEntryRead bytes s) := by
  unfold liveEntryRead
  try dsimp only
  repeat' (first
    | with_reducible assumption
    | with_reducible apply endLive_keeps
    | with_reducible apply vfyNext_keeps
    | with_reducible apply startRead_keeps
    | split
    | dsimp only
    | with_reducible apply Keeps.upd)

theorem liveSectionRead_keeps {s₀ : State} {bytes : Option (List Byte)} {s : State} (h : Keeps s₀ s) :
    Keeps s₀ (liveSectionRead bytes s) := by
  unfold liveSectionRead
  try dsimp only
  repeat' (first
    | with_reducible assumption
    | with_reducible apply endLive_keeps
    | with_reducible apply vfyNext_keeps
    | split
    | dsimp only
    | with_reducible apply Keeps.upd)

theorem execLdrHeaderReadDone_keeps {s₀ : State} {data : List Byte} {s : State} (h : Keeps s₀ s) :
    AKeeps s₀ (execLdrHeaderReadDone data s) := by
  unfold execLdrHeaderReadDone
  try dsimp only
  repeat' (first
    | with_reducible assumption
    | with_reducible apply emit_keeps
    | with_reducible apply modLoader_keeps
    | with_reducible apply slotBad_keeps
    | with_reducible apply AKeeps.next
    | with_reducible refine AKeeps.inRun h ?_
    | split)

theorem execLdrTableReadDone_keeps {s₀ : State} {data : List Byte} {s : State} (h : Keeps s₀ s) :
    AKeeps s₀ (execLdrTableReadDone data s) := by
  unfold execLdrTableReadDone
  try dsimp only
  repeat' (first
    | with_reducible assumption
    | with_reducible apply advance_keeps
    | with_reducible apply modLoader_keeps
    | with_reducible apply slotBad_keeps
    | with_reducible apply AKeeps.next
    | with_reducible refine AKeeps.inRun h ?_
    | split)

theorem execLdrSectionReadDone_keeps {s₀ : State} {data : List Byte} {s : State} (h : Keeps s₀ s) :
    AKeeps s₀ (execLdrSectionReadDone data s) := by
  unfold execLdrSectionReadDone
  try dsimp only
  repeat' (first
    | with_reducible assumption
    | with_reducible apply advance_keeps
    | with_reducible apply modLoader_keeps
    | with_reducible apply readSection_keeps
    | with_reducible apply endSection_keeps
    | with_reducible apply AKeeps.next
    | with_reducible refine AKeeps.inRun h ?_
    | split)

theorem execLdrReadTimeout_keeps {s₀ : State} {s : State} (h : Keeps s₀ s) :
    AKeeps s₀ (execLdrReadTimeout s) := by
  unfold execLdrReadTimeout
  try dsimp only
  repeat' (first
    | with_reducible assumption
    | with_reducible apply slotBad_keeps
    | with_reducible apply readSection_keeps
    | with_reducible apply advance_keeps
    | with_reducible apply endSection_keeps
    | with_reducible apply modLoader_keeps
    | with_reducible apply AKeeps.next
    | with_reducible refine AKeeps.inRun h ?_
    | split)

theorem vfyFree_keeps {s₀ : State} {s : State} (h : Keeps s₀ s) :
    Keeps s₀ (vfyFree s) := by
  unfold vfyFree
  try dsimp only
  repeat' (first
    | with_reducible assumption
    | split
    | dsimp only
    | with_reducible apply Keeps.upd)

theorem execVerifyAnswer_keeps {s₀ : State} {accept : Bool} {s : State} (h : Keeps s₀ s) :
    AKeeps s₀ (execVerifyAnswer accept s) := by
  unfold execVerifyAnswer
  try dsimp only
  repeat' (first
    | with_reducible assumption
    | with_reducible apply vfyFree_keeps
    | with_reducible apply advance_keeps
    | with_reducible apply applySection_keeps
    | with_reducible apply endSection_keeps
    | with_reducible apply vfyNext_keeps
    | with_reducible apply applyLive_keeps
    | with_reducible apply endLive_keeps
    | with_reducible apply AKeeps.next
    | with_reducible refine AKeeps.inRun h ?_
    | split)

theorem execVerifyTimeout_keeps {s₀ : State} {s : State} (h : Keeps s₀ s) :
    AKeeps s₀ (execVerifyTimeout s) := by
  unfold execVerifyTimeout
  try dsimp only
  repeat' (first
    | with_reducible assumption
    | with_reducible apply advance_keeps
    | with_reducible apply endSection_keeps
    | with_reducible apply vfyFree_keeps
    | with_reducible apply vfyNext_keeps
    | with_reducible apply endLive_keeps
    | with_reducible apply AKeeps.next
    | with_reducible refine AKeeps.inRun h ?_
    | split)

theorem failStore_keeps {s₀ : State} {r : Nat} {f : FailStore} {s : State} (h : Keeps s₀ s) :
    Keeps s₀ (failStore r f s) := by
  unfold failStore
  try dsimp only
  repeat' (first
    | with_reducible assumption
    | with_reducible apply retireAtReset_keeps
    | with_reducible apply modRegion_keeps
    | with_reducible apply wedgeBank_keeps
    | with_reducible apply wedgeRecipes_keeps
    | with_reducible apply wedgeSeq_keeps
    | split
    | dsimp only
    | with_reducible apply Keeps.upd)

theorem execRegionSelftestDone_keeps {s₀ : State} {r : Nat} {fails : List SelfFail} {s : State} (h : Keeps s₀ s) :
    AKeeps s₀ (execRegionSelftestDone r fails s) := by
  unfold execRegionSelftestDone
  try dsimp only
  repeat' (first
    | with_reducible assumption
    | with_reducible apply modRegion_keeps
    | with_reducible apply emits_keeps
    | with_reducible apply failStore_keeps
    | with_reducible apply logEvent_keeps
    | with_reducible apply advance_keeps
    | with_reducible apply AKeeps.next
    | with_reducible refine AKeeps.inRun h ?_
    | with_reducible refine foldl_keeps (fun _ _ _ => ?_) _ ?_
    | with_reducible refine foldl_fst_keeps (fun _ _ _ => ?_) _ ?_
    | split)

theorem execControlSelftestDone_keeps {s₀ : State} {fails : List SelfFail} {s : State} (h : Keeps s₀ s) :
    AKeeps s₀ (execControlSelftestDone fails s) := by
  unfold execControlSelftestDone
  try dsimp only
  repeat' (first
    | with_reducible assumption
    | with_reducible apply modLoader_keeps
    | with_reducible apply failStore_keeps
    | with_reducible apply logEvent_keeps
    | with_reducible apply advance_keeps
    | with_reducible apply AKeeps.next
    | with_reducible refine AKeeps.inRun h ?_
    | with_reducible refine foldl_keeps (fun _ _ _ => ?_) _ ?_
    | with_reducible refine foldl_fst_keeps (fun _ _ _ => ?_) _ ?_
    | split)

theorem liveGo_keeps {s₀ : State} {s : State} (h : Keeps s₀ s) :
    Keeps s₀ (liveGo s) := by
  unfold liveGo
  try dsimp only
  repeat' (first
    | with_reducible assumption
    | with_reducible apply startRead_keeps
    | split
    | dsimp only
    | with_reducible apply Keeps.upd)

theorem execImgLiveGo_keeps {s₀ : State} {s : State} (h : Keeps s₀ s) :
    AKeeps s₀ (execImgLiveGo s) := by
  unfold execImgLiveGo
  try dsimp only
  repeat' (first
    | with_reducible assumption
    | with_reducible apply liveGo_keeps
    | with_reducible apply emit_keeps
    | with_reducible apply AKeeps.next
    | with_reducible refine AKeeps.inRun h ?_)

theorem execLiveCodebookApply_keeps {s₀ : State} {s : State} (h : Keeps s₀ s) :
    AKeeps s₀ (execLiveCodebookApply s) := by
  unfold execLiveCodebookApply
  try dsimp only
  repeat' (first
    | with_reducible assumption
    | with_reducible apply liveCodebook_keeps
    | with_reducible apply AKeeps.next
    | with_reducible refine AKeeps.inRun h ?_
    | split)

theorem execSeqCodeShadowSwap_keeps {s₀ : State} {s : State} (h : Keeps s₀ s) :
    AKeeps s₀ (execSeqCodeShadowSwap s) := by
  unfold execSeqCodeShadowSwap
  try dsimp only
  repeat' (first
    | with_reducible assumption
    | with_reducible apply endLive_keeps
    | with_reducible apply AKeeps.next
    | with_reducible refine AKeeps.inRun h ?_
    | split
    | dsimp only
    | with_reducible apply Keeps.upd_seq
    | with_reducible apply Keeps.upd_dom
    | with_reducible apply Keeps.upd)

theorem execCbLoadPreset_keeps {s₀ : State} {n : Nat} {presetId : BitVec 4} {commit : Bool} {switch : Bool} {s : State} (h : Keeps s₀ s) :
    AKeeps s₀ (execCbLoadPreset n presetId commit switch s) := by
  unfold execCbLoadPreset
  try dsimp only
  repeat' (first
    | with_reducible assumption
    | with_reducible apply emit_keeps
    | with_reducible apply advance_keeps
    | with_reducible apply cbCtrlWrite_keeps
    | with_reducible apply AKeeps.next
    | with_reducible refine AKeeps.inRun h ?_
    | split)

theorem execCbCommit_keeps {s₀ : State} {n : Nat} {presetId : BitVec 4} {switch : Bool} {s : State} (h : Keeps s₀ s) :
    AKeeps s₀ (execCbCommit n presetId switch s) := by
  unfold execCbCommit
  try dsimp only
  repeat' (first
    | with_reducible assumption
    | with_reducible apply emit_keeps
    | with_reducible apply cbCtrlWrite_keeps
    | with_reducible apply AKeeps.next
    | with_reducible refine AKeeps.inRun h ?_
    | split)

theorem execCbCheckDone_keeps {s₀ : State} {n : Nat} {s : State} (h : Keeps s₀ s) :
    AKeeps s₀ (execCbCheckDone n s) := by
  unfold execCbCheckDone
  try dsimp only
  repeat' (first
    | with_reducible assumption
    | with_reducible apply advance_keeps
    | with_reducible apply checkDone_keeps
    | with_reducible apply AKeeps.next
    | with_reducible refine AKeeps.inRun h ?_
    | split)

theorem execCbSideWrite_keeps {s₀ : State} {n : Nat} {offset : BitVec 12} {data : Word} {s : State} (h : Keeps s₀ s) :
    AKeeps s₀ (execCbSideWrite n offset data s) := by
  unfold execCbSideWrite
  try dsimp only
  repeat' (first
    | with_reducible assumption
    | with_reducible apply emit_keeps
    | with_reducible apply sideWrite_keeps
    | with_reducible apply AKeeps.next
    | with_reducible refine AKeeps.inRun h ?_
    | split)

theorem dmaPresent_keeps {s₀ : State} {r : Nat} {ch : Nat} {p : Nat} {k : FlightKind} {sp : Span} {len : Nat} {pos : Nat} {width : Nat} {data : List Byte} {s : State} (h : Keeps s₀ s) :
    Keeps s₀ (dmaPresent r ch p k sp len pos width data s) := by
  unfold dmaPresent
  try dsimp only
  repeat' (first
    | with_reducible assumption
    | with_reducible apply modChan_keeps
    | ((with_reducible apply modPort_keeps_rest); exact grant_rest _ _)
    | with_reducible apply present_keeps)

theorem execDmaBurstGrant_keeps {s₀ : State} {r : Nat} {wr : Bool} {s : State} (h : Keeps s₀ s) :
    AKeeps s₀ (execDmaBurstGrant r wr s) := by
  unfold execDmaBurstGrant
  try dsimp only
  repeat' (first
    | with_reducible assumption
    | with_reducible apply modDma_keeps
    | with_reducible apply modChan_keeps
    | with_reducible apply dmaPresent_keeps
    | with_reducible apply drainRegion_keeps
    | with_reducible apply AKeeps.next
    | with_reducible refine AKeeps.inRun h ?_
    | split)

theorem decide'_keeps {s₀ : State} {r : Nat} {ch : Nat} {status : Nat} {cause : Nat} {s : State} (h : Keeps s₀ s) :
    Keeps s₀ (decide' r ch status cause s) := by
  unfold decide'
  try dsimp only
  repeat' (first
    | with_reducible assumption
    | with_reducible apply modChan_keeps)

theorem blockStart_keeps {s₀ : State} {r : Nat} {ch : Nat} {addr : Nat} {ws : List Word} {crc : Bool} {s : State} (h : Keeps s₀ s) :
    Keeps s₀ (blockStart r ch addr ws crc s) := by
  unfold blockStart
  try dsimp only
  repeat' (first
    | with_reducible assumption
    | with_reducible apply modChan_keeps
    | with_reducible apply decide'_keeps
    | split)

theorem dmaNodeStart_keeps {s₀ : State} {r : Nat} {ch : Nat} {n : NodeRef} {chain : Nat} {prio : Nat} {s : State} (h : Keeps s₀ s) :
    Keeps s₀ (dmaNodeStart r ch n chain prio s) := by
  unfold dmaNodeStart
  try dsimp only
  repeat' (first
    | with_reducible assumption
    | with_reducible apply modChan_keeps)

theorem dmaIdle_keeps {s₀ : State} {r : Nat} {ch : Nat} {s : State} (h : Keeps s₀ s) :
    Keeps s₀ (dmaIdle r ch s) := by
  unfold dmaIdle
  try dsimp only
  repeat' (first
    | with_reducible assumption
    | with_reducible apply modChan_keeps
    | with_reducible apply modDma_keeps
    | split)

theorem execDmaRunEnd_keeps {s₀ : State} {r : Nat} {ch : Nat} {s : State} (h : Keeps s₀ s) :
    AKeeps s₀ (execDmaRunEnd r ch s) := by
  unfold execDmaRunEnd
  try dsimp only
  repeat' (first
    | with_reducible assumption
    | with_reducible apply drainRegion_keeps
    | with_reducible apply modChan_keeps
    | with_reducible apply completeNode_keeps
    | with_reducible apply dmaIdle_keeps
    | with_reducible apply startWrite_keeps
    | with_reducible apply AKeeps.next
    | with_reducible refine AKeeps.inRun h ?_
    | split)

theorem dmaRecEnd_keeps {s₀ : State} {r : Nat} {ch : Nat} {seq : Bool} {fail : Bool} {s : State} (h : Keeps s₀ s) :
    Keeps s₀ (dmaRecEnd r ch seq fail s) := by
  unfold dmaRecEnd
  try dsimp only
  repeat' (first
    | with_reducible assumption
    | with_reducible apply dmaIdle_keeps
    | with_reducible apply logEvent_keeps
    | with_reducible apply modChan_keeps
    | split)

theorem dmaSeqWrite_keeps {s₀ : State} {r : Nat} {ch : Nat} {s : State} (h : Keeps s₀ s) :
    Keeps s₀ (dmaSeqWrite r ch s) := by
  unfold dmaSeqWrite
  try dsimp only
  repeat' (first
    | with_reducible assumption
    | with_reducible apply drainRegion_keeps
    | with_reducible apply startWrite_keeps
    | with_reducible apply modChan_keeps
    | split)

theorem execDmaHop_keeps {s₀ : State} {r : Nat} {ch : Nat} {s : State} (h : Keeps s₀ s) :
    AKeeps s₀ (execDmaHop r ch s) := by
  unfold execDmaHop
  try dsimp only
  repeat' (first
    | with_reducible assumption
    | with_reducible apply modChan_keeps
    | with_reducible apply decide'_keeps
    | with_reducible apply AKeeps.next
    | with_reducible refine AKeeps.inRun h ?_
    | split)

theorem dmaFail_keeps {s₀ : State} {r : Nat} {ch : Nat} {cause : Nat} {addr : Nat} {s : State} (h : Keeps s₀ s) :
    Keeps s₀ (dmaFail r ch cause addr s) := by
  unfold dmaFail
  try dsimp only
  repeat' (first
    | with_reducible assumption
    | with_reducible apply drainRegion_keeps
    | with_reducible apply modDma_keeps)

theorem dmaSettle_keeps {s₀ : State} {r : Nat} {ch : Nat} {id : Nat} {addr : Nat} {res : DmaRes} {s : State} (h : Keeps s₀ s) :
    Keeps s₀ (dmaSettle r ch id addr res s) := by
  unfold dmaSettle
  try dsimp only
  repeat' (first
    | with_reducible assumption
    | with_reducible apply modChan_keeps
    | with_reducible apply blockStart_keeps
    | with_reducible apply dmaFail_keeps
    | split)

theorem stopChan_keeps {s₀ : State} {r : Nat} {culprits : List Culprit} {ch : Nat} {s : State} (h : Keeps s₀ s) :
    Keeps s₀ (stopChan r culprits ch s) := by
  unfold stopChan
  try dsimp only
  repeat' (first
    | with_reducible assumption
    | with_reducible apply decide'_keeps
    | with_reducible apply modChan_keeps
    | with_reducible apply modRegion_keeps
    | split)

theorem execDmaEngineStopped_keeps {s₀ : State} {r : Nat} {s : State} (h : Keeps s₀ s) :
    AKeeps s₀ (execDmaEngineStopped r s) := by
  unfold execDmaEngineStopped
  try dsimp only
  repeat' (first
    | with_reducible assumption
    | with_reducible apply modDma_keeps
    | with_reducible apply logEvent_keeps
    | with_reducible apply stopChan_keeps
    | with_reducible apply AKeeps.next
    | with_reducible refine AKeeps.inRun h ?_
    | with_reducible refine foldl_keeps (fun _ _ _ => ?_) _ ?_
    | with_reducible refine foldl_fst_keeps (fun _ _ _ => ?_) _ ?_
    | split)

theorem execDmaAutoResume_keeps {s₀ : State} {r : Nat} {s : State} (h : Keeps s₀ s) :
    AKeeps s₀ (execDmaAutoResume r s) := by
  unfold execDmaAutoResume
  try dsimp only
  repeat' (first
    | with_reducible assumption
    | with_reducible apply modDma_keeps
    | with_reducible apply AKeeps.next
    | with_reducible refine AKeeps.inRun h ?_
    | split)

theorem dmaResume_keeps {s₀ : State} {r : Nat} {s : State} (h : Keeps s₀ s) :
    Keeps s₀ (dmaResume r s) := by
  unfold dmaResume
  try dsimp only
  repeat' (first
    | with_reducible assumption
    | with_reducible apply modDma_keeps)

theorem execDmaResume_keeps {s₀ : State} {r : Nat} {s : State} (h : Keeps s₀ s) :
    AKeeps s₀ (execDmaResume r s) := by
  unfold execDmaResume
  try dsimp only
  repeat' (first
    | with_reducible assumption
    | with_reducible apply emit_keeps
    | with_reducible apply dmaResume_keeps
    | with_reducible apply AKeeps.next
    | with_reducible refine AKeeps.inRun h ?_
    | split)

theorem dmaOwn_keeps {s₀ : State} {r : Nat} {data : Word} {s : State} (h : Keeps s₀ s) :
    Keeps s₀ (dmaOwn r data s) := by
  unfold dmaOwn
  try dsimp only
  repeat' (first
    | with_reducible assumption
    | with_reducible apply modDma_keeps)

theorem execDmaOwnWrite_keeps {s₀ : State} {r : Nat} {data : Word} {s : State} (h : Keeps s₀ s) :
    AKeeps s₀ (execDmaOwnWrite r data s) := by
  unfold execDmaOwnWrite
  try dsimp only
  repeat' (first
    | with_reducible assumption
    | with_reducible apply emit_keeps
    | with_reducible apply dmaOwn_keeps
    | with_reducible apply AKeeps.next
    | with_reducible refine AKeeps.inRun h ?_
    | split)

theorem chanSeqErr_keeps {s₀ : State} {r : Nat} {ch : Nat} {s : State} (h : Keeps s₀ s) :
    Keeps s₀ (chanSeqErr r ch s) := by
  unfold chanSeqErr
  try dsimp only
  repeat' (first
    | with_reducible assumption
    | with_reducible apply modChan_keeps)

theorem dmaCtrl_keeps {s₀ : State} {r : Nat} {ch : Nat} {start : Bool} {disable : Bool} {s : State} (h : Keeps s₀ s) :
    Keeps s₀ (dmaCtrl r ch start disable s) := by
  unfold dmaCtrl
  try dsimp only
  repeat' (first
    | with_reducible assumption
    | with_reducible apply chanSeqErr_keeps
    | with_reducible apply blockStart_keeps
    | with_reducible apply modChan_keeps
    | with_reducible apply drainRegion_keeps
    | with_reducible apply decide'_keeps
    | split)

theorem execDmaStart_keeps {s₀ : State} {r : Nat} {ch : Nat} {s : State} (h : Keeps s₀ s) :
    AKeeps s₀ (execDmaStart r ch s) := by
  unfold execDmaStart
  try dsimp only
  repeat' (first
    | with_reducible assumption
    | with_reducible apply emit_keeps
    | with_reducible apply dmaCtrl_keeps
    | with_reducible apply AKeeps.next
    | with_reducible refine AKeeps.inRun h ?_
    | split)

theorem execDmaDisable_keeps {s₀ : State} {r : Nat} {ch : Nat} {s : State} (h : Keeps s₀ s) :
    AKeeps s₀ (execDmaDisable r ch s) := by
  unfold execDmaDisable
  try dsimp only
  repeat' (first
    | with_reducible assumption
    | with_reducible apply emit_keeps
    | with_reducible apply dmaCtrl_keeps
    | with_reducible apply AKeeps.next
    | with_reducible refine AKeeps.inRun h ?_
    | split)

theorem sendFrame_keeps {s₀ : State} {q : Nat} {f : TxFrame} {s : State} (h : Keeps s₀ s) :
    Keeps s₀ (sendFrame q f s) := by
  unfold sendFrame
  try dsimp only
  repeat' (first
    | with_reducible assumption
    | with_reducible apply modLnk_keeps
    | split)

theorem encodeFrame_keeps {s₀ : State} {p : Nat} {i : Nat} {last : Bool} {s : State} (h : Keeps s₀ s) :
    Keeps s₀ (encodeFrame p i last s) := by
  unfold encodeFrame
  try dsimp only
  repeat' (first
    | with_reducible assumption
    | with_reducible apply modSess_keeps
    | with_reducible apply sendFrame_keeps
    | split)

theorem gatherFurrow_keeps {s₀ : State} {p : Nat} {i : Nat} {vals : List Val} {counted : Bool} {last : Bool} {s : State} (h : Keeps s₀ s) :
    Keeps s₀ (gatherFurrow p i vals counted last s) := by
  unfold gatherFurrow
  try dsimp only
  repeat' (first
    | with_reducible assumption
    | with_reducible apply modSess_keeps
    | with_reducible apply encodeFrame_keeps
    | split)

theorem furrowDone_keeps {s₀ : State} {p : Nat} {i : Nat} {s : State} (h : Keeps s₀ s) :
    Keeps s₀ (furrowDone p i s) := by
  unfold furrowDone
  try dsimp only
  repeat' (first
    | with_reducible assumption
    | with_reducible apply modSess_keeps)

theorem sendWork_keeps {s₀ : State} {p : Nat} {i : Nat} {x2 : Nat} {x3 : State} (h : Keeps s₀ x3) :
    Keeps s₀ (sendWork p i x2 x3) := by
  induction x2 generalizing p i x3 with
  | zero => unfold sendWork; first | exact h | exact Keeps.upd h
  | succ k ih =>
  rw [sendWork]
  try dsimp only
  repeat' (first
    | with_reducible assumption
    | with_reducible apply ih
    | with_reducible apply modSess_keeps
    | with_reducible apply furrowDone_keeps
    | with_reducible apply gatherFurrow_keeps
    | split)

theorem deliver_keeps {s₀ : State} {p : Nat} {i : Nat} {vals : List (Option Q)} {s : State} (h : Keeps s₀ s) :
    Keeps s₀ (deliver p i vals s) := by
  unfold deliver
  try dsimp only
  repeat' (first
    | with_reducible assumption
    | with_reducible apply modSess_keeps)

theorem reduceFurrow_keeps {s₀ : State} {p : Nat} {i : Nat} {vs : List (Option Q)} {ps : List Val} {counted : Bool} {s : State} (h : Keeps s₀ s) :
    Keeps s₀ (reduceFurrow p i vs ps counted s) := by
  unfold reduceFurrow
  try dsimp only
  repeat' (first
    | with_reducible assumption
    | with_reducible apply gatherFurrow_keeps
    | with_reducible apply furrowDone_keeps
    | with_reducible apply deliver_keeps
    | split)

theorem reduceWork_keeps {s₀ : State} {p : Nat} {i : Nat} {force : Bool} {x3 : Nat} {x4 : State} (h : Keeps s₀ x4) :
    Keeps s₀ (reduceWork p i force x3 x4) := by
  induction x3 generalizing p i force x4 with
  | zero => unfold reduceWork; first | exact h | exact Keeps.upd h
  | succ k ih =>
  rw [reduceWork]
  try dsimp only
  repeat' (first
    | with_reducible assumption
    | with_reducible apply ih
    | with_reducible apply reduceFurrow_keeps
    | with_reducible apply modSess_keeps
    | split)

theorem reduceAll_keeps {s₀ : State} {p : Nat} {i : Nat} {s : State} (h : Keeps s₀ s) : Keeps s₀ (reduceAll p i s) := by
  unfold reduceAll
  exact reduceWork_keeps h

theorem relayLost_keeps {s₀ : State} {p : Nat} {i : Nat} {x2 : Nat} {x3 : State} (h : Keeps s₀ x3) :
    Keeps s₀ (relayLost p i x2 x3) := by
  induction x2 generalizing p i x3 with
  | zero => unfold relayLost; first | exact h | exact Keeps.upd h
  | succ k ih =>
  rw [relayLost]
  try dsimp only
  repeat' (first
    | with_reducible assumption
    | with_reducible apply ih
    | with_reducible apply modSess_keeps
    | with_reducible apply sendFrame_keeps
    | with_reducible apply furrowDone_keeps
    | with_reducible apply deliver_keeps
    | split)

theorem loseFurrows_keeps {s₀ : State} {p : Nat} {i : Nat} {n : Nat} {s : State} (h : Keeps s₀ s) :
    Keeps s₀ (loseFurrows p i n s) := by
  unfold loseFurrows
  try dsimp only
  repeat' (first
    | with_reducible assumption
    | with_reducible apply modSess_keeps
    | with_reducible apply relayLost_keeps
    | with_reducible apply reduceAll_keeps
    | with_reducible apply reduceWork_keeps
    | split)

theorem loseTile_keeps {s₀ : State} {p : Nat} {i : Nat} {s : State} (h : Keeps s₀ s) :
    Keeps s₀ (loseTile p i s) := by
  unfold loseTile
  try dsimp only
  repeat' (first
    | with_reducible assumption
    | with_reducible apply loseFurrows_keeps)

theorem loseOpen_keeps {s₀ : State} {p : Nat} {i : Nat} {x2 : Nat} {x3 : State} (h : Keeps s₀ x3) :
    Keeps s₀ (loseOpen p i x2 x3) := by
  induction x2 generalizing p i x3 with
  | zero => unfold loseOpen; first | exact h | exact Keeps.upd h
  | succ k ih =>
  rw [loseOpen]
  try dsimp only
  repeat' (first
    | with_reducible assumption
    | with_reducible apply ih
    | with_reducible apply loseTile_keeps
    | split)

theorem useFrame_keeps {s₀ : State} {p : Nat} {i : Nat} {f : RxFrame} {a : Nat} {b : Nat} {s : State} (h : Keeps s₀ s) :
    Keeps s₀ (useFrame p i f a b s) := by
  unfold useFrame
  try dsimp only
  repeat' (first
    | with_reducible assumption
    | with_reducible apply modSess_keeps
    | with_reducible apply sendFrame_keeps
    | with_reducible apply furrowDone_keeps
    | with_reducible apply deliver_keeps
    | with_reducible apply reduceAll_keeps
    | with_reducible apply reduceWork_keeps
    | with_reducible refine foldl_keeps (fun _ _ _ => ?_) _ ?_
    | with_reducible refine foldl_fst_keeps (fun _ _ _ => ?_) _ ?_
    | split)

theorem useRuns_keeps {s₀ : State} {p : Nat} {i : Nat} {f : RxFrame} {a : Nat} {struck : Nat → Bool} {s : State} (h : Keeps s₀ s) :
    Keeps s₀ (useRuns p i f a struck s) := by
  unfold useRuns
  try dsimp only
  repeat' (first
    | with_reducible assumption
    | with_reducible apply loseFurrows_keeps
    | with_reducible apply useFrame_keeps
    | with_reducible refine foldl_keeps (fun _ _ _ => ?_) _ ?_
    | with_reducible refine foldl_fst_keeps (fun _ _ _ => ?_) _ ?_
    | split)

theorem placeFrame_keeps {s₀ : State} {p : Nat} {i : Nat} {f : RxFrame} {struck : Nat → Bool} {s : State} (h : Keeps s₀ s) :
    Keeps s₀ (placeFrame p i f struck s) := by
  unfold placeFrame
  try dsimp only
  repeat' (first
    | with_reducible assumption
    | with_reducible apply modLnk_keeps
    | with_reducible apply useRuns_keeps
    | with_reducible apply loseFurrows_keeps
    | split)

theorem modExch_keeps {s₀ : State} {f : Exchange → Exchange} {s : State} (h : Keeps s₀ s) :
    Keeps s₀ (modExch f s) := by
  unfold modExch
  try dsimp only
  repeat' (first
    | with_reducible assumption
    | split
    | dsimp only
    | with_reducible apply Keeps.upd)

theorem agrDrop_keeps {s₀ : State} {s : State} (h : Keeps s₀ s) :
    Keeps s₀ (agrDrop s) := by
  unfold agrDrop
  try dsimp only
  repeat' (first
    | with_reducible assumption
    | with_reducible apply modExch_keeps)

theorem agrSend_keeps {s₀ : State} {k : AgrKey} {value : Nat} {phase : Nat} {s : State} (h : Keeps s₀ s) :
    Keeps s₀ (agrSend k value phase s) := by
  unfold agrSend
  try dsimp only
  repeat' (first
    | with_reducible assumption
    | with_reducible apply modExch_keeps)

theorem agrClose_keeps {s₀ : State} {k : AgrKey} {s : State} (h : Keeps s₀ s) :
    Keeps s₀ (agrClose k s) := by
  unfold agrClose
  try dsimp only
  repeat' (first
    | with_reducible assumption
    | with_reducible apply modExch_keeps)

theorem agrHand_keeps {s₀ : State} {k : AgrKey} {v : Nat} {s : State} (h : Keeps s₀ s) :
    Keeps s₀ (agrHand k v s) := by
  unfold agrHand
  try dsimp only
  repeat' (first
    | with_reducible assumption
    | with_reducible apply modExch_keeps
    | split)

theorem distribute0_keeps {s₀ : State} {k : AgrKey} {v : Nat} {s : State} (h : Keeps s₀ s) :
    Keeps s₀ (distribute0 k v s) := by
  unfold distribute0
  try dsimp only
  repeat' (first
    | with_reducible assumption
    | with_reducible apply agrHand_keeps
    | with_reducible apply agrClose_keeps
    | with_reducible apply agrSend_keeps
    | split)

theorem distribute1_keeps {s₀ : State} {k : AgrKey} {v : Nat} {s : State} (h : Keeps s₀ s) :
    Keeps s₀ (distribute1 k v s) := by
  unfold distribute1
  try dsimp only
  repeat' (first
    | with_reducible assumption
    | with_reducible apply agrClose_keeps
    | with_reducible apply distribute0_keeps
    | with_reducible apply agrSend_keeps
    | split)

theorem agrOpenNew_keeps {s₀ : State} {k : AgrKey} {x : Nat} {s : State} (h : Keeps s₀ s) :
    Keeps s₀ (agrOpenNew k x s) := by
  unfold agrOpenNew
  exact modExch_keeps h

theorem collect1_keeps {s₀ : State} {k : AgrKey} {x : Nat} {s : State} (h : Keeps s₀ s) :
    Keeps s₀ (collect1 k x s) := by
  unfold collect1
  try dsimp only
  repeat' (first
    | with_reducible assumption
    | with_reducible apply agrOpenNew_keeps
    | with_reducible apply distribute1_keeps
    | with_reducible apply agrSend_keeps
    | with_reducible apply modExch_keeps
    | split)

theorem leader0_keeps {s₀ : State} {k : AgrKey} {m : Nat} {s : State} (h : Keeps s₀ s) :
    Keeps s₀ (leader0 k m s) := by
  unfold leader0
  try dsimp only
  repeat' (first
    | with_reducible assumption
    | with_reducible apply collect1_keeps
    | with_reducible apply modExch_keeps
    | with_reducible apply distribute0_keeps
    | split)

theorem agrLocalIn_keeps {s₀ : State} {c : Nat} {stream : Nat} {step : Word} {x : Nat} {s : State} (h : Keeps s₀ s) :
    Keeps s₀ (agrLocalIn c stream step x s) := by
  unfold agrLocalIn
  try dsimp only
  repeat' (first
    | with_reducible assumption
    | with_reducible apply agrOpenNew_keeps
    | with_reducible apply leader0_keeps
    | with_reducible apply agrSend_keeps
    | with_reducible apply modExch_keeps
    | split)

theorem agrCollect_keeps {s₀ : State} {e : AgrEntry} {s : State} (h : Keeps s₀ s) :
    Keeps s₀ (agrCollect e s) := by
  unfold agrCollect
  try dsimp only
  repeat' (first
    | with_reducible assumption
    | with_reducible apply agrDrop_keeps
    | with_reducible apply leader0_keeps
    | with_reducible apply agrClose_keeps
    | with_reducible apply distribute1_keeps
    | with_reducible apply agrSend_keeps
    | with_reducible apply modExch_keeps
    | split)

theorem agrEntry_keeps {s₀ : State} {e : AgrEntry} {s : State} (h : Keeps s₀ s) :
    Keeps s₀ (agrEntry e s) := by
  unfold agrEntry
  try dsimp only
  repeat' (first
    | with_reducible assumption
    | with_reducible apply agrCollect_keeps
    | with_reducible apply agrDrop_keeps
    | with_reducible apply leader0_keeps
    | with_reducible apply agrClose_keeps
    | with_reducible apply distribute1_keeps
    | with_reducible apply agrSend_keeps
    | with_reducible apply modExch_keeps
    | with_reducible apply agrHand_keeps
    | with_reducible apply distribute0_keeps
    | split)

theorem agrPump_keeps {s₀ : State} {x0 : Nat} {x1 : State} (h : Keeps s₀ x1) :
    Keeps s₀ (agrPump x0 x1) := by
  induction x0 generalizing x1 with
  | zero => unfold agrPump; first | exact h | exact Keeps.upd h
  | succ k ih =>
  rw [agrPump]
  try dsimp only
  repeat' (first
    | with_reducible assumption
    | with_reducible apply ih
    | with_reducible apply agrEntry_keeps
    | with_reducible apply modExch_keeps
    | split)

theorem agrGo_keeps {s₀ : State} {s : State} (h : Keeps s₀ s) :
    Keeps s₀ (agrGo s) := by
  unfold agrGo
  try dsimp only
  repeat' (first
    | with_reducible assumption
    | with_reducible apply agrPump_keeps)

theorem agrLocal_keeps {s₀ : State} {c : Nat} {stream : Nat} {step : Word} {x : Nat} {s : State} (h : Keeps s₀ s) :
    Keeps s₀ (agrLocal c stream step x s) := by
  unfold agrLocal
  try dsimp only
  repeat' (first
    | with_reducible assumption
    | with_reducible apply agrGo_keeps
    | with_reducible apply agrLocalIn_keeps)

theorem frameBad_keeps {s₀ : State} {p : Nat} {unknown : Bool} {s : State} (h : Keeps s₀ s) :
    Keeps s₀ (frameBad p unknown s) := by
  unfold frameBad
  try dsimp only
  repeat' (first
    | with_reducible assumption
    | with_reducible apply modLnk_keeps)

theorem takeFrame_keeps {s₀ : State} {p : Nat} {b : List Byte} {err : Bool} {struck : Nat → Bool} {s : State} (h : Keeps s₀ s) :
    Keeps s₀ (takeFrame p b err struck s) := by
  unfold takeFrame
  try dsimp only
  repeat' (first
    | with_reducible assumption
    | with_reducible apply frameBad_keeps
    | with_reducible apply agrGo_keeps
    | with_reducible apply modExch_keeps
    | with_reducible apply placeFrame_keeps
    | split)

theorem disarmSession_keeps {s₀ : State} {p : Nat} {i : Nat} {s : State} (h : Keeps s₀ s) :
    Keeps s₀ (disarmSession p i s) := by
  unfold disarmSession
  try dsimp only
  repeat' (first
    | with_reducible assumption
    | with_reducible apply modSess_keeps
    | with_reducible apply loseTile_keeps
    | with_reducible apply reduceAll_keeps
    | with_reducible apply reduceWork_keeps
    | split)

theorem sessCtrl_keeps {s₀ : State} {p : Nat} {i : Nat} {arm : Bool} {disarm : Bool} {s : State} (h : Keeps s₀ s) :
    Keeps s₀ (sessCtrl p i arm disarm s) := by
  unfold sessCtrl
  try dsimp only
  repeat' (first
    | with_reducible assumption
    | with_reducible apply modSess_keeps
    | with_reducible apply disarmSession_keeps
    | split)

theorem execLnkArm_keeps {s₀ : State} {p : Nat} {i : Nat} {s : State} (h : Keeps s₀ s) :
    AKeeps s₀ (execLnkArm p i s) := by
  unfold execLnkArm
  try dsimp only
  repeat' (first
    | with_reducible assumption
    | with_reducible apply emit_keeps
    | with_reducible apply sessCtrl_keeps
    | with_reducible apply AKeeps.next
    | with_reducible refine AKeeps.inRun h ?_
    | split)

theorem execLnkDisarm_keeps {s₀ : State} {p : Nat} {i : Nat} {s : State} (h : Keeps s₀ s) :
    AKeeps s₀ (execLnkDisarm p i s) := by
  unfold execLnkDisarm
  try dsimp only
  repeat' (first
    | with_reducible assumption
    | with_reducible apply emit_keeps
    | with_reducible apply sessCtrl_keeps
    | with_reducible apply AKeeps.next
    | with_reducible refine AKeeps.inRun h ?_
    | split)

theorem execLnkSessionIdle_keeps {s₀ : State} {p : Nat} {i : Nat} {s : State} (h : Keeps s₀ s) :
    AKeeps s₀ (execLnkSessionIdle p i s) := by
  unfold execLnkSessionIdle
  try dsimp only
  repeat' (first
    | with_reducible assumption
    | with_reducible apply modSess_keeps
    | with_reducible apply AKeeps.next
    | with_reducible refine AKeeps.inRun h ?_
    | split)

theorem execLnkLocalElements_keeps {s₀ : State} {p : Nat} {s : State} (h : Keeps s₀ s) :
    AKeeps s₀ (execLnkLocalElements p s) := by
  unfold execLnkLocalElements
  try dsimp only
  repeat' (first
    | with_reducible assumption
    | with_reducible apply modLnk_keeps
    | with_reducible apply modSess_keeps
    | with_reducible apply sendWork_keeps
    | with_reducible apply reduceAll_keeps
    | with_reducible apply reduceWork_keeps
    | with_reducible apply loseOpen_keeps
    | with_reducible apply AKeeps.next
    | with_reducible refine AKeeps.inRun h ?_
    | split)

theorem execLnkFrameTransmit_keeps {s₀ : State} {p : Nat} {s : State} (h : Keeps s₀ s) :
    AKeeps s₀ (execLnkFrameTransmit p s) := by
  unfold execLnkFrameTransmit
  try dsimp only
  repeat' (first
    | with_reducible assumption
    | with_reducible apply modLnk_keeps
    | with_reducible apply emit_keeps
    | with_reducible apply modExch_keeps
    | with_reducible apply modSess_keeps
    | with_reducible apply AKeeps.next
    | with_reducible refine AKeeps.inRun h ?_
    | split)

theorem strikeSending_keeps {s₀ : State} {p : Nat} {k : Nat} {at' : Nat} {n : Nat} {s : State} (h : Keeps s₀ s) :
    Keeps s₀ (strikeSending p k at' n s) := by
  unfold strikeSending
  try dsimp only
  repeat' (first
    | with_reducible assumption
    | with_reducible apply modSess_keeps
    | with_reducible apply modLnk_keeps
    | split)

theorem strikeBuffer_keeps {s₀ : State} {p : Nat} {i : Nat} {place : LinkHold} {at' : Nat} {n : Nat} {s : State}
    (h : Keeps s₀ s) : Keeps s₀ (strikeBuffer p i place at' n s) := by
  unfold strikeBuffer
  repeat' (first
    | with_reducible assumption
    | with_reducible apply modSess_keeps
    | with_reducible apply strikeSending_keeps
    | split)

theorem linkUpset_keeps {s₀ : State} {u : Upset} {s : State} (h : Keeps s₀ s) :
    Keeps s₀ (linkUpset u s) := by
  unfold linkUpset
  try dsimp only
  repeat' (first
    | with_reducible assumption
    | with_reducible apply strikeBuffer_keeps
    | with_reducible apply modSess_keeps
    | with_reducible apply logEvent_keeps
    | with_reducible apply countUe_keeps
    | with_reducible apply agrGo_keeps
    | with_reducible apply modExch_keeps
    | split)

theorem execLnkFrameReceive_keeps {s₀ : State} {p : Nat} {b : List Byte} {err : Bool} {ue : Option Upset} {s : State} (h : Keeps s₀ s) :
    AKeeps s₀ (execLnkFrameReceive p b err ue s) := by
  unfold execLnkFrameReceive
  try dsimp only
  repeat' (first
    | with_reducible assumption
    | with_reducible apply modLnk_keeps
    | with_reducible apply logEvent_keeps
    | with_reducible apply countUe_keeps
    | with_reducible apply linkUpset_keeps
    | with_reducible apply takeFrame_keeps
    | with_reducible apply AKeeps.next
    | with_reducible refine AKeeps.inRun h ?_
    | split)

theorem execLnkFrameTimeout_keeps {s₀ : State} {p : Nat} {i : Nat} {s : State} (h : Keeps s₀ s) :
    AKeeps s₀ (execLnkFrameTimeout p i s) := by
  unfold execLnkFrameTimeout
  try dsimp only
  repeat' (first
    | with_reducible assumption
    | with_reducible apply loseTile_keeps
    | with_reducible apply AKeeps.next
    | with_reducible refine AKeeps.inRun h ?_
    | split)

theorem execLnkAliveToggle_keeps {s₀ : State} {p : Nat} {s : State} (h : Keeps s₀ s) :
    AKeeps s₀ (execLnkAliveToggle p s) := by
  unfold execLnkAliveToggle
  try dsimp only
  repeat' (first
    | with_reducible assumption
    | with_reducible apply emit_keeps
    | with_reducible apply modLnk_keeps
    | with_reducible apply AKeeps.next
    | with_reducible refine AKeeps.inRun h ?_
    | split)

theorem dropHeld_keeps {s₀ : State} {p : Nat} {i : Nat} {s : State} (h : Keeps s₀ s) :
    Keeps s₀ (dropHeld p i s) := by
  unfold dropHeld
  try dsimp only
  repeat' (first
    | with_reducible assumption
    | with_reducible apply modSess_keeps)

theorem execLnkPartnerLost_keeps {s₀ : State} {p : Nat} {s : State} (h : Keeps s₀ s) :
    AKeeps s₀ (execLnkPartnerLost p s) := by
  unfold execLnkPartnerLost
  try dsimp only
  repeat' (first
    | with_reducible assumption
    | with_reducible apply logEvent_keeps
    | with_reducible apply modLnk_keeps
    | with_reducible apply dropHeld_keeps
    | with_reducible apply loseOpen_keeps
    | with_reducible apply AKeeps.next
    | with_reducible refine AKeeps.inRun h ?_
    | with_reducible refine foldl_keeps (fun _ _ _ => ?_) _ ?_
    | with_reducible refine foldl_fst_keeps (fun _ _ _ => ?_) _ ?_
    | split)

theorem execLnkPartnerReturn_keeps {s₀ : State} {p : Nat} {s : State} (h : Keeps s₀ s) :
    AKeeps s₀ (execLnkPartnerReturn p s) := by
  unfold execLnkPartnerReturn
  try dsimp only
  repeat' (first
    | with_reducible assumption
    | with_reducible apply modLnk_keeps
    | with_reducible apply AKeeps.next
    | with_reducible refine AKeeps.inRun h ?_
    | split)

theorem lnkReset_keeps {s₀ : State} {p : Nat} {s : State} (h : Keeps s₀ s) :
    Keeps s₀ (lnkReset p s) := by
  unfold lnkReset
  try dsimp only
  repeat' (first
    | with_reducible assumption
    | with_reducible apply modSess_keeps
    | with_reducible apply disarmSession_keeps
    | with_reducible apply modLnk_keeps
    | with_reducible apply emit_keeps
    | with_reducible refine foldl_keeps (fun _ _ _ => ?_) _ ?_
    | with_reducible refine foldl_fst_keeps (fun _ _ _ => ?_) _ ?_
    | split)

theorem execLnkPortResetAssert_keeps {s₀ : State} {p : Nat} {s : State} (h : Keeps s₀ s) :
    AKeeps s₀ (execLnkPortResetAssert p s) := by
  unfold execLnkPortResetAssert
  try dsimp only
  repeat' (first
    | with_reducible assumption
    | with_reducible apply lnkReset_keeps
    | with_reducible apply AKeeps.next
    | with_reducible refine AKeeps.inRun h ?_
    | split)

theorem execLnkPortResetRelease_keeps {s₀ : State} {p : Nat} {fails : List Nat} {s : State} (h : Keeps s₀ s) :
    AKeeps s₀ (execLnkPortResetRelease p fails s) := by
  unfold execLnkPortResetRelease
  try dsimp only
  repeat' (first
    | with_reducible assumption
    | with_reducible apply modLnk_keeps
    | with_reducible apply logEvent_keeps
    | with_reducible apply AKeeps.next
    | with_reducible refine AKeeps.inRun h ?_
    | with_reducible refine foldl_keeps (fun _ _ _ => ?_) _ ?_
    | with_reducible refine foldl_fst_keeps (fun _ _ _ => ?_) _ ?_
    | split)

theorem lnkClear_keeps {s₀ : State} {p : Nat} {s : State} (h : Keeps s₀ s) :
    Keeps s₀ (lnkClear p s) := by
  unfold lnkClear
  try dsimp only
  repeat' (first
    | with_reducible assumption
    | with_reducible apply modLnk_keeps
    | split)

theorem execLnkPClrCounters_keeps {s₀ : State} {p : Nat} {s : State} (h : Keeps s₀ s) :
    AKeeps s₀ (execLnkPClrCounters p s) := by
  unfold execLnkPClrCounters
  try dsimp only
  repeat' (first
    | with_reducible assumption
    | with_reducible apply lnkClear_keeps
    | with_reducible apply emit_keeps
    | with_reducible apply AKeeps.next
    | with_reducible refine AKeeps.inRun h ?_)

theorem agrCfgWrite_keeps {s₀ : State} {off : Nat} {data : Word} {s : State} (h : Keeps s₀ s) :
    Keeps s₀ (agrCfgWrite off data s) := by
  unfold agrCfgWrite
  try dsimp only
  repeat' (first
    | with_reducible assumption
    | with_reducible apply agrDrop_keeps
    | with_reducible apply modExch_keeps
    | with_reducible apply logEvent_keeps
    | split)

theorem execLnkAgrCfgWrite_keeps {s₀ : State} {offset : BitVec 12} {data : Word} {s : State} (h : Keeps s₀ s) :
    AKeeps s₀ (execLnkAgrCfgWrite offset data s) := by
  unfold execLnkAgrCfgWrite
  try dsimp only
  repeat' (first
    | with_reducible assumption
    | with_reducible apply emit_keeps
    | with_reducible apply agrCfgWrite_keeps
    | with_reducible apply AKeeps.next
    | with_reducible refine AKeeps.inRun h ?_
    | split)

end Sys2Proof.Machine
end

