-- ==== Sys2Proof/Laws/KeepsWork.lean ====
section
/-! SUPPORT. What the tracker, swaths, regions and tasks keep. -/

namespace Sys2Proof.Machine

theorem modTrk_keeps {s₀ : State} {f : Tracker → Tracker} {s : State} (h : Keeps s₀ s) :
    Keeps s₀ (modTrk f s) := by
  unfold modTrk
  try dsimp only
  repeat' (first
    | with_reducible assumption
    | split
    | dsimp only
    | with_reducible apply Keeps.upd)

theorem modSlotAt_keeps {s₀ : State} {i : Nat} {f : Slot → Slot} {s : State} (h : Keeps s₀ s) :
    Keeps s₀ (modSlotAt i f s) := by
  unfold modSlotAt
  try dsimp only
  repeat' (first
    | with_reducible assumption
    | with_reducible apply modTrk_keeps)

theorem slotsPark_keeps {s₀ : State} {r : Nat} {s : State} (h : Keeps s₀ s) :
    Keeps s₀ (slotsPark r s) := by
  unfold slotsPark
  try dsimp only
  repeat' (first
    | with_reducible assumption
    | with_reducible apply modTrk_keeps
    | with_reducible apply dropJobs_keeps)

theorem slotsLeave_keeps {s₀ : State} {s : State} (h : Keeps s₀ s) : Keeps s₀ (slotsLeave s) := by
  unfold slotsLeave
  refine foldl_keeps (fun _ _ h => ?_) _ h
  split
  · exact slotsPark_keeps h
  · exact h

theorem slotRead_keeps {s₀ : State} {i : Nat} {s : State} (h : Keeps s₀ s) :
    Keeps s₀ (slotRead i s) := by
  unfold slotRead
  try dsimp only
  repeat' (first
    | with_reducible assumption
    | with_reducible apply startRead_keeps
    | with_reducible apply modSlotAt_keeps
    | with_reducible apply dropJobs_keeps
    | split)

theorem slotLoad_keeps {s₀ : State} {c : Nat} {stream : Nat} {s : State} (h : Keeps s₀ s) :
    Keeps s₀ (slotLoad c stream s) := by
  unfold slotLoad
  try dsimp only
  repeat' (first
    | with_reducible assumption
    | with_reducible apply slotRead_keeps
    | with_reducible apply modTrk_keeps
    | split)

theorem historyLoss_keeps {s₀ : State} {i : Option Nat} {c : Nat} {stream : Nat} {s : State} (h : Keeps s₀ s) :
    Keeps s₀ (historyLoss i c stream s) := by
  unfold historyLoss
  try dsimp only
  repeat' (first
    | with_reducible assumption
    | with_reducible apply logEvent_keeps
    | with_reducible apply modCtx_keeps
    | split)

theorem slotLoaded_keeps {s₀ : State} {i : Nat} {bs : List OByte} {s : State} (h : Keeps s₀ s) :
    Keeps s₀ (slotLoaded i bs s) := by
  unfold slotLoaded
  try dsimp only
  repeat' (first
    | with_reducible assumption
    | with_reducible apply modSlotAt_keeps
    | with_reducible apply historyLoss_keeps
    | split)

theorem modFold_keeps {s₀ : State} {c : Nat} {f : Fold → Fold} {s : State} (h : Keeps s₀ s) :
    Keeps s₀ (modFold c f s) := by
  unfold modFold
  try dsimp only
  repeat' (first
    | with_reducible assumption
    | with_reducible apply modCtx_keeps)

theorem modStream_keeps {s₀ : State} {c : Nat} {stream : Nat} {f : CommitStream → CommitStream} {s : State} (h : Keeps s₀ s) :
    Keeps s₀ (modStream c stream f s) := by
  unfold modStream
  try dsimp only
  repeat' (first
    | with_reducible assumption
    | with_reducible apply modFold_keeps)

theorem slotTake_keeps {s₀ : State} {c : Nat} {r : GRec} {s : State} (h : Keeps s₀ s) :
    Keeps s₀ (slotTake c r s) := by
  unfold slotTake
  try dsimp only
  repeat' (first
    | with_reducible assumption
    | with_reducible apply modStream_keeps
    | with_reducible apply modSlotAt_keeps
    | split)

theorem slotsCommitted_keeps {s₀ : State} {c : Nat} {s : State} (h : Keeps s₀ s) :
    Keeps s₀ (slotsCommitted c s) := by
  unfold slotsCommitted
  try dsimp only
  repeat' (first
    | with_reducible assumption
    | with_reducible apply modTrk_keeps
    | with_reducible apply slotRead_keeps
    | with_reducible refine foldl_keeps (fun _ _ _ => ?_) _ ?_)

theorem slotsDrop_keeps {s₀ : State} {c : Nat} {s : State} (h : Keeps s₀ s) :
    Keeps s₀ (slotsDrop c s) := by
  unfold slotsDrop
  try dsimp only
  repeat' (first
    | with_reducible assumption
    | with_reducible apply modTrk_keeps
    | with_reducible apply dropJobs_keeps)

theorem ctxEvent_keeps {s₀ : State} {c : Nat} {s : State} (h : Keeps s₀ s) :
    Keeps s₀ (ctxEvent c s) := by
  unfold ctxEvent
  try dsimp only
  repeat' (first
    | with_reducible assumption
    | split
    | dsimp only
    | with_reducible apply Keeps.upd)

theorem enginesOff_keeps {s₀ : State} {c : Nat} {s : State} (h : Keeps s₀ s) :
    Keeps s₀ (enginesOff c s) := by
  unfold enginesOff
  try dsimp only
  repeat' (first
    | with_reducible assumption
    | with_reducible apply modCtx_keeps
    | with_reducible apply modNode_keeps
    | with_reducible apply dropJobs_keeps
    | split)

theorem ctxStop_keeps {s₀ : State} {c : Nat} {cause : Nat} {addr : Nat} {s : State} (h : Keeps s₀ s) :
    Keeps s₀ (ctxStop c cause addr s) := by
  unfold ctxStop
  try dsimp only
  repeat' (first
    | with_reducible assumption
    | with_reducible apply modHealth_keeps
    | with_reducible apply enginesOff_keeps
    | with_reducible apply ctxEvent_keeps
    | with_reducible apply logEvent_keeps
    | with_reducible apply modCtx_keeps)

theorem ctxWriteFail_keeps {s₀ : State} {c : Nat} {node : Nat} {addr : Nat} {s : State} (h : Keeps s₀ s) :
    Keeps s₀ (ctxWriteFail c node addr s) := by
  unfold ctxWriteFail
  try dsimp only
  repeat' (first
    | with_reducible assumption
    | with_reducible apply ctxStop_keeps
    | with_reducible apply logEvent_keeps)

theorem keepRcp_keeps {s₀ : State} {c : Nat} {i : Nat} {s : State} (h : Keeps s₀ s) :
    Keeps s₀ (keepRcp c i s) := modFold_keeps h

theorem checkStart_keeps {s₀ : State} {c : Nat} {f : Fold} {sl : Slot} {s : State} (h : Keeps s₀ s) :
    Keeps s₀ (checkStart c f sl s) := by
  unfold checkStart
  try dsimp only
  repeat' (first
    | with_reducible assumption
    | with_reducible apply keepRcp_keeps
    | with_reducible apply modFold_keeps
    | with_reducible apply modStream_keeps
    | split)

theorem checkFinish_keeps {s₀ : State} {c : Nat} {f : Fold} {s : State} (h : Keeps s₀ s) :
    Keeps s₀ (checkFinish c f s) := by
  unfold checkFinish
  try dsimp only
  repeat' (first
    | with_reducible assumption
    | with_reducible apply slotsLeave_keeps
    | with_reducible apply modTrk_keeps
    | with_reducible apply completeNode_keeps
    | with_reducible apply modNode_keeps
    | with_reducible apply modCtx_keeps)

theorem writeEntry_keeps {s₀ : State} {c : Nat} {stream : Nat} {agreed : Option Nat} {s : State} (h : Keeps s₀ s) :
    Keeps s₀ (writeEntry c stream agreed s) := by
  unfold writeEntry
  try dsimp only
  repeat' (first
    | with_reducible assumption
    | with_reducible apply startWrite_keeps
    | with_reducible apply modStream_keeps
    | split)

theorem useAgreed_keeps {s₀ : State} {c : Nat} {stream : Nat} {v : Nat} {s : State} (h : Keeps s₀ s) :
    Keeps s₀ (useAgreed c stream v s) := by
  unfold useAgreed
  try dsimp only
  repeat' (first
    | with_reducible assumption
    | with_reducible apply logEvent_keeps
    | with_reducible apply modTrk_keeps
    | with_reducible apply writeEntry_keeps
    | split)

theorem afterPlan_keeps {s₀ : State} {c : Nat} {stream : Nat} {s : State} (h : Keeps s₀ s) :
    Keeps s₀ (afterPlan c stream s) := by
  unfold afterPlan
  try dsimp only
  repeat' (first
    | with_reducible assumption
    | with_reducible apply agrLocal_keeps
    | with_reducible apply modStream_keeps
    | with_reducible apply useAgreed_keeps
    | with_reducible apply writeEntry_keeps
    | split)

theorem zeroVector_keeps {s₀ : State} {c : Nat} {stream : Nat} {s : State} (h : Keeps s₀ s) :
    Keeps s₀ (zeroVector c stream s) := by
  unfold zeroVector
  try dsimp only
  repeat' (first
    | with_reducible assumption
    | with_reducible apply startWrite_keeps
    | with_reducible apply modStream_keeps
    | split)

theorem planHeld_keeps {s₀ : State} {c : Nat} {stream : Nat} {p : Plan} {s : State} (h : Keeps s₀ s) :
    Keeps s₀ (planHeld c stream p s) := by
  unfold planHeld
  try dsimp only
  repeat' (first
    | with_reducible assumption
    | with_reducible apply modStream_keeps
    | with_reducible apply zeroVector_keeps
    | with_reducible apply startRead_keeps
    | split)

theorem cmPlanRead_keeps {s₀ : State} {c : Nat} {stream : Nat} {bs : List OByte} {s : State} (h : Keeps s₀ s) :
    Keeps s₀ (cmPlanRead c stream bs s) := by
  unfold cmPlanRead
  try dsimp only
  repeat' (first
    | with_reducible assumption
    | with_reducible apply afterPlan_keeps
    | with_reducible apply planHeld_keeps
    | with_reducible apply startRead_keeps
    | with_reducible apply modStream_keeps
    | split)

theorem cmListRead_keeps {s₀ : State} {c : Nat} {stream : Nat} {bs : List OByte} {s : State} (h : Keeps s₀ s) :
    Keeps s₀ (cmListRead c stream bs s) := by
  unfold cmListRead
  try dsimp only
  repeat' (first
    | with_reducible assumption
    | with_reducible apply afterPlan_keeps
    | with_reducible apply planHeld_keeps
    | split)

theorem cmVecRead_keeps {s₀ : State} {c : Nat} {stream : Nat} {bs : List OByte} {s : State} (h : Keeps s₀ s) :
    Keeps s₀ (cmVecRead c stream bs s) := by
  unfold cmVecRead
  try dsimp only
  repeat' (first
    | with_reducible assumption
    | with_reducible apply modTrk_keeps
    | with_reducible apply modCtx_keeps
    | with_reducible apply startWrites_keeps
    | with_reducible apply modStream_keeps
    | with_reducible apply afterPlan_keeps
    | split)

theorem commitStart_keeps {s₀ : State} {c : Nat} {f : Fold} {sl : Slot} {s : State} (h : Keeps s₀ s) :
    Keeps s₀ (commitStart c f sl s) := by
  unfold commitStart
  try dsimp only
  repeat' (first
    | with_reducible assumption
    | with_reducible apply keepRcp_keeps
    | with_reducible apply modStream_keeps
    | with_reducible apply modFold_keeps
    | with_reducible apply modCtx_keeps
    | with_reducible apply afterPlan_keeps
    | with_reducible apply startRead_keeps
    | split)

theorem checkRead_keeps {s₀ : State} {c : Nat} {stream : Nat} {s : State} (h : Keeps s₀ s) :
    Keeps s₀ (checkRead c stream s) := startRead_keeps (modStream_keeps h)

theorem foldLoad_keeps {s₀ : State} {c : Nat} {f : Fold} {stream : Nat} {s : State} (h : Keeps s₀ s) :
    Keeps s₀ (foldLoad c f stream s) := by
  unfold foldLoad
  split
  · exact checkRead_keeps h
  · exact slotLoad_keeps h

theorem foldPump_keeps {s₀ : State} {c : Nat} {s : State} (h : Keeps s₀ s) :
    Keeps s₀ (foldPump c s) := by
  unfold foldPump
  try dsimp only
  repeat' (first
    | with_reducible assumption
    | with_reducible apply foldLoad_keeps
    | with_reducible apply checkStart_keeps
    | with_reducible apply commitStart_keeps
    | with_reducible apply checkFinish_keeps
    | with_reducible apply slotLoad_keeps
    | with_reducible refine foldl_keeps (fun _ _ _ => ?_) _ ?_
    | with_reducible refine foldl_fst_keeps (fun _ _ _ => ?_) _ ?_
    | split)

theorem checkReadDone_keeps {s₀ : State} {c : Nat} {stream : Nat} {bs : List OByte} {s : State} (h : Keeps s₀ s) :
    Keeps s₀ (checkReadDone c stream bs s) := by
  unfold checkReadDone
  try dsimp only
  repeat' (first
    | with_reducible assumption
    | with_reducible apply foldPump_keeps
    | with_reducible apply checkStart_keeps
    | with_reducible apply modStream_keeps
    | with_reducible apply historyLoss_keeps
    | split)

theorem foldPumpAll_keeps {s₀ : State} {s : State} (h : Keeps s₀ s) :
    Keeps s₀ (foldPumpAll s) := by
  unfold foldPumpAll
  try dsimp only
  repeat' (first
    | with_reducible assumption
    | with_reducible apply foldPump_keeps
    | with_reducible refine foldl_keeps (fun _ _ _ => ?_) _ ?_)

theorem slotsUnpin_keeps {s₀ : State} {s : State} (h : Keeps s₀ s) : Keeps s₀ (slotsUnpin s) := by
  unfold slotsUnpin
  split
  · exact foldPumpAll_keeps (slotsLeave_keeps h)
  · exact h

theorem foldStart_keeps {s₀ : State} {r : NodeRef} {check : Bool} {step : Nat} {stream : Nat} {s : State} (h : Keeps s₀ s) :
    Keeps s₀ (foldStart r check step stream s) := by
  unfold foldStart
  try dsimp only
  repeat' (first
    | with_reducible assumption
    | with_reducible apply modCtx_keeps
    | with_reducible apply startRead_keeps
    | with_reducible apply foldPump_keeps
    | split)

theorem foldRead_keeps {s₀ : State} {c : Nat} {bs : List OByte} {s : State} (h : Keeps s₀ s) :
    Keeps s₀ (foldRead c bs s) := by
  unfold foldRead
  try dsimp only
  repeat' (first
    | with_reducible assumption
    | with_reducible apply foldPump_keeps
    | with_reducible apply modFold_keeps
    | split)

theorem entryWritten_keeps {s₀ : State} {c : Nat} {stream : Nat} {s : State} (h : Keeps s₀ s) :
    Keeps s₀ (entryWritten c stream s) := by
  unfold entryWritten
  try dsimp only
  repeat' (first
    | with_reducible assumption
    | with_reducible apply modStream_keeps
    | with_reducible apply slotRead_keeps
    | with_reducible apply modSlotAt_keeps
    | split)

theorem execCommitHeaderWrite_keeps {s₀ : State} {c : Nat} {s : State} (h : Keeps s₀ s) :
    AKeeps s₀ (execCommitHeaderWrite c s) := by
  unfold execCommitHeaderWrite
  try dsimp only
  repeat' (first
    | with_reducible assumption
    | with_reducible apply startWrite_keeps
    | with_reducible apply modFold_keeps
    | with_reducible apply AKeeps.next
    | with_reducible refine AKeeps.inRun h ?_
    | split)

theorem headerWritten_keeps {s₀ : State} {c : Nat} {s : State} (h : Keeps s₀ s) :
    Keeps s₀ (headerWritten c s) := by
  unfold headerWritten
  try dsimp only
  repeat' (first
    | with_reducible assumption
    | with_reducible apply completeNode_keeps
    | with_reducible apply slotsCommitted_keeps
    | with_reducible apply modCtx_keeps
    | split)

theorem agreeDropped_keeps {s₀ : State} {s : State} (h : Keeps s₀ s) :
    Keeps s₀ (agreeDropped s) := by
  unfold agreeDropped
  try dsimp only
  repeat' (first
    | with_reducible assumption
    | with_reducible apply modTrk_keeps)

theorem execAgreedValueArrival_keeps {s₀ : State} {c : Nat} {stream : Nat} {step : Word} {value : BitVec 16} {s : State} (h : Keeps s₀ s) :
    AKeeps s₀ (execAgreedValueArrival c stream step value s) := by
  unfold execAgreedValueArrival
  try dsimp only
  repeat' (first
    | with_reducible assumption
    | with_reducible apply agreeDropped_keeps
    | with_reducible apply useAgreed_keeps
    | with_reducible apply modSlotAt_keeps
    | with_reducible apply AKeeps.next
    | with_reducible refine AKeeps.inRun h ?_
    | split
    | dsimp only
    | with_reducible apply Keeps.upd)

theorem execAgreeTimeout_keeps {s₀ : State} {c : Nat} {stream : Nat} {s : State} (h : Keeps s₀ s) :
    AKeeps s₀ (execAgreeTimeout c stream s) := by
  unfold execAgreeTimeout
  try dsimp only
  repeat' (first
    | with_reducible assumption
    | with_reducible apply logEvent_keeps
    | with_reducible apply modStream_keeps
    | with_reducible apply AKeeps.next
    | with_reducible refine AKeeps.inRun h ?_
    | split)

theorem agreeDeliver_keeps {s₀ : State} {s : State} (h : Keeps s₀ s) :
    Keeps s₀ (agreeDeliver s) := by
  unfold agreeDeliver
  try dsimp only
  repeat' (first
    | with_reducible assumption
    | with_reducible apply useAgreed_keeps
    | with_reducible apply agreeDropped_keeps
    | split)

theorem agreeLocal_keeps {s₀ : State} {s : State} (h : Keeps s₀ s) :
    Keeps s₀ (agreeLocal s) := by
  unfold agreeLocal
  try dsimp only
  repeat' (first
    | with_reducible assumption
    | with_reducible apply useAgreed_keeps
    | with_reducible apply agreeDropped_keeps
    | split)

theorem execAgreeDeliver_keeps {s₀ : State} {s : State} (h : Keeps s₀ s) :
    AKeeps s₀ (execAgreeDeliver s) := by
  unfold execAgreeDeliver
  try dsimp only
  repeat' (first
    | with_reducible assumption
    | with_reducible apply agreeDeliver_keeps
    | with_reducible apply emit_keeps
    | with_reducible apply AKeeps.next
    | with_reducible refine AKeeps.inRun h ?_)

theorem execAgreeLocal_keeps {s₀ : State} {s : State} (h : Keeps s₀ s) :
    AKeeps s₀ (execAgreeLocal s) := by
  unfold execAgreeLocal
  try dsimp only
  repeat' (first
    | with_reducible assumption
    | with_reducible apply agreeLocal_keeps
    | with_reducible apply emit_keeps
    | with_reducible apply AKeeps.next
    | with_reducible refine AKeeps.inRun h ?_)

theorem reqDropped_keeps {s₀ : State} {s : State} (h : Keeps s₀ s) :
    Keeps s₀ (reqDropped s) := by
  unfold reqDropped
  try dsimp only
  repeat' (first
    | with_reducible assumption
    | with_reducible apply modTrk_keeps)

theorem fbRequest_keeps {s₀ : State} {force : Bool} {s : State} (h : Keeps s₀ s) :
    Keeps s₀ (fbRequest force s) := by
  unfold fbRequest
  try dsimp only
  repeat' (first
    | with_reducible assumption
    | with_reducible apply reqDropped_keeps
    | with_reducible apply startRead_keeps
    | with_reducible apply modTrk_keeps
    | split)

theorem fbSettle_keeps {s₀ : State} {q : FbReq} {enabled : Bool} {s : State} (h : Keeps s₀ s) :
    Keeps s₀ (fbSettle q enabled s) := by
  unfold fbSettle
  try dsimp only
  repeat' (first
    | with_reducible assumption
    | with_reducible apply modTrk_keeps
    | with_reducible apply reqDropped_keeps
    | split)

theorem fbPump_keeps {s₀ : State} {x0 : List FbAsk} {x1 : State} (h : Keeps s₀ x1) :
    Keeps s₀ (fbPump x0 x1) := by
  induction x0 generalizing x1 with
  | nil => unfold fbPump; first | exact h | exact Keeps.upd h
  | cons y ys ih =>
  rw [fbPump]
  try dsimp only
  repeat' (first
    | with_reducible assumption
    | with_reducible apply ih
    | with_reducible apply fbSettle_keeps
    | with_reducible apply modTrk_keeps
    | split)

theorem fbPlanRead_keeps {s₀ : State} {id : Nat} {bs : List OByte} {s : State} (h : Keeps s₀ s) :
    Keeps s₀ (fbPlanRead id bs s) := by
  unfold fbPlanRead
  try dsimp only
  repeat' (first
    | with_reducible assumption
    | with_reducible apply modTrk_keeps
    | with_reducible apply fbPump_keeps)

theorem execFbForce_keeps {s₀ : State} {s : State} (h : Keeps s₀ s) :
    AKeeps s₀ (execFbForce s) := by
  unfold execFbForce
  try dsimp only
  repeat' (first
    | with_reducible assumption
    | with_reducible apply fbRequest_keeps
    | with_reducible apply emit_keeps
    | with_reducible apply AKeeps.next
    | with_reducible refine AKeeps.inRun h ?_)

theorem execFbRelease_keeps {s₀ : State} {s : State} (h : Keeps s₀ s) :
    AKeeps s₀ (execFbRelease s) := by
  unfold execFbRelease
  try dsimp only
  repeat' (first
    | with_reducible assumption
    | with_reducible apply fbRequest_keeps
    | with_reducible apply emit_keeps
    | with_reducible apply AKeeps.next
    | with_reducible refine AKeeps.inRun h ?_)

theorem execSlotEvict_keeps {s₀ : State} {i : Nat} {s : State} (h : Keeps s₀ s) :
    AKeeps s₀ (execSlotEvict i s) := by
  unfold execSlotEvict
  try dsimp only
  repeat' (first
    | with_reducible assumption
    | with_reducible apply foldPumpAll_keeps
    | with_reducible apply modTrk_keeps
    | with_reducible apply AKeeps.next
    | with_reducible refine AKeeps.inRun h ?_
    | split)

theorem modSwath_keeps {s₀ : State} {id : Nat} {f : Swath → Swath} {s : State} (h : Keeps s₀ s) :
    Keeps s₀ (modSwath id f s) := by
  unfold modSwath
  try dsimp only
  repeat' (first
    | with_reducible assumption
    | split
    | dsimp only
    | with_reducible apply Keeps.upd)

theorem setSwath_keeps {s₀ : State} {w : Swath} {s : State} (h : Keeps s₀ s) :
    Keeps s₀ (setSwath w s) := by
  unfold setSwath
  try dsimp only
  repeat' (first
    | with_reducible assumption
    | with_reducible apply modSwath_keeps)

theorem dropSwath_keeps {s₀ : State} {id : Nat} {s : State} (h : Keeps s₀ s) :
    Keeps s₀ (dropSwath id s) := by
  unfold dropSwath
  try dsimp only
  repeat' (first
    | with_reducible assumption
    | split
    | dsimp only
    | with_reducible apply Keeps.upd)

theorem coreRead_keeps {s₀ : State} {w : Swath} {segs : List (Nat × Nat)} {s : State} (h : Keeps s₀ s) :
    Keeps s₀ (coreRead w segs s) := by
  unfold coreRead
  try dsimp only
  repeat' (first
    | with_reducible assumption
    | with_reducible apply coreIssue_keeps
    | with_reducible refine foldl_keeps (fun _ _ _ => ?_) _ ?_
    | with_reducible refine foldl_fst_keeps (fun _ _ _ => ?_) _ ?_
    | split
    | dsimp only
    | with_reducible apply Keeps.upd)

theorem coreWrite_keeps {s₀ : State} {w : Swath} {segs : List (Nat × List Byte)} {s : State} (h : Keeps s₀ s) :
    Keeps s₀ (coreWrite w segs s) := by
  unfold coreWrite
  try dsimp only
  repeat' (first
    | with_reducible assumption
    | with_reducible apply coreIssue_keeps
    | split
    | dsimp only
    | with_reducible apply Keeps.upd)

theorem tidyStreams_keeps {s₀ : State} {c : Nat} {s : State} (h : Keeps s₀ s) :
    Keeps s₀ (tidyStreams c s) := by
  unfold tidyStreams
  try dsimp only
  repeat' (first
    | with_reducible assumption
    | ((with_reducible apply modPort_keeps_rest); exact fun _ => ⟨rfl, rfl, rfl, rfl⟩))

theorem openStream_keeps {s₀ : State} {w : Swath} {stage band : Nat} {recv : Bool} {route : Nat} {bytes : Nat} {hdr : List Byte} {s : State} (h : Keeps s₀ s) :
    Keeps s₀ (openStream w stage band recv route bytes hdr s).1 := by
  unfold openStream
  try dsimp only
  repeat' (first
    | with_reducible assumption
    | with_reducible apply tidyStreams_keeps
    | with_reducible apply beatIssue_keeps
    | ((with_reducible apply modPort_keeps_rest); exact fun _ => ⟨rfl, rfl, rfl, rfl⟩))

theorem tileGo_keeps {s₀ : State} {x0 : Nat} {x1 : Swath} {x2 : Nat} {x3 : Nat} {x4 : Nat} {x5 : State} (h : Keeps s₀ x5) :
    Keeps s₀ (tileGo x0 x1 x2 x3 x4 x5) := by
  induction x0 generalizing x1 x2 x3 x4 x5 with
  | zero => unfold tileGo; first | exact h | exact Keeps.upd h
  | succ k ih =>
  rw [tileGo]
  try dsimp only
  repeat' (first
    | with_reducible assumption
    | with_reducible apply ih
    | with_reducible apply modTask_keeps
    | with_reducible apply modLnk_keeps
    | split)

theorem sendTile_keeps {s₀ : State} {w : Swath} {x : Send} {route : Nat} {s : State} (h : Keeps s₀ s) :
    Keeps s₀ (sendTile w x route s) := by
  unfold sendTile
  try dsimp only
  repeat' (first
    | with_reducible assumption
    | with_reducible apply setSwath_keeps
    | with_reducible apply modTask_keeps
    | with_reducible apply tileGo_keeps
    | split)

theorem sendNew_keeps {s₀ : State} {w : Swath} {e : Env} {x : Send} {route : Nat} {skip : Nat} {s : State} (h : Keeps s₀ s) :
    Keeps s₀ (sendNew w e x route skip s) := by
  unfold sendNew
  try dsimp only
  repeat' (first
    | with_reducible assumption
    | with_reducible apply openStream_keeps
    | with_reducible apply beatIssue_keeps)

theorem sendMore_keeps {s₀ : State} {w : Swath} {x : Send} {sid : Nat} {skip : Nat} {s : State} (h : Keeps s₀ s) :
    Keeps s₀ (sendMore w x sid skip s) := by
  unfold sendMore
  try dsimp only
  repeat' (first
    | with_reducible assumption
    | ((with_reducible apply modPort_keeps_rest); exact fun _ => ⟨rfl, rfl, rfl, rfl⟩)
    | with_reducible apply beatIssue_keeps)

theorem sendStream_keeps {s₀ : State} {w : Swath} {e : Env} {x : Send} {route : Nat} {s : State} (h : Keeps s₀ s) :
    Keeps s₀ (sendStream w e x route s) := by
  unfold sendStream
  try dsimp only
  repeat' (first
    | with_reducible assumption
    | with_reducible apply sendTile_keeps
    | with_reducible apply sendNew_keeps
    | with_reducible apply sendMore_keeps
    | split)

theorem swathWritten_keeps {s₀ : State} {id : Nat} {s : State} (h : Keeps s₀ s) :
    Keeps s₀ (swathWritten id s) := by
  unfold swathWritten
  try dsimp only
  repeat' (first
    | with_reducible assumption
    | with_reducible apply modSwath_keeps
    | with_reducible apply coreRead_keeps
    | split)

theorem swathWrites_keeps {s₀ : State} {id : Nat} {s : State} (h : Keeps s₀ s) :
    Keeps s₀ (swathWrites id s) := by
  unfold swathWrites
  try dsimp only
  repeat' (first
    | with_reducible assumption
    | with_reducible apply swathWritten_keeps
    | with_reducible apply coreWrite_keeps
    | with_reducible apply modSwath_keeps
    | split)

theorem bandOpen_keeps {s₀ : State} {e : Env} {w : Swath} {s : State} (h : Keeps s₀ s) :
    Keeps s₀ (bandOpen e w s) := by
  unfold bandOpen
  try dsimp only
  repeat' (first
    | with_reducible assumption
    | with_reducible apply setSwath_keeps
    | with_reducible apply openStream_keeps
    | split)

theorem bandTurn_keeps {s₀ : State} {e : Env} {w : Swath} {s : State} (h : Keeps s₀ s) :
    Keeps s₀ (bandTurn e w s) := by
  unfold bandTurn
  try dsimp only
  repeat' (first
    | with_reducible assumption
    | with_reducible apply bandOpen_keeps
    | with_reducible apply sendStream_keeps
    | split)

theorem bandGo_keeps {s₀ : State} {id : Nat} {s : State} (h : Keeps s₀ s) :
    Keeps s₀ (bandGo id s) := by
  unfold bandGo
  try dsimp only
  repeat' (first
    | with_reducible assumption
    | with_reducible apply modSwath_keeps
    | with_reducible apply bandTurn_keeps
    | split)

theorem bandPump_keeps {s₀ : State} {c : Nat} {s : State} (h : Keeps s₀ s) :
    Keeps s₀ (bandPump c s) := by
  unfold bandPump
  try dsimp only
  repeat' (first
    | with_reducible assumption
    | with_reducible apply bandGo_keeps
    | with_reducible refine foldl_keeps (fun _ _ _ => ?_) _ ?_
    | split)

theorem bandsGo_keeps {s₀ : State} {r : Nat} {s : State} (h : Keeps s₀ s) :
    Keeps s₀ (bandsGo r s) := by
  unfold bandsGo
  try dsimp only
  repeat' (first
    | with_reducible assumption
    | with_reducible apply bandPump_keeps
    | with_reducible refine foldl_keeps (fun _ _ _ => ?_) _ ?_
    | split)

theorem poisonSends_keeps {s₀ : State} {e : Env} {w : Swath} {s : State} (h : Keeps s₀ s) :
    Keeps s₀ (poisonSends e w s) := by
  unfold poisonSends
  try dsimp only
  repeat' (first
    | with_reducible assumption
    | with_reducible apply sendStream_keeps
    | with_reducible refine foldl_keeps (fun _ _ _ => ?_) _ ?_
    | split)

theorem swathRunAux_keeps {s₀ : State} {x0 : Nat} {x1 : Nat} {x2 : State} (h : Keeps s₀ x2) :
    Keeps s₀ (swathRunAux x0 x1 x2) := by
  induction x0 generalizing x1 x2 with
  | zero => unfold swathRunAux; first | exact h | exact Keeps.upd h
  | succ k ih =>
  rw [swathRunAux]
  try dsimp only
  repeat' (first
    | with_reducible assumption
    | with_reducible apply bandTurn_keeps
    | with_reducible apply poisonSends_keeps
    | with_reducible apply ih
    | with_reducible apply modSwath_keeps
    | with_reducible apply setSwath_keeps
    | with_reducible apply sendStream_keeps
    | with_reducible apply swathWrites_keeps
    | with_reducible apply coreWrite_keeps
    | with_reducible apply bandOpen_keeps
    | with_reducible refine foldl_keeps (fun _ _ _ => ?_) _ ?_
    | with_reducible refine foldl_fst_keeps (fun _ _ _ => ?_) _ ?_
    | split)

theorem swathRun_keeps {s₀ : State} {id : Nat} {s : State} (h : Keeps s₀ s) :
    Keeps s₀ (swathRun id s) := by
  unfold swathRun
  try dsimp only
  repeat' (first
    | with_reducible assumption
    | with_reducible apply swathRunAux_keeps)

theorem bandDone_keeps {s₀ : State} {id : Nat} {s : State} (h : Keeps s₀ s) :
    Keeps s₀ (bandDone id s) := by
  unfold bandDone
  try dsimp only
  repeat' (first
    | with_reducible assumption
    | with_reducible apply bandGo_keeps
    | with_reducible apply modSwath_keeps
    | with_reducible apply swathRun_keeps
    | with_reducible apply setSwath_keeps
    | split)

theorem swathGo_keeps {s₀ : State} {id : Nat} {s : State} (h : Keeps s₀ s) :
    Keeps s₀ (swathGo id s) := by
  unfold swathGo
  try dsimp only
  repeat' (first
    | with_reducible assumption
    | with_reducible apply modSwath_keeps
    | with_reducible apply swathRun_keeps
    | with_reducible apply setSwath_keeps
    | split)

theorem swathReads_keeps {s₀ : State} {id : Nat} {s : State} (h : Keeps s₀ s) :
    Keeps s₀ (swathReads id s) := by
  unfold swathReads
  try dsimp only
  repeat' (first
    | with_reducible assumption
    | with_reducible apply modSwath_keeps
    | with_reducible apply swathGo_keeps
    | with_reducible apply coreRead_keeps
    | split)

theorem swathBegin_keeps {s₀ : State} {id : Nat} {s : State} (h : Keeps s₀ s) :
    Keeps s₀ (swathBegin id s) := by
  unfold swathBegin
  try dsimp only
  repeat' (first
    | with_reducible assumption
    | with_reducible apply modSwath_keeps
    | with_reducible apply swathWrites_keeps
    | with_reducible apply setSwath_keeps
    | with_reducible apply swathReads_keeps
    | with_reducible apply coreRead_keeps
    | split)

theorem swathReadDone_keeps {s₀ : State} {id : Nat} {bs : List OByte} {s : State} (h : Keeps s₀ s) :
    Keeps s₀ (swathReadDone id bs s) := by
  unfold swathReadDone
  try dsimp only
  repeat' (first
    | with_reducible assumption
    | with_reducible apply modSwath_keeps
    | with_reducible apply swathReads_keeps
    | with_reducible apply swathGo_keeps
    | with_reducible apply swathRun_keeps
    | with_reducible apply coreWrite_keeps
    | split)

theorem swathWriteDone_keeps {s₀ : State} {id : Nat} {s : State} (h : Keeps s₀ s) :
    Keeps s₀ (swathWriteDone id s) := by
  unfold swathWriteDone
  try dsimp only
  repeat' (first
    | with_reducible assumption
    | with_reducible apply modSwath_keeps
    | with_reducible apply coreRead_keeps
    | with_reducible apply swathRun_keeps
    | with_reducible apply swathWritten_keeps
    | split)

theorem bandTake_keeps {s₀ : State} {id : Nat} {bs : List OByte} {s : State} (h : Keeps s₀ s) :
    Keeps s₀ (bandTake id bs s) := by
  unfold bandTake
  try dsimp only
  repeat' (first
    | with_reducible assumption
    | with_reducible apply modSwath_keeps
    | with_reducible apply bandDone_keeps
    | split)

theorem bandEnd_keeps {s₀ : State} {id : Nat} {s : State} (h : Keeps s₀ s) :
    Keeps s₀ (bandEnd id s) := by
  unfold bandEnd
  try dsimp only
  repeat' (first
    | with_reducible assumption
    | with_reducible apply bandDone_keeps
    | split)

theorem coreIdle_keeps {s₀ : State} {w : Swath} {s : State} (h : Keeps s₀ s) :
    Keeps s₀ (coreIdle w s) := by
  unfold coreIdle
  try dsimp only
  repeat' (first
    | with_reducible assumption
    | with_reducible apply cbFlipAll_keeps
    | split)

theorem overrunEnd_keeps {s₀ : State} {c : Nat} {s : State} (h : Keeps s₀ s) :
    Keeps s₀ (overrunEnd c s) := by
  unfold overrunEnd
  try dsimp only
  repeat' (first
    | with_reducible assumption
    | with_reducible apply modCtx_keeps)

theorem swathLeave_keeps {s₀ : State} {w : Swath} {s : State} (h : Keeps s₀ s) :
    Keeps s₀ (swathLeave w s) := by
  unfold swathLeave
  try dsimp only
  repeat' (first
    | with_reducible assumption
    | with_reducible apply overrunEnd_keeps
    | with_reducible apply coreIdle_keeps
    | with_reducible apply dropSwath_keeps)

theorem swathOff_keeps {s₀ : State} {w : Swath} {s : State} (h : Keeps s₀ s) : Keeps s₀ (swathOff w s) := by
  refine h.of_parts rfl rfl rfl rfl rfl rfl (List.length_map _) rfl rfl rfl rfl (fun k p hp => ?_)
  obtain ⟨q, hq, rfl⟩ := List.mem_map.1 hp
  exact Port.ok_of_eq (k q hq) rfl rfl rfl rfl

theorem abandon_keeps {s₀ : State} {w : Swath} {s : State} (h : Keeps s₀ s) :
    Keeps s₀ (abandon w s) := by
  unfold abandon
  try dsimp only
  repeat' (first
    | with_reducible assumption
    | with_reducible apply swathLeave_keeps
    | with_reducible apply swathOff_keeps
    | with_reducible apply modTask_keeps
    | split)

theorem declareDead_keeps {s₀ : State} {r : Nat} {p : Nat} {cause : Nat} {s : State} (h : Keeps s₀ s) :
    Keeps s₀ (declareDead r p cause s) := by
  unfold declareDead
  try dsimp only
  repeat' (first
    | with_reducible assumption
    | with_reducible apply modHealth_keeps
    | with_reducible apply modPos_keeps
    | with_reducible apply modPhys_keeps
    | ((with_reducible apply modPort_keeps_rest); exact fun _ => ⟨rfl, rfl, rfl, rfl⟩)
    | with_reducible apply modRegion_keeps
    | split)

theorem execCoreAliveTimeout_keeps {s₀ : State} {r : Nat} {p : Nat} {s : State} (h : Keeps s₀ s) :
    AKeeps s₀ (execCoreAliveTimeout r p s) := by
  unfold execCoreAliveTimeout
  try dsimp only
  repeat' (first
    | with_reducible assumption
    | with_reducible apply declareDead_keeps
    | with_reducible apply AKeeps.next
    | with_reducible refine AKeeps.inRun h ?_
    | split)

theorem coreCtrl_keeps {s₀ : State} {data : Word} {s : State} (h : Keeps s₀ s) :
    Keeps s₀ (coreCtrl data s) := by
  unfold coreCtrl
  try dsimp only
  repeat' (first
    | with_reducible assumption
    | with_reducible apply modHealth_keeps
    | with_reducible apply declareDead_keeps
    | split)

theorem execHltRetire_keeps {s₀ : State} {data : Word} {s : State} (h : Keeps s₀ s) :
    AKeeps s₀ (execHltRetire data s) := by
  unfold execHltRetire
  try dsimp only
  repeat' (first
    | with_reducible assumption
    | with_reducible apply coreCtrl_keeps
    | with_reducible apply emit_keeps
    | with_reducible apply AKeeps.next
    | with_reducible refine AKeeps.inRun h ?_)

theorem execCoreFenceSettled_keeps {s₀ : State} {r : Nat} {p : Nat} {s : State} (h : Keeps s₀ s) :
    AKeeps s₀ (execCoreFenceSettled r p s) := by
  unfold execCoreFenceSettled
  try dsimp only
  repeat' (first
    | with_reducible assumption
    | with_reducible apply slotsUnpin_keeps
    | with_reducible apply abandon_keeps
    | with_reducible apply cbFlipAll_keeps
    | with_reducible apply modPhys_keeps
    | with_reducible apply modRegion_keeps
    | with_reducible apply logEvent_keeps
    | with_reducible apply modPos_keeps
    | with_reducible apply AKeeps.next
    | with_reducible refine AKeeps.inRun h ?_
    | with_reducible refine foldl_keeps (fun _ _ _ => ?_) _ ?_
    | with_reducible refine foldl_fst_keeps (fun _ _ _ => ?_) _ ?_
    | split)

theorem execZombieRequest_keeps {s₀ : State} {r : Nat} {phys : Nat} {pos : Nat} {epoch : BitVec 16} {addr : Nat} {_wr : Bool} {s : State} (h : Keeps s₀ s) :
    AKeeps s₀ (execZombieRequest r phys pos epoch addr _wr s) := by
  unfold execZombieRequest
  try dsimp only
  repeat' (first
    | with_reducible assumption
    | with_reducible apply modHealth_keeps
    | with_reducible apply logEvent_keeps
    | with_reducible apply modPhys_keeps
    | with_reducible apply AKeeps.next
    | with_reducible refine AKeeps.inRun h ?_
    | split)

theorem execZombieAliveToggle_keeps {s₀ : State} {r : Nat} {phys : Nat} {s : State} (h : Keeps s₀ s) :
    AKeeps s₀ (execZombieAliveToggle r phys s) := by
  unfold execZombieAliveToggle
  try dsimp only
  repeat' (first
    | with_reducible assumption
    | with_reducible apply modPhys_keeps
    | with_reducible apply AKeeps.next
    | with_reducible refine AKeeps.inRun h ?_
    | split)

theorem execRegionParkRequest_keeps {s₀ : State} {r : Nat} {s : State} (h : Keeps s₀ s) :
    AKeeps s₀ (execRegionParkRequest r s) := by
  unfold execRegionParkRequest
  try dsimp only
  repeat' (first
    | with_reducible assumption
    | with_reducible apply foldPumpAll_keeps
    | with_reducible apply slotsPark_keeps
    | with_reducible apply modRegion_keeps
    | with_reducible apply AKeeps.next
    | with_reducible refine AKeeps.inRun h ?_
    | split)

theorem execRegionParkAck_keeps {s₀ : State} {r : Nat} {s : State} (h : Keeps s₀ s) :
    AKeeps s₀ (execRegionParkAck r s) := by
  unfold execRegionParkAck
  try dsimp only
  repeat' (first
    | with_reducible assumption
    | with_reducible apply slotsPark_keeps
    | with_reducible apply modRegion_keeps
    | with_reducible apply AKeeps.next
    | with_reducible refine AKeeps.inRun h ?_
    | split)

theorem execRegionUnpark_keeps {s₀ : State} {r : Nat} {s : State} (h : Keeps s₀ s) :
    AKeeps s₀ (execRegionUnpark r s) := by
  unfold execRegionUnpark
  try dsimp only
  repeat' (first
    | with_reducible assumption
    | with_reducible apply foldPumpAll_keeps
    | with_reducible apply bandsGo_keeps
    | with_reducible apply modRegion_keeps
    | with_reducible apply drainCtl_keeps
    | with_reducible apply drainRegion_keeps
    | with_reducible apply AKeeps.next
    | with_reducible refine AKeeps.inRun h ?_
    | split)

theorem logSize_keeps {s₀ : State} {data : Word} {s : State} (h : Keeps s₀ s) :
    Keeps s₀ (logSize data s) := by
  unfold logSize
  try dsimp only
  repeat' (first
    | with_reducible assumption
    | with_reducible apply logPump_keeps
    | with_reducible apply modHealth_keeps)

theorem execHltLogSizeWrite_keeps {s₀ : State} {data : Word} {s : State} (h : Keeps s₀ s) :
    AKeeps s₀ (execHltLogSizeWrite data s) := by
  unfold execHltLogSizeWrite
  try dsimp only
  repeat' (first
    | with_reducible assumption
    | with_reducible apply logSize_keeps
    | with_reducible apply emit_keeps
    | with_reducible apply AKeeps.next
    | with_reducible refine AKeeps.inRun h ?_)

theorem logWritten_keeps {s₀ : State} {seq : Bool} {fail : Bool} {s : State} (h : Keeps s₀ s) :
    Keeps s₀ (logWritten seq fail s) := by
  unfold logWritten
  try dsimp only
  repeat' (first
    | with_reducible assumption
    | with_reducible apply logPump_keeps
    | with_reducible apply modHealth_keeps
    | split)

theorem logSeqWrite_keeps {s₀ : State} {s : State} (h : Keeps s₀ s) :
    Keeps s₀ (logSeqWrite s) := by
  unfold logSeqWrite
  try dsimp only
  repeat' (first
    | with_reducible assumption
    | with_reducible apply startWrite_keeps
    | with_reducible apply modHealth_keeps
    | split)

theorem headlandUe_keeps {s₀ : State} {r : Nat} {p : Nat} {owner : Option Nat} {s : State} (h : Keeps s₀ s) :
    Keeps s₀ (headlandUe r p owner s) := by
  unfold headlandUe
  try dsimp only
  repeat' (first
    | with_reducible assumption
    | with_reducible apply slotsUnpin_keeps
    | with_reducible apply logEvent_keeps
    | with_reducible apply countUe_keeps
    | with_reducible apply modPhys_keeps
    | with_reducible apply declareDead_keeps
    | with_reducible apply abandon_keeps
    | split)

theorem applyUpset_keeps {s₀ : State} {u : Upset} {s : State} (h : Keeps s₀ s) :
    Keeps s₀ (applyUpset u s) := by
  unfold applyUpset
  try dsimp only
  repeat' (first
    | with_reducible assumption
    | with_reducible apply noteCorrected_keeps
    | with_reducible apply headlandUe_keeps
    | with_reducible apply logEvent_keeps
    | with_reducible apply countUe_keeps
    | with_reducible apply slotRead_keeps
    | with_reducible apply startRead_keeps
    | with_reducible apply ctxStop_keeps
    | with_reducible apply wedgeBank_keeps
    | with_reducible apply wedgeRecipes_keeps
    | with_reducible apply wedgeSeq_keeps
    | with_reducible apply dmaFail_keeps
    | with_reducible apply modSlice_keeps
    | with_reducible apply cbFlip_keeps
    | with_reducible apply linkUpset_keeps
    | split)

theorem applyUpsets_keeps {s₀ : State} {u : Option Upset} {s : State} (h : Keeps s₀ s) :
    Keeps s₀ (applyUpsets u s) := by
  unfold applyUpsets
  try dsimp only
  repeat' (first
    | with_reducible assumption
    | with_reducible apply applyUpset_keeps
    | split)

theorem execCbSwitch_keeps {s₀ : State} {n : Nat} {presetId : BitVec 4} {ue : Option Upset} {s : State} (h : Keeps s₀ s) :
    AKeeps s₀ (execCbSwitch n presetId ue s) := by
  unfold execCbSwitch
  try dsimp only
  repeat' (first
    | with_reducible assumption
    | with_reducible apply emit_keeps
    | with_reducible apply cbCtrlWrite_keeps
    | with_reducible apply applyUpsets_keeps
    | with_reducible apply AKeeps.next
    | with_reducible refine AKeeps.inRun h ?_
    | split)

theorem rejectTask_keeps {s₀ : State} {r : NodeRef} {cause : Nat} {s : State} (h : Keeps s₀ s) :
    Keeps s₀ (rejectTask r cause s) := by
  unfold rejectTask
  try dsimp only
  repeat' (first
    | with_reducible assumption
    | with_reducible apply slotsUnpin_keeps
    | with_reducible apply swathLeave_keeps
    | with_reducible apply swathOff_keeps
    | with_reducible apply completeNode_keeps
    | with_reducible apply dropJobs_keeps
    | with_reducible refine foldl_keeps (fun _ _ _ => ?_) _ ?_
    | with_reducible refine foldl_fst_keeps (fun _ _ _ => ?_) _ ?_
    | split)

theorem plansBad_keeps {s₀ : State} {r : NodeRef} {n : Node} {t : Task} {s : State} (h : Keeps s₀ s) :
    Keeps s₀ (plansBad r n t s) := by
  unfold plansBad
  try dsimp only
  repeat' (first
    | with_reducible assumption
    | with_reducible apply logEvent_keeps
    | with_reducible apply modCtx_keeps
    | with_reducible refine foldl_keeps (fun _ _ _ => ?_) _ ?_)

theorem setupDone_keeps {s₀ : State} {r : NodeRef} {n : Node} {s : State} (h : Keeps s₀ s) :
    Keeps s₀ (setupDone r n s) := by
  unfold setupDone
  try dsimp only
  repeat' (first
    | with_reducible assumption
    | with_reducible apply rejectTask_keeps
    | with_reducible apply plansBad_keeps
    | with_reducible apply modTask_keeps
    | with_reducible apply swathBegin_keeps
    | with_reducible refine foldl_keeps (fun _ _ _ => ?_) _ ?_
    | with_reducible refine foldl_fst_keeps (fun _ _ _ => ?_) _ ?_
    | split)

theorem setupGo_keeps {s₀ : State} {r : NodeRef} {n : Node} {s : State} (h : Keeps s₀ s) :
    Keeps s₀ (setupGo r n s) := by
  unfold setupGo
  try dsimp only
  repeat' (first
    | with_reducible assumption
    | with_reducible apply setupDone_keeps
    | split)

theorem taskSetup_keeps {s₀ : State} {r : NodeRef} {n : Node} {t : Task} {bad : List Nat} {s : State} (h : Keeps s₀ s) :
    Keeps s₀ (taskSetup r n t bad s) := by
  unfold taskSetup
  try dsimp only
  repeat' (first
    | with_reducible assumption
    | with_reducible apply modCtx_keeps
    | with_reducible apply modTask_keeps
    | with_reducible apply startRead_keeps
    | with_reducible apply setupGo_keeps
    | with_reducible refine foldl_keeps (fun _ _ _ => ?_) _ ?_
    | with_reducible refine foldl_fst_keeps (fun _ _ _ => ?_) _ ?_
    | split)

theorem taskKnown_keeps {s₀ : State} {r : NodeRef} {cs : List Nat} {s : State} (h : Keeps s₀ s) :
    Keeps s₀ (taskKnown r cs s) := by
  unfold taskKnown
  try dsimp only
  repeat' (first
    | with_reducible assumption
    | with_reducible apply rejectTask_keeps
    | with_reducible apply modTask_keeps
    | split)

theorem taskOpsDone_keeps {s₀ : State} {r : NodeRef} {s : State} (h : Keeps s₀ s) :
    Keeps s₀ (taskOpsDone r s) := by
  unfold taskOpsDone
  try dsimp only
  repeat' (first
    | with_reducible assumption
    | with_reducible apply taskKnown_keeps
    | with_reducible apply rejectTask_keeps
    | with_reducible apply modTask_keeps
    | split)

theorem taskStart_keeps {s₀ : State} {r : NodeRef} {n : Node} {s : State} (h : Keeps s₀ s) :
    Keeps s₀ (taskStart r n s) := by
  unfold taskStart
  try dsimp only
  repeat' (first
    | with_reducible assumption
    | with_reducible apply modNode_keeps
    | with_reducible apply taskOpsDone_keeps
    | with_reducible apply startRead_keeps
    | split
    | dsimp only
    | with_reducible apply Keeps.upd)

theorem taskOpsRead_keeps {s₀ : State} {r : NodeRef} {id : Nat} {bs : List OByte} {s : State} (h : Keeps s₀ s) :
    Keeps s₀ (taskOpsRead r id bs s) := by
  unfold taskOpsRead
  try dsimp only
  repeat' (first
    | with_reducible assumption
    | with_reducible apply taskOpsDone_keeps
    | with_reducible apply modTask_keeps
    | split)

theorem setupStep_keeps {s₀ : State} {r : NodeRef} {n : Node} {f : Task → Task} {s : State} (h : Keeps s₀ s) :
    Keeps s₀ (setupStep r n f s) := by
  unfold setupStep
  try dsimp only
  repeat' (first
    | with_reducible assumption
    | with_reducible apply setupGo_keeps
    | with_reducible apply modTask_keeps)

theorem swordRead_keeps {s₀ : State} {r : NodeRef} {id : Nat} {addr : Nat} {bs : List OByte} {s : State} (h : Keeps s₀ s) :
    Keeps s₀ (swordRead r id addr bs s) := by
  unfold swordRead
  try dsimp only
  repeat' (first
    | with_reducible assumption
    | with_reducible apply setupStep_keeps
    | split)

theorem planRead_keeps {s₀ : State} {r : NodeRef} {id : Nat} {stream : Nat} {bs : List OByte} {s : State} (h : Keeps s₀ s) :
    Keeps s₀ (planRead r id stream bs s) := by
  unfold planRead
  try dsimp only
  repeat' (first
    | with_reducible assumption
    | with_reducible apply setupStep_keeps
    | with_reducible apply startRead_keeps
    | with_reducible apply modTask_keeps
    | split)

theorem planListRead_keeps {s₀ : State} {r : NodeRef} {id : Nat} {stream : Nat} {bs : List OByte} {s : State} (h : Keeps s₀ s) :
    Keeps s₀ (planListRead r id stream bs s) := by
  unfold planListRead
  try dsimp only
  repeat' (first
    | with_reducible assumption
    | with_reducible apply setupStep_keeps
    | split)

theorem swathPlace_keeps {s₀ : State} {node : NodeRef} {n : Node} {t : Task} {r : Nat} {p : Nat} {rows : Nat} {s : State} (h : Keeps s₀ s) :
    Keeps s₀ (swathPlace node n t r p rows s) := by
  unfold swathPlace
  try dsimp only
  repeat' (first
    | with_reducible assumption
    | with_reducible apply cbFlipAll_keeps
    | with_reducible apply modTask_keeps
    | with_reducible apply logEvent_keeps
    | with_reducible apply swathBegin_keeps
    | with_reducible apply taskSetup_keeps
    | split
    | dsimp only
    | with_reducible apply Keeps.upd)

theorem swathTake_keeps {s₀ : State} {node : NodeRef} {n : Node} {t : Task} {r : Nat} {p : Nat} {rows : Nat} {s : State} (h : Keeps s₀ s) :
    Keeps s₀ (swathTake node n t r p rows s) := by
  unfold swathTake
  try dsimp only
  repeat' (first
    | with_reducible assumption
    | with_reducible apply taskSetup_keeps
    | with_reducible apply swathPlace_keeps
    | split)

theorem taskSlots_keeps {s₀ : State} {r : NodeRef} {n : Node} {t : Task} {s : State} (h : Keeps s₀ s) :
    Keeps s₀ (taskSlots r n t s) := by
  unfold taskSlots
  try dsimp only
  repeat' (first
    | with_reducible assumption
    | with_reducible apply slotLoad_keeps
    | with_reducible refine foldl_keeps (fun _ _ _ => ?_) _ ?_)

theorem progDone_keeps {s₀ : State} {r : NodeRef} {s : State} (h : Keeps s₀ s) :
    Keeps s₀ (progDone r s) := by
  unfold progDone
  try dsimp only
  repeat' (first
    | with_reducible assumption
    | with_reducible apply taskKnown_keeps
    | with_reducible apply rejectTask_keeps
    | with_reducible apply taskSetup_keeps
    | with_reducible apply taskSlots_keeps
    | with_reducible apply modTask_keeps
    | with_reducible apply swathTake_keeps
    | split)

theorem progFail_keeps {s₀ : State} {r : NodeRef} {s : State} (h : Keeps s₀ s) :
    Keeps s₀ (progFail r s) := by
  unfold progFail
  try dsimp only
  repeat' (first
    | with_reducible assumption
    | with_reducible apply progDone_keeps
    | with_reducible apply modTask_keeps)

theorem progStart_keeps {s₀ : State} {r : NodeRef} {n : Node} {t : Task} {ask : Nat × Nat × Nat} {s : State} (h : Keeps s₀ s) :
    Keeps s₀ (progStart r n t ask s) := by
  unfold progStart
  try dsimp only
  repeat' (first
    | with_reducible assumption
    | with_reducible apply startRead_keeps
    | with_reducible apply modTask_keeps)

theorem taskHdrRead_keeps {s₀ : State} {r : NodeRef} {id : Nat} {bs : List OByte} {s : State} (h : Keeps s₀ s) :
    Keeps s₀ (taskHdrRead r id bs s) := by
  unfold taskHdrRead
  try dsimp only
  repeat' (first
    | with_reducible assumption
    | with_reducible apply progFail_keeps
    | with_reducible apply startRead_keeps
    | with_reducible apply modTask_keeps
    | split)

theorem taskStagesRead_keeps {s₀ : State} {r : NodeRef} {id : Nat} {bs : List OByte} {s : State} (h : Keeps s₀ s) :
    Keeps s₀ (taskStagesRead r id bs s) := by
  unfold taskStagesRead
  try dsimp only
  repeat' (first
    | with_reducible assumption
    | with_reducible apply progFail_keeps
    | with_reducible apply modTask_keeps
    | with_reducible apply progDone_keeps
    | with_reducible apply startRead_keeps
    | with_reducible refine foldl_keeps (fun _ _ _ => ?_) _ ?_
    | with_reducible refine foldl_fst_keeps (fun _ _ _ => ?_) _ ?_
    | split)

theorem taskTableRead_keeps {s₀ : State} {r : NodeRef} {id : Nat} {stage : Nat} {bs : List OByte} {s : State} (h : Keeps s₀ s) :
    Keeps s₀ (taskTableRead r id stage bs s) := by
  unfold taskTableRead
  try dsimp only
  repeat' (first
    | with_reducible assumption
    | with_reducible apply modTask_keeps
    | with_reducible apply progDone_keeps
    | split)

theorem takeSlice_keeps {s₀ : State} {c : Nat} {s : State} (h : Keeps s₀ s) :
    Keeps s₀ (takeSlice c s) := by
  unfold takeSlice
  try dsimp only
  repeat' (first
    | with_reducible assumption
    | with_reducible apply modCtx_keeps
    | split
    | dsimp only
    | with_reducible apply Keeps.upd)

theorem chooseHolder_keeps {s₀ : State} {s : State} (h : Keeps s₀ s) :
    Keeps s₀ (chooseHolder s) := by
  unfold chooseHolder
  try dsimp only
  repeat' (first
    | with_reducible assumption
    | with_reducible apply takeSlice_keeps
    | split)

theorem endSlice_keeps {s₀ : State} {s : State} (h : Keeps s₀ s) :
    Keeps s₀ (endSlice s) := by
  unfold endSlice
  try dsimp only
  repeat' (first
    | with_reducible assumption
    | with_reducible apply modCtx_keeps
    | split
    | dsimp only
    | with_reducible apply Keeps.upd)

theorem yieldSlice_keeps {s₀ : State} {s : State} (h : Keeps s₀ s) :
    Keeps s₀ (yieldSlice s) := by
  unfold yieldSlice
  try dsimp only
  repeat' (first
    | with_reducible assumption
    | with_reducible apply slotsUnpin_keeps
    | with_reducible apply chooseHolder_keeps
    | with_reducible apply endSlice_keeps
    | split)

theorem execSwathDispatch_keeps {s₀ : State} {c : Nat} {g : Nat} {k : Nat} {r : Nat} {p : Nat} {rows : Nat} {ue : Option Upset} {s : State} (h : Keeps s₀ s) :
    AKeeps s₀ (execSwathDispatch c g k r p rows ue s) := by
  unfold execSwathDispatch
  try dsimp only
  repeat' (first
    | with_reducible assumption
    | with_reducible apply yieldSlice_keeps
    | with_reducible apply applyUpsets_keeps
    | with_reducible apply taskSlots_keeps
    | with_reducible apply rejectTask_keeps
    | with_reducible apply progStart_keeps
    | with_reducible apply swathTake_keeps
    | with_reducible apply AKeeps.next
    | with_reducible refine AKeeps.inRun h ?_
    | split)

theorem mergeNext_keeps {s₀ : State} {r : NodeRef} {s : State} (h : Keeps s₀ s) :
    Keeps s₀ (mergeNext r s) := by
  unfold mergeNext
  try dsimp only
  repeat' (first
    | with_reducible assumption
    | with_reducible apply startRead_keeps
    | split)

theorem mergePump_keeps {s₀ : State} {c : Nat} {s : State} (h : Keeps s₀ s) :
    Keeps s₀ (mergePump c s) := by
  unfold mergePump
  try dsimp only
  repeat' (first
    | with_reducible assumption
    | with_reducible apply mergeNext_keeps
    | with_reducible refine foldl_keeps (fun _ _ _ => ?_) _ ?_)

theorem taskTail_keeps {s₀ : State} {r : NodeRef} {n : Node} {s : State} (h : Keeps s₀ s) :
    Keeps s₀ (taskTail r n s) := by
  unfold taskTail
  try dsimp only
  repeat' (first
    | with_reducible assumption
    | with_reducible apply modTask_keeps
    | with_reducible apply startWrites_keeps
    | with_reducible apply mergeNext_keeps
    | split)

theorem taskStop_keeps {s₀ : State} {r : NodeRef} {cause : Nat} {s : State} (h : Keeps s₀ s) :
    Keeps s₀ (taskStop r cause s) := by
  unfold taskStop
  try dsimp only
  repeat' (first
    | with_reducible assumption
    | with_reducible apply modTask_keeps)

theorem tailFailed_keeps {s₀ : State} {r : NodeRef} {fail : Option Nat} {s : State} (h : Keeps s₀ s) :
    Keeps s₀ (tailFailed r fail s) := by
  unfold tailFailed
  try dsimp only
  repeat' (first
    | with_reducible assumption
    | with_reducible apply taskStop_keeps
    | split)

theorem tailWritten_keeps {s₀ : State} {r : NodeRef} {id : Nat} {fail : Option Nat} {s : State} (h : Keeps s₀ s) :
    Keeps s₀ (tailWritten r id fail s) := by
  unfold tailWritten
  try dsimp only
  repeat' (first
    | with_reducible assumption
    | with_reducible apply tailFailed_keeps
    | with_reducible apply modTask_keeps
    | split)

theorem mergeEnd_keeps {s₀ : State} {r : NodeRef} {s : State} (h : Keeps s₀ s) :
    Keeps s₀ (mergeEnd r s) := by
  unfold mergeEnd
  try dsimp only
  repeat' (first
    | with_reducible assumption
    | with_reducible apply mergePump_keeps
    | with_reducible apply modTask_keeps)

theorem mergeRead_keeps {s₀ : State} {r : NodeRef} {id : Nat} {d : Nat} {fail : Option Nat} {bs : List OByte} {s : State} (h : Keeps s₀ s) :
    Keeps s₀ (mergeRead r id d fail bs s) := by
  unfold mergeRead
  try dsimp only
  repeat' (first
    | with_reducible assumption
    | with_reducible apply mergeEnd_keeps
    | with_reducible apply taskStop_keeps
    | with_reducible apply startWrite_keeps
    | split)

theorem mergeWritten_keeps {s₀ : State} {r : NodeRef} {id : Nat} {fail : Option Nat} {s : State} (h : Keeps s₀ s) :
    Keeps s₀ (mergeWritten r id fail s) := by
  unfold mergeWritten
  try dsimp only
  repeat' (first
    | with_reducible assumption
    | with_reducible apply mergeEnd_keeps
    | with_reducible apply tailFailed_keeps
    | split)

theorem execSwathComplete_keeps {s₀ : State} {r : Nat} {p : Nat} {id : Nat} {s : State} (h : Keeps s₀ s) :
    AKeeps s₀ (execSwathComplete r p id s) := by
  unfold execSwathComplete
  try dsimp only
  repeat' (first
    | with_reducible assumption
    | with_reducible apply slotsUnpin_keeps
    | with_reducible apply swathLeave_keeps
    | with_reducible apply coreRead_keeps
    | with_reducible apply modSwath_keeps
    | with_reducible apply modTask_keeps
    | with_reducible apply taskTail_keeps
    | with_reducible apply AKeeps.next
    | with_reducible refine AKeeps.inRun h ?_
    | split)

theorem execTwoPassSecondPass_keeps {s₀ : State} {c : Nat} {g : Nat} {k : Nat} {s : State} (h : Keeps s₀ s) :
    AKeeps s₀ (execTwoPassSecondPass c g k s) := by
  unfold execTwoPassSecondPass
  try dsimp only
  repeat' (first
    | with_reducible assumption
    | with_reducible apply modTask_keeps
    | with_reducible apply AKeeps.next
    | with_reducible refine AKeeps.inRun h ?_
    | split)

theorem execTaskComplete_keeps {s₀ : State} {c : Nat} {g : Nat} {k : Nat} {s : State} (h : Keeps s₀ s) :
    AKeeps s₀ (execTaskComplete c g k s) := by
  unfold execTaskComplete
  try dsimp only
  repeat' (first
    | with_reducible assumption
    | with_reducible apply modNode_keeps
    | with_reducible apply completeNode_keeps
    | with_reducible apply AKeeps.next
    | with_reducible refine AKeeps.inRun h ?_
    | split)

end Sys2Proof.Machine
end

