-- ==== Sys2Proof/Laws/KeepsGraph.lean ====
section
/-! SUPPORT. What graphs, contexts, the cluster ports, the control window and resets keep. -/

namespace Sys2Proof.Machine

theorem subProdWrite_keeps {s₀ : State} {c : Nat} {data : Word} {s : State} (h : Keeps s₀ s) :
    Keeps s₀ (subProdWrite c data s) := by
  unfold subProdWrite
  try dsimp only
  repeat' (first
    | with_reducible assumption
    | with_reducible apply modCtx_keeps)

theorem execRingSubProdWrite_keeps {s₀ : State} {c : Nat} {data : Word} {s : State} (h : Keeps s₀ s) :
    AKeeps s₀ (execRingSubProdWrite c data s) := by
  unfold execRingSubProdWrite
  try dsimp only
  repeat' (first
    | with_reducible assumption
    | with_reducible apply subProdWrite_keeps
    | with_reducible apply emit_keeps
    | with_reducible apply AKeeps.next
    | with_reducible refine AKeeps.inRun h ?_)

theorem acceptFields_keeps {s₀ : State} {c : Nat} {g : Graph} {s : State} (h : Keeps s₀ s) :
    Keeps s₀ (acceptFields c g s) := by
  unfold acceptFields
  try dsimp only
  repeat' (first
    | with_reducible assumption
    | with_reducible apply startWrite_keeps
    | with_reducible apply modCtx_keeps)

theorem acceptScore_keeps {s₀ : State} {c : Nat} {g : Graph} {s : State} (h : Keeps s₀ s) :
    Keeps s₀ (acceptScore c g s) := by
  unfold acceptScore
  try dsimp only
  repeat' (first
    | with_reducible assumption
    | with_reducible apply startWrite_keeps
    | with_reducible apply modCtx_keeps)

theorem execAcceptEntry_keeps {s₀ : State} {c : Nat} {ue : Option Upset} {s : State} (h : Keeps s₀ s) :
    AKeeps s₀ (execAcceptEntry c ue s) := by
  unfold execAcceptEntry
  try dsimp only
  repeat' (first
    | with_reducible assumption
    | with_reducible apply applyUpsets_keeps
    | with_reducible apply startRead_keeps
    | with_reducible apply modCtx_keeps
    | with_reducible apply AKeeps.next
    | with_reducible refine AKeeps.inRun h ?_
    | split)

theorem accEntryRead_keeps {s₀ : State} {c : Nat} {bs : List OByte} {s : State} (h : Keeps s₀ s) :
    Keeps s₀ (accEntryRead c bs s) := by
  unfold accEntryRead
  try dsimp only
  repeat' (first
    | with_reducible assumption
    | with_reducible apply acceptFields_keeps
    | with_reducible apply startRead_keeps
    | with_reducible apply modCtx_keeps
    | split)

theorem accImageRead_keeps {s₀ : State} {c : Nat} {bs : List OByte} {s : State} (h : Keeps s₀ s) :
    Keeps s₀ (accImageRead c bs s) := by
  unfold accImageRead
  try dsimp only
  repeat' (first
    | with_reducible assumption
    | with_reducible apply acceptFields_keeps
    | with_reducible apply acceptScore_keeps
    | split)

theorem accScoreWritten_keeps {s₀ : State} {c : Nat} {s : State} (h : Keeps s₀ s) :
    Keeps s₀ (accScoreWritten c s) := by
  unfold accScoreWritten
  try dsimp only
  repeat' (first
    | with_reducible assumption
    | with_reducible apply acceptFields_keeps
    | split)

theorem accFieldsWritten_keeps {s₀ : State} {c : Nat} {s : State} (h : Keeps s₀ s) :
    Keeps s₀ (accFieldsWritten c s) := by
  unfold accFieldsWritten
  try dsimp only
  repeat' (first
    | with_reducible assumption
    | with_reducible apply modCtx_keeps)

theorem execAcceptancePoint_keeps {s₀ : State} {c : Nat} {s : State} (h : Keeps s₀ s) :
    AKeeps s₀ (execAcceptancePoint c s) := by
  unfold execAcceptancePoint
  try dsimp only
  repeat' (first
    | with_reducible assumption
    | with_reducible apply modCtx_keeps
    | with_reducible apply AKeeps.next
    | with_reducible refine AKeeps.inRun h ?_
    | split)

theorem bankNode_keeps {s₀ : State} {r : NodeRef} {n : Node} {s : State} (h : Keeps s₀ s) :
    Keeps s₀ (bankNode r n s) := by
  unfold bankNode
  try dsimp only
  repeat' (first
    | with_reducible assumption
    | with_reducible apply modBank_keeps
    | with_reducible apply switchStart_keeps
    | with_reducible apply modNode_keeps
    | with_reducible apply completeNode_keeps
    | split)

theorem dmaNode_keeps {s₀ : State} {r : NodeRef} {n : Node} {reg : Nat} {ch : Nat} {s : State} (h : Keeps s₀ s) :
    Keeps s₀ (dmaNode r n reg ch s) := by
  unfold dmaNode
  try dsimp only
  repeat' (first
    | with_reducible assumption
    | with_reducible apply dmaNodeStart_keeps
    | with_reducible apply modNode_keeps)

theorem nodeRun_keeps {s₀ : State} {r : NodeRef} {n : Node} {s : State} (h : Keeps s₀ s) :
    Keeps s₀ (nodeRun r n s) := by
  unfold nodeRun
  try dsimp only
  repeat' (first
    | with_reducible assumption
    | with_reducible apply taskStart_keeps
    | with_reducible apply dmaNode_keeps
    | with_reducible apply foldStart_keeps
    | with_reducible apply modNode_keeps
    | with_reducible apply completeNode_keeps
    | with_reducible apply bankNode_keeps
    | split)

theorem execNodeDispatch_keeps {s₀ : State} {c : Nat} {g : Nat} {k : Nat} {ue : Option Upset} {s : State} (h : Keeps s₀ s) :
    AKeeps s₀ (execNodeDispatch c g k ue s) := by
  unfold execNodeDispatch
  try dsimp only
  repeat' (first
    | with_reducible assumption
    | with_reducible apply applyUpsets_keeps
    | with_reducible apply dmaNode_keeps
    | with_reducible apply modRegion_keeps
    | with_reducible apply completeNode_keeps
    | with_reducible apply nodeRun_keeps
    | with_reducible apply AKeeps.next
    | with_reducible refine AKeeps.inRun h ?_
    | split)

theorem emitPump_keeps {s₀ : State} {c : Nat} {s : State} (h : Keeps s₀ s) :
    Keeps s₀ (emitPump c s) := by
  unfold emitPump
  try dsimp only
  repeat' (first
    | with_reducible assumption
    | with_reducible apply startWrite_keeps
    | with_reducible apply modCtx_keeps
    | split)

theorem execNodeEmit_keeps {s₀ : State} {c : Nat} {s : State} (h : Keeps s₀ s) :
    AKeeps s₀ (execNodeEmit c s) := by
  unfold execNodeEmit
  try dsimp only
  repeat' (first
    | with_reducible assumption
    | with_reducible apply emitPump_keeps
    | with_reducible apply modCtx_keeps
    | with_reducible apply startWrite_keeps
    | with_reducible apply AKeeps.next
    | with_reducible refine AKeeps.inRun h ?_
    | split)

theorem scoreWritten_keeps {s₀ : State} {c : Nat} {s : State} (h : Keeps s₀ s) :
    Keeps s₀ (scoreWritten c s) := by
  unfold scoreWritten
  try dsimp only
  repeat' (first
    | with_reducible assumption
    | with_reducible apply emitPump_keeps
    | with_reducible apply modCtx_keeps)

theorem glnBodyWritten_keeps {s₀ : State} {c : Nat} {s : State} (h : Keeps s₀ s) :
    Keeps s₀ (glnBodyWritten c s) := by
  unfold glnBodyWritten
  try dsimp only
  repeat' (first
    | with_reducible assumption
    | with_reducible apply modCtx_keeps)

theorem glnSeqWritten_keeps {s₀ : State} {c : Nat} {s : State} (h : Keeps s₀ s) :
    Keeps s₀ (glnSeqWritten c s) := by
  unfold glnSeqWritten
  try dsimp only
  repeat' (first
    | with_reducible assumption
    | with_reducible apply modCtx_keeps
    | with_reducible apply emitPump_keeps
    | with_reducible apply slotTake_keeps
    | split)

theorem cplBodyWritten_keeps {s₀ : State} {c : Nat} {s : State} (h : Keeps s₀ s) :
    Keeps s₀ (cplBodyWritten c s) := by
  unfold cplBodyWritten
  try dsimp only
  repeat' (first
    | with_reducible assumption
    | with_reducible apply modCtx_keeps)

theorem cplSeqWritten_keeps {s₀ : State} {c : Nat} {s : State} (h : Keeps s₀ s) :
    Keeps s₀ (cplSeqWritten c s) := by
  unfold cplSeqWritten
  try dsimp only
  repeat' (first
    | with_reducible assumption
    | with_reducible apply slotsLeave_keeps
    | with_reducible apply modCtx_keeps
    | with_reducible apply foldPumpAll_keeps
    | with_reducible apply ctxEvent_keeps
    | split)

theorem execRecordSeqWrite_keeps {s₀ : State} {src : RecSrc} {s : State} (h : Keeps s₀ s) :
    AKeeps s₀ (execRecordSeqWrite src s) := by
  unfold execRecordSeqWrite
  try dsimp only
  repeat' (first
    | with_reducible assumption
    | with_reducible apply startWrite_keeps
    | with_reducible apply modCtx_keeps
    | with_reducible apply logSeqWrite_keeps
    | with_reducible apply dmaSeqWrite_keeps
    | with_reducible apply AKeeps.next
    | with_reducible refine AKeeps.inRun h ?_
    | split)

theorem cplReleaseWrite_keeps {s₀ : State} {c : Nat} {data : Word} {s : State} (h : Keeps s₀ s) :
    Keeps s₀ (cplReleaseWrite c data s) := by
  unfold cplReleaseWrite
  try dsimp only
  repeat' (first
    | with_reducible assumption
    | with_reducible apply emitPump_keeps
    | with_reducible apply modCtx_keeps)

theorem glnReleaseWrite_keeps {s₀ : State} {c : Nat} {data : Word} {s : State} (h : Keeps s₀ s) :
    Keeps s₀ (glnReleaseWrite c data s) := by
  unfold glnReleaseWrite
  try dsimp only
  repeat' (first
    | with_reducible assumption
    | with_reducible apply emitPump_keeps
    | with_reducible apply modCtx_keeps)

theorem execRingCplReleaseWrite_keeps {s₀ : State} {c : Nat} {data : Word} {s : State} (h : Keeps s₀ s) :
    AKeeps s₀ (execRingCplReleaseWrite c data s) := by
  unfold execRingCplReleaseWrite
  try dsimp only
  repeat' (first
    | with_reducible assumption
    | with_reducible apply cplReleaseWrite_keeps
    | with_reducible apply emit_keeps
    | with_reducible apply AKeeps.next
    | with_reducible refine AKeeps.inRun h ?_)

theorem execGlnReleaseWrite_keeps {s₀ : State} {c : Nat} {data : Word} {s : State} (h : Keeps s₀ s) :
    AKeeps s₀ (execGlnReleaseWrite c data s) := by
  unfold execGlnReleaseWrite
  try dsimp only
  repeat' (first
    | with_reducible assumption
    | with_reducible apply glnReleaseWrite_keeps
    | with_reducible apply emit_keeps
    | with_reducible apply AKeeps.next
    | with_reducible refine AKeeps.inRun h ?_)

theorem forgetRefs_keeps {s₀ : State} {c : Nat} {s : State} (h : Keeps s₀ s) : Keeps s₀ (forgetRefs c s) :=
  h.of_parts rfl rfl (List.length_map _) rfl rfl (List.length_map _) rfl rfl rfl rfl rfl id

theorem discardGraphs_keeps {s₀ : State} {c : Nat} {s : State} (h : Keeps s₀ s) :
    Keeps s₀ (discardGraphs c s) := by
  unfold discardGraphs
  try dsimp only
  repeat' (first
    | with_reducible assumption
    | with_reducible apply swathLeave_keeps
    | with_reducible apply forgetRefs_keeps
    | with_reducible apply modCtx_keeps
    | with_reducible refine foldl_keeps (fun _ _ _ => ?_) _ ?_)

theorem unprepare_keeps {s₀ : State} {c : Nat} {s : State} (h : Keeps s₀ s) :
    Keeps s₀ (unprepare c s) := by
  unfold unprepare
  try dsimp only
  repeat' (first
    | with_reducible assumption
    | with_reducible apply dropJobs_keeps
    | with_reducible apply modCtx_keeps)

theorem enterDisabled_keeps {s₀ : State} {c : Nat} {s : State} (h : Keeps s₀ s) :
    Keeps s₀ (enterDisabled c s) := by
  unfold enterDisabled
  try dsimp only
  repeat' (first
    | with_reducible assumption
    | with_reducible apply slotsDrop_keeps
    | with_reducible apply modCtx_keeps)

theorem ctxSeqErr_keeps {s₀ : State} {c : Nat} {s : State} (h : Keeps s₀ s) :
    Keeps s₀ (ctxSeqErr c s) := by
  unfold ctxSeqErr
  try dsimp only
  repeat' (first
    | with_reducible assumption
    | with_reducible apply modCtx_keeps)

theorem ctxCfgBad_keeps {s₀ : State} {c : Nat} {s : State} (h : Keeps s₀ s) :
    Keeps s₀ (ctxCfgBad c s) := by
  unfold ctxCfgBad
  try dsimp only
  repeat' (first
    | with_reducible assumption
    | with_reducible apply modCtx_keeps)

theorem enterEnabled_keeps {s₀ : State} {c : Nat} {s : State} (h : Keeps s₀ s) :
    Keeps s₀ (enterEnabled c s) := by
  unfold enterEnabled
  try dsimp only
  repeat' (first
    | with_reducible assumption
    | with_reducible apply modCtx_keeps)

theorem enable_keeps {s₀ : State} {c : Nat} {s : State} (h : Keeps s₀ s) :
    Keeps s₀ (enable c s) := by
  unfold enable
  try dsimp only
  repeat' (first
    | with_reducible assumption
    | with_reducible apply ctxCfgBad_keeps
    | with_reducible apply startRead_keeps
    | with_reducible apply modCtx_keeps
    | split)

theorem enHeaderRead_keeps {s₀ : State} {c : Nat} {bs : List OByte} {s : State} (h : Keeps s₀ s) :
    Keeps s₀ (enHeaderRead c bs s) := by
  unfold enHeaderRead
  try dsimp only
  repeat' (first
    | with_reducible assumption
    | with_reducible apply modCtx_keeps
    | with_reducible apply enterEnabled_keeps
    | with_reducible apply startRead_keeps
    | with_reducible refine foldl_keeps (fun _ _ _ => ?_) _ ?_
    | with_reducible refine foldl_fst_keeps (fun _ _ _ => ?_) _ ?_
    | split)

theorem enImageRead_keeps {s₀ : State} {c : Nat} {slot : Nat} {bs : List OByte} {s : State} (h : Keeps s₀ s) :
    Keeps s₀ (enImageRead c slot bs s) := by
  unfold enImageRead
  try dsimp only
  repeat' (first
    | with_reducible assumption
    | with_reducible apply modGraph_keeps
    | with_reducible apply modCtx_keeps
    | with_reducible apply ctxCfgBad_keeps
    | with_reducible apply enterEnabled_keeps
    | split)

theorem acceptAbort_keeps {s₀ : State} {c : Nat} {s : State} (h : Keeps s₀ s) :
    Keeps s₀ (acceptAbort c s) := by
  unfold acceptAbort
  try dsimp only
  repeat' (first
    | with_reducible assumption
    | with_reducible apply modCtx_keeps
    | with_reducible apply dropJobs_keeps
    | split)

theorem disable_keeps {s₀ : State} {c : Nat} {s : State} (h : Keeps s₀ s) :
    Keeps s₀ (disable c s) := by
  unfold disable
  try dsimp only
  repeat' (first
    | with_reducible assumption
    | with_reducible apply modCtx_keeps
    | with_reducible apply acceptAbort_keeps
    | with_reducible apply enterDisabled_keeps
    | with_reducible apply discardGraphs_keeps
    | with_reducible apply ctxSeqErr_keeps
    | split)

theorem cancel_keeps {s₀ : State} {c : Nat} {s : State} (h : Keeps s₀ s) :
    Keeps s₀ (cancel c s) := by
  unfold cancel
  try dsimp only
  repeat' (first
    | with_reducible assumption
    | with_reducible apply modCtx_keeps
    | with_reducible apply startRead_keeps
    | with_reducible refine foldl_keeps (fun _ _ _ => ?_) _ ?_
    | with_reducible refine foldl_fst_keeps (fun _ _ _ => ?_) _ ?_
    | split)

theorem cancelImageRead_keeps {s₀ : State} {c : Nat} {slot : Nat} {bs : List OByte} {s : State} (h : Keeps s₀ s) :
    Keeps s₀ (cancelImageRead c slot bs s) := by
  unfold cancelImageRead
  try dsimp only
  repeat' (first
    | with_reducible assumption
    | with_reducible apply modGraph_keeps
    | with_reducible apply modCtx_keeps
    | split)

theorem save_keeps {s₀ : State} {c : Nat} {s : State} (h : Keeps s₀ s) :
    Keeps s₀ (save c s) := by
  unfold save
  try dsimp only
  repeat' (first
    | with_reducible assumption
    | with_reducible apply startWrite_keeps
    | with_reducible apply modCtx_keeps)

theorem saveDone_keeps {s₀ : State} {c : Nat} {fail : Option Nat} {s : State} (h : Keeps s₀ s) :
    Keeps s₀ (saveDone c fail s) := by
  unfold saveDone
  try dsimp only
  repeat' (first
    | with_reducible assumption
    | with_reducible apply modCtx_keeps
    | with_reducible apply logEvent_keeps
    | split)

theorem restore_keeps {s₀ : State} {c : Nat} {s : State} (h : Keeps s₀ s) :
    Keeps s₀ (restore c s) := by
  unfold restore
  try dsimp only
  repeat' (first
    | with_reducible assumption
    | with_reducible apply ctxCfgBad_keeps
    | with_reducible apply startRead_keeps
    | with_reducible apply modCtx_keeps
    | split)

theorem restoreRead_keeps {s₀ : State} {c : Nat} {bs : List OByte} {s : State} (h : Keeps s₀ s) :
    Keeps s₀ (restoreRead c bs s) := by
  unfold restoreRead
  try dsimp only
  repeat' (first
    | with_reducible assumption
    | with_reducible apply modCtx_keeps
    | split)

theorem ctxCtrl_keeps {s₀ : State} {c : Nat} {data : Word} {s : State} (h : Keeps s₀ s) :
    Keeps s₀ (ctxCtrl c data s) := by
  unfold ctxCtrl
  try dsimp only
  repeat' (first
    | with_reducible assumption
    | with_reducible apply ctxSeqErr_keeps
    | with_reducible apply enable_keeps
    | with_reducible apply disable_keeps
    | with_reducible apply cancel_keeps
    | with_reducible apply save_keeps
    | with_reducible apply restore_keeps
    | split)

theorem execCtxEnable_keeps {s₀ : State} {c : Nat} {s : State} (h : Keeps s₀ s) :
    AKeeps s₀ (execCtxEnable c s) := by
  unfold execCtxEnable
  try dsimp only
  repeat' (first
    | with_reducible assumption
    | with_reducible apply ctxCtrl_keeps
    | with_reducible apply emit_keeps
    | with_reducible apply AKeeps.next
    | with_reducible refine AKeeps.inRun h ?_)

theorem execCtxDisable_keeps {s₀ : State} {c : Nat} {s : State} (h : Keeps s₀ s) :
    AKeeps s₀ (execCtxDisable c s) := by
  unfold execCtxDisable
  try dsimp only
  repeat' (first
    | with_reducible assumption
    | with_reducible apply ctxCtrl_keeps
    | with_reducible apply emit_keeps
    | with_reducible apply AKeeps.next
    | with_reducible refine AKeeps.inRun h ?_)

theorem execCtxCancel_keeps {s₀ : State} {c : Nat} {s : State} (h : Keeps s₀ s) :
    AKeeps s₀ (execCtxCancel c s) := by
  unfold execCtxCancel
  try dsimp only
  repeat' (first
    | with_reducible assumption
    | with_reducible apply ctxCtrl_keeps
    | with_reducible apply emit_keeps
    | with_reducible apply AKeeps.next
    | with_reducible refine AKeeps.inRun h ?_)

theorem execCtxSave_keeps {s₀ : State} {c : Nat} {s : State} (h : Keeps s₀ s) :
    AKeeps s₀ (execCtxSave c s) := by
  unfold execCtxSave
  try dsimp only
  repeat' (first
    | with_reducible assumption
    | with_reducible apply ctxCtrl_keeps
    | with_reducible apply emit_keeps
    | with_reducible apply AKeeps.next
    | with_reducible refine AKeeps.inRun h ?_)

theorem execCtxRestore_keeps {s₀ : State} {c : Nat} {s : State} (h : Keeps s₀ s) :
    AKeeps s₀ (execCtxRestore c s) := by
  unfold execCtxRestore
  try dsimp only
  repeat' (first
    | with_reducible assumption
    | with_reducible apply ctxCtrl_keeps
    | with_reducible apply emit_keeps
    | with_reducible apply AKeeps.next
    | with_reducible refine AKeeps.inRun h ?_)

theorem execContextDrained_keeps {s₀ : State} {c : Nat} {s : State} (h : Keeps s₀ s) :
    AKeeps s₀ (execContextDrained c s) := by
  unfold execContextDrained
  try dsimp only
  repeat' (first
    | with_reducible assumption
    | with_reducible apply ctxEvent_keeps
    | with_reducible apply enterDisabled_keeps
    | with_reducible apply unprepare_keeps
    | with_reducible apply AKeeps.next
    | with_reducible refine AKeeps.inRun h ?_
    | split)

theorem execContextStall_keeps {s₀ : State} {c : Nat} {s : State} (h : Keeps s₀ s) :
    AKeeps s₀ (execContextStall c s) := by
  unfold execContextStall
  try dsimp only
  repeat' (first
    | with_reducible assumption
    | with_reducible apply modTrk_keeps
    | with_reducible apply enginesOff_keeps
    | with_reducible apply ctxEvent_keeps
    | with_reducible apply modCtx_keeps
    | with_reducible apply AKeeps.next
    | with_reducible refine AKeeps.inRun h ?_
    | split)

theorem execSlicedModeEnter_keeps {s₀ : State} {s : State} (h : Keeps s₀ s) :
    AKeeps s₀ (execSlicedModeEnter s) := by
  unfold execSlicedModeEnter
  try dsimp only
  repeat' (first
    | with_reducible assumption
    | with_reducible apply slotsUnpin_keeps
    | with_reducible apply chooseHolder_keeps
    | with_reducible apply AKeeps.next
    | with_reducible refine AKeeps.inRun h ?_
    | split
    | dsimp only
    | with_reducible apply Keeps.upd)

theorem execSlicedModeExit_keeps {s₀ : State} {s : State} (h : Keeps s₀ s) :
    AKeeps s₀ (execSlicedModeExit s) := by
  unfold execSlicedModeExit
  try dsimp only
  repeat' (first
    | with_reducible assumption
    | with_reducible apply endSlice_keeps
    | with_reducible apply AKeeps.next
    | with_reducible refine AKeeps.inRun h ?_
    | split
    | dsimp only
    | with_reducible apply Keeps.upd)

theorem execSliceEnd_keeps {s₀ : State} {s : State} (h : Keeps s₀ s) :
    AKeeps s₀ (execSliceEnd s) := by
  unfold execSliceEnd
  try dsimp only
  repeat' (first
    | with_reducible assumption
    | with_reducible apply slotsUnpin_keeps
    | with_reducible apply chooseHolder_keeps
    | with_reducible apply endSlice_keeps
    | with_reducible apply AKeeps.next
    | with_reducible refine AKeeps.inRun h ?_
    | split)

theorem readDone_keeps {s₀ : State} {k : JobKind} {fail : Option Nat} {bs : List OByte} {s : State} (h : Keeps s₀ s) :
    Keeps s₀ (readDone k fail bs s) := by
  unfold readDone
  try dsimp only
  repeat' (first
    | with_reducible assumption
    | with_reducible apply liveEntryRead_keeps
    | with_reducible apply liveSectionRead_keeps
    | with_reducible apply accEntryRead_keeps
    | with_reducible apply accImageRead_keeps
    | with_reducible apply enHeaderRead_keeps
    | with_reducible apply enImageRead_keeps
    | with_reducible apply cancelImageRead_keeps
    | with_reducible apply restoreRead_keeps
    | with_reducible apply taskOpsRead_keeps
    | with_reducible apply taskHdrRead_keeps
    | with_reducible apply taskStagesRead_keeps
    | with_reducible apply taskTableRead_keeps
    | with_reducible apply swordRead_keeps
    | with_reducible apply planRead_keeps
    | with_reducible apply planListRead_keeps
    | with_reducible apply foldPumpAll_keeps
    | with_reducible apply slotLoaded_keeps
    | with_reducible apply mergeRead_keeps
    | with_reducible apply checkReadDone_keeps
    | with_reducible apply foldRead_keeps
    | with_reducible apply cmPlanRead_keeps
    | with_reducible apply cmListRead_keeps
    | with_reducible apply cmVecRead_keeps
    | with_reducible apply fbPlanRead_keeps
    | with_reducible apply swathReadDone_keeps
    | split)

theorem writeDone_keeps {s₀ : State} {k : JobKind} {s : State} (h : Keeps s₀ s) :
    Keeps s₀ (writeDone k s) := by
  unfold writeDone
  try dsimp only
  repeat' (first
    | with_reducible assumption
    | with_reducible apply accScoreWritten_keeps
    | with_reducible apply accFieldsWritten_keeps
    | with_reducible apply scoreWritten_keeps
    | with_reducible apply glnBodyWritten_keeps
    | with_reducible apply glnSeqWritten_keeps
    | with_reducible apply cplBodyWritten_keeps
    | with_reducible apply cplSeqWritten_keeps
    | with_reducible apply zeroVector_keeps
    | with_reducible apply afterPlan_keeps
    | with_reducible apply entryWritten_keeps
    | with_reducible apply headerWritten_keeps
    | split)

theorem writeEnd_keeps {s₀ : State} {k : JobKind} {fail : Option (Nat × Nat)} {s : State} (h : Keeps s₀ s) :
    Keeps s₀ (writeEnd k fail s) := by
  unfold writeEnd
  try dsimp only
  repeat' (first
    | with_reducible assumption
    | with_reducible apply logWritten_keeps
    | with_reducible apply dmaRecEnd_keeps
    | with_reducible apply saveDone_keeps
    | with_reducible apply mergeWritten_keeps
    | with_reducible apply tailWritten_keeps
    | with_reducible apply swathWriteDone_keeps
    | with_reducible apply ctxWriteFail_keeps
    | with_reducible apply writeDone_keeps
    | split)

theorem noteWords_keeps {s₀ : State} {c : Nat} {addr : Option Nat} {src : Src} {ctx : Nat} {t : Taken} {s : State} (h : Keeps s₀ s) :
    Keeps s₀ (noteWords c addr src ctx t s) := by
  unfold noteWords
  try dsimp only
  repeat' (first
    | with_reducible assumption
    | with_reducible apply logFrom_keeps
    | with_reducible apply countUe_keeps
    | with_reducible apply noteCorrected_keeps
    | with_reducible refine foldl_keeps (fun _ _ _ => ?_) _ ?_)

theorem jobEnd_keeps {s₀ : State} {r : State × Option Job} (h : Keeps s₀ r.1) : Keeps s₀ (jobEnd r) := by
  unfold jobEnd
  split
  · exact h
  · split
    · exact writeEnd_keeps h
    · exact readDone_keeps h

theorem ctlReply_keeps {s₀ : State} {c id : Nat} {b : Burst} {x : Reply} {s : State} (h : Keeps s₀ s) :
    Keeps s₀ (ctlReply c id b x s) := by
  unfold ctlReply
  dsimp only
  repeat' (first
    | with_reducible assumption
    | with_reducible apply jobEnd_keeps
    | with_reducible apply ctlGood_keeps
    | with_reducible apply ctlBad_keeps
    | with_reducible apply noteCorrected_keeps
    | with_reducible apply countUe_keeps
    | split)

theorem coreNote_keeps {s₀ : State} {c : Nat} {b : Burst} {x : Reply} {s : State} (h : Keeps s₀ s) :
    Keeps s₀ (coreNote c b x s) := by
  unfold coreNote
  try dsimp only
  repeat' (first
    | with_reducible assumption
    | with_reducible apply noteWords_keeps
    | with_reducible apply logFrom_keeps
    | split)

theorem coreStop_keeps {s₀ : State} {id : Nat} {b : Burst} {x : Reply} {s : State} (h : Keeps s₀ s) :
    Keeps s₀ (coreStop id b x s) := by
  unfold coreStop
  try dsimp only
  repeat' (first
    | with_reducible assumption
    | with_reducible apply taskStop_keeps
    | split)

theorem corePut_keeps {s₀ : State} {id : Nat} {b : Burst} {x : Reply} {s : State} (h : Keeps s₀ s) :
    Keeps s₀ (corePut id b x s) := by
  unfold corePut
  try dsimp only
  repeat' (first
    | with_reducible assumption
    | with_reducible apply modJob_keeps
    | split)

theorem coreReply_keeps {s₀ : State} {c r p : Nat} {epoch : BitVec 16} {id : Nat} {b : Burst} {x : Reply} {s : State}
    (h : Keeps s₀ s) : Keeps s₀ (coreReply c r p epoch id b x s) := by
  unfold coreReply
  dsimp only
  split
  · exact jobEnd_keeps (settle_keeps (corePut_keeps (coreStop_keeps (coreNote_keeps h))))
  · split
    · exact settle_keeps (coreStop_keeps (coreNote_keeps h))
    · exact coreStop_keeps (coreNote_keeps h)

theorem dmaReply_keeps {s₀ : State} {c : Nat} {r : Nat} {ch : Nat} {id : Nat} {b : Burst} {x : Reply} {s : State} (h : Keeps s₀ s) :
    Keeps s₀ (dmaReply c r ch id b x s) := by
  unfold dmaReply
  try dsimp only
  repeat' (first
    | with_reducible assumption
    | with_reducible apply noteWords_keeps
    | with_reducible apply dmaSettle_keeps
    | with_reducible apply logFrom_keeps
    | split)

theorem reply_keeps {s₀ : State} {c : Nat} {b : Burst} {x : Reply} {s : State} (h : Keeps s₀ s) :
    Keeps s₀ (reply c b x s) := by
  unfold reply
  try dsimp only
  repeat' (first
    | with_reducible assumption
    | with_reducible apply ctlReply_keeps
    | with_reducible apply coreReply_keeps
    | with_reducible apply dmaReply_keeps
    | with_reducible apply drainCtl_keeps
    | with_reducible apply drainRegion_keeps
    | split)

theorem lateAnswer_keeps {s₀ : State} {c : Nat} {tag : Nat} {wr : Bool} {s : State} (h : Keeps s₀ s) :
    Keeps s₀ (lateAnswer c tag wr s) := by
  unfold lateAnswer
  try dsimp only
  repeat' (first
    | with_reducible assumption
    | ((with_reducible apply modPort_keeps_rest); exact fun _ => ⟨rfl, rfl, rfl, rfl⟩))

theorem execCpiRdata_keeps {s₀ : State} {c : Nat} {tag : Nat} {err : Bool} {words : List GWord} {ue : Option Upset} {s : State} (h : Keeps s₀ s) :
    AKeeps s₀ (execCpiRdata c tag err words ue s) := by
  unfold execCpiRdata
  try dsimp only
  repeat' (first
    | with_reducible assumption
    | with_reducible apply applyUpsets_keeps
    | with_reducible apply lateAnswer_keeps
    | with_reducible apply reply_keeps
    | with_reducible apply dropReq_keeps
    | with_reducible apply AKeeps.next
    | with_reducible refine AKeeps.inRun h ?_
    | split)

theorem execCpiWriteAck_keeps {s₀ : State} {c : Nat} {tag : Nat} {err : Bool} {s : State} (h : Keeps s₀ s) :
    AKeeps s₀ (execCpiWriteAck c tag err s) := by
  unfold execCpiWriteAck
  try dsimp only
  repeat' (first
    | with_reducible assumption
    | with_reducible apply lateAnswer_keeps
    | with_reducible apply reply_keeps
    | with_reducible apply dropReq_keeps
    | with_reducible apply AKeeps.next
    | with_reducible refine AKeeps.inRun h ?_
    | split)

theorem execMemResponseTimeout_keeps {s₀ : State} {c : Nat} {tag : Nat} {wr : Bool} {s : State} (h : Keeps s₀ s) :
    AKeeps s₀ (execMemResponseTimeout c tag wr s) := by
  unfold execMemResponseTimeout
  try dsimp only
  repeat' (first
    | with_reducible assumption
    | with_reducible apply reply_keeps
    | ((with_reducible apply modPort_keeps_rest); exact fun _ => ⟨rfl, rfl, rfl, rfl⟩)
    | with_reducible apply dropReq_keeps
    | with_reducible apply AKeeps.next
    | with_reducible refine AKeeps.inRun h ?_
    | split)

theorem execCreditReturn_keeps {s₀ : State} {c rd wr st : Nat} {s : State} (h : Keeps s₀ s) :
    AKeeps s₀ (execCreditReturn c rd wr st s) := by
  unfold execCreditReturn
  refine AKeeps.inRun h ?_
  split
  · exact AKeeps.next h
  · exact AKeeps.next (bandsGo_keeps (drainCtl_keeps (drainRegion_keeps (modPort_keeps
      (fun _ q => ⟨Nat.min_le_left _ _, Nat.min_le_left _ _, Nat.min_le_left _ _, q.2.2.2⟩) h))))

theorem hostData_keeps {s₀ : State} {c : Nat} {sid : Nat} {len : Nat} {words : List GWord} {s : State} (h : Keeps s₀ s) :
    Keeps s₀ (hostData c sid len words s) := by
  unfold hostData
  try dsimp only
  repeat' (first
    | with_reducible assumption
    | with_reducible apply emit_keeps
    | with_reducible apply noteWords_keeps
    | with_reducible apply bandTake_keeps
    | split)

theorem tileData_keeps {s₀ : State} {p : Nat} {i : Nat} {len : Nat} {s : State} (h : Keeps s₀ s) :
    Keeps s₀ (tileData p i len s) := by
  unfold tileData
  try dsimp only
  repeat' (first
    | with_reducible assumption
    | with_reducible apply modSwath_keeps
    | with_reducible apply modSess_keeps
    | with_reducible apply bandTake_keeps
    | split)

theorem execCpiSdata_keeps {s₀ : State} {src : StreamSrc} {len : Nat} {words : List GWord} {s : State} (h : Keeps s₀ s) :
    AKeeps s₀ (execCpiSdata src len words s) := by
  unfold execCpiSdata
  try dsimp only
  repeat' (first
    | with_reducible assumption
    | with_reducible apply drainPort_keeps
    | with_reducible apply hostData_keeps
    | with_reducible apply tileData_keeps
    | with_reducible apply AKeeps.next
    | with_reducible refine AKeeps.inRun h ?_
    | split)

theorem closeRecv_keeps {s₀ : State} {c : Nat} {o : OpenStream} {s : State} (h : Keeps s₀ s) :
    Keeps s₀ (closeRecv c o s) := by
  unfold closeRecv
  try dsimp only
  repeat' (first
    | with_reducible assumption
    | with_reducible apply bandPump_keeps
    | ((with_reducible apply modPort_keeps_rest); exact fun _ => ⟨rfl, rfl, rfl, rfl⟩)
    | with_reducible apply tidyStreams_keeps
    | with_reducible apply bandEnd_keeps
    | split)

theorem execCpiSclose_keeps {s₀ : State} {c : Nat} {sid : Nat} {_err : Bool} {s : State} (h : Keeps s₀ s) :
    AKeeps s₀ (execCpiSclose c sid _err s) := by
  unfold execCpiSclose
  try dsimp only
  repeat' (first
    | with_reducible assumption
    | with_reducible apply emit_keeps
    | with_reducible apply drainPort_keeps
    | with_reducible apply closeRecv_keeps
    | with_reducible apply AKeeps.next
    | with_reducible refine AKeeps.inRun h ?_
    | split)

theorem execCluAliveToggle_keeps {s₀ : State} {c : Nat} {s : State} (h : Keeps s₀ s) :
    AKeeps s₀ (execCluAliveToggle c s) := by
  unfold execCluAliveToggle
  try dsimp only
  repeat' (first
    | with_reducible assumption
    | with_reducible apply emit_keeps
    | ((with_reducible apply modPort_keeps_rest); exact fun _ => ⟨rfl, rfl, rfl, rfl⟩)
    | with_reducible apply AKeeps.next
    | with_reducible refine AKeeps.inRun h ?_
    | split)

theorem lossLog_keeps {s₀ : State} {b : Burst} {s : State} (h : Keeps s₀ s) :
    Keeps s₀ (lossLog b s) := by
  unfold lossLog
  try dsimp only
  repeat' (first
    | with_reducible assumption
    | with_reducible apply logFrom_keeps
    | split)

theorem execClusterPartnerLost_keeps {s₀ : State} {c : Nat} {s : State} (h : Keeps s₀ s) :
    AKeeps s₀ (execClusterPartnerLost c s) := by
  unfold execClusterPartnerLost
  refine AKeeps.inRun h ?_
  split
  · exact AKeeps.next h
  · refine AKeeps.next (foldl_keeps (fun _ _ k => closeRecv_keeps k) _ (foldl_keeps (fun _ _ k => reply_keeps (lossLog_keeps k)) _
      (modPort_keeps (fun _ _ => ?_) h)))
    simp [Port.ok]

theorem execClusterPartnerReturn_keeps {s₀ : State} {c : Nat} {s : State} (h : Keeps s₀ s) :
    AKeeps s₀ (execClusterPartnerReturn c s) := by
  unfold execClusterPartnerReturn
  try dsimp only
  repeat' (first
    | with_reducible assumption
    | ((with_reducible apply modPort_keeps_rest); exact fun _ => ⟨rfl, rfl, rfl, rfl⟩)
    | with_reducible apply emit_keeps
    | with_reducible apply AKeeps.next
    | with_reducible refine AKeeps.inRun h ?_
    | split)

theorem writeIdent_keeps {s₀ : State} {off : Nat} {data : Word} {s : State} (h : Keeps s₀ s) :
    Keeps s₀ (writeIdent off data s) := by
  unfold writeIdent
  try dsimp only
  repeat' (first
    | with_reducible assumption
    | with_reducible apply liveGo_keeps
    | split
    | dsimp only
    | with_reducible apply Keeps.upd)

theorem rwCtx_keeps {s₀ : State} {c : Nat} {f : Ctx → Ctx} {s : State} (h : Keeps s₀ s) :
    Keeps s₀ (rwCtx c f s) := by
  unfold rwCtx
  try dsimp only
  repeat' (first
    | with_reducible assumption
    | with_reducible apply modCtx_keeps
    | split)

theorem writeRing_keeps {s₀ : State} {c : Nat} {off : Nat} {data : Word} {s : State} (h : Keeps s₀ s) :
    Keeps s₀ (writeRing c off data s) := by
  unfold writeRing
  try dsimp only
  repeat' (first
    | with_reducible assumption
    | with_reducible apply rwCtx_keeps
    | with_reducible apply subProdWrite_keeps
    | with_reducible apply cplReleaseWrite_keeps
    | with_reducible apply modCtx_keeps
    | split)

theorem modSched_keeps {s₀ : State} {f : Sched → Sched} {s : State} (h : Keeps s₀ s) :
    Keeps s₀ (modSched f s) := by
  unfold modSched
  try dsimp only
  repeat' (first
    | with_reducible assumption
    | split
    | dsimp only
    | with_reducible apply Keeps.upd)

theorem writeSch_keeps {s₀ : State} {off : Nat} {data : Word} {s : State} (h : Keeps s₀ s) :
    Keeps s₀ (writeSch off data s) := by
  unfold writeSch
  try dsimp only
  repeat' (first
    | with_reducible assumption
    | with_reducible apply modSched_keeps
    | split)

theorem writeCtx_keeps {s₀ : State} {c : Nat} {off : Nat} {data : Word} {s : State} (h : Keeps s₀ s) :
    Keeps s₀ (writeCtx c off data s) := by
  unfold writeCtx
  try dsimp only
  repeat' (first
    | with_reducible assumption
    | with_reducible apply ctxCtrl_keeps
    | with_reducible apply rwCtx_keeps
    | with_reducible apply modCtx_keeps
    | split)

theorem writeBank_keeps {s₀ : State} {n : Nat} {off : Nat} {data : Word} {s : State} (h : Keeps s₀ s) :
    Keeps s₀ (writeBank n off data s) := by
  unfold writeBank
  try dsimp only
  repeat' (first
    | with_reducible assumption
    | with_reducible apply advance_keeps
    | with_reducible apply cbCtrlWrite_keeps
    | with_reducible apply modBank_keeps
    | with_reducible apply sideWrite_keeps
    | split)

theorem either_keeps {s₀ : State} {data : Word} {f g both : State → State} {s : State}
    (hf : ∀ s, Keeps s₀ s → Keeps s₀ (f s)) (hg : ∀ s, Keeps s₀ s → Keeps s₀ (g s))
    (hb : ∀ s, Keeps s₀ s → Keeps s₀ (both s)) (h : Keeps s₀ s) : Keeps s₀ (either data f g both s) := by
  unfold either
  split
  · exact hb s h
  · exact hf s h
  · exact hg s h
  · exact h

theorem writeTrk_keeps {s₀ : State} {off : Nat} {data : Word} {s : State} (h : Keeps s₀ s) :
    Keeps s₀ (writeTrk off data s) := by
  unfold writeTrk
  try dsimp only
  repeat' (first
    | with_reducible assumption
    | with_reducible apply modTrk_keeps
    | with_reducible apply either_keeps
    | with_reducible apply agreeDeliver_keeps
    | with_reducible apply agreeLocal_keeps
    | with_reducible apply agreeDropped_keeps
    | with_reducible apply fbRequest_keeps
    | with_reducible apply reqDropped_keeps
    | split)

theorem writeGln_keeps {s₀ : State} {c : Nat} {off : Nat} {data : Word} {s : State} (h : Keeps s₀ s) :
    Keeps s₀ (writeGln c off data s) := by
  unfold writeGln
  try dsimp only
  repeat' (first
    | with_reducible assumption
    | with_reducible apply rwCtx_keeps
    | with_reducible apply glnReleaseWrite_keeps
    | with_reducible apply modCtx_keeps
    | split)

theorem writeOutl_keeps {s₀ : State} {c : Nat} {off : Nat} {data : Word} {s : State} (h : Keeps s₀ s) :
    Keeps s₀ (writeOutl c off data s) := by
  unfold writeOutl
  try dsimp only
  repeat' (first
    | with_reducible assumption
    | with_reducible apply rwCtx_keeps
    | with_reducible apply modCtx_keeps
    | split)

theorem writeRcp_keeps {s₀ : State} {n k : Nat} {data : Word} {s : State} (h : Keeps s₀ s) :
    Keeps s₀ (writeRcp n k data s) := by
  unfold writeRcp
  split
  · exact h
  · exact h.of_parts rfl rfl rfl (length_modAt _ _ _) rfl rfl rfl rfl rfl rfl rfl id

theorem writeRng_keeps {s₀ : State} {off : Nat} {data : Word} {s : State} (h : Keeps s₀ s) :
    Keeps s₀ (writeRng off data s) := by
  unfold writeRng
  try dsimp only
  repeat' (first
    | with_reducible assumption
    | with_reducible apply modRng_keeps
    | with_reducible apply rngGo_keeps
    | split)

theorem writeSeed_keeps {s₀ : State} {c : Nat} {off : Nat} {data : Word} {s : State} (h : Keeps s₀ s) :
    Keeps s₀ (writeSeed c off data s) := by
  unfold writeSeed
  try dsimp only
  repeat' (first
    | with_reducible assumption
    | with_reducible apply modCtx_keeps
    | with_reducible apply modRng_keeps
    | split)

theorem writeLnk_keeps {s₀ : State} {off : Nat} {data : Word} {s : State} (h : Keeps s₀ s) :
    Keeps s₀ (writeLnk off data s) := by
  unfold writeLnk
  try dsimp only
  repeat' (first
    | with_reducible assumption
    | with_reducible apply modExch_keeps
    | with_reducible apply agrCfgWrite_keeps
    | split)

theorem writePort_keeps {s₀ : State} {p : Nat} {off : Nat} {data : Word} {s : State} (h : Keeps s₀ s) :
    Keeps s₀ (writePort p off data s) := by
  unfold writePort
  try dsimp only
  repeat' (first
    | with_reducible assumption
    | with_reducible apply modLnk_keeps
    | with_reducible apply lnkClear_keeps
    | split)

theorem rwSess_keeps {s₀ : State} {p : Nat} {i : Nat} {f : Session → Session} {s : State} (h : Keeps s₀ s) :
    Keeps s₀ (rwSess p i f s) := by
  unfold rwSess
  try dsimp only
  repeat' (first
    | with_reducible assumption
    | with_reducible apply modSess_keeps
    | with_reducible apply modLnk_keeps
    | split)

theorem writeSess_keeps {s₀ : State} {p : Nat} {i : Nat} {off : Nat} {data : Word} {s : State} (h : Keeps s₀ s) :
    Keeps s₀ (writeSess p i off data s) := by
  unfold writeSess
  try dsimp only
  repeat' (first
    | with_reducible assumption
    | with_reducible apply rwSess_keeps
    | with_reducible apply sessCtrl_keeps
    | with_reducible apply modSess_keeps
    | split)

theorem rwLog_keeps {s₀ : State} {f : Health → Health} {s : State} (h : Keeps s₀ s) :
    Keeps s₀ (rwLog f s) := by
  unfold rwLog
  try dsimp only
  repeat' (first
    | with_reducible assumption
    | with_reducible apply modHealth_keeps
    | split)

theorem writeHlt_keeps {s₀ : State} {off : Nat} {data : Word} {s : State} (h : Keeps s₀ s) :
    Keeps s₀ (writeHlt off data s) := by
  unfold writeHlt
  try dsimp only
  repeat' (first
    | with_reducible assumption
    | with_reducible apply modHealth_keeps
    | with_reducible apply coreCtrl_keeps
    | with_reducible apply rwLog_keeps
    | with_reducible apply logSize_keeps
    | split)

theorem writeDma_keeps {s₀ : State} {r : Nat} {off : Nat} {data : Word} {s : State} (h : Keeps s₀ s) :
    Keeps s₀ (writeDma r off data s) := by
  unfold writeDma
  try dsimp only
  repeat' (first
    | with_reducible assumption
    | with_reducible apply modDma_keeps
    | with_reducible apply dmaResume_keeps
    | with_reducible apply dmaOwn_keeps
    | split)

theorem rwChan_keeps {s₀ : State} {r : Nat} {ch : Nat} {f : Chan → Chan} {s : State} (h : Keeps s₀ s) :
    Keeps s₀ (rwChan r ch f s) := by
  unfold rwChan
  try dsimp only
  repeat' (first
    | with_reducible assumption
    | with_reducible apply modChan_keeps
    | split)

theorem writeChan_keeps {s₀ : State} {r : Nat} {ch : Nat} {off : Nat} {data : Word} {s : State} (h : Keeps s₀ s) :
    Keeps s₀ (writeChan r ch off data s) := by
  unfold writeChan
  try dsimp only
  repeat' (first
    | with_reducible assumption
    | with_reducible apply dmaCtrl_keeps
    | with_reducible apply modChan_keeps
    | with_reducible apply rwChan_keeps
    | split)

theorem writeSlice_keeps {s₀ : State} {i : Nat} {off : Nat} {data : Word} {s : State} (h : Keeps s₀ s) :
    Keeps s₀ (writeSlice i off data s) := by
  unfold writeSlice
  try dsimp only
  repeat' (first
    | with_reducible assumption
    | with_reducible apply lftCfgWrite_keeps
    | with_reducible apply modSlice_keeps
    | with_reducible apply lftClear_keeps
    | split)

theorem writeReg_keeps {s₀ : State} {x : Reg} {data : Word} {s : State} (h : Keeps s₀ s) :
    Keeps s₀ (writeReg x data s) := by
  unfold writeReg
  try dsimp only
  repeat' (first
    | with_reducible assumption
    | with_reducible apply writeIdent_keeps
    | with_reducible apply writeRing_keeps
    | with_reducible apply writeSch_keeps
    | with_reducible apply writeCtx_keeps
    | with_reducible apply writeBank_keeps
    | with_reducible apply writeTrk_keeps
    | with_reducible apply writeGln_keeps
    | with_reducible apply writeOutl_keeps
    | with_reducible apply writeRcp_keeps
    | with_reducible apply writeRng_keeps
    | with_reducible apply writeSeed_keeps
    | with_reducible apply writeLnk_keeps
    | with_reducible apply writePort_keeps
    | with_reducible apply writeSess_keeps
    | with_reducible apply writeHlt_keeps
    | with_reducible apply writeDma_keeps
    | with_reducible apply writeChan_keeps
    | with_reducible apply writeSlice_keeps
    | split
    | dsimp only
    | with_reducible apply Keeps.upd_seq
    | with_reducible apply Keeps.upd_dom
    | with_reducible apply Keeps.upd)

theorem cpWrite_keeps {s₀ : State} {a : Nat} {data : Word} {s : State} (h : Keeps s₀ s) :
    Keeps s₀ (cpWrite a data s) := by
  unfold cpWrite
  try dsimp only
  repeat' (first
    | with_reducible assumption
    | with_reducible apply emit_keeps
    | with_reducible apply resetTo_keeps
    | with_reducible apply writeReg_keeps
    | split)

theorem cpRead_keeps {s₀ : State} {a : Nat} {s : State} (h : Keeps s₀ s) :
    Keeps s₀ (cpRead a s) := by
  unfold cpRead
  try dsimp only
  repeat' (first
    | with_reducible assumption
    | with_reducible apply emit_keeps
    | split)

theorem cpServe_keeps {s₀ : State} {q : CpReq} {s : State} (h : Keeps s₀ s) :
    Keeps s₀ (cpServe q s) := by
  unfold cpServe
  try dsimp only
  repeat' (first
    | with_reducible assumption
    | with_reducible apply cpWrite_keeps
    | with_reducible apply cpRead_keeps
    | split)

theorem resetEnd_keeps {s₀ : State} {dieIndex dieCountM1 : BitVec 4} {held : Option CpReq} {s : State} (h : Keeps s₀ s) :
    Keeps s₀ (resetEnd dieIndex dieCountM1 held s) := by
  unfold resetEnd
  dsimp only
  split
  · exact cpServe_keeps (released_keeps h)
  · exact released_keeps h

theorem execT5ResetAssert_keeps {s₀ : State} {s : State} (h : Keeps s₀ s) :
    AKeeps s₀ (execT5ResetAssert s) := by
  unfold execT5ResetAssert
  try dsimp only
  repeat' (first
    | with_reducible assumption
    | with_reducible apply resetTo_keeps
    | with_reducible apply AKeeps.next)

theorem execT5ResetRelease_keeps {s₀ : State} {dieIndex : BitVec 4} {dieCountM1 : BitVec 4} {held : Option CpReq} {s : State} (h : Keeps s₀ s) :
    AKeeps s₀ (execT5ResetRelease dieIndex dieCountM1 held s) := by
  unfold execT5ResetRelease
  try dsimp only
  repeat' (first
    | with_reducible assumption
    | with_reducible apply resetEnd_keeps
    | with_reducible apply AKeeps.next
    | split)

theorem execRdyResetFull_keeps {s₀ : State} {key : BitVec 16} {s : State} (h : Keeps s₀ s) :
    AKeeps s₀ (execRdyResetFull key s) := by
  unfold execRdyResetFull
  try dsimp only
  repeat' (first
    | with_reducible assumption
    | with_reducible apply cpWrite_keeps
    | with_reducible apply AKeeps.next
    | with_reducible refine AKeeps.inRun h ?_)

theorem execRequestedResetEnd_keeps {s₀ : State} {dieIndex : BitVec 4} {dieCountM1 : BitVec 4} {held : Option CpReq} {s : State} (h : Keeps s₀ s) :
    AKeeps s₀ (execRequestedResetEnd dieIndex dieCountM1 held s) := by
  unfold execRequestedResetEnd
  try dsimp only
  repeat' (first
    | with_reducible assumption
    | with_reducible apply resetEnd_keeps
    | with_reducible apply AKeeps.next
    | split)

theorem execRegisterWrite_keeps {s₀ : State} {addr : BitVec 22} {data : Word} {s : State} (h : Keeps s₀ s) :
    AKeeps s₀ (execRegisterWrite addr data s) := by
  unfold execRegisterWrite
  try dsimp only
  repeat' (first
    | with_reducible assumption
    | with_reducible apply cpWrite_keeps
    | with_reducible apply AKeeps.next
    | with_reducible refine AKeeps.inRun h ?_)

theorem execTestModeEnter_keeps {s₀ : State} {s : State} (h : Keeps s₀ s) :
    AKeeps s₀ (execTestModeEnter s) := by
  unfold execTestModeEnter
  try dsimp only
  repeat' (first
    | with_reducible assumption
    | with_reducible apply modWrap_keeps
    | with_reducible apply resetTo_keeps
    | with_reducible apply AKeeps.next
    | split)

theorem execTestModeExit_keeps {s₀ : State} {s : State} (h : Keeps s₀ s) :
    AKeeps s₀ (execTestModeExit s) := by
  unfold execTestModeExit
  try dsimp only
  repeat' (first
    | with_reducible assumption
    | with_reducible apply modWrap_keeps
    | with_reducible apply AKeeps.next)

theorem countCycle_keeps {s₀ : State} {s : State} (h : Keeps s₀ s) : Keeps s₀ (countCycle s) :=
  h.of_parts rfl rfl rfl rfl rfl (List.length_map _) rfl (List.length_map _) (List.length_map _) rfl rfl id

theorem tick_keeps {s₀ : State} {s : State} (h : Keeps s₀ s) : Keeps s₀ (tick s) := by
  unfold tick
  split
  · exact yieldSlice_keeps (countCycle_keeps h)
  · exact h

end Sys2Proof.Machine
end

