-- ==== Sys2Proof/Laws/State.lean ====
section
/-! SUPPORT. What each update of the state does to each field, true by definition; and what the accessors read after an update. -/

namespace Sys2Proof.Machine

variable {s : State}

/-! ## emit -/

@[simp] theorem emit_build {o : Out} : (emit o s).build = s.build := by rfl
@[simp] theorem emit_pending {o : Out} : (emit o s).pending = s.pending := by rfl
@[simp] theorem emit_rst {o : Out} : (emit o s).rst = s.rst := by rfl
@[simp] theorem emit_dieIndex {o : Out} : (emit o s).dieIndex = s.dieIndex := by rfl
@[simp] theorem emit_dieCountM1 {o : Out} : (emit o s).dieCountM1 = s.dieCountM1 := by rfl
@[simp] theorem emit_ctlTime {o : Out} : (emit o s).ctlTime = s.ctlTime := by rfl
@[simp] theorem emit_ldrTime {o : Out} : (emit o s).ldrTime = s.ldrTime := by rfl
@[simp] theorem emit_loader {o : Out} : (emit o s).loader = s.loader := by rfl
@[simp] theorem emit_verify {o : Out} : (emit o s).verify = s.verify := by rfl
@[simp] theorem emit_live {o : Out} : (emit o s).live = s.live := by rfl
@[simp] theorem emit_banks {o : Out} : (emit o s).banks = s.banks := by rfl
@[simp] theorem emit_recipes {o : Out} : (emit o s).recipes = s.recipes := by rfl
@[simp] theorem emit_rcpApplied {o : Out} : (emit o s).rcpApplied = s.rcpApplied := by rfl
@[simp] theorem emit_seqSlots {o : Out} : (emit o s).seqSlots = s.seqSlots := by rfl
@[simp] theorem emit_seqShadow {o : Out} : (emit o s).seqShadow = s.seqShadow := by rfl
@[simp] theorem emit_rng {o : Out} : (emit o s).rng = s.rng := by rfl
@[simp] theorem emit_wrapper {o : Out} : (emit o s).wrapper = s.wrapper := by rfl
@[simp] theorem emit_regions {o : Out} : (emit o s).regions = s.regions := by rfl
@[simp] theorem emit_ports {o : Out} : (emit o s).ports = s.ports := by rfl
@[simp] theorem emit_ctlWait {o : Out} : (emit o s).ctlWait = s.ctlWait := by rfl
@[simp] theorem emit_jobs {o : Out} : (emit o s).jobs = s.jobs := by rfl
@[simp] theorem emit_nextJob {o : Out} : (emit o s).nextJob = s.nextJob := by rfl
@[simp] theorem emit_health {o : Out} : (emit o s).health = s.health := by rfl
@[simp] theorem emit_lftCtrl {o : Out} : (emit o s).lftCtrl = s.lftCtrl := by rfl
@[simp] theorem emit_slices {o : Out} : (emit o s).slices = s.slices := by rfl
@[simp] theorem emit_lnk {o : Out} : (emit o s).lnk = s.lnk := by rfl
@[simp] theorem emit_exch {o : Out} : (emit o s).exch = s.exch := by rfl
@[simp] theorem emit_lnkDom {o : Out} : (emit o s).lnkDom = s.lnkDom := by rfl
@[simp] theorem emit_ctxs {o : Out} : (emit o s).ctxs = s.ctxs := by rfl
@[simp] theorem emit_sched {o : Out} : (emit o s).sched = s.sched := by rfl
@[simp] theorem emit_trk {o : Out} : (emit o s).trk = s.trk := by rfl
@[simp] theorem emit_swaths {o : Out} : (emit o s).swaths = s.swaths := by rfl
@[simp] theorem emit_nextTask {o : Out} : (emit o s).nextTask = s.nextTask := by rfl
@[simp] theorem emit_nextSwath {o : Out} : (emit o s).nextSwath = s.nextSwath := by rfl
@[simp] theorem emit_badCtx {o : Out} : (emit o s).badCtx = s.badCtx := by rfl
@[simp] theorem emit_badSlots {o : Out} : (emit o s).badSlots = s.badSlots := by rfl
@[simp] theorem emit_outs {o : Out} : (emit o s).outs = s.outs ++ [o] := by rfl
@[simp] theorem emit_freeCtr {o : Out} : (emit o s).freeCtr = s.freeCtr := by rfl

/-! ## emits -/

@[simp] theorem emits_build {os : List Out} : (emits os s).build = s.build := by rfl
@[simp] theorem emits_pending {os : List Out} : (emits os s).pending = s.pending := by rfl
@[simp] theorem emits_rst {os : List Out} : (emits os s).rst = s.rst := by rfl
@[simp] theorem emits_dieIndex {os : List Out} : (emits os s).dieIndex = s.dieIndex := by rfl
@[simp] theorem emits_dieCountM1 {os : List Out} : (emits os s).dieCountM1 = s.dieCountM1 := by rfl
@[simp] theorem emits_ctlTime {os : List Out} : (emits os s).ctlTime = s.ctlTime := by rfl
@[simp] theorem emits_ldrTime {os : List Out} : (emits os s).ldrTime = s.ldrTime := by rfl
@[simp] theorem emits_loader {os : List Out} : (emits os s).loader = s.loader := by rfl
@[simp] theorem emits_verify {os : List Out} : (emits os s).verify = s.verify := by rfl
@[simp] theorem emits_live {os : List Out} : (emits os s).live = s.live := by rfl
@[simp] theorem emits_banks {os : List Out} : (emits os s).banks = s.banks := by rfl
@[simp] theorem emits_recipes {os : List Out} : (emits os s).recipes = s.recipes := by rfl
@[simp] theorem emits_rcpApplied {os : List Out} : (emits os s).rcpApplied = s.rcpApplied := by rfl
@[simp] theorem emits_seqSlots {os : List Out} : (emits os s).seqSlots = s.seqSlots := by rfl
@[simp] theorem emits_seqShadow {os : List Out} : (emits os s).seqShadow = s.seqShadow := by rfl
@[simp] theorem emits_rng {os : List Out} : (emits os s).rng = s.rng := by rfl
@[simp] theorem emits_wrapper {os : List Out} : (emits os s).wrapper = s.wrapper := by rfl
@[simp] theorem emits_regions {os : List Out} : (emits os s).regions = s.regions := by rfl
@[simp] theorem emits_ports {os : List Out} : (emits os s).ports = s.ports := by rfl
@[simp] theorem emits_ctlWait {os : List Out} : (emits os s).ctlWait = s.ctlWait := by rfl
@[simp] theorem emits_jobs {os : List Out} : (emits os s).jobs = s.jobs := by rfl
@[simp] theorem emits_nextJob {os : List Out} : (emits os s).nextJob = s.nextJob := by rfl
@[simp] theorem emits_health {os : List Out} : (emits os s).health = s.health := by rfl
@[simp] theorem emits_lftCtrl {os : List Out} : (emits os s).lftCtrl = s.lftCtrl := by rfl
@[simp] theorem emits_slices {os : List Out} : (emits os s).slices = s.slices := by rfl
@[simp] theorem emits_lnk {os : List Out} : (emits os s).lnk = s.lnk := by rfl
@[simp] theorem emits_exch {os : List Out} : (emits os s).exch = s.exch := by rfl
@[simp] theorem emits_lnkDom {os : List Out} : (emits os s).lnkDom = s.lnkDom := by rfl
@[simp] theorem emits_ctxs {os : List Out} : (emits os s).ctxs = s.ctxs := by rfl
@[simp] theorem emits_sched {os : List Out} : (emits os s).sched = s.sched := by rfl
@[simp] theorem emits_trk {os : List Out} : (emits os s).trk = s.trk := by rfl
@[simp] theorem emits_swaths {os : List Out} : (emits os s).swaths = s.swaths := by rfl
@[simp] theorem emits_nextTask {os : List Out} : (emits os s).nextTask = s.nextTask := by rfl
@[simp] theorem emits_nextSwath {os : List Out} : (emits os s).nextSwath = s.nextSwath := by rfl
@[simp] theorem emits_badCtx {os : List Out} : (emits os s).badCtx = s.badCtx := by rfl
@[simp] theorem emits_badSlots {os : List Out} : (emits os s).badSlots = s.badSlots := by rfl
@[simp] theorem emits_outs {os : List Out} : (emits os s).outs = s.outs ++ os := by rfl
@[simp] theorem emits_freeCtr {os : List Out} : (emits os s).freeCtr = s.freeCtr := by rfl

/-! ## modRegion -/

@[simp] theorem modRegion_build {r : Nat} {f : Region → Region} : (modRegion r f s).build = s.build := by rfl
@[simp] theorem modRegion_pending {r : Nat} {f : Region → Region} : (modRegion r f s).pending = s.pending := by rfl
@[simp] theorem modRegion_rst {r : Nat} {f : Region → Region} : (modRegion r f s).rst = s.rst := by rfl
@[simp] theorem modRegion_dieIndex {r : Nat} {f : Region → Region} : (modRegion r f s).dieIndex = s.dieIndex := by rfl
@[simp] theorem modRegion_dieCountM1 {r : Nat} {f : Region → Region} : (modRegion r f s).dieCountM1 = s.dieCountM1 := by rfl
@[simp] theorem modRegion_ctlTime {r : Nat} {f : Region → Region} : (modRegion r f s).ctlTime = s.ctlTime := by rfl
@[simp] theorem modRegion_ldrTime {r : Nat} {f : Region → Region} : (modRegion r f s).ldrTime = s.ldrTime := by rfl
@[simp] theorem modRegion_loader {r : Nat} {f : Region → Region} : (modRegion r f s).loader = s.loader := by rfl
@[simp] theorem modRegion_verify {r : Nat} {f : Region → Region} : (modRegion r f s).verify = s.verify := by rfl
@[simp] theorem modRegion_live {r : Nat} {f : Region → Region} : (modRegion r f s).live = s.live := by rfl
@[simp] theorem modRegion_banks {r : Nat} {f : Region → Region} : (modRegion r f s).banks = s.banks := by rfl
@[simp] theorem modRegion_recipes {r : Nat} {f : Region → Region} : (modRegion r f s).recipes = s.recipes := by rfl
@[simp] theorem modRegion_rcpApplied {r : Nat} {f : Region → Region} : (modRegion r f s).rcpApplied = s.rcpApplied := by rfl
@[simp] theorem modRegion_seqSlots {r : Nat} {f : Region → Region} : (modRegion r f s).seqSlots = s.seqSlots := by rfl
@[simp] theorem modRegion_seqShadow {r : Nat} {f : Region → Region} : (modRegion r f s).seqShadow = s.seqShadow := by rfl
@[simp] theorem modRegion_rng {r : Nat} {f : Region → Region} : (modRegion r f s).rng = s.rng := by rfl
@[simp] theorem modRegion_wrapper {r : Nat} {f : Region → Region} : (modRegion r f s).wrapper = s.wrapper := by rfl
@[simp] theorem modRegion_regions {r : Nat} {f : Region → Region} : (modRegion r f s).regions = modAt s.regions r f := by rfl
@[simp] theorem modRegion_ports {r : Nat} {f : Region → Region} : (modRegion r f s).ports = s.ports := by rfl
@[simp] theorem modRegion_ctlWait {r : Nat} {f : Region → Region} : (modRegion r f s).ctlWait = s.ctlWait := by rfl
@[simp] theorem modRegion_jobs {r : Nat} {f : Region → Region} : (modRegion r f s).jobs = s.jobs := by rfl
@[simp] theorem modRegion_nextJob {r : Nat} {f : Region → Region} : (modRegion r f s).nextJob = s.nextJob := by rfl
@[simp] theorem modRegion_health {r : Nat} {f : Region → Region} : (modRegion r f s).health = s.health := by rfl
@[simp] theorem modRegion_lftCtrl {r : Nat} {f : Region → Region} : (modRegion r f s).lftCtrl = s.lftCtrl := by rfl
@[simp] theorem modRegion_slices {r : Nat} {f : Region → Region} : (modRegion r f s).slices = s.slices := by rfl
@[simp] theorem modRegion_lnk {r : Nat} {f : Region → Region} : (modRegion r f s).lnk = s.lnk := by rfl
@[simp] theorem modRegion_exch {r : Nat} {f : Region → Region} : (modRegion r f s).exch = s.exch := by rfl
@[simp] theorem modRegion_lnkDom {r : Nat} {f : Region → Region} : (modRegion r f s).lnkDom = s.lnkDom := by rfl
@[simp] theorem modRegion_ctxs {r : Nat} {f : Region → Region} : (modRegion r f s).ctxs = s.ctxs := by rfl
@[simp] theorem modRegion_sched {r : Nat} {f : Region → Region} : (modRegion r f s).sched = s.sched := by rfl
@[simp] theorem modRegion_trk {r : Nat} {f : Region → Region} : (modRegion r f s).trk = s.trk := by rfl
@[simp] theorem modRegion_swaths {r : Nat} {f : Region → Region} : (modRegion r f s).swaths = s.swaths := by rfl
@[simp] theorem modRegion_nextTask {r : Nat} {f : Region → Region} : (modRegion r f s).nextTask = s.nextTask := by rfl
@[simp] theorem modRegion_nextSwath {r : Nat} {f : Region → Region} : (modRegion r f s).nextSwath = s.nextSwath := by rfl
@[simp] theorem modRegion_badCtx {r : Nat} {f : Region → Region} : (modRegion r f s).badCtx = s.badCtx := by rfl
@[simp] theorem modRegion_badSlots {r : Nat} {f : Region → Region} : (modRegion r f s).badSlots = s.badSlots := by rfl
@[simp] theorem modRegion_outs {r : Nat} {f : Region → Region} : (modRegion r f s).outs = s.outs := by rfl
@[simp] theorem modRegion_freeCtr {r : Nat} {f : Region → Region} : (modRegion r f s).freeCtr = s.freeCtr := by rfl

/-! ## modDma -/

@[simp] theorem modDma_build {r : Nat} {f : Dma → Dma} : (modDma r f s).build = s.build := by rfl
@[simp] theorem modDma_pending {r : Nat} {f : Dma → Dma} : (modDma r f s).pending = s.pending := by rfl
@[simp] theorem modDma_rst {r : Nat} {f : Dma → Dma} : (modDma r f s).rst = s.rst := by rfl
@[simp] theorem modDma_dieIndex {r : Nat} {f : Dma → Dma} : (modDma r f s).dieIndex = s.dieIndex := by rfl
@[simp] theorem modDma_dieCountM1 {r : Nat} {f : Dma → Dma} : (modDma r f s).dieCountM1 = s.dieCountM1 := by rfl
@[simp] theorem modDma_ctlTime {r : Nat} {f : Dma → Dma} : (modDma r f s).ctlTime = s.ctlTime := by rfl
@[simp] theorem modDma_ldrTime {r : Nat} {f : Dma → Dma} : (modDma r f s).ldrTime = s.ldrTime := by rfl
@[simp] theorem modDma_loader {r : Nat} {f : Dma → Dma} : (modDma r f s).loader = s.loader := by rfl
@[simp] theorem modDma_verify {r : Nat} {f : Dma → Dma} : (modDma r f s).verify = s.verify := by rfl
@[simp] theorem modDma_live {r : Nat} {f : Dma → Dma} : (modDma r f s).live = s.live := by rfl
@[simp] theorem modDma_banks {r : Nat} {f : Dma → Dma} : (modDma r f s).banks = s.banks := by rfl
@[simp] theorem modDma_recipes {r : Nat} {f : Dma → Dma} : (modDma r f s).recipes = s.recipes := by rfl
@[simp] theorem modDma_rcpApplied {r : Nat} {f : Dma → Dma} : (modDma r f s).rcpApplied = s.rcpApplied := by rfl
@[simp] theorem modDma_seqSlots {r : Nat} {f : Dma → Dma} : (modDma r f s).seqSlots = s.seqSlots := by rfl
@[simp] theorem modDma_seqShadow {r : Nat} {f : Dma → Dma} : (modDma r f s).seqShadow = s.seqShadow := by rfl
@[simp] theorem modDma_rng {r : Nat} {f : Dma → Dma} : (modDma r f s).rng = s.rng := by rfl
@[simp] theorem modDma_wrapper {r : Nat} {f : Dma → Dma} : (modDma r f s).wrapper = s.wrapper := by rfl
@[simp] theorem modDma_regions {r : Nat} {f : Dma → Dma} : (modDma r f s).regions = modAt s.regions r (fun x => { x with dma := f x.dma }) := by rfl
@[simp] theorem modDma_ports {r : Nat} {f : Dma → Dma} : (modDma r f s).ports = s.ports := by rfl
@[simp] theorem modDma_ctlWait {r : Nat} {f : Dma → Dma} : (modDma r f s).ctlWait = s.ctlWait := by rfl
@[simp] theorem modDma_jobs {r : Nat} {f : Dma → Dma} : (modDma r f s).jobs = s.jobs := by rfl
@[simp] theorem modDma_nextJob {r : Nat} {f : Dma → Dma} : (modDma r f s).nextJob = s.nextJob := by rfl
@[simp] theorem modDma_health {r : Nat} {f : Dma → Dma} : (modDma r f s).health = s.health := by rfl
@[simp] theorem modDma_lftCtrl {r : Nat} {f : Dma → Dma} : (modDma r f s).lftCtrl = s.lftCtrl := by rfl
@[simp] theorem modDma_slices {r : Nat} {f : Dma → Dma} : (modDma r f s).slices = s.slices := by rfl
@[simp] theorem modDma_lnk {r : Nat} {f : Dma → Dma} : (modDma r f s).lnk = s.lnk := by rfl
@[simp] theorem modDma_exch {r : Nat} {f : Dma → Dma} : (modDma r f s).exch = s.exch := by rfl
@[simp] theorem modDma_lnkDom {r : Nat} {f : Dma → Dma} : (modDma r f s).lnkDom = s.lnkDom := by rfl
@[simp] theorem modDma_ctxs {r : Nat} {f : Dma → Dma} : (modDma r f s).ctxs = s.ctxs := by rfl
@[simp] theorem modDma_sched {r : Nat} {f : Dma → Dma} : (modDma r f s).sched = s.sched := by rfl
@[simp] theorem modDma_trk {r : Nat} {f : Dma → Dma} : (modDma r f s).trk = s.trk := by rfl
@[simp] theorem modDma_swaths {r : Nat} {f : Dma → Dma} : (modDma r f s).swaths = s.swaths := by rfl
@[simp] theorem modDma_nextTask {r : Nat} {f : Dma → Dma} : (modDma r f s).nextTask = s.nextTask := by rfl
@[simp] theorem modDma_nextSwath {r : Nat} {f : Dma → Dma} : (modDma r f s).nextSwath = s.nextSwath := by rfl
@[simp] theorem modDma_badCtx {r : Nat} {f : Dma → Dma} : (modDma r f s).badCtx = s.badCtx := by rfl
@[simp] theorem modDma_badSlots {r : Nat} {f : Dma → Dma} : (modDma r f s).badSlots = s.badSlots := by rfl
@[simp] theorem modDma_outs {r : Nat} {f : Dma → Dma} : (modDma r f s).outs = s.outs := by rfl
@[simp] theorem modDma_freeCtr {r : Nat} {f : Dma → Dma} : (modDma r f s).freeCtr = s.freeCtr := by rfl

/-! ## modChan -/

@[simp] theorem modChan_build {r ch : Nat} {f : Chan → Chan} : (modChan r ch f s).build = s.build := by rfl
@[simp] theorem modChan_pending {r ch : Nat} {f : Chan → Chan} : (modChan r ch f s).pending = s.pending := by rfl
@[simp] theorem modChan_rst {r ch : Nat} {f : Chan → Chan} : (modChan r ch f s).rst = s.rst := by rfl
@[simp] theorem modChan_dieIndex {r ch : Nat} {f : Chan → Chan} : (modChan r ch f s).dieIndex = s.dieIndex := by rfl
@[simp] theorem modChan_dieCountM1 {r ch : Nat} {f : Chan → Chan} : (modChan r ch f s).dieCountM1 = s.dieCountM1 := by rfl
@[simp] theorem modChan_ctlTime {r ch : Nat} {f : Chan → Chan} : (modChan r ch f s).ctlTime = s.ctlTime := by rfl
@[simp] theorem modChan_ldrTime {r ch : Nat} {f : Chan → Chan} : (modChan r ch f s).ldrTime = s.ldrTime := by rfl
@[simp] theorem modChan_loader {r ch : Nat} {f : Chan → Chan} : (modChan r ch f s).loader = s.loader := by rfl
@[simp] theorem modChan_verify {r ch : Nat} {f : Chan → Chan} : (modChan r ch f s).verify = s.verify := by rfl
@[simp] theorem modChan_live {r ch : Nat} {f : Chan → Chan} : (modChan r ch f s).live = s.live := by rfl
@[simp] theorem modChan_banks {r ch : Nat} {f : Chan → Chan} : (modChan r ch f s).banks = s.banks := by rfl
@[simp] theorem modChan_recipes {r ch : Nat} {f : Chan → Chan} : (modChan r ch f s).recipes = s.recipes := by rfl
@[simp] theorem modChan_rcpApplied {r ch : Nat} {f : Chan → Chan} : (modChan r ch f s).rcpApplied = s.rcpApplied := by rfl
@[simp] theorem modChan_seqSlots {r ch : Nat} {f : Chan → Chan} : (modChan r ch f s).seqSlots = s.seqSlots := by rfl
@[simp] theorem modChan_seqShadow {r ch : Nat} {f : Chan → Chan} : (modChan r ch f s).seqShadow = s.seqShadow := by rfl
@[simp] theorem modChan_rng {r ch : Nat} {f : Chan → Chan} : (modChan r ch f s).rng = s.rng := by rfl
@[simp] theorem modChan_wrapper {r ch : Nat} {f : Chan → Chan} : (modChan r ch f s).wrapper = s.wrapper := by rfl
@[simp] theorem modChan_regions {r ch : Nat} {f : Chan → Chan} : (modChan r ch f s).regions = modAt s.regions r (fun x => { x with dma := { x.dma with chans := modAt x.dma.chans ch f } }) := by rfl
@[simp] theorem modChan_ports {r ch : Nat} {f : Chan → Chan} : (modChan r ch f s).ports = s.ports := by rfl
@[simp] theorem modChan_ctlWait {r ch : Nat} {f : Chan → Chan} : (modChan r ch f s).ctlWait = s.ctlWait := by rfl
@[simp] theorem modChan_jobs {r ch : Nat} {f : Chan → Chan} : (modChan r ch f s).jobs = s.jobs := by rfl
@[simp] theorem modChan_nextJob {r ch : Nat} {f : Chan → Chan} : (modChan r ch f s).nextJob = s.nextJob := by rfl
@[simp] theorem modChan_health {r ch : Nat} {f : Chan → Chan} : (modChan r ch f s).health = s.health := by rfl
@[simp] theorem modChan_lftCtrl {r ch : Nat} {f : Chan → Chan} : (modChan r ch f s).lftCtrl = s.lftCtrl := by rfl
@[simp] theorem modChan_slices {r ch : Nat} {f : Chan → Chan} : (modChan r ch f s).slices = s.slices := by rfl
@[simp] theorem modChan_lnk {r ch : Nat} {f : Chan → Chan} : (modChan r ch f s).lnk = s.lnk := by rfl
@[simp] theorem modChan_exch {r ch : Nat} {f : Chan → Chan} : (modChan r ch f s).exch = s.exch := by rfl
@[simp] theorem modChan_lnkDom {r ch : Nat} {f : Chan → Chan} : (modChan r ch f s).lnkDom = s.lnkDom := by rfl
@[simp] theorem modChan_ctxs {r ch : Nat} {f : Chan → Chan} : (modChan r ch f s).ctxs = s.ctxs := by rfl
@[simp] theorem modChan_sched {r ch : Nat} {f : Chan → Chan} : (modChan r ch f s).sched = s.sched := by rfl
@[simp] theorem modChan_trk {r ch : Nat} {f : Chan → Chan} : (modChan r ch f s).trk = s.trk := by rfl
@[simp] theorem modChan_swaths {r ch : Nat} {f : Chan → Chan} : (modChan r ch f s).swaths = s.swaths := by rfl
@[simp] theorem modChan_nextTask {r ch : Nat} {f : Chan → Chan} : (modChan r ch f s).nextTask = s.nextTask := by rfl
@[simp] theorem modChan_nextSwath {r ch : Nat} {f : Chan → Chan} : (modChan r ch f s).nextSwath = s.nextSwath := by rfl
@[simp] theorem modChan_badCtx {r ch : Nat} {f : Chan → Chan} : (modChan r ch f s).badCtx = s.badCtx := by rfl
@[simp] theorem modChan_badSlots {r ch : Nat} {f : Chan → Chan} : (modChan r ch f s).badSlots = s.badSlots := by rfl
@[simp] theorem modChan_outs {r ch : Nat} {f : Chan → Chan} : (modChan r ch f s).outs = s.outs := by rfl
@[simp] theorem modChan_freeCtr {r ch : Nat} {f : Chan → Chan} : (modChan r ch f s).freeCtr = s.freeCtr := by rfl

/-! ## modPos -/

@[simp] theorem modPos_build {r p : Nat} {f : Pos → Pos} : (modPos r p f s).build = s.build := by rfl
@[simp] theorem modPos_pending {r p : Nat} {f : Pos → Pos} : (modPos r p f s).pending = s.pending := by rfl
@[simp] theorem modPos_rst {r p : Nat} {f : Pos → Pos} : (modPos r p f s).rst = s.rst := by rfl
@[simp] theorem modPos_dieIndex {r p : Nat} {f : Pos → Pos} : (modPos r p f s).dieIndex = s.dieIndex := by rfl
@[simp] theorem modPos_dieCountM1 {r p : Nat} {f : Pos → Pos} : (modPos r p f s).dieCountM1 = s.dieCountM1 := by rfl
@[simp] theorem modPos_ctlTime {r p : Nat} {f : Pos → Pos} : (modPos r p f s).ctlTime = s.ctlTime := by rfl
@[simp] theorem modPos_ldrTime {r p : Nat} {f : Pos → Pos} : (modPos r p f s).ldrTime = s.ldrTime := by rfl
@[simp] theorem modPos_loader {r p : Nat} {f : Pos → Pos} : (modPos r p f s).loader = s.loader := by rfl
@[simp] theorem modPos_verify {r p : Nat} {f : Pos → Pos} : (modPos r p f s).verify = s.verify := by rfl
@[simp] theorem modPos_live {r p : Nat} {f : Pos → Pos} : (modPos r p f s).live = s.live := by rfl
@[simp] theorem modPos_banks {r p : Nat} {f : Pos → Pos} : (modPos r p f s).banks = s.banks := by rfl
@[simp] theorem modPos_recipes {r p : Nat} {f : Pos → Pos} : (modPos r p f s).recipes = s.recipes := by rfl
@[simp] theorem modPos_rcpApplied {r p : Nat} {f : Pos → Pos} : (modPos r p f s).rcpApplied = s.rcpApplied := by rfl
@[simp] theorem modPos_seqSlots {r p : Nat} {f : Pos → Pos} : (modPos r p f s).seqSlots = s.seqSlots := by rfl
@[simp] theorem modPos_seqShadow {r p : Nat} {f : Pos → Pos} : (modPos r p f s).seqShadow = s.seqShadow := by rfl
@[simp] theorem modPos_rng {r p : Nat} {f : Pos → Pos} : (modPos r p f s).rng = s.rng := by rfl
@[simp] theorem modPos_wrapper {r p : Nat} {f : Pos → Pos} : (modPos r p f s).wrapper = s.wrapper := by rfl
@[simp] theorem modPos_regions {r p : Nat} {f : Pos → Pos} : (modPos r p f s).regions = modAt s.regions r (fun x => { x with pos := modAt x.pos p f }) := by rfl
@[simp] theorem modPos_ports {r p : Nat} {f : Pos → Pos} : (modPos r p f s).ports = s.ports := by rfl
@[simp] theorem modPos_ctlWait {r p : Nat} {f : Pos → Pos} : (modPos r p f s).ctlWait = s.ctlWait := by rfl
@[simp] theorem modPos_jobs {r p : Nat} {f : Pos → Pos} : (modPos r p f s).jobs = s.jobs := by rfl
@[simp] theorem modPos_nextJob {r p : Nat} {f : Pos → Pos} : (modPos r p f s).nextJob = s.nextJob := by rfl
@[simp] theorem modPos_health {r p : Nat} {f : Pos → Pos} : (modPos r p f s).health = s.health := by rfl
@[simp] theorem modPos_lftCtrl {r p : Nat} {f : Pos → Pos} : (modPos r p f s).lftCtrl = s.lftCtrl := by rfl
@[simp] theorem modPos_slices {r p : Nat} {f : Pos → Pos} : (modPos r p f s).slices = s.slices := by rfl
@[simp] theorem modPos_lnk {r p : Nat} {f : Pos → Pos} : (modPos r p f s).lnk = s.lnk := by rfl
@[simp] theorem modPos_exch {r p : Nat} {f : Pos → Pos} : (modPos r p f s).exch = s.exch := by rfl
@[simp] theorem modPos_lnkDom {r p : Nat} {f : Pos → Pos} : (modPos r p f s).lnkDom = s.lnkDom := by rfl
@[simp] theorem modPos_ctxs {r p : Nat} {f : Pos → Pos} : (modPos r p f s).ctxs = s.ctxs := by rfl
@[simp] theorem modPos_sched {r p : Nat} {f : Pos → Pos} : (modPos r p f s).sched = s.sched := by rfl
@[simp] theorem modPos_trk {r p : Nat} {f : Pos → Pos} : (modPos r p f s).trk = s.trk := by rfl
@[simp] theorem modPos_swaths {r p : Nat} {f : Pos → Pos} : (modPos r p f s).swaths = s.swaths := by rfl
@[simp] theorem modPos_nextTask {r p : Nat} {f : Pos → Pos} : (modPos r p f s).nextTask = s.nextTask := by rfl
@[simp] theorem modPos_nextSwath {r p : Nat} {f : Pos → Pos} : (modPos r p f s).nextSwath = s.nextSwath := by rfl
@[simp] theorem modPos_badCtx {r p : Nat} {f : Pos → Pos} : (modPos r p f s).badCtx = s.badCtx := by rfl
@[simp] theorem modPos_badSlots {r p : Nat} {f : Pos → Pos} : (modPos r p f s).badSlots = s.badSlots := by rfl
@[simp] theorem modPos_outs {r p : Nat} {f : Pos → Pos} : (modPos r p f s).outs = s.outs := by rfl
@[simp] theorem modPos_freeCtr {r p : Nat} {f : Pos → Pos} : (modPos r p f s).freeCtr = s.freeCtr := by rfl

/-! ## modPhys -/

@[simp] theorem modPhys_build {r c : Nat} {f : Phys → Phys} : (modPhys r c f s).build = s.build := by rfl
@[simp] theorem modPhys_pending {r c : Nat} {f : Phys → Phys} : (modPhys r c f s).pending = s.pending := by rfl
@[simp] theorem modPhys_rst {r c : Nat} {f : Phys → Phys} : (modPhys r c f s).rst = s.rst := by rfl
@[simp] theorem modPhys_dieIndex {r c : Nat} {f : Phys → Phys} : (modPhys r c f s).dieIndex = s.dieIndex := by rfl
@[simp] theorem modPhys_dieCountM1 {r c : Nat} {f : Phys → Phys} : (modPhys r c f s).dieCountM1 = s.dieCountM1 := by rfl
@[simp] theorem modPhys_ctlTime {r c : Nat} {f : Phys → Phys} : (modPhys r c f s).ctlTime = s.ctlTime := by rfl
@[simp] theorem modPhys_ldrTime {r c : Nat} {f : Phys → Phys} : (modPhys r c f s).ldrTime = s.ldrTime := by rfl
@[simp] theorem modPhys_loader {r c : Nat} {f : Phys → Phys} : (modPhys r c f s).loader = s.loader := by rfl
@[simp] theorem modPhys_verify {r c : Nat} {f : Phys → Phys} : (modPhys r c f s).verify = s.verify := by rfl
@[simp] theorem modPhys_live {r c : Nat} {f : Phys → Phys} : (modPhys r c f s).live = s.live := by rfl
@[simp] theorem modPhys_banks {r c : Nat} {f : Phys → Phys} : (modPhys r c f s).banks = s.banks := by rfl
@[simp] theorem modPhys_recipes {r c : Nat} {f : Phys → Phys} : (modPhys r c f s).recipes = s.recipes := by rfl
@[simp] theorem modPhys_rcpApplied {r c : Nat} {f : Phys → Phys} : (modPhys r c f s).rcpApplied = s.rcpApplied := by rfl
@[simp] theorem modPhys_seqSlots {r c : Nat} {f : Phys → Phys} : (modPhys r c f s).seqSlots = s.seqSlots := by rfl
@[simp] theorem modPhys_seqShadow {r c : Nat} {f : Phys → Phys} : (modPhys r c f s).seqShadow = s.seqShadow := by rfl
@[simp] theorem modPhys_rng {r c : Nat} {f : Phys → Phys} : (modPhys r c f s).rng = s.rng := by rfl
@[simp] theorem modPhys_wrapper {r c : Nat} {f : Phys → Phys} : (modPhys r c f s).wrapper = s.wrapper := by rfl
@[simp] theorem modPhys_regions {r c : Nat} {f : Phys → Phys} : (modPhys r c f s).regions = modAt s.regions r (fun x => { x with phys := modAt x.phys c f }) := by rfl
@[simp] theorem modPhys_ports {r c : Nat} {f : Phys → Phys} : (modPhys r c f s).ports = s.ports := by rfl
@[simp] theorem modPhys_ctlWait {r c : Nat} {f : Phys → Phys} : (modPhys r c f s).ctlWait = s.ctlWait := by rfl
@[simp] theorem modPhys_jobs {r c : Nat} {f : Phys → Phys} : (modPhys r c f s).jobs = s.jobs := by rfl
@[simp] theorem modPhys_nextJob {r c : Nat} {f : Phys → Phys} : (modPhys r c f s).nextJob = s.nextJob := by rfl
@[simp] theorem modPhys_health {r c : Nat} {f : Phys → Phys} : (modPhys r c f s).health = s.health := by rfl
@[simp] theorem modPhys_lftCtrl {r c : Nat} {f : Phys → Phys} : (modPhys r c f s).lftCtrl = s.lftCtrl := by rfl
@[simp] theorem modPhys_slices {r c : Nat} {f : Phys → Phys} : (modPhys r c f s).slices = s.slices := by rfl
@[simp] theorem modPhys_lnk {r c : Nat} {f : Phys → Phys} : (modPhys r c f s).lnk = s.lnk := by rfl
@[simp] theorem modPhys_exch {r c : Nat} {f : Phys → Phys} : (modPhys r c f s).exch = s.exch := by rfl
@[simp] theorem modPhys_lnkDom {r c : Nat} {f : Phys → Phys} : (modPhys r c f s).lnkDom = s.lnkDom := by rfl
@[simp] theorem modPhys_ctxs {r c : Nat} {f : Phys → Phys} : (modPhys r c f s).ctxs = s.ctxs := by rfl
@[simp] theorem modPhys_sched {r c : Nat} {f : Phys → Phys} : (modPhys r c f s).sched = s.sched := by rfl
@[simp] theorem modPhys_trk {r c : Nat} {f : Phys → Phys} : (modPhys r c f s).trk = s.trk := by rfl
@[simp] theorem modPhys_swaths {r c : Nat} {f : Phys → Phys} : (modPhys r c f s).swaths = s.swaths := by rfl
@[simp] theorem modPhys_nextTask {r c : Nat} {f : Phys → Phys} : (modPhys r c f s).nextTask = s.nextTask := by rfl
@[simp] theorem modPhys_nextSwath {r c : Nat} {f : Phys → Phys} : (modPhys r c f s).nextSwath = s.nextSwath := by rfl
@[simp] theorem modPhys_badCtx {r c : Nat} {f : Phys → Phys} : (modPhys r c f s).badCtx = s.badCtx := by rfl
@[simp] theorem modPhys_badSlots {r c : Nat} {f : Phys → Phys} : (modPhys r c f s).badSlots = s.badSlots := by rfl
@[simp] theorem modPhys_outs {r c : Nat} {f : Phys → Phys} : (modPhys r c f s).outs = s.outs := by rfl
@[simp] theorem modPhys_freeCtr {r c : Nat} {f : Phys → Phys} : (modPhys r c f s).freeCtr = s.freeCtr := by rfl

/-! ## modPort -/

@[simp] theorem modPort_build {c : Nat} {f : Port → Port} : (modPort c f s).build = s.build := by rfl
@[simp] theorem modPort_pending {c : Nat} {f : Port → Port} : (modPort c f s).pending = s.pending := by rfl
@[simp] theorem modPort_rst {c : Nat} {f : Port → Port} : (modPort c f s).rst = s.rst := by rfl
@[simp] theorem modPort_dieIndex {c : Nat} {f : Port → Port} : (modPort c f s).dieIndex = s.dieIndex := by rfl
@[simp] theorem modPort_dieCountM1 {c : Nat} {f : Port → Port} : (modPort c f s).dieCountM1 = s.dieCountM1 := by rfl
@[simp] theorem modPort_ctlTime {c : Nat} {f : Port → Port} : (modPort c f s).ctlTime = s.ctlTime := by rfl
@[simp] theorem modPort_ldrTime {c : Nat} {f : Port → Port} : (modPort c f s).ldrTime = s.ldrTime := by rfl
@[simp] theorem modPort_loader {c : Nat} {f : Port → Port} : (modPort c f s).loader = s.loader := by rfl
@[simp] theorem modPort_verify {c : Nat} {f : Port → Port} : (modPort c f s).verify = s.verify := by rfl
@[simp] theorem modPort_live {c : Nat} {f : Port → Port} : (modPort c f s).live = s.live := by rfl
@[simp] theorem modPort_banks {c : Nat} {f : Port → Port} : (modPort c f s).banks = s.banks := by rfl
@[simp] theorem modPort_recipes {c : Nat} {f : Port → Port} : (modPort c f s).recipes = s.recipes := by rfl
@[simp] theorem modPort_rcpApplied {c : Nat} {f : Port → Port} : (modPort c f s).rcpApplied = s.rcpApplied := by rfl
@[simp] theorem modPort_seqSlots {c : Nat} {f : Port → Port} : (modPort c f s).seqSlots = s.seqSlots := by rfl
@[simp] theorem modPort_seqShadow {c : Nat} {f : Port → Port} : (modPort c f s).seqShadow = s.seqShadow := by rfl
@[simp] theorem modPort_rng {c : Nat} {f : Port → Port} : (modPort c f s).rng = s.rng := by rfl
@[simp] theorem modPort_wrapper {c : Nat} {f : Port → Port} : (modPort c f s).wrapper = s.wrapper := by rfl
@[simp] theorem modPort_regions {c : Nat} {f : Port → Port} : (modPort c f s).regions = s.regions := by rfl
@[simp] theorem modPort_ports {c : Nat} {f : Port → Port} : (modPort c f s).ports = modAt s.ports c f := by rfl
@[simp] theorem modPort_ctlWait {c : Nat} {f : Port → Port} : (modPort c f s).ctlWait = s.ctlWait := by rfl
@[simp] theorem modPort_jobs {c : Nat} {f : Port → Port} : (modPort c f s).jobs = s.jobs := by rfl
@[simp] theorem modPort_nextJob {c : Nat} {f : Port → Port} : (modPort c f s).nextJob = s.nextJob := by rfl
@[simp] theorem modPort_health {c : Nat} {f : Port → Port} : (modPort c f s).health = s.health := by rfl
@[simp] theorem modPort_lftCtrl {c : Nat} {f : Port → Port} : (modPort c f s).lftCtrl = s.lftCtrl := by rfl
@[simp] theorem modPort_slices {c : Nat} {f : Port → Port} : (modPort c f s).slices = s.slices := by rfl
@[simp] theorem modPort_lnk {c : Nat} {f : Port → Port} : (modPort c f s).lnk = s.lnk := by rfl
@[simp] theorem modPort_exch {c : Nat} {f : Port → Port} : (modPort c f s).exch = s.exch := by rfl
@[simp] theorem modPort_lnkDom {c : Nat} {f : Port → Port} : (modPort c f s).lnkDom = s.lnkDom := by rfl
@[simp] theorem modPort_ctxs {c : Nat} {f : Port → Port} : (modPort c f s).ctxs = s.ctxs := by rfl
@[simp] theorem modPort_sched {c : Nat} {f : Port → Port} : (modPort c f s).sched = s.sched := by rfl
@[simp] theorem modPort_trk {c : Nat} {f : Port → Port} : (modPort c f s).trk = s.trk := by rfl
@[simp] theorem modPort_swaths {c : Nat} {f : Port → Port} : (modPort c f s).swaths = s.swaths := by rfl
@[simp] theorem modPort_nextTask {c : Nat} {f : Port → Port} : (modPort c f s).nextTask = s.nextTask := by rfl
@[simp] theorem modPort_nextSwath {c : Nat} {f : Port → Port} : (modPort c f s).nextSwath = s.nextSwath := by rfl
@[simp] theorem modPort_badCtx {c : Nat} {f : Port → Port} : (modPort c f s).badCtx = s.badCtx := by rfl
@[simp] theorem modPort_badSlots {c : Nat} {f : Port → Port} : (modPort c f s).badSlots = s.badSlots := by rfl
@[simp] theorem modPort_outs {c : Nat} {f : Port → Port} : (modPort c f s).outs = s.outs := by rfl
@[simp] theorem modPort_freeCtr {c : Nat} {f : Port → Port} : (modPort c f s).freeCtr = s.freeCtr := by rfl

/-! ## modBank -/

@[simp] theorem modBank_build {n : Nat} {f : Bank → Bank} : (modBank n f s).build = s.build := by rfl
@[simp] theorem modBank_pending {n : Nat} {f : Bank → Bank} : (modBank n f s).pending = s.pending := by rfl
@[simp] theorem modBank_rst {n : Nat} {f : Bank → Bank} : (modBank n f s).rst = s.rst := by rfl
@[simp] theorem modBank_dieIndex {n : Nat} {f : Bank → Bank} : (modBank n f s).dieIndex = s.dieIndex := by rfl
@[simp] theorem modBank_dieCountM1 {n : Nat} {f : Bank → Bank} : (modBank n f s).dieCountM1 = s.dieCountM1 := by rfl
@[simp] theorem modBank_ctlTime {n : Nat} {f : Bank → Bank} : (modBank n f s).ctlTime = s.ctlTime := by rfl
@[simp] theorem modBank_ldrTime {n : Nat} {f : Bank → Bank} : (modBank n f s).ldrTime = s.ldrTime := by rfl
@[simp] theorem modBank_loader {n : Nat} {f : Bank → Bank} : (modBank n f s).loader = s.loader := by rfl
@[simp] theorem modBank_verify {n : Nat} {f : Bank → Bank} : (modBank n f s).verify = s.verify := by rfl
@[simp] theorem modBank_live {n : Nat} {f : Bank → Bank} : (modBank n f s).live = s.live := by rfl
@[simp] theorem modBank_banks {n : Nat} {f : Bank → Bank} : (modBank n f s).banks = modAt s.banks n f := by rfl
@[simp] theorem modBank_recipes {n : Nat} {f : Bank → Bank} : (modBank n f s).recipes = s.recipes := by rfl
@[simp] theorem modBank_rcpApplied {n : Nat} {f : Bank → Bank} : (modBank n f s).rcpApplied = s.rcpApplied := by rfl
@[simp] theorem modBank_seqSlots {n : Nat} {f : Bank → Bank} : (modBank n f s).seqSlots = s.seqSlots := by rfl
@[simp] theorem modBank_seqShadow {n : Nat} {f : Bank → Bank} : (modBank n f s).seqShadow = s.seqShadow := by rfl
@[simp] theorem modBank_rng {n : Nat} {f : Bank → Bank} : (modBank n f s).rng = s.rng := by rfl
@[simp] theorem modBank_wrapper {n : Nat} {f : Bank → Bank} : (modBank n f s).wrapper = s.wrapper := by rfl
@[simp] theorem modBank_regions {n : Nat} {f : Bank → Bank} : (modBank n f s).regions = s.regions := by rfl
@[simp] theorem modBank_ports {n : Nat} {f : Bank → Bank} : (modBank n f s).ports = s.ports := by rfl
@[simp] theorem modBank_ctlWait {n : Nat} {f : Bank → Bank} : (modBank n f s).ctlWait = s.ctlWait := by rfl
@[simp] theorem modBank_jobs {n : Nat} {f : Bank → Bank} : (modBank n f s).jobs = s.jobs := by rfl
@[simp] theorem modBank_nextJob {n : Nat} {f : Bank → Bank} : (modBank n f s).nextJob = s.nextJob := by rfl
@[simp] theorem modBank_health {n : Nat} {f : Bank → Bank} : (modBank n f s).health = s.health := by rfl
@[simp] theorem modBank_lftCtrl {n : Nat} {f : Bank → Bank} : (modBank n f s).lftCtrl = s.lftCtrl := by rfl
@[simp] theorem modBank_slices {n : Nat} {f : Bank → Bank} : (modBank n f s).slices = s.slices := by rfl
@[simp] theorem modBank_lnk {n : Nat} {f : Bank → Bank} : (modBank n f s).lnk = s.lnk := by rfl
@[simp] theorem modBank_exch {n : Nat} {f : Bank → Bank} : (modBank n f s).exch = s.exch := by rfl
@[simp] theorem modBank_lnkDom {n : Nat} {f : Bank → Bank} : (modBank n f s).lnkDom = s.lnkDom := by rfl
@[simp] theorem modBank_ctxs {n : Nat} {f : Bank → Bank} : (modBank n f s).ctxs = s.ctxs := by rfl
@[simp] theorem modBank_sched {n : Nat} {f : Bank → Bank} : (modBank n f s).sched = s.sched := by rfl
@[simp] theorem modBank_trk {n : Nat} {f : Bank → Bank} : (modBank n f s).trk = s.trk := by rfl
@[simp] theorem modBank_swaths {n : Nat} {f : Bank → Bank} : (modBank n f s).swaths = s.swaths := by rfl
@[simp] theorem modBank_nextTask {n : Nat} {f : Bank → Bank} : (modBank n f s).nextTask = s.nextTask := by rfl
@[simp] theorem modBank_nextSwath {n : Nat} {f : Bank → Bank} : (modBank n f s).nextSwath = s.nextSwath := by rfl
@[simp] theorem modBank_badCtx {n : Nat} {f : Bank → Bank} : (modBank n f s).badCtx = s.badCtx := by rfl
@[simp] theorem modBank_badSlots {n : Nat} {f : Bank → Bank} : (modBank n f s).badSlots = s.badSlots := by rfl
@[simp] theorem modBank_outs {n : Nat} {f : Bank → Bank} : (modBank n f s).outs = s.outs := by rfl
@[simp] theorem modBank_freeCtr {n : Nat} {f : Bank → Bank} : (modBank n f s).freeCtr = s.freeCtr := by rfl

/-! ## modSlice -/

@[simp] theorem modSlice_build {i : Nat} {f : Slice → Slice} : (modSlice i f s).build = s.build := by rfl
@[simp] theorem modSlice_pending {i : Nat} {f : Slice → Slice} : (modSlice i f s).pending = s.pending := by rfl
@[simp] theorem modSlice_rst {i : Nat} {f : Slice → Slice} : (modSlice i f s).rst = s.rst := by rfl
@[simp] theorem modSlice_dieIndex {i : Nat} {f : Slice → Slice} : (modSlice i f s).dieIndex = s.dieIndex := by rfl
@[simp] theorem modSlice_dieCountM1 {i : Nat} {f : Slice → Slice} : (modSlice i f s).dieCountM1 = s.dieCountM1 := by rfl
@[simp] theorem modSlice_ctlTime {i : Nat} {f : Slice → Slice} : (modSlice i f s).ctlTime = s.ctlTime := by rfl
@[simp] theorem modSlice_ldrTime {i : Nat} {f : Slice → Slice} : (modSlice i f s).ldrTime = s.ldrTime := by rfl
@[simp] theorem modSlice_loader {i : Nat} {f : Slice → Slice} : (modSlice i f s).loader = s.loader := by rfl
@[simp] theorem modSlice_verify {i : Nat} {f : Slice → Slice} : (modSlice i f s).verify = s.verify := by rfl
@[simp] theorem modSlice_live {i : Nat} {f : Slice → Slice} : (modSlice i f s).live = s.live := by rfl
@[simp] theorem modSlice_banks {i : Nat} {f : Slice → Slice} : (modSlice i f s).banks = s.banks := by rfl
@[simp] theorem modSlice_recipes {i : Nat} {f : Slice → Slice} : (modSlice i f s).recipes = s.recipes := by rfl
@[simp] theorem modSlice_rcpApplied {i : Nat} {f : Slice → Slice} : (modSlice i f s).rcpApplied = s.rcpApplied := by rfl
@[simp] theorem modSlice_seqSlots {i : Nat} {f : Slice → Slice} : (modSlice i f s).seqSlots = s.seqSlots := by rfl
@[simp] theorem modSlice_seqShadow {i : Nat} {f : Slice → Slice} : (modSlice i f s).seqShadow = s.seqShadow := by rfl
@[simp] theorem modSlice_rng {i : Nat} {f : Slice → Slice} : (modSlice i f s).rng = s.rng := by rfl
@[simp] theorem modSlice_wrapper {i : Nat} {f : Slice → Slice} : (modSlice i f s).wrapper = s.wrapper := by rfl
@[simp] theorem modSlice_regions {i : Nat} {f : Slice → Slice} : (modSlice i f s).regions = s.regions := by rfl
@[simp] theorem modSlice_ports {i : Nat} {f : Slice → Slice} : (modSlice i f s).ports = s.ports := by rfl
@[simp] theorem modSlice_ctlWait {i : Nat} {f : Slice → Slice} : (modSlice i f s).ctlWait = s.ctlWait := by rfl
@[simp] theorem modSlice_jobs {i : Nat} {f : Slice → Slice} : (modSlice i f s).jobs = s.jobs := by rfl
@[simp] theorem modSlice_nextJob {i : Nat} {f : Slice → Slice} : (modSlice i f s).nextJob = s.nextJob := by rfl
@[simp] theorem modSlice_health {i : Nat} {f : Slice → Slice} : (modSlice i f s).health = s.health := by rfl
@[simp] theorem modSlice_lftCtrl {i : Nat} {f : Slice → Slice} : (modSlice i f s).lftCtrl = s.lftCtrl := by rfl
@[simp] theorem modSlice_slices {i : Nat} {f : Slice → Slice} : (modSlice i f s).slices = modAt s.slices i f := by rfl
@[simp] theorem modSlice_lnk {i : Nat} {f : Slice → Slice} : (modSlice i f s).lnk = s.lnk := by rfl
@[simp] theorem modSlice_exch {i : Nat} {f : Slice → Slice} : (modSlice i f s).exch = s.exch := by rfl
@[simp] theorem modSlice_lnkDom {i : Nat} {f : Slice → Slice} : (modSlice i f s).lnkDom = s.lnkDom := by rfl
@[simp] theorem modSlice_ctxs {i : Nat} {f : Slice → Slice} : (modSlice i f s).ctxs = s.ctxs := by rfl
@[simp] theorem modSlice_sched {i : Nat} {f : Slice → Slice} : (modSlice i f s).sched = s.sched := by rfl
@[simp] theorem modSlice_trk {i : Nat} {f : Slice → Slice} : (modSlice i f s).trk = s.trk := by rfl
@[simp] theorem modSlice_swaths {i : Nat} {f : Slice → Slice} : (modSlice i f s).swaths = s.swaths := by rfl
@[simp] theorem modSlice_nextTask {i : Nat} {f : Slice → Slice} : (modSlice i f s).nextTask = s.nextTask := by rfl
@[simp] theorem modSlice_nextSwath {i : Nat} {f : Slice → Slice} : (modSlice i f s).nextSwath = s.nextSwath := by rfl
@[simp] theorem modSlice_badCtx {i : Nat} {f : Slice → Slice} : (modSlice i f s).badCtx = s.badCtx := by rfl
@[simp] theorem modSlice_badSlots {i : Nat} {f : Slice → Slice} : (modSlice i f s).badSlots = s.badSlots := by rfl
@[simp] theorem modSlice_outs {i : Nat} {f : Slice → Slice} : (modSlice i f s).outs = s.outs := by rfl
@[simp] theorem modSlice_freeCtr {i : Nat} {f : Slice → Slice} : (modSlice i f s).freeCtr = s.freeCtr := by rfl

/-! ## modLnk -/

@[simp] theorem modLnk_build {p : Nat} {f : LinkPort → LinkPort} : (modLnk p f s).build = s.build := by rfl
@[simp] theorem modLnk_pending {p : Nat} {f : LinkPort → LinkPort} : (modLnk p f s).pending = s.pending := by rfl
@[simp] theorem modLnk_rst {p : Nat} {f : LinkPort → LinkPort} : (modLnk p f s).rst = s.rst := by rfl
@[simp] theorem modLnk_dieIndex {p : Nat} {f : LinkPort → LinkPort} : (modLnk p f s).dieIndex = s.dieIndex := by rfl
@[simp] theorem modLnk_dieCountM1 {p : Nat} {f : LinkPort → LinkPort} : (modLnk p f s).dieCountM1 = s.dieCountM1 := by rfl
@[simp] theorem modLnk_ctlTime {p : Nat} {f : LinkPort → LinkPort} : (modLnk p f s).ctlTime = s.ctlTime := by rfl
@[simp] theorem modLnk_ldrTime {p : Nat} {f : LinkPort → LinkPort} : (modLnk p f s).ldrTime = s.ldrTime := by rfl
@[simp] theorem modLnk_loader {p : Nat} {f : LinkPort → LinkPort} : (modLnk p f s).loader = s.loader := by rfl
@[simp] theorem modLnk_verify {p : Nat} {f : LinkPort → LinkPort} : (modLnk p f s).verify = s.verify := by rfl
@[simp] theorem modLnk_live {p : Nat} {f : LinkPort → LinkPort} : (modLnk p f s).live = s.live := by rfl
@[simp] theorem modLnk_banks {p : Nat} {f : LinkPort → LinkPort} : (modLnk p f s).banks = s.banks := by rfl
@[simp] theorem modLnk_recipes {p : Nat} {f : LinkPort → LinkPort} : (modLnk p f s).recipes = s.recipes := by rfl
@[simp] theorem modLnk_rcpApplied {p : Nat} {f : LinkPort → LinkPort} : (modLnk p f s).rcpApplied = s.rcpApplied := by rfl
@[simp] theorem modLnk_seqSlots {p : Nat} {f : LinkPort → LinkPort} : (modLnk p f s).seqSlots = s.seqSlots := by rfl
@[simp] theorem modLnk_seqShadow {p : Nat} {f : LinkPort → LinkPort} : (modLnk p f s).seqShadow = s.seqShadow := by rfl
@[simp] theorem modLnk_rng {p : Nat} {f : LinkPort → LinkPort} : (modLnk p f s).rng = s.rng := by rfl
@[simp] theorem modLnk_wrapper {p : Nat} {f : LinkPort → LinkPort} : (modLnk p f s).wrapper = s.wrapper := by rfl
@[simp] theorem modLnk_regions {p : Nat} {f : LinkPort → LinkPort} : (modLnk p f s).regions = s.regions := by rfl
@[simp] theorem modLnk_ports {p : Nat} {f : LinkPort → LinkPort} : (modLnk p f s).ports = s.ports := by rfl
@[simp] theorem modLnk_ctlWait {p : Nat} {f : LinkPort → LinkPort} : (modLnk p f s).ctlWait = s.ctlWait := by rfl
@[simp] theorem modLnk_jobs {p : Nat} {f : LinkPort → LinkPort} : (modLnk p f s).jobs = s.jobs := by rfl
@[simp] theorem modLnk_nextJob {p : Nat} {f : LinkPort → LinkPort} : (modLnk p f s).nextJob = s.nextJob := by rfl
@[simp] theorem modLnk_health {p : Nat} {f : LinkPort → LinkPort} : (modLnk p f s).health = s.health := by rfl
@[simp] theorem modLnk_lftCtrl {p : Nat} {f : LinkPort → LinkPort} : (modLnk p f s).lftCtrl = s.lftCtrl := by rfl
@[simp] theorem modLnk_slices {p : Nat} {f : LinkPort → LinkPort} : (modLnk p f s).slices = s.slices := by rfl
@[simp] theorem modLnk_lnk {p : Nat} {f : LinkPort → LinkPort} : (modLnk p f s).lnk = modAt s.lnk p f := by rfl
@[simp] theorem modLnk_exch {p : Nat} {f : LinkPort → LinkPort} : (modLnk p f s).exch = s.exch := by rfl
@[simp] theorem modLnk_lnkDom {p : Nat} {f : LinkPort → LinkPort} : (modLnk p f s).lnkDom = s.lnkDom := by rfl
@[simp] theorem modLnk_ctxs {p : Nat} {f : LinkPort → LinkPort} : (modLnk p f s).ctxs = s.ctxs := by rfl
@[simp] theorem modLnk_sched {p : Nat} {f : LinkPort → LinkPort} : (modLnk p f s).sched = s.sched := by rfl
@[simp] theorem modLnk_trk {p : Nat} {f : LinkPort → LinkPort} : (modLnk p f s).trk = s.trk := by rfl
@[simp] theorem modLnk_swaths {p : Nat} {f : LinkPort → LinkPort} : (modLnk p f s).swaths = s.swaths := by rfl
@[simp] theorem modLnk_nextTask {p : Nat} {f : LinkPort → LinkPort} : (modLnk p f s).nextTask = s.nextTask := by rfl
@[simp] theorem modLnk_nextSwath {p : Nat} {f : LinkPort → LinkPort} : (modLnk p f s).nextSwath = s.nextSwath := by rfl
@[simp] theorem modLnk_badCtx {p : Nat} {f : LinkPort → LinkPort} : (modLnk p f s).badCtx = s.badCtx := by rfl
@[simp] theorem modLnk_badSlots {p : Nat} {f : LinkPort → LinkPort} : (modLnk p f s).badSlots = s.badSlots := by rfl
@[simp] theorem modLnk_outs {p : Nat} {f : LinkPort → LinkPort} : (modLnk p f s).outs = s.outs := by rfl
@[simp] theorem modLnk_freeCtr {p : Nat} {f : LinkPort → LinkPort} : (modLnk p f s).freeCtr = s.freeCtr := by rfl

/-! ## modSess -/

@[simp] theorem modSess_build {p i : Nat} {f : Session → Session} : (modSess p i f s).build = s.build := by rfl
@[simp] theorem modSess_pending {p i : Nat} {f : Session → Session} : (modSess p i f s).pending = s.pending := by rfl
@[simp] theorem modSess_rst {p i : Nat} {f : Session → Session} : (modSess p i f s).rst = s.rst := by rfl
@[simp] theorem modSess_dieIndex {p i : Nat} {f : Session → Session} : (modSess p i f s).dieIndex = s.dieIndex := by rfl
@[simp] theorem modSess_dieCountM1 {p i : Nat} {f : Session → Session} : (modSess p i f s).dieCountM1 = s.dieCountM1 := by rfl
@[simp] theorem modSess_ctlTime {p i : Nat} {f : Session → Session} : (modSess p i f s).ctlTime = s.ctlTime := by rfl
@[simp] theorem modSess_ldrTime {p i : Nat} {f : Session → Session} : (modSess p i f s).ldrTime = s.ldrTime := by rfl
@[simp] theorem modSess_loader {p i : Nat} {f : Session → Session} : (modSess p i f s).loader = s.loader := by rfl
@[simp] theorem modSess_verify {p i : Nat} {f : Session → Session} : (modSess p i f s).verify = s.verify := by rfl
@[simp] theorem modSess_live {p i : Nat} {f : Session → Session} : (modSess p i f s).live = s.live := by rfl
@[simp] theorem modSess_banks {p i : Nat} {f : Session → Session} : (modSess p i f s).banks = s.banks := by rfl
@[simp] theorem modSess_recipes {p i : Nat} {f : Session → Session} : (modSess p i f s).recipes = s.recipes := by rfl
@[simp] theorem modSess_rcpApplied {p i : Nat} {f : Session → Session} : (modSess p i f s).rcpApplied = s.rcpApplied := by rfl
@[simp] theorem modSess_seqSlots {p i : Nat} {f : Session → Session} : (modSess p i f s).seqSlots = s.seqSlots := by rfl
@[simp] theorem modSess_seqShadow {p i : Nat} {f : Session → Session} : (modSess p i f s).seqShadow = s.seqShadow := by rfl
@[simp] theorem modSess_rng {p i : Nat} {f : Session → Session} : (modSess p i f s).rng = s.rng := by rfl
@[simp] theorem modSess_wrapper {p i : Nat} {f : Session → Session} : (modSess p i f s).wrapper = s.wrapper := by rfl
@[simp] theorem modSess_regions {p i : Nat} {f : Session → Session} : (modSess p i f s).regions = s.regions := by rfl
@[simp] theorem modSess_ports {p i : Nat} {f : Session → Session} : (modSess p i f s).ports = s.ports := by rfl
@[simp] theorem modSess_ctlWait {p i : Nat} {f : Session → Session} : (modSess p i f s).ctlWait = s.ctlWait := by rfl
@[simp] theorem modSess_jobs {p i : Nat} {f : Session → Session} : (modSess p i f s).jobs = s.jobs := by rfl
@[simp] theorem modSess_nextJob {p i : Nat} {f : Session → Session} : (modSess p i f s).nextJob = s.nextJob := by rfl
@[simp] theorem modSess_health {p i : Nat} {f : Session → Session} : (modSess p i f s).health = s.health := by rfl
@[simp] theorem modSess_lftCtrl {p i : Nat} {f : Session → Session} : (modSess p i f s).lftCtrl = s.lftCtrl := by rfl
@[simp] theorem modSess_slices {p i : Nat} {f : Session → Session} : (modSess p i f s).slices = s.slices := by rfl
@[simp] theorem modSess_lnk {p i : Nat} {f : Session → Session} : (modSess p i f s).lnk = modAt s.lnk p (fun l => { l with sessions := modAt l.sessions i f }) := by rfl
@[simp] theorem modSess_exch {p i : Nat} {f : Session → Session} : (modSess p i f s).exch = s.exch := by rfl
@[simp] theorem modSess_lnkDom {p i : Nat} {f : Session → Session} : (modSess p i f s).lnkDom = s.lnkDom := by rfl
@[simp] theorem modSess_ctxs {p i : Nat} {f : Session → Session} : (modSess p i f s).ctxs = s.ctxs := by rfl
@[simp] theorem modSess_sched {p i : Nat} {f : Session → Session} : (modSess p i f s).sched = s.sched := by rfl
@[simp] theorem modSess_trk {p i : Nat} {f : Session → Session} : (modSess p i f s).trk = s.trk := by rfl
@[simp] theorem modSess_swaths {p i : Nat} {f : Session → Session} : (modSess p i f s).swaths = s.swaths := by rfl
@[simp] theorem modSess_nextTask {p i : Nat} {f : Session → Session} : (modSess p i f s).nextTask = s.nextTask := by rfl
@[simp] theorem modSess_nextSwath {p i : Nat} {f : Session → Session} : (modSess p i f s).nextSwath = s.nextSwath := by rfl
@[simp] theorem modSess_badCtx {p i : Nat} {f : Session → Session} : (modSess p i f s).badCtx = s.badCtx := by rfl
@[simp] theorem modSess_badSlots {p i : Nat} {f : Session → Session} : (modSess p i f s).badSlots = s.badSlots := by rfl
@[simp] theorem modSess_outs {p i : Nat} {f : Session → Session} : (modSess p i f s).outs = s.outs := by rfl
@[simp] theorem modSess_freeCtr {p i : Nat} {f : Session → Session} : (modSess p i f s).freeCtr = s.freeCtr := by rfl

/-! ## modHealth -/

@[simp] theorem modHealth_build {f : Health → Health} : (modHealth f s).build = s.build := by rfl
@[simp] theorem modHealth_pending {f : Health → Health} : (modHealth f s).pending = s.pending := by rfl
@[simp] theorem modHealth_rst {f : Health → Health} : (modHealth f s).rst = s.rst := by rfl
@[simp] theorem modHealth_dieIndex {f : Health → Health} : (modHealth f s).dieIndex = s.dieIndex := by rfl
@[simp] theorem modHealth_dieCountM1 {f : Health → Health} : (modHealth f s).dieCountM1 = s.dieCountM1 := by rfl
@[simp] theorem modHealth_ctlTime {f : Health → Health} : (modHealth f s).ctlTime = s.ctlTime := by rfl
@[simp] theorem modHealth_ldrTime {f : Health → Health} : (modHealth f s).ldrTime = s.ldrTime := by rfl
@[simp] theorem modHealth_loader {f : Health → Health} : (modHealth f s).loader = s.loader := by rfl
@[simp] theorem modHealth_verify {f : Health → Health} : (modHealth f s).verify = s.verify := by rfl
@[simp] theorem modHealth_live {f : Health → Health} : (modHealth f s).live = s.live := by rfl
@[simp] theorem modHealth_banks {f : Health → Health} : (modHealth f s).banks = s.banks := by rfl
@[simp] theorem modHealth_recipes {f : Health → Health} : (modHealth f s).recipes = s.recipes := by rfl
@[simp] theorem modHealth_rcpApplied {f : Health → Health} : (modHealth f s).rcpApplied = s.rcpApplied := by rfl
@[simp] theorem modHealth_seqSlots {f : Health → Health} : (modHealth f s).seqSlots = s.seqSlots := by rfl
@[simp] theorem modHealth_seqShadow {f : Health → Health} : (modHealth f s).seqShadow = s.seqShadow := by rfl
@[simp] theorem modHealth_rng {f : Health → Health} : (modHealth f s).rng = s.rng := by rfl
@[simp] theorem modHealth_wrapper {f : Health → Health} : (modHealth f s).wrapper = s.wrapper := by rfl
@[simp] theorem modHealth_regions {f : Health → Health} : (modHealth f s).regions = s.regions := by rfl
@[simp] theorem modHealth_ports {f : Health → Health} : (modHealth f s).ports = s.ports := by rfl
@[simp] theorem modHealth_ctlWait {f : Health → Health} : (modHealth f s).ctlWait = s.ctlWait := by rfl
@[simp] theorem modHealth_jobs {f : Health → Health} : (modHealth f s).jobs = s.jobs := by rfl
@[simp] theorem modHealth_nextJob {f : Health → Health} : (modHealth f s).nextJob = s.nextJob := by rfl
@[simp] theorem modHealth_health {f : Health → Health} : (modHealth f s).health = f s.health := by rfl
@[simp] theorem modHealth_lftCtrl {f : Health → Health} : (modHealth f s).lftCtrl = s.lftCtrl := by rfl
@[simp] theorem modHealth_slices {f : Health → Health} : (modHealth f s).slices = s.slices := by rfl
@[simp] theorem modHealth_lnk {f : Health → Health} : (modHealth f s).lnk = s.lnk := by rfl
@[simp] theorem modHealth_exch {f : Health → Health} : (modHealth f s).exch = s.exch := by rfl
@[simp] theorem modHealth_lnkDom {f : Health → Health} : (modHealth f s).lnkDom = s.lnkDom := by rfl
@[simp] theorem modHealth_ctxs {f : Health → Health} : (modHealth f s).ctxs = s.ctxs := by rfl
@[simp] theorem modHealth_sched {f : Health → Health} : (modHealth f s).sched = s.sched := by rfl
@[simp] theorem modHealth_trk {f : Health → Health} : (modHealth f s).trk = s.trk := by rfl
@[simp] theorem modHealth_swaths {f : Health → Health} : (modHealth f s).swaths = s.swaths := by rfl
@[simp] theorem modHealth_nextTask {f : Health → Health} : (modHealth f s).nextTask = s.nextTask := by rfl
@[simp] theorem modHealth_nextSwath {f : Health → Health} : (modHealth f s).nextSwath = s.nextSwath := by rfl
@[simp] theorem modHealth_badCtx {f : Health → Health} : (modHealth f s).badCtx = s.badCtx := by rfl
@[simp] theorem modHealth_badSlots {f : Health → Health} : (modHealth f s).badSlots = s.badSlots := by rfl
@[simp] theorem modHealth_outs {f : Health → Health} : (modHealth f s).outs = s.outs := by rfl
@[simp] theorem modHealth_freeCtr {f : Health → Health} : (modHealth f s).freeCtr = s.freeCtr := by rfl

/-! ## modLoader -/

@[simp] theorem modLoader_build {f : Loader → Loader} : (modLoader f s).build = s.build := by rfl
@[simp] theorem modLoader_pending {f : Loader → Loader} : (modLoader f s).pending = s.pending := by rfl
@[simp] theorem modLoader_rst {f : Loader → Loader} : (modLoader f s).rst = s.rst := by rfl
@[simp] theorem modLoader_dieIndex {f : Loader → Loader} : (modLoader f s).dieIndex = s.dieIndex := by rfl
@[simp] theorem modLoader_dieCountM1 {f : Loader → Loader} : (modLoader f s).dieCountM1 = s.dieCountM1 := by rfl
@[simp] theorem modLoader_ctlTime {f : Loader → Loader} : (modLoader f s).ctlTime = s.ctlTime := by rfl
@[simp] theorem modLoader_ldrTime {f : Loader → Loader} : (modLoader f s).ldrTime = s.ldrTime := by rfl
@[simp] theorem modLoader_loader {f : Loader → Loader} : (modLoader f s).loader = f s.loader := by rfl
@[simp] theorem modLoader_verify {f : Loader → Loader} : (modLoader f s).verify = s.verify := by rfl
@[simp] theorem modLoader_live {f : Loader → Loader} : (modLoader f s).live = s.live := by rfl
@[simp] theorem modLoader_banks {f : Loader → Loader} : (modLoader f s).banks = s.banks := by rfl
@[simp] theorem modLoader_recipes {f : Loader → Loader} : (modLoader f s).recipes = s.recipes := by rfl
@[simp] theorem modLoader_rcpApplied {f : Loader → Loader} : (modLoader f s).rcpApplied = s.rcpApplied := by rfl
@[simp] theorem modLoader_seqSlots {f : Loader → Loader} : (modLoader f s).seqSlots = s.seqSlots := by rfl
@[simp] theorem modLoader_seqShadow {f : Loader → Loader} : (modLoader f s).seqShadow = s.seqShadow := by rfl
@[simp] theorem modLoader_rng {f : Loader → Loader} : (modLoader f s).rng = s.rng := by rfl
@[simp] theorem modLoader_wrapper {f : Loader → Loader} : (modLoader f s).wrapper = s.wrapper := by rfl
@[simp] theorem modLoader_regions {f : Loader → Loader} : (modLoader f s).regions = s.regions := by rfl
@[simp] theorem modLoader_ports {f : Loader → Loader} : (modLoader f s).ports = s.ports := by rfl
@[simp] theorem modLoader_ctlWait {f : Loader → Loader} : (modLoader f s).ctlWait = s.ctlWait := by rfl
@[simp] theorem modLoader_jobs {f : Loader → Loader} : (modLoader f s).jobs = s.jobs := by rfl
@[simp] theorem modLoader_nextJob {f : Loader → Loader} : (modLoader f s).nextJob = s.nextJob := by rfl
@[simp] theorem modLoader_health {f : Loader → Loader} : (modLoader f s).health = s.health := by rfl
@[simp] theorem modLoader_lftCtrl {f : Loader → Loader} : (modLoader f s).lftCtrl = s.lftCtrl := by rfl
@[simp] theorem modLoader_slices {f : Loader → Loader} : (modLoader f s).slices = s.slices := by rfl
@[simp] theorem modLoader_lnk {f : Loader → Loader} : (modLoader f s).lnk = s.lnk := by rfl
@[simp] theorem modLoader_exch {f : Loader → Loader} : (modLoader f s).exch = s.exch := by rfl
@[simp] theorem modLoader_lnkDom {f : Loader → Loader} : (modLoader f s).lnkDom = s.lnkDom := by rfl
@[simp] theorem modLoader_ctxs {f : Loader → Loader} : (modLoader f s).ctxs = s.ctxs := by rfl
@[simp] theorem modLoader_sched {f : Loader → Loader} : (modLoader f s).sched = s.sched := by rfl
@[simp] theorem modLoader_trk {f : Loader → Loader} : (modLoader f s).trk = s.trk := by rfl
@[simp] theorem modLoader_swaths {f : Loader → Loader} : (modLoader f s).swaths = s.swaths := by rfl
@[simp] theorem modLoader_nextTask {f : Loader → Loader} : (modLoader f s).nextTask = s.nextTask := by rfl
@[simp] theorem modLoader_nextSwath {f : Loader → Loader} : (modLoader f s).nextSwath = s.nextSwath := by rfl
@[simp] theorem modLoader_badCtx {f : Loader → Loader} : (modLoader f s).badCtx = s.badCtx := by rfl
@[simp] theorem modLoader_badSlots {f : Loader → Loader} : (modLoader f s).badSlots = s.badSlots := by rfl
@[simp] theorem modLoader_outs {f : Loader → Loader} : (modLoader f s).outs = s.outs := by rfl
@[simp] theorem modLoader_freeCtr {f : Loader → Loader} : (modLoader f s).freeCtr = s.freeCtr := by rfl

/-! ## modCtx -/

@[simp] theorem modCtx_build {c : Nat} {f : Ctx → Ctx} : (modCtx c f s).build = s.build := by rfl
@[simp] theorem modCtx_pending {c : Nat} {f : Ctx → Ctx} : (modCtx c f s).pending = s.pending := by rfl
@[simp] theorem modCtx_rst {c : Nat} {f : Ctx → Ctx} : (modCtx c f s).rst = s.rst := by rfl
@[simp] theorem modCtx_dieIndex {c : Nat} {f : Ctx → Ctx} : (modCtx c f s).dieIndex = s.dieIndex := by rfl
@[simp] theorem modCtx_dieCountM1 {c : Nat} {f : Ctx → Ctx} : (modCtx c f s).dieCountM1 = s.dieCountM1 := by rfl
@[simp] theorem modCtx_ctlTime {c : Nat} {f : Ctx → Ctx} : (modCtx c f s).ctlTime = s.ctlTime := by rfl
@[simp] theorem modCtx_ldrTime {c : Nat} {f : Ctx → Ctx} : (modCtx c f s).ldrTime = s.ldrTime := by rfl
@[simp] theorem modCtx_loader {c : Nat} {f : Ctx → Ctx} : (modCtx c f s).loader = s.loader := by rfl
@[simp] theorem modCtx_verify {c : Nat} {f : Ctx → Ctx} : (modCtx c f s).verify = s.verify := by rfl
@[simp] theorem modCtx_live {c : Nat} {f : Ctx → Ctx} : (modCtx c f s).live = s.live := by rfl
@[simp] theorem modCtx_banks {c : Nat} {f : Ctx → Ctx} : (modCtx c f s).banks = s.banks := by rfl
@[simp] theorem modCtx_recipes {c : Nat} {f : Ctx → Ctx} : (modCtx c f s).recipes = s.recipes := by rfl
@[simp] theorem modCtx_rcpApplied {c : Nat} {f : Ctx → Ctx} : (modCtx c f s).rcpApplied = s.rcpApplied := by rfl
@[simp] theorem modCtx_seqSlots {c : Nat} {f : Ctx → Ctx} : (modCtx c f s).seqSlots = s.seqSlots := by rfl
@[simp] theorem modCtx_seqShadow {c : Nat} {f : Ctx → Ctx} : (modCtx c f s).seqShadow = s.seqShadow := by rfl
@[simp] theorem modCtx_rng {c : Nat} {f : Ctx → Ctx} : (modCtx c f s).rng = s.rng := by rfl
@[simp] theorem modCtx_wrapper {c : Nat} {f : Ctx → Ctx} : (modCtx c f s).wrapper = s.wrapper := by rfl
@[simp] theorem modCtx_regions {c : Nat} {f : Ctx → Ctx} : (modCtx c f s).regions = s.regions := by rfl
@[simp] theorem modCtx_ports {c : Nat} {f : Ctx → Ctx} : (modCtx c f s).ports = s.ports := by rfl
@[simp] theorem modCtx_ctlWait {c : Nat} {f : Ctx → Ctx} : (modCtx c f s).ctlWait = s.ctlWait := by rfl
@[simp] theorem modCtx_jobs {c : Nat} {f : Ctx → Ctx} : (modCtx c f s).jobs = s.jobs := by rfl
@[simp] theorem modCtx_nextJob {c : Nat} {f : Ctx → Ctx} : (modCtx c f s).nextJob = s.nextJob := by rfl
@[simp] theorem modCtx_health {c : Nat} {f : Ctx → Ctx} : (modCtx c f s).health = s.health := by rfl
@[simp] theorem modCtx_lftCtrl {c : Nat} {f : Ctx → Ctx} : (modCtx c f s).lftCtrl = s.lftCtrl := by rfl
@[simp] theorem modCtx_slices {c : Nat} {f : Ctx → Ctx} : (modCtx c f s).slices = s.slices := by rfl
@[simp] theorem modCtx_lnk {c : Nat} {f : Ctx → Ctx} : (modCtx c f s).lnk = s.lnk := by rfl
@[simp] theorem modCtx_exch {c : Nat} {f : Ctx → Ctx} : (modCtx c f s).exch = s.exch := by rfl
@[simp] theorem modCtx_lnkDom {c : Nat} {f : Ctx → Ctx} : (modCtx c f s).lnkDom = s.lnkDom := by rfl
@[simp] theorem modCtx_ctxs {c : Nat} {f : Ctx → Ctx} : (modCtx c f s).ctxs = modAt s.ctxs c f := by rfl
@[simp] theorem modCtx_sched {c : Nat} {f : Ctx → Ctx} : (modCtx c f s).sched = s.sched := by rfl
@[simp] theorem modCtx_trk {c : Nat} {f : Ctx → Ctx} : (modCtx c f s).trk = s.trk := by rfl
@[simp] theorem modCtx_swaths {c : Nat} {f : Ctx → Ctx} : (modCtx c f s).swaths = s.swaths := by rfl
@[simp] theorem modCtx_nextTask {c : Nat} {f : Ctx → Ctx} : (modCtx c f s).nextTask = s.nextTask := by rfl
@[simp] theorem modCtx_nextSwath {c : Nat} {f : Ctx → Ctx} : (modCtx c f s).nextSwath = s.nextSwath := by rfl
@[simp] theorem modCtx_badCtx {c : Nat} {f : Ctx → Ctx} : (modCtx c f s).badCtx = s.badCtx := by rfl
@[simp] theorem modCtx_badSlots {c : Nat} {f : Ctx → Ctx} : (modCtx c f s).badSlots = s.badSlots := by rfl
@[simp] theorem modCtx_outs {c : Nat} {f : Ctx → Ctx} : (modCtx c f s).outs = s.outs := by rfl
@[simp] theorem modCtx_freeCtr {c : Nat} {f : Ctx → Ctx} : (modCtx c f s).freeCtr = s.freeCtr := by rfl

/-! ## modTrk -/

@[simp] theorem modTrk_build {f : Tracker → Tracker} : (modTrk f s).build = s.build := by rfl
@[simp] theorem modTrk_pending {f : Tracker → Tracker} : (modTrk f s).pending = s.pending := by rfl
@[simp] theorem modTrk_rst {f : Tracker → Tracker} : (modTrk f s).rst = s.rst := by rfl
@[simp] theorem modTrk_dieIndex {f : Tracker → Tracker} : (modTrk f s).dieIndex = s.dieIndex := by rfl
@[simp] theorem modTrk_dieCountM1 {f : Tracker → Tracker} : (modTrk f s).dieCountM1 = s.dieCountM1 := by rfl
@[simp] theorem modTrk_ctlTime {f : Tracker → Tracker} : (modTrk f s).ctlTime = s.ctlTime := by rfl
@[simp] theorem modTrk_ldrTime {f : Tracker → Tracker} : (modTrk f s).ldrTime = s.ldrTime := by rfl
@[simp] theorem modTrk_loader {f : Tracker → Tracker} : (modTrk f s).loader = s.loader := by rfl
@[simp] theorem modTrk_verify {f : Tracker → Tracker} : (modTrk f s).verify = s.verify := by rfl
@[simp] theorem modTrk_live {f : Tracker → Tracker} : (modTrk f s).live = s.live := by rfl
@[simp] theorem modTrk_banks {f : Tracker → Tracker} : (modTrk f s).banks = s.banks := by rfl
@[simp] theorem modTrk_recipes {f : Tracker → Tracker} : (modTrk f s).recipes = s.recipes := by rfl
@[simp] theorem modTrk_rcpApplied {f : Tracker → Tracker} : (modTrk f s).rcpApplied = s.rcpApplied := by rfl
@[simp] theorem modTrk_seqSlots {f : Tracker → Tracker} : (modTrk f s).seqSlots = s.seqSlots := by rfl
@[simp] theorem modTrk_seqShadow {f : Tracker → Tracker} : (modTrk f s).seqShadow = s.seqShadow := by rfl
@[simp] theorem modTrk_rng {f : Tracker → Tracker} : (modTrk f s).rng = s.rng := by rfl
@[simp] theorem modTrk_wrapper {f : Tracker → Tracker} : (modTrk f s).wrapper = s.wrapper := by rfl
@[simp] theorem modTrk_regions {f : Tracker → Tracker} : (modTrk f s).regions = s.regions := by rfl
@[simp] theorem modTrk_ports {f : Tracker → Tracker} : (modTrk f s).ports = s.ports := by rfl
@[simp] theorem modTrk_ctlWait {f : Tracker → Tracker} : (modTrk f s).ctlWait = s.ctlWait := by rfl
@[simp] theorem modTrk_jobs {f : Tracker → Tracker} : (modTrk f s).jobs = s.jobs := by rfl
@[simp] theorem modTrk_nextJob {f : Tracker → Tracker} : (modTrk f s).nextJob = s.nextJob := by rfl
@[simp] theorem modTrk_health {f : Tracker → Tracker} : (modTrk f s).health = s.health := by rfl
@[simp] theorem modTrk_lftCtrl {f : Tracker → Tracker} : (modTrk f s).lftCtrl = s.lftCtrl := by rfl
@[simp] theorem modTrk_slices {f : Tracker → Tracker} : (modTrk f s).slices = s.slices := by rfl
@[simp] theorem modTrk_lnk {f : Tracker → Tracker} : (modTrk f s).lnk = s.lnk := by rfl
@[simp] theorem modTrk_exch {f : Tracker → Tracker} : (modTrk f s).exch = s.exch := by rfl
@[simp] theorem modTrk_lnkDom {f : Tracker → Tracker} : (modTrk f s).lnkDom = s.lnkDom := by rfl
@[simp] theorem modTrk_ctxs {f : Tracker → Tracker} : (modTrk f s).ctxs = s.ctxs := by rfl
@[simp] theorem modTrk_sched {f : Tracker → Tracker} : (modTrk f s).sched = s.sched := by rfl
@[simp] theorem modTrk_trk {f : Tracker → Tracker} : (modTrk f s).trk = f s.trk := by rfl
@[simp] theorem modTrk_swaths {f : Tracker → Tracker} : (modTrk f s).swaths = s.swaths := by rfl
@[simp] theorem modTrk_nextTask {f : Tracker → Tracker} : (modTrk f s).nextTask = s.nextTask := by rfl
@[simp] theorem modTrk_nextSwath {f : Tracker → Tracker} : (modTrk f s).nextSwath = s.nextSwath := by rfl
@[simp] theorem modTrk_badCtx {f : Tracker → Tracker} : (modTrk f s).badCtx = s.badCtx := by rfl
@[simp] theorem modTrk_badSlots {f : Tracker → Tracker} : (modTrk f s).badSlots = s.badSlots := by rfl
@[simp] theorem modTrk_outs {f : Tracker → Tracker} : (modTrk f s).outs = s.outs := by rfl
@[simp] theorem modTrk_freeCtr {f : Tracker → Tracker} : (modTrk f s).freeCtr = s.freeCtr := by rfl

/-! ## modExch -/

@[simp] theorem modExch_build {f : Exchange → Exchange} : (modExch f s).build = s.build := by rfl
@[simp] theorem modExch_pending {f : Exchange → Exchange} : (modExch f s).pending = s.pending := by rfl
@[simp] theorem modExch_rst {f : Exchange → Exchange} : (modExch f s).rst = s.rst := by rfl
@[simp] theorem modExch_dieIndex {f : Exchange → Exchange} : (modExch f s).dieIndex = s.dieIndex := by rfl
@[simp] theorem modExch_dieCountM1 {f : Exchange → Exchange} : (modExch f s).dieCountM1 = s.dieCountM1 := by rfl
@[simp] theorem modExch_ctlTime {f : Exchange → Exchange} : (modExch f s).ctlTime = s.ctlTime := by rfl
@[simp] theorem modExch_ldrTime {f : Exchange → Exchange} : (modExch f s).ldrTime = s.ldrTime := by rfl
@[simp] theorem modExch_loader {f : Exchange → Exchange} : (modExch f s).loader = s.loader := by rfl
@[simp] theorem modExch_verify {f : Exchange → Exchange} : (modExch f s).verify = s.verify := by rfl
@[simp] theorem modExch_live {f : Exchange → Exchange} : (modExch f s).live = s.live := by rfl
@[simp] theorem modExch_banks {f : Exchange → Exchange} : (modExch f s).banks = s.banks := by rfl
@[simp] theorem modExch_recipes {f : Exchange → Exchange} : (modExch f s).recipes = s.recipes := by rfl
@[simp] theorem modExch_rcpApplied {f : Exchange → Exchange} : (modExch f s).rcpApplied = s.rcpApplied := by rfl
@[simp] theorem modExch_seqSlots {f : Exchange → Exchange} : (modExch f s).seqSlots = s.seqSlots := by rfl
@[simp] theorem modExch_seqShadow {f : Exchange → Exchange} : (modExch f s).seqShadow = s.seqShadow := by rfl
@[simp] theorem modExch_rng {f : Exchange → Exchange} : (modExch f s).rng = s.rng := by rfl
@[simp] theorem modExch_wrapper {f : Exchange → Exchange} : (modExch f s).wrapper = s.wrapper := by rfl
@[simp] theorem modExch_regions {f : Exchange → Exchange} : (modExch f s).regions = s.regions := by rfl
@[simp] theorem modExch_ports {f : Exchange → Exchange} : (modExch f s).ports = s.ports := by rfl
@[simp] theorem modExch_ctlWait {f : Exchange → Exchange} : (modExch f s).ctlWait = s.ctlWait := by rfl
@[simp] theorem modExch_jobs {f : Exchange → Exchange} : (modExch f s).jobs = s.jobs := by rfl
@[simp] theorem modExch_nextJob {f : Exchange → Exchange} : (modExch f s).nextJob = s.nextJob := by rfl
@[simp] theorem modExch_health {f : Exchange → Exchange} : (modExch f s).health = s.health := by rfl
@[simp] theorem modExch_lftCtrl {f : Exchange → Exchange} : (modExch f s).lftCtrl = s.lftCtrl := by rfl
@[simp] theorem modExch_slices {f : Exchange → Exchange} : (modExch f s).slices = s.slices := by rfl
@[simp] theorem modExch_lnk {f : Exchange → Exchange} : (modExch f s).lnk = s.lnk := by rfl
@[simp] theorem modExch_exch {f : Exchange → Exchange} : (modExch f s).exch = f s.exch := by rfl
@[simp] theorem modExch_lnkDom {f : Exchange → Exchange} : (modExch f s).lnkDom = s.lnkDom := by rfl
@[simp] theorem modExch_ctxs {f : Exchange → Exchange} : (modExch f s).ctxs = s.ctxs := by rfl
@[simp] theorem modExch_sched {f : Exchange → Exchange} : (modExch f s).sched = s.sched := by rfl
@[simp] theorem modExch_trk {f : Exchange → Exchange} : (modExch f s).trk = s.trk := by rfl
@[simp] theorem modExch_swaths {f : Exchange → Exchange} : (modExch f s).swaths = s.swaths := by rfl
@[simp] theorem modExch_nextTask {f : Exchange → Exchange} : (modExch f s).nextTask = s.nextTask := by rfl
@[simp] theorem modExch_nextSwath {f : Exchange → Exchange} : (modExch f s).nextSwath = s.nextSwath := by rfl
@[simp] theorem modExch_badCtx {f : Exchange → Exchange} : (modExch f s).badCtx = s.badCtx := by rfl
@[simp] theorem modExch_badSlots {f : Exchange → Exchange} : (modExch f s).badSlots = s.badSlots := by rfl
@[simp] theorem modExch_outs {f : Exchange → Exchange} : (modExch f s).outs = s.outs := by rfl
@[simp] theorem modExch_freeCtr {f : Exchange → Exchange} : (modExch f s).freeCtr = s.freeCtr := by rfl

/-! ## modWrap -/

@[simp] theorem modWrap_build {f : Wrapper → Wrapper} : (modWrap f s).build = s.build := by rfl
@[simp] theorem modWrap_pending {f : Wrapper → Wrapper} : (modWrap f s).pending = s.pending := by rfl
@[simp] theorem modWrap_rst {f : Wrapper → Wrapper} : (modWrap f s).rst = s.rst := by rfl
@[simp] theorem modWrap_dieIndex {f : Wrapper → Wrapper} : (modWrap f s).dieIndex = s.dieIndex := by rfl
@[simp] theorem modWrap_dieCountM1 {f : Wrapper → Wrapper} : (modWrap f s).dieCountM1 = s.dieCountM1 := by rfl
@[simp] theorem modWrap_ctlTime {f : Wrapper → Wrapper} : (modWrap f s).ctlTime = s.ctlTime := by rfl
@[simp] theorem modWrap_ldrTime {f : Wrapper → Wrapper} : (modWrap f s).ldrTime = s.ldrTime := by rfl
@[simp] theorem modWrap_loader {f : Wrapper → Wrapper} : (modWrap f s).loader = s.loader := by rfl
@[simp] theorem modWrap_verify {f : Wrapper → Wrapper} : (modWrap f s).verify = s.verify := by rfl
@[simp] theorem modWrap_live {f : Wrapper → Wrapper} : (modWrap f s).live = s.live := by rfl
@[simp] theorem modWrap_banks {f : Wrapper → Wrapper} : (modWrap f s).banks = s.banks := by rfl
@[simp] theorem modWrap_recipes {f : Wrapper → Wrapper} : (modWrap f s).recipes = s.recipes := by rfl
@[simp] theorem modWrap_rcpApplied {f : Wrapper → Wrapper} : (modWrap f s).rcpApplied = s.rcpApplied := by rfl
@[simp] theorem modWrap_seqSlots {f : Wrapper → Wrapper} : (modWrap f s).seqSlots = s.seqSlots := by rfl
@[simp] theorem modWrap_seqShadow {f : Wrapper → Wrapper} : (modWrap f s).seqShadow = s.seqShadow := by rfl
@[simp] theorem modWrap_rng {f : Wrapper → Wrapper} : (modWrap f s).rng = s.rng := by rfl
@[simp] theorem modWrap_wrapper {f : Wrapper → Wrapper} : (modWrap f s).wrapper = f s.wrapper := by rfl
@[simp] theorem modWrap_regions {f : Wrapper → Wrapper} : (modWrap f s).regions = s.regions := by rfl
@[simp] theorem modWrap_ports {f : Wrapper → Wrapper} : (modWrap f s).ports = s.ports := by rfl
@[simp] theorem modWrap_ctlWait {f : Wrapper → Wrapper} : (modWrap f s).ctlWait = s.ctlWait := by rfl
@[simp] theorem modWrap_jobs {f : Wrapper → Wrapper} : (modWrap f s).jobs = s.jobs := by rfl
@[simp] theorem modWrap_nextJob {f : Wrapper → Wrapper} : (modWrap f s).nextJob = s.nextJob := by rfl
@[simp] theorem modWrap_health {f : Wrapper → Wrapper} : (modWrap f s).health = s.health := by rfl
@[simp] theorem modWrap_lftCtrl {f : Wrapper → Wrapper} : (modWrap f s).lftCtrl = s.lftCtrl := by rfl
@[simp] theorem modWrap_slices {f : Wrapper → Wrapper} : (modWrap f s).slices = s.slices := by rfl
@[simp] theorem modWrap_lnk {f : Wrapper → Wrapper} : (modWrap f s).lnk = s.lnk := by rfl
@[simp] theorem modWrap_exch {f : Wrapper → Wrapper} : (modWrap f s).exch = s.exch := by rfl
@[simp] theorem modWrap_lnkDom {f : Wrapper → Wrapper} : (modWrap f s).lnkDom = s.lnkDom := by rfl
@[simp] theorem modWrap_ctxs {f : Wrapper → Wrapper} : (modWrap f s).ctxs = s.ctxs := by rfl
@[simp] theorem modWrap_sched {f : Wrapper → Wrapper} : (modWrap f s).sched = s.sched := by rfl
@[simp] theorem modWrap_trk {f : Wrapper → Wrapper} : (modWrap f s).trk = s.trk := by rfl
@[simp] theorem modWrap_swaths {f : Wrapper → Wrapper} : (modWrap f s).swaths = s.swaths := by rfl
@[simp] theorem modWrap_nextTask {f : Wrapper → Wrapper} : (modWrap f s).nextTask = s.nextTask := by rfl
@[simp] theorem modWrap_nextSwath {f : Wrapper → Wrapper} : (modWrap f s).nextSwath = s.nextSwath := by rfl
@[simp] theorem modWrap_badCtx {f : Wrapper → Wrapper} : (modWrap f s).badCtx = s.badCtx := by rfl
@[simp] theorem modWrap_badSlots {f : Wrapper → Wrapper} : (modWrap f s).badSlots = s.badSlots := by rfl
@[simp] theorem modWrap_outs {f : Wrapper → Wrapper} : (modWrap f s).outs = s.outs := by rfl
@[simp] theorem modWrap_freeCtr {f : Wrapper → Wrapper} : (modWrap f s).freeCtr = s.freeCtr := by rfl

/-! ## modRng -/

@[simp] theorem modRng_build {f : RngTest → RngTest} : (modRng f s).build = s.build := by rfl
@[simp] theorem modRng_pending {f : RngTest → RngTest} : (modRng f s).pending = s.pending := by rfl
@[simp] theorem modRng_rst {f : RngTest → RngTest} : (modRng f s).rst = s.rst := by rfl
@[simp] theorem modRng_dieIndex {f : RngTest → RngTest} : (modRng f s).dieIndex = s.dieIndex := by rfl
@[simp] theorem modRng_dieCountM1 {f : RngTest → RngTest} : (modRng f s).dieCountM1 = s.dieCountM1 := by rfl
@[simp] theorem modRng_ctlTime {f : RngTest → RngTest} : (modRng f s).ctlTime = s.ctlTime := by rfl
@[simp] theorem modRng_ldrTime {f : RngTest → RngTest} : (modRng f s).ldrTime = s.ldrTime := by rfl
@[simp] theorem modRng_loader {f : RngTest → RngTest} : (modRng f s).loader = s.loader := by rfl
@[simp] theorem modRng_verify {f : RngTest → RngTest} : (modRng f s).verify = s.verify := by rfl
@[simp] theorem modRng_live {f : RngTest → RngTest} : (modRng f s).live = s.live := by rfl
@[simp] theorem modRng_banks {f : RngTest → RngTest} : (modRng f s).banks = s.banks := by rfl
@[simp] theorem modRng_recipes {f : RngTest → RngTest} : (modRng f s).recipes = s.recipes := by rfl
@[simp] theorem modRng_rcpApplied {f : RngTest → RngTest} : (modRng f s).rcpApplied = s.rcpApplied := by rfl
@[simp] theorem modRng_seqSlots {f : RngTest → RngTest} : (modRng f s).seqSlots = s.seqSlots := by rfl
@[simp] theorem modRng_seqShadow {f : RngTest → RngTest} : (modRng f s).seqShadow = s.seqShadow := by rfl
@[simp] theorem modRng_rng {f : RngTest → RngTest} : (modRng f s).rng = f s.rng := by rfl
@[simp] theorem modRng_wrapper {f : RngTest → RngTest} : (modRng f s).wrapper = s.wrapper := by rfl
@[simp] theorem modRng_regions {f : RngTest → RngTest} : (modRng f s).regions = s.regions := by rfl
@[simp] theorem modRng_ports {f : RngTest → RngTest} : (modRng f s).ports = s.ports := by rfl
@[simp] theorem modRng_ctlWait {f : RngTest → RngTest} : (modRng f s).ctlWait = s.ctlWait := by rfl
@[simp] theorem modRng_jobs {f : RngTest → RngTest} : (modRng f s).jobs = s.jobs := by rfl
@[simp] theorem modRng_nextJob {f : RngTest → RngTest} : (modRng f s).nextJob = s.nextJob := by rfl
@[simp] theorem modRng_health {f : RngTest → RngTest} : (modRng f s).health = s.health := by rfl
@[simp] theorem modRng_lftCtrl {f : RngTest → RngTest} : (modRng f s).lftCtrl = s.lftCtrl := by rfl
@[simp] theorem modRng_slices {f : RngTest → RngTest} : (modRng f s).slices = s.slices := by rfl
@[simp] theorem modRng_lnk {f : RngTest → RngTest} : (modRng f s).lnk = s.lnk := by rfl
@[simp] theorem modRng_exch {f : RngTest → RngTest} : (modRng f s).exch = s.exch := by rfl
@[simp] theorem modRng_lnkDom {f : RngTest → RngTest} : (modRng f s).lnkDom = s.lnkDom := by rfl
@[simp] theorem modRng_ctxs {f : RngTest → RngTest} : (modRng f s).ctxs = s.ctxs := by rfl
@[simp] theorem modRng_sched {f : RngTest → RngTest} : (modRng f s).sched = s.sched := by rfl
@[simp] theorem modRng_trk {f : RngTest → RngTest} : (modRng f s).trk = s.trk := by rfl
@[simp] theorem modRng_swaths {f : RngTest → RngTest} : (modRng f s).swaths = s.swaths := by rfl
@[simp] theorem modRng_nextTask {f : RngTest → RngTest} : (modRng f s).nextTask = s.nextTask := by rfl
@[simp] theorem modRng_nextSwath {f : RngTest → RngTest} : (modRng f s).nextSwath = s.nextSwath := by rfl
@[simp] theorem modRng_badCtx {f : RngTest → RngTest} : (modRng f s).badCtx = s.badCtx := by rfl
@[simp] theorem modRng_badSlots {f : RngTest → RngTest} : (modRng f s).badSlots = s.badSlots := by rfl
@[simp] theorem modRng_outs {f : RngTest → RngTest} : (modRng f s).outs = s.outs := by rfl
@[simp] theorem modRng_freeCtr {f : RngTest → RngTest} : (modRng f s).freeCtr = s.freeCtr := by rfl

/-! ## Accessors -/

theorem getD_modAt {α : Type} (l : List α) (i j : Nat) (f : α → α) (d : α) :
    (modAt l i f).getD j d = if i = j ∧ j < l.length then f (l.getD j d) else l.getD j d := by
  simp only [modAt, List.getD_eq_getElem?_getD, List.getElem?_modify]
  by_cases h : j < l.length
  · by_cases e : i = j <;> simp [h, e]
  · simp [h]

theorem region_modRegion (i j : Nat) (f : Region → Region) :
    region (modRegion i f s) j = if i = j ∧ j < s.regions.length then f (region s j) else region s j :=
  getD_modAt _ _ _ _ _

theorem port_modPort (i j : Nat) (f : Port → Port) :
    port (modPort i f s) j = if i = j ∧ j < s.ports.length then f (port s j) else port s j :=
  getD_modAt _ _ _ _ _

theorem bank_modBank (i j : Nat) (f : Bank → Bank) :
    bank (modBank i f s) j = if i = j ∧ j < s.banks.length then f (bank s j) else bank s j :=
  getD_modAt _ _ _ _ _

theorem liftSlice_modSlice (i j : Nat) (f : Slice → Slice) :
    liftSlice (modSlice i f s) j = if i = j ∧ j < s.slices.length then f (liftSlice s j) else liftSlice s j :=
  getD_modAt _ _ _ _ _

theorem linkPort_modLnk (i j : Nat) (f : LinkPort → LinkPort) :
    linkPort (modLnk i f s) j = if i = j ∧ j < s.lnk.length then f (linkPort s j) else linkPort s j :=
  getD_modAt _ _ _ _ _

theorem ctxOf_modCtx (i j : Nat) (f : Ctx → Ctx) :
    ctxOf (modCtx i f s) j = if i = j ∧ j < s.ctxs.length then f (ctxOf s j) else ctxOf s j :=
  getD_modAt _ _ _ _ _

end Sys2Proof.Machine
end

