-- ==== Sys2Proof/Laws/Traffic.lean ====
section
/-! SUPPORT. The fields that the traffic of the block does not touch, for each shared operation that only makes traffic. -/

namespace Sys2Proof.Machine

variable {s t : State}

theorem State.Quiet.build_eq (h : s.Quiet t) : t.build = s.build := (congrArg State.build (show t = s.withTraffic t from h) :)
theorem State.Quiet.pending_eq (h : s.Quiet t) : t.pending = s.pending := (congrArg State.pending (show t = s.withTraffic t from h) :)
theorem State.Quiet.rst_eq (h : s.Quiet t) : t.rst = s.rst := (congrArg State.rst (show t = s.withTraffic t from h) :)
theorem State.Quiet.dieIndex_eq (h : s.Quiet t) : t.dieIndex = s.dieIndex := (congrArg State.dieIndex (show t = s.withTraffic t from h) :)
theorem State.Quiet.dieCountM1_eq (h : s.Quiet t) : t.dieCountM1 = s.dieCountM1 := (congrArg State.dieCountM1 (show t = s.withTraffic t from h) :)
theorem State.Quiet.ctlTime_eq (h : s.Quiet t) : t.ctlTime = s.ctlTime := (congrArg State.ctlTime (show t = s.withTraffic t from h) :)
theorem State.Quiet.ldrTime_eq (h : s.Quiet t) : t.ldrTime = s.ldrTime := (congrArg State.ldrTime (show t = s.withTraffic t from h) :)
theorem State.Quiet.loader_eq (h : s.Quiet t) : t.loader = s.loader := (congrArg State.loader (show t = s.withTraffic t from h) :)
theorem State.Quiet.verify_eq (h : s.Quiet t) : t.verify = s.verify := (congrArg State.verify (show t = s.withTraffic t from h) :)
theorem State.Quiet.live_eq (h : s.Quiet t) : t.live = s.live := (congrArg State.live (show t = s.withTraffic t from h) :)
theorem State.Quiet.banks_eq (h : s.Quiet t) : t.banks = s.banks := (congrArg State.banks (show t = s.withTraffic t from h) :)
theorem State.Quiet.recipes_eq (h : s.Quiet t) : t.recipes = s.recipes := (congrArg State.recipes (show t = s.withTraffic t from h) :)
theorem State.Quiet.rcpApplied_eq (h : s.Quiet t) : t.rcpApplied = s.rcpApplied := (congrArg State.rcpApplied (show t = s.withTraffic t from h) :)
theorem State.Quiet.seqSlots_eq (h : s.Quiet t) : t.seqSlots = s.seqSlots := (congrArg State.seqSlots (show t = s.withTraffic t from h) :)
theorem State.Quiet.seqShadow_eq (h : s.Quiet t) : t.seqShadow = s.seqShadow := (congrArg State.seqShadow (show t = s.withTraffic t from h) :)
theorem State.Quiet.rng_eq (h : s.Quiet t) : t.rng = s.rng := (congrArg State.rng (show t = s.withTraffic t from h) :)
theorem State.Quiet.wrapper_eq (h : s.Quiet t) : t.wrapper = s.wrapper := (congrArg State.wrapper (show t = s.withTraffic t from h) :)
theorem State.Quiet.regions_eq (h : s.Quiet t) : t.regions = s.regions := (congrArg State.regions (show t = s.withTraffic t from h) :)
theorem State.Quiet.lftCtrl_eq (h : s.Quiet t) : t.lftCtrl = s.lftCtrl := (congrArg State.lftCtrl (show t = s.withTraffic t from h) :)
theorem State.Quiet.slices_eq (h : s.Quiet t) : t.slices = s.slices := (congrArg State.slices (show t = s.withTraffic t from h) :)
theorem State.Quiet.lnk_eq (h : s.Quiet t) : t.lnk = s.lnk := (congrArg State.lnk (show t = s.withTraffic t from h) :)
theorem State.Quiet.exch_eq (h : s.Quiet t) : t.exch = s.exch := (congrArg State.exch (show t = s.withTraffic t from h) :)
theorem State.Quiet.lnkDom_eq (h : s.Quiet t) : t.lnkDom = s.lnkDom := (congrArg State.lnkDom (show t = s.withTraffic t from h) :)
theorem State.Quiet.ctxs_eq (h : s.Quiet t) : t.ctxs = s.ctxs := (congrArg State.ctxs (show t = s.withTraffic t from h) :)
theorem State.Quiet.sched_eq (h : s.Quiet t) : t.sched = s.sched := (congrArg State.sched (show t = s.withTraffic t from h) :)
theorem State.Quiet.trk_eq (h : s.Quiet t) : t.trk = s.trk := (congrArg State.trk (show t = s.withTraffic t from h) :)
theorem State.Quiet.swaths_eq (h : s.Quiet t) : t.swaths = s.swaths := (congrArg State.swaths (show t = s.withTraffic t from h) :)
theorem State.Quiet.nextTask_eq (h : s.Quiet t) : t.nextTask = s.nextTask := (congrArg State.nextTask (show t = s.withTraffic t from h) :)
theorem State.Quiet.nextSwath_eq (h : s.Quiet t) : t.nextSwath = s.nextSwath := (congrArg State.nextSwath (show t = s.withTraffic t from h) :)
theorem State.Quiet.badCtx_eq (h : s.Quiet t) : t.badCtx = s.badCtx := (congrArg State.badCtx (show t = s.withTraffic t from h) :)
theorem State.Quiet.badSlots_eq (h : s.Quiet t) : t.badSlots = s.badSlots := (congrArg State.badSlots (show t = s.withTraffic t from h) :)
theorem State.Quiet.freeCtr_eq (h : s.Quiet t) : t.freeCtr = s.freeCtr := (congrArg State.freeCtr (show t = s.withTraffic t from h) :)

@[simp] theorem logEvent_build {code kind reg unit ctx d0 a : Nat} : (logEvent code kind reg unit ctx d0 a s).build = s.build := (logEvent_quiet (.refl s)).build_eq
@[simp] theorem logEvent_pending {code kind reg unit ctx d0 a : Nat} : (logEvent code kind reg unit ctx d0 a s).pending = s.pending := (logEvent_quiet (.refl s)).pending_eq
@[simp] theorem logEvent_rst {code kind reg unit ctx d0 a : Nat} : (logEvent code kind reg unit ctx d0 a s).rst = s.rst := (logEvent_quiet (.refl s)).rst_eq
@[simp] theorem logEvent_dieIndex {code kind reg unit ctx d0 a : Nat} : (logEvent code kind reg unit ctx d0 a s).dieIndex = s.dieIndex := (logEvent_quiet (.refl s)).dieIndex_eq
@[simp] theorem logEvent_dieCountM1 {code kind reg unit ctx d0 a : Nat} : (logEvent code kind reg unit ctx d0 a s).dieCountM1 = s.dieCountM1 := (logEvent_quiet (.refl s)).dieCountM1_eq
@[simp] theorem logEvent_ctlTime {code kind reg unit ctx d0 a : Nat} : (logEvent code kind reg unit ctx d0 a s).ctlTime = s.ctlTime := (logEvent_quiet (.refl s)).ctlTime_eq
@[simp] theorem logEvent_ldrTime {code kind reg unit ctx d0 a : Nat} : (logEvent code kind reg unit ctx d0 a s).ldrTime = s.ldrTime := (logEvent_quiet (.refl s)).ldrTime_eq
@[simp] theorem logEvent_loader {code kind reg unit ctx d0 a : Nat} : (logEvent code kind reg unit ctx d0 a s).loader = s.loader := (logEvent_quiet (.refl s)).loader_eq
@[simp] theorem logEvent_verify {code kind reg unit ctx d0 a : Nat} : (logEvent code kind reg unit ctx d0 a s).verify = s.verify := (logEvent_quiet (.refl s)).verify_eq
@[simp] theorem logEvent_live {code kind reg unit ctx d0 a : Nat} : (logEvent code kind reg unit ctx d0 a s).live = s.live := (logEvent_quiet (.refl s)).live_eq
@[simp] theorem logEvent_banks {code kind reg unit ctx d0 a : Nat} : (logEvent code kind reg unit ctx d0 a s).banks = s.banks := (logEvent_quiet (.refl s)).banks_eq
@[simp] theorem logEvent_recipes {code kind reg unit ctx d0 a : Nat} : (logEvent code kind reg unit ctx d0 a s).recipes = s.recipes := (logEvent_quiet (.refl s)).recipes_eq
@[simp] theorem logEvent_rcpApplied {code kind reg unit ctx d0 a : Nat} : (logEvent code kind reg unit ctx d0 a s).rcpApplied = s.rcpApplied := (logEvent_quiet (.refl s)).rcpApplied_eq
@[simp] theorem logEvent_seqSlots {code kind reg unit ctx d0 a : Nat} : (logEvent code kind reg unit ctx d0 a s).seqSlots = s.seqSlots := (logEvent_quiet (.refl s)).seqSlots_eq
@[simp] theorem logEvent_seqShadow {code kind reg unit ctx d0 a : Nat} : (logEvent code kind reg unit ctx d0 a s).seqShadow = s.seqShadow := (logEvent_quiet (.refl s)).seqShadow_eq
@[simp] theorem logEvent_rng {code kind reg unit ctx d0 a : Nat} : (logEvent code kind reg unit ctx d0 a s).rng = s.rng := (logEvent_quiet (.refl s)).rng_eq
@[simp] theorem logEvent_wrapper {code kind reg unit ctx d0 a : Nat} : (logEvent code kind reg unit ctx d0 a s).wrapper = s.wrapper := (logEvent_quiet (.refl s)).wrapper_eq
@[simp] theorem logEvent_regions {code kind reg unit ctx d0 a : Nat} : (logEvent code kind reg unit ctx d0 a s).regions = s.regions := (logEvent_quiet (.refl s)).regions_eq
@[simp] theorem logEvent_lftCtrl {code kind reg unit ctx d0 a : Nat} : (logEvent code kind reg unit ctx d0 a s).lftCtrl = s.lftCtrl := (logEvent_quiet (.refl s)).lftCtrl_eq
@[simp] theorem logEvent_slices {code kind reg unit ctx d0 a : Nat} : (logEvent code kind reg unit ctx d0 a s).slices = s.slices := (logEvent_quiet (.refl s)).slices_eq
@[simp] theorem logEvent_lnk {code kind reg unit ctx d0 a : Nat} : (logEvent code kind reg unit ctx d0 a s).lnk = s.lnk := (logEvent_quiet (.refl s)).lnk_eq
@[simp] theorem logEvent_exch {code kind reg unit ctx d0 a : Nat} : (logEvent code kind reg unit ctx d0 a s).exch = s.exch := (logEvent_quiet (.refl s)).exch_eq
@[simp] theorem logEvent_lnkDom {code kind reg unit ctx d0 a : Nat} : (logEvent code kind reg unit ctx d0 a s).lnkDom = s.lnkDom := (logEvent_quiet (.refl s)).lnkDom_eq
@[simp] theorem logEvent_ctxs {code kind reg unit ctx d0 a : Nat} : (logEvent code kind reg unit ctx d0 a s).ctxs = s.ctxs := (logEvent_quiet (.refl s)).ctxs_eq
@[simp] theorem logEvent_sched {code kind reg unit ctx d0 a : Nat} : (logEvent code kind reg unit ctx d0 a s).sched = s.sched := (logEvent_quiet (.refl s)).sched_eq
@[simp] theorem logEvent_trk {code kind reg unit ctx d0 a : Nat} : (logEvent code kind reg unit ctx d0 a s).trk = s.trk := (logEvent_quiet (.refl s)).trk_eq
@[simp] theorem logEvent_swaths {code kind reg unit ctx d0 a : Nat} : (logEvent code kind reg unit ctx d0 a s).swaths = s.swaths := (logEvent_quiet (.refl s)).swaths_eq
@[simp] theorem logEvent_nextTask {code kind reg unit ctx d0 a : Nat} : (logEvent code kind reg unit ctx d0 a s).nextTask = s.nextTask := (logEvent_quiet (.refl s)).nextTask_eq
@[simp] theorem logEvent_nextSwath {code kind reg unit ctx d0 a : Nat} : (logEvent code kind reg unit ctx d0 a s).nextSwath = s.nextSwath := (logEvent_quiet (.refl s)).nextSwath_eq
@[simp] theorem logEvent_badCtx {code kind reg unit ctx d0 a : Nat} : (logEvent code kind reg unit ctx d0 a s).badCtx = s.badCtx := (logEvent_quiet (.refl s)).badCtx_eq
@[simp] theorem logEvent_badSlots {code kind reg unit ctx d0 a : Nat} : (logEvent code kind reg unit ctx d0 a s).badSlots = s.badSlots := (logEvent_quiet (.refl s)).badSlots_eq
@[simp] theorem logEvent_freeCtr {code kind reg unit ctx d0 a : Nat} : (logEvent code kind reg unit ctx d0 a s).freeCtr = s.freeCtr := (logEvent_quiet (.refl s)).freeCtr_eq

@[simp] theorem startRead_build {k : JobKind} {l : List (Nat × Nat)} : (startRead k l s).build = s.build := (startRead_quiet (.refl s)).build_eq
@[simp] theorem startRead_pending {k : JobKind} {l : List (Nat × Nat)} : (startRead k l s).pending = s.pending := (startRead_quiet (.refl s)).pending_eq
@[simp] theorem startRead_rst {k : JobKind} {l : List (Nat × Nat)} : (startRead k l s).rst = s.rst := (startRead_quiet (.refl s)).rst_eq
@[simp] theorem startRead_dieIndex {k : JobKind} {l : List (Nat × Nat)} : (startRead k l s).dieIndex = s.dieIndex := (startRead_quiet (.refl s)).dieIndex_eq
@[simp] theorem startRead_dieCountM1 {k : JobKind} {l : List (Nat × Nat)} : (startRead k l s).dieCountM1 = s.dieCountM1 := (startRead_quiet (.refl s)).dieCountM1_eq
@[simp] theorem startRead_ctlTime {k : JobKind} {l : List (Nat × Nat)} : (startRead k l s).ctlTime = s.ctlTime := (startRead_quiet (.refl s)).ctlTime_eq
@[simp] theorem startRead_ldrTime {k : JobKind} {l : List (Nat × Nat)} : (startRead k l s).ldrTime = s.ldrTime := (startRead_quiet (.refl s)).ldrTime_eq
@[simp] theorem startRead_loader {k : JobKind} {l : List (Nat × Nat)} : (startRead k l s).loader = s.loader := (startRead_quiet (.refl s)).loader_eq
@[simp] theorem startRead_verify {k : JobKind} {l : List (Nat × Nat)} : (startRead k l s).verify = s.verify := (startRead_quiet (.refl s)).verify_eq
@[simp] theorem startRead_live {k : JobKind} {l : List (Nat × Nat)} : (startRead k l s).live = s.live := (startRead_quiet (.refl s)).live_eq
@[simp] theorem startRead_banks {k : JobKind} {l : List (Nat × Nat)} : (startRead k l s).banks = s.banks := (startRead_quiet (.refl s)).banks_eq
@[simp] theorem startRead_recipes {k : JobKind} {l : List (Nat × Nat)} : (startRead k l s).recipes = s.recipes := (startRead_quiet (.refl s)).recipes_eq
@[simp] theorem startRead_rcpApplied {k : JobKind} {l : List (Nat × Nat)} : (startRead k l s).rcpApplied = s.rcpApplied := (startRead_quiet (.refl s)).rcpApplied_eq
@[simp] theorem startRead_seqSlots {k : JobKind} {l : List (Nat × Nat)} : (startRead k l s).seqSlots = s.seqSlots := (startRead_quiet (.refl s)).seqSlots_eq
@[simp] theorem startRead_seqShadow {k : JobKind} {l : List (Nat × Nat)} : (startRead k l s).seqShadow = s.seqShadow := (startRead_quiet (.refl s)).seqShadow_eq
@[simp] theorem startRead_rng {k : JobKind} {l : List (Nat × Nat)} : (startRead k l s).rng = s.rng := (startRead_quiet (.refl s)).rng_eq
@[simp] theorem startRead_wrapper {k : JobKind} {l : List (Nat × Nat)} : (startRead k l s).wrapper = s.wrapper := (startRead_quiet (.refl s)).wrapper_eq
@[simp] theorem startRead_regions {k : JobKind} {l : List (Nat × Nat)} : (startRead k l s).regions = s.regions := (startRead_quiet (.refl s)).regions_eq
@[simp] theorem startRead_lftCtrl {k : JobKind} {l : List (Nat × Nat)} : (startRead k l s).lftCtrl = s.lftCtrl := (startRead_quiet (.refl s)).lftCtrl_eq
@[simp] theorem startRead_slices {k : JobKind} {l : List (Nat × Nat)} : (startRead k l s).slices = s.slices := (startRead_quiet (.refl s)).slices_eq
@[simp] theorem startRead_lnk {k : JobKind} {l : List (Nat × Nat)} : (startRead k l s).lnk = s.lnk := (startRead_quiet (.refl s)).lnk_eq
@[simp] theorem startRead_exch {k : JobKind} {l : List (Nat × Nat)} : (startRead k l s).exch = s.exch := (startRead_quiet (.refl s)).exch_eq
@[simp] theorem startRead_lnkDom {k : JobKind} {l : List (Nat × Nat)} : (startRead k l s).lnkDom = s.lnkDom := (startRead_quiet (.refl s)).lnkDom_eq
@[simp] theorem startRead_ctxs {k : JobKind} {l : List (Nat × Nat)} : (startRead k l s).ctxs = s.ctxs := (startRead_quiet (.refl s)).ctxs_eq
@[simp] theorem startRead_sched {k : JobKind} {l : List (Nat × Nat)} : (startRead k l s).sched = s.sched := (startRead_quiet (.refl s)).sched_eq
@[simp] theorem startRead_trk {k : JobKind} {l : List (Nat × Nat)} : (startRead k l s).trk = s.trk := (startRead_quiet (.refl s)).trk_eq
@[simp] theorem startRead_swaths {k : JobKind} {l : List (Nat × Nat)} : (startRead k l s).swaths = s.swaths := (startRead_quiet (.refl s)).swaths_eq
@[simp] theorem startRead_nextTask {k : JobKind} {l : List (Nat × Nat)} : (startRead k l s).nextTask = s.nextTask := (startRead_quiet (.refl s)).nextTask_eq
@[simp] theorem startRead_nextSwath {k : JobKind} {l : List (Nat × Nat)} : (startRead k l s).nextSwath = s.nextSwath := (startRead_quiet (.refl s)).nextSwath_eq
@[simp] theorem startRead_badCtx {k : JobKind} {l : List (Nat × Nat)} : (startRead k l s).badCtx = s.badCtx := (startRead_quiet (.refl s)).badCtx_eq
@[simp] theorem startRead_badSlots {k : JobKind} {l : List (Nat × Nat)} : (startRead k l s).badSlots = s.badSlots := (startRead_quiet (.refl s)).badSlots_eq
@[simp] theorem startRead_freeCtr {k : JobKind} {l : List (Nat × Nat)} : (startRead k l s).freeCtr = s.freeCtr := (startRead_quiet (.refl s)).freeCtr_eq

@[simp] theorem startWrite_build {k : JobKind} {a : Nat} {d : List Byte} : (startWrite k a d s).build = s.build := (startWrite_quiet (.refl s)).build_eq
@[simp] theorem startWrite_pending {k : JobKind} {a : Nat} {d : List Byte} : (startWrite k a d s).pending = s.pending := (startWrite_quiet (.refl s)).pending_eq
@[simp] theorem startWrite_rst {k : JobKind} {a : Nat} {d : List Byte} : (startWrite k a d s).rst = s.rst := (startWrite_quiet (.refl s)).rst_eq
@[simp] theorem startWrite_dieIndex {k : JobKind} {a : Nat} {d : List Byte} : (startWrite k a d s).dieIndex = s.dieIndex := (startWrite_quiet (.refl s)).dieIndex_eq
@[simp] theorem startWrite_dieCountM1 {k : JobKind} {a : Nat} {d : List Byte} : (startWrite k a d s).dieCountM1 = s.dieCountM1 := (startWrite_quiet (.refl s)).dieCountM1_eq
@[simp] theorem startWrite_ctlTime {k : JobKind} {a : Nat} {d : List Byte} : (startWrite k a d s).ctlTime = s.ctlTime := (startWrite_quiet (.refl s)).ctlTime_eq
@[simp] theorem startWrite_ldrTime {k : JobKind} {a : Nat} {d : List Byte} : (startWrite k a d s).ldrTime = s.ldrTime := (startWrite_quiet (.refl s)).ldrTime_eq
@[simp] theorem startWrite_loader {k : JobKind} {a : Nat} {d : List Byte} : (startWrite k a d s).loader = s.loader := (startWrite_quiet (.refl s)).loader_eq
@[simp] theorem startWrite_verify {k : JobKind} {a : Nat} {d : List Byte} : (startWrite k a d s).verify = s.verify := (startWrite_quiet (.refl s)).verify_eq
@[simp] theorem startWrite_live {k : JobKind} {a : Nat} {d : List Byte} : (startWrite k a d s).live = s.live := (startWrite_quiet (.refl s)).live_eq
@[simp] theorem startWrite_banks {k : JobKind} {a : Nat} {d : List Byte} : (startWrite k a d s).banks = s.banks := (startWrite_quiet (.refl s)).banks_eq
@[simp] theorem startWrite_recipes {k : JobKind} {a : Nat} {d : List Byte} : (startWrite k a d s).recipes = s.recipes := (startWrite_quiet (.refl s)).recipes_eq
@[simp] theorem startWrite_rcpApplied {k : JobKind} {a : Nat} {d : List Byte} : (startWrite k a d s).rcpApplied = s.rcpApplied := (startWrite_quiet (.refl s)).rcpApplied_eq
@[simp] theorem startWrite_seqSlots {k : JobKind} {a : Nat} {d : List Byte} : (startWrite k a d s).seqSlots = s.seqSlots := (startWrite_quiet (.refl s)).seqSlots_eq
@[simp] theorem startWrite_seqShadow {k : JobKind} {a : Nat} {d : List Byte} : (startWrite k a d s).seqShadow = s.seqShadow := (startWrite_quiet (.refl s)).seqShadow_eq
@[simp] theorem startWrite_rng {k : JobKind} {a : Nat} {d : List Byte} : (startWrite k a d s).rng = s.rng := (startWrite_quiet (.refl s)).rng_eq
@[simp] theorem startWrite_wrapper {k : JobKind} {a : Nat} {d : List Byte} : (startWrite k a d s).wrapper = s.wrapper := (startWrite_quiet (.refl s)).wrapper_eq
@[simp] theorem startWrite_regions {k : JobKind} {a : Nat} {d : List Byte} : (startWrite k a d s).regions = s.regions := (startWrite_quiet (.refl s)).regions_eq
@[simp] theorem startWrite_lftCtrl {k : JobKind} {a : Nat} {d : List Byte} : (startWrite k a d s).lftCtrl = s.lftCtrl := (startWrite_quiet (.refl s)).lftCtrl_eq
@[simp] theorem startWrite_slices {k : JobKind} {a : Nat} {d : List Byte} : (startWrite k a d s).slices = s.slices := (startWrite_quiet (.refl s)).slices_eq
@[simp] theorem startWrite_lnk {k : JobKind} {a : Nat} {d : List Byte} : (startWrite k a d s).lnk = s.lnk := (startWrite_quiet (.refl s)).lnk_eq
@[simp] theorem startWrite_exch {k : JobKind} {a : Nat} {d : List Byte} : (startWrite k a d s).exch = s.exch := (startWrite_quiet (.refl s)).exch_eq
@[simp] theorem startWrite_lnkDom {k : JobKind} {a : Nat} {d : List Byte} : (startWrite k a d s).lnkDom = s.lnkDom := (startWrite_quiet (.refl s)).lnkDom_eq
@[simp] theorem startWrite_ctxs {k : JobKind} {a : Nat} {d : List Byte} : (startWrite k a d s).ctxs = s.ctxs := (startWrite_quiet (.refl s)).ctxs_eq
@[simp] theorem startWrite_sched {k : JobKind} {a : Nat} {d : List Byte} : (startWrite k a d s).sched = s.sched := (startWrite_quiet (.refl s)).sched_eq
@[simp] theorem startWrite_trk {k : JobKind} {a : Nat} {d : List Byte} : (startWrite k a d s).trk = s.trk := (startWrite_quiet (.refl s)).trk_eq
@[simp] theorem startWrite_swaths {k : JobKind} {a : Nat} {d : List Byte} : (startWrite k a d s).swaths = s.swaths := (startWrite_quiet (.refl s)).swaths_eq
@[simp] theorem startWrite_nextTask {k : JobKind} {a : Nat} {d : List Byte} : (startWrite k a d s).nextTask = s.nextTask := (startWrite_quiet (.refl s)).nextTask_eq
@[simp] theorem startWrite_nextSwath {k : JobKind} {a : Nat} {d : List Byte} : (startWrite k a d s).nextSwath = s.nextSwath := (startWrite_quiet (.refl s)).nextSwath_eq
@[simp] theorem startWrite_badCtx {k : JobKind} {a : Nat} {d : List Byte} : (startWrite k a d s).badCtx = s.badCtx := (startWrite_quiet (.refl s)).badCtx_eq
@[simp] theorem startWrite_badSlots {k : JobKind} {a : Nat} {d : List Byte} : (startWrite k a d s).badSlots = s.badSlots := (startWrite_quiet (.refl s)).badSlots_eq
@[simp] theorem startWrite_freeCtr {k : JobKind} {a : Nat} {d : List Byte} : (startWrite k a d s).freeCtr = s.freeCtr := (startWrite_quiet (.refl s)).freeCtr_eq

@[simp] theorem startWrites_build {k : JobKind} {l : List (Nat × List Byte)} : (startWrites k l s).build = s.build := (startWrites_quiet (.refl s)).build_eq
@[simp] theorem startWrites_pending {k : JobKind} {l : List (Nat × List Byte)} : (startWrites k l s).pending = s.pending := (startWrites_quiet (.refl s)).pending_eq
@[simp] theorem startWrites_rst {k : JobKind} {l : List (Nat × List Byte)} : (startWrites k l s).rst = s.rst := (startWrites_quiet (.refl s)).rst_eq
@[simp] theorem startWrites_dieIndex {k : JobKind} {l : List (Nat × List Byte)} : (startWrites k l s).dieIndex = s.dieIndex := (startWrites_quiet (.refl s)).dieIndex_eq
@[simp] theorem startWrites_dieCountM1 {k : JobKind} {l : List (Nat × List Byte)} : (startWrites k l s).dieCountM1 = s.dieCountM1 := (startWrites_quiet (.refl s)).dieCountM1_eq
@[simp] theorem startWrites_ctlTime {k : JobKind} {l : List (Nat × List Byte)} : (startWrites k l s).ctlTime = s.ctlTime := (startWrites_quiet (.refl s)).ctlTime_eq
@[simp] theorem startWrites_ldrTime {k : JobKind} {l : List (Nat × List Byte)} : (startWrites k l s).ldrTime = s.ldrTime := (startWrites_quiet (.refl s)).ldrTime_eq
@[simp] theorem startWrites_loader {k : JobKind} {l : List (Nat × List Byte)} : (startWrites k l s).loader = s.loader := (startWrites_quiet (.refl s)).loader_eq
@[simp] theorem startWrites_verify {k : JobKind} {l : List (Nat × List Byte)} : (startWrites k l s).verify = s.verify := (startWrites_quiet (.refl s)).verify_eq
@[simp] theorem startWrites_live {k : JobKind} {l : List (Nat × List Byte)} : (startWrites k l s).live = s.live := (startWrites_quiet (.refl s)).live_eq
@[simp] theorem startWrites_banks {k : JobKind} {l : List (Nat × List Byte)} : (startWrites k l s).banks = s.banks := (startWrites_quiet (.refl s)).banks_eq
@[simp] theorem startWrites_recipes {k : JobKind} {l : List (Nat × List Byte)} : (startWrites k l s).recipes = s.recipes := (startWrites_quiet (.refl s)).recipes_eq
@[simp] theorem startWrites_rcpApplied {k : JobKind} {l : List (Nat × List Byte)} : (startWrites k l s).rcpApplied = s.rcpApplied := (startWrites_quiet (.refl s)).rcpApplied_eq
@[simp] theorem startWrites_seqSlots {k : JobKind} {l : List (Nat × List Byte)} : (startWrites k l s).seqSlots = s.seqSlots := (startWrites_quiet (.refl s)).seqSlots_eq
@[simp] theorem startWrites_seqShadow {k : JobKind} {l : List (Nat × List Byte)} : (startWrites k l s).seqShadow = s.seqShadow := (startWrites_quiet (.refl s)).seqShadow_eq
@[simp] theorem startWrites_rng {k : JobKind} {l : List (Nat × List Byte)} : (startWrites k l s).rng = s.rng := (startWrites_quiet (.refl s)).rng_eq
@[simp] theorem startWrites_wrapper {k : JobKind} {l : List (Nat × List Byte)} : (startWrites k l s).wrapper = s.wrapper := (startWrites_quiet (.refl s)).wrapper_eq
@[simp] theorem startWrites_regions {k : JobKind} {l : List (Nat × List Byte)} : (startWrites k l s).regions = s.regions := (startWrites_quiet (.refl s)).regions_eq
@[simp] theorem startWrites_lftCtrl {k : JobKind} {l : List (Nat × List Byte)} : (startWrites k l s).lftCtrl = s.lftCtrl := (startWrites_quiet (.refl s)).lftCtrl_eq
@[simp] theorem startWrites_slices {k : JobKind} {l : List (Nat × List Byte)} : (startWrites k l s).slices = s.slices := (startWrites_quiet (.refl s)).slices_eq
@[simp] theorem startWrites_lnk {k : JobKind} {l : List (Nat × List Byte)} : (startWrites k l s).lnk = s.lnk := (startWrites_quiet (.refl s)).lnk_eq
@[simp] theorem startWrites_exch {k : JobKind} {l : List (Nat × List Byte)} : (startWrites k l s).exch = s.exch := (startWrites_quiet (.refl s)).exch_eq
@[simp] theorem startWrites_lnkDom {k : JobKind} {l : List (Nat × List Byte)} : (startWrites k l s).lnkDom = s.lnkDom := (startWrites_quiet (.refl s)).lnkDom_eq
@[simp] theorem startWrites_ctxs {k : JobKind} {l : List (Nat × List Byte)} : (startWrites k l s).ctxs = s.ctxs := (startWrites_quiet (.refl s)).ctxs_eq
@[simp] theorem startWrites_sched {k : JobKind} {l : List (Nat × List Byte)} : (startWrites k l s).sched = s.sched := (startWrites_quiet (.refl s)).sched_eq
@[simp] theorem startWrites_trk {k : JobKind} {l : List (Nat × List Byte)} : (startWrites k l s).trk = s.trk := (startWrites_quiet (.refl s)).trk_eq
@[simp] theorem startWrites_swaths {k : JobKind} {l : List (Nat × List Byte)} : (startWrites k l s).swaths = s.swaths := (startWrites_quiet (.refl s)).swaths_eq
@[simp] theorem startWrites_nextTask {k : JobKind} {l : List (Nat × List Byte)} : (startWrites k l s).nextTask = s.nextTask := (startWrites_quiet (.refl s)).nextTask_eq
@[simp] theorem startWrites_nextSwath {k : JobKind} {l : List (Nat × List Byte)} : (startWrites k l s).nextSwath = s.nextSwath := (startWrites_quiet (.refl s)).nextSwath_eq
@[simp] theorem startWrites_badCtx {k : JobKind} {l : List (Nat × List Byte)} : (startWrites k l s).badCtx = s.badCtx := (startWrites_quiet (.refl s)).badCtx_eq
@[simp] theorem startWrites_badSlots {k : JobKind} {l : List (Nat × List Byte)} : (startWrites k l s).badSlots = s.badSlots := (startWrites_quiet (.refl s)).badSlots_eq
@[simp] theorem startWrites_freeCtr {k : JobKind} {l : List (Nat × List Byte)} : (startWrites k l s).freeCtr = s.freeCtr := (startWrites_quiet (.refl s)).freeCtr_eq

@[simp] theorem drainCtl_build  : (drainCtl s).build = s.build := (drainCtl_quiet (.refl s)).build_eq
@[simp] theorem drainCtl_pending  : (drainCtl s).pending = s.pending := (drainCtl_quiet (.refl s)).pending_eq
@[simp] theorem drainCtl_rst  : (drainCtl s).rst = s.rst := (drainCtl_quiet (.refl s)).rst_eq
@[simp] theorem drainCtl_dieIndex  : (drainCtl s).dieIndex = s.dieIndex := (drainCtl_quiet (.refl s)).dieIndex_eq
@[simp] theorem drainCtl_dieCountM1  : (drainCtl s).dieCountM1 = s.dieCountM1 := (drainCtl_quiet (.refl s)).dieCountM1_eq
@[simp] theorem drainCtl_ctlTime  : (drainCtl s).ctlTime = s.ctlTime := (drainCtl_quiet (.refl s)).ctlTime_eq
@[simp] theorem drainCtl_ldrTime  : (drainCtl s).ldrTime = s.ldrTime := (drainCtl_quiet (.refl s)).ldrTime_eq
@[simp] theorem drainCtl_loader  : (drainCtl s).loader = s.loader := (drainCtl_quiet (.refl s)).loader_eq
@[simp] theorem drainCtl_verify  : (drainCtl s).verify = s.verify := (drainCtl_quiet (.refl s)).verify_eq
@[simp] theorem drainCtl_live  : (drainCtl s).live = s.live := (drainCtl_quiet (.refl s)).live_eq
@[simp] theorem drainCtl_banks  : (drainCtl s).banks = s.banks := (drainCtl_quiet (.refl s)).banks_eq
@[simp] theorem drainCtl_recipes  : (drainCtl s).recipes = s.recipes := (drainCtl_quiet (.refl s)).recipes_eq
@[simp] theorem drainCtl_rcpApplied  : (drainCtl s).rcpApplied = s.rcpApplied := (drainCtl_quiet (.refl s)).rcpApplied_eq
@[simp] theorem drainCtl_seqSlots  : (drainCtl s).seqSlots = s.seqSlots := (drainCtl_quiet (.refl s)).seqSlots_eq
@[simp] theorem drainCtl_seqShadow  : (drainCtl s).seqShadow = s.seqShadow := (drainCtl_quiet (.refl s)).seqShadow_eq
@[simp] theorem drainCtl_rng  : (drainCtl s).rng = s.rng := (drainCtl_quiet (.refl s)).rng_eq
@[simp] theorem drainCtl_wrapper  : (drainCtl s).wrapper = s.wrapper := (drainCtl_quiet (.refl s)).wrapper_eq
@[simp] theorem drainCtl_regions  : (drainCtl s).regions = s.regions := (drainCtl_quiet (.refl s)).regions_eq
@[simp] theorem drainCtl_lftCtrl  : (drainCtl s).lftCtrl = s.lftCtrl := (drainCtl_quiet (.refl s)).lftCtrl_eq
@[simp] theorem drainCtl_slices  : (drainCtl s).slices = s.slices := (drainCtl_quiet (.refl s)).slices_eq
@[simp] theorem drainCtl_lnk  : (drainCtl s).lnk = s.lnk := (drainCtl_quiet (.refl s)).lnk_eq
@[simp] theorem drainCtl_exch  : (drainCtl s).exch = s.exch := (drainCtl_quiet (.refl s)).exch_eq
@[simp] theorem drainCtl_lnkDom  : (drainCtl s).lnkDom = s.lnkDom := (drainCtl_quiet (.refl s)).lnkDom_eq
@[simp] theorem drainCtl_ctxs  : (drainCtl s).ctxs = s.ctxs := (drainCtl_quiet (.refl s)).ctxs_eq
@[simp] theorem drainCtl_sched  : (drainCtl s).sched = s.sched := (drainCtl_quiet (.refl s)).sched_eq
@[simp] theorem drainCtl_trk  : (drainCtl s).trk = s.trk := (drainCtl_quiet (.refl s)).trk_eq
@[simp] theorem drainCtl_swaths  : (drainCtl s).swaths = s.swaths := (drainCtl_quiet (.refl s)).swaths_eq
@[simp] theorem drainCtl_nextTask  : (drainCtl s).nextTask = s.nextTask := (drainCtl_quiet (.refl s)).nextTask_eq
@[simp] theorem drainCtl_nextSwath  : (drainCtl s).nextSwath = s.nextSwath := (drainCtl_quiet (.refl s)).nextSwath_eq
@[simp] theorem drainCtl_badCtx  : (drainCtl s).badCtx = s.badCtx := (drainCtl_quiet (.refl s)).badCtx_eq
@[simp] theorem drainCtl_badSlots  : (drainCtl s).badSlots = s.badSlots := (drainCtl_quiet (.refl s)).badSlots_eq
@[simp] theorem drainCtl_freeCtr  : (drainCtl s).freeCtr = s.freeCtr := (drainCtl_quiet (.refl s)).freeCtr_eq

@[simp] theorem drainPort_build {c : Nat} : (drainPort c s).build = s.build := (drainPort_quiet (.refl s)).build_eq
@[simp] theorem drainPort_pending {c : Nat} : (drainPort c s).pending = s.pending := (drainPort_quiet (.refl s)).pending_eq
@[simp] theorem drainPort_rst {c : Nat} : (drainPort c s).rst = s.rst := (drainPort_quiet (.refl s)).rst_eq
@[simp] theorem drainPort_dieIndex {c : Nat} : (drainPort c s).dieIndex = s.dieIndex := (drainPort_quiet (.refl s)).dieIndex_eq
@[simp] theorem drainPort_dieCountM1 {c : Nat} : (drainPort c s).dieCountM1 = s.dieCountM1 := (drainPort_quiet (.refl s)).dieCountM1_eq
@[simp] theorem drainPort_ctlTime {c : Nat} : (drainPort c s).ctlTime = s.ctlTime := (drainPort_quiet (.refl s)).ctlTime_eq
@[simp] theorem drainPort_ldrTime {c : Nat} : (drainPort c s).ldrTime = s.ldrTime := (drainPort_quiet (.refl s)).ldrTime_eq
@[simp] theorem drainPort_loader {c : Nat} : (drainPort c s).loader = s.loader := (drainPort_quiet (.refl s)).loader_eq
@[simp] theorem drainPort_verify {c : Nat} : (drainPort c s).verify = s.verify := (drainPort_quiet (.refl s)).verify_eq
@[simp] theorem drainPort_live {c : Nat} : (drainPort c s).live = s.live := (drainPort_quiet (.refl s)).live_eq
@[simp] theorem drainPort_banks {c : Nat} : (drainPort c s).banks = s.banks := (drainPort_quiet (.refl s)).banks_eq
@[simp] theorem drainPort_recipes {c : Nat} : (drainPort c s).recipes = s.recipes := (drainPort_quiet (.refl s)).recipes_eq
@[simp] theorem drainPort_rcpApplied {c : Nat} : (drainPort c s).rcpApplied = s.rcpApplied := (drainPort_quiet (.refl s)).rcpApplied_eq
@[simp] theorem drainPort_seqSlots {c : Nat} : (drainPort c s).seqSlots = s.seqSlots := (drainPort_quiet (.refl s)).seqSlots_eq
@[simp] theorem drainPort_seqShadow {c : Nat} : (drainPort c s).seqShadow = s.seqShadow := (drainPort_quiet (.refl s)).seqShadow_eq
@[simp] theorem drainPort_rng {c : Nat} : (drainPort c s).rng = s.rng := (drainPort_quiet (.refl s)).rng_eq
@[simp] theorem drainPort_wrapper {c : Nat} : (drainPort c s).wrapper = s.wrapper := (drainPort_quiet (.refl s)).wrapper_eq
@[simp] theorem drainPort_regions {c : Nat} : (drainPort c s).regions = s.regions := (drainPort_quiet (.refl s)).regions_eq
@[simp] theorem drainPort_lftCtrl {c : Nat} : (drainPort c s).lftCtrl = s.lftCtrl := (drainPort_quiet (.refl s)).lftCtrl_eq
@[simp] theorem drainPort_slices {c : Nat} : (drainPort c s).slices = s.slices := (drainPort_quiet (.refl s)).slices_eq
@[simp] theorem drainPort_lnk {c : Nat} : (drainPort c s).lnk = s.lnk := (drainPort_quiet (.refl s)).lnk_eq
@[simp] theorem drainPort_exch {c : Nat} : (drainPort c s).exch = s.exch := (drainPort_quiet (.refl s)).exch_eq
@[simp] theorem drainPort_lnkDom {c : Nat} : (drainPort c s).lnkDom = s.lnkDom := (drainPort_quiet (.refl s)).lnkDom_eq
@[simp] theorem drainPort_ctxs {c : Nat} : (drainPort c s).ctxs = s.ctxs := (drainPort_quiet (.refl s)).ctxs_eq
@[simp] theorem drainPort_sched {c : Nat} : (drainPort c s).sched = s.sched := (drainPort_quiet (.refl s)).sched_eq
@[simp] theorem drainPort_trk {c : Nat} : (drainPort c s).trk = s.trk := (drainPort_quiet (.refl s)).trk_eq
@[simp] theorem drainPort_swaths {c : Nat} : (drainPort c s).swaths = s.swaths := (drainPort_quiet (.refl s)).swaths_eq
@[simp] theorem drainPort_nextTask {c : Nat} : (drainPort c s).nextTask = s.nextTask := (drainPort_quiet (.refl s)).nextTask_eq
@[simp] theorem drainPort_nextSwath {c : Nat} : (drainPort c s).nextSwath = s.nextSwath := (drainPort_quiet (.refl s)).nextSwath_eq
@[simp] theorem drainPort_badCtx {c : Nat} : (drainPort c s).badCtx = s.badCtx := (drainPort_quiet (.refl s)).badCtx_eq
@[simp] theorem drainPort_badSlots {c : Nat} : (drainPort c s).badSlots = s.badSlots := (drainPort_quiet (.refl s)).badSlots_eq
@[simp] theorem drainPort_freeCtr {c : Nat} : (drainPort c s).freeCtr = s.freeCtr := (drainPort_quiet (.refl s)).freeCtr_eq

@[simp] theorem drainRegion_build {r : Nat} : (drainRegion r s).build = s.build := (drainRegion_quiet (.refl s)).build_eq
@[simp] theorem drainRegion_pending {r : Nat} : (drainRegion r s).pending = s.pending := (drainRegion_quiet (.refl s)).pending_eq
@[simp] theorem drainRegion_rst {r : Nat} : (drainRegion r s).rst = s.rst := (drainRegion_quiet (.refl s)).rst_eq
@[simp] theorem drainRegion_dieIndex {r : Nat} : (drainRegion r s).dieIndex = s.dieIndex := (drainRegion_quiet (.refl s)).dieIndex_eq
@[simp] theorem drainRegion_dieCountM1 {r : Nat} : (drainRegion r s).dieCountM1 = s.dieCountM1 := (drainRegion_quiet (.refl s)).dieCountM1_eq
@[simp] theorem drainRegion_ctlTime {r : Nat} : (drainRegion r s).ctlTime = s.ctlTime := (drainRegion_quiet (.refl s)).ctlTime_eq
@[simp] theorem drainRegion_ldrTime {r : Nat} : (drainRegion r s).ldrTime = s.ldrTime := (drainRegion_quiet (.refl s)).ldrTime_eq
@[simp] theorem drainRegion_loader {r : Nat} : (drainRegion r s).loader = s.loader := (drainRegion_quiet (.refl s)).loader_eq
@[simp] theorem drainRegion_verify {r : Nat} : (drainRegion r s).verify = s.verify := (drainRegion_quiet (.refl s)).verify_eq
@[simp] theorem drainRegion_live {r : Nat} : (drainRegion r s).live = s.live := (drainRegion_quiet (.refl s)).live_eq
@[simp] theorem drainRegion_banks {r : Nat} : (drainRegion r s).banks = s.banks := (drainRegion_quiet (.refl s)).banks_eq
@[simp] theorem drainRegion_recipes {r : Nat} : (drainRegion r s).recipes = s.recipes := (drainRegion_quiet (.refl s)).recipes_eq
@[simp] theorem drainRegion_rcpApplied {r : Nat} : (drainRegion r s).rcpApplied = s.rcpApplied := (drainRegion_quiet (.refl s)).rcpApplied_eq
@[simp] theorem drainRegion_seqSlots {r : Nat} : (drainRegion r s).seqSlots = s.seqSlots := (drainRegion_quiet (.refl s)).seqSlots_eq
@[simp] theorem drainRegion_seqShadow {r : Nat} : (drainRegion r s).seqShadow = s.seqShadow := (drainRegion_quiet (.refl s)).seqShadow_eq
@[simp] theorem drainRegion_rng {r : Nat} : (drainRegion r s).rng = s.rng := (drainRegion_quiet (.refl s)).rng_eq
@[simp] theorem drainRegion_wrapper {r : Nat} : (drainRegion r s).wrapper = s.wrapper := (drainRegion_quiet (.refl s)).wrapper_eq
@[simp] theorem drainRegion_regions {r : Nat} : (drainRegion r s).regions = s.regions := (drainRegion_quiet (.refl s)).regions_eq
@[simp] theorem drainRegion_lftCtrl {r : Nat} : (drainRegion r s).lftCtrl = s.lftCtrl := (drainRegion_quiet (.refl s)).lftCtrl_eq
@[simp] theorem drainRegion_slices {r : Nat} : (drainRegion r s).slices = s.slices := (drainRegion_quiet (.refl s)).slices_eq
@[simp] theorem drainRegion_lnk {r : Nat} : (drainRegion r s).lnk = s.lnk := (drainRegion_quiet (.refl s)).lnk_eq
@[simp] theorem drainRegion_exch {r : Nat} : (drainRegion r s).exch = s.exch := (drainRegion_quiet (.refl s)).exch_eq
@[simp] theorem drainRegion_lnkDom {r : Nat} : (drainRegion r s).lnkDom = s.lnkDom := (drainRegion_quiet (.refl s)).lnkDom_eq
@[simp] theorem drainRegion_ctxs {r : Nat} : (drainRegion r s).ctxs = s.ctxs := (drainRegion_quiet (.refl s)).ctxs_eq
@[simp] theorem drainRegion_sched {r : Nat} : (drainRegion r s).sched = s.sched := (drainRegion_quiet (.refl s)).sched_eq
@[simp] theorem drainRegion_trk {r : Nat} : (drainRegion r s).trk = s.trk := (drainRegion_quiet (.refl s)).trk_eq
@[simp] theorem drainRegion_swaths {r : Nat} : (drainRegion r s).swaths = s.swaths := (drainRegion_quiet (.refl s)).swaths_eq
@[simp] theorem drainRegion_nextTask {r : Nat} : (drainRegion r s).nextTask = s.nextTask := (drainRegion_quiet (.refl s)).nextTask_eq
@[simp] theorem drainRegion_nextSwath {r : Nat} : (drainRegion r s).nextSwath = s.nextSwath := (drainRegion_quiet (.refl s)).nextSwath_eq
@[simp] theorem drainRegion_badCtx {r : Nat} : (drainRegion r s).badCtx = s.badCtx := (drainRegion_quiet (.refl s)).badCtx_eq
@[simp] theorem drainRegion_badSlots {r : Nat} : (drainRegion r s).badSlots = s.badSlots := (drainRegion_quiet (.refl s)).badSlots_eq
@[simp] theorem drainRegion_freeCtr {r : Nat} : (drainRegion r s).freeCtr = s.freeCtr := (drainRegion_quiet (.refl s)).freeCtr_eq

end Sys2Proof.Machine
end

