-- ==== Sys2Proof/Tests/Slice0.lean ====
section
/-! SUPPORT. Tests: ill-formed commands that WellFormed refuses, the worked examples of the spec, and for every statement of
Certificates/Slice0/Obligations.lean that has hypotheses a state and operands that meet them. Expected values are those that the
spec prints, each with its chapter. -/

namespace Sys2Proof.Tests
open Sys2Proof.Machine

set_option Elab.async false

/-! ## WellFormed: one ill-formed command for each check (a T5-8 with two lift slices) -/

def t5_8 : Build := State.reset.build
def refused (c : Instr) : Bool := !c.wf t5_8

theorem test_wf_accepts : ([.ctxEnable 7, .dmaStart 0 31, .cbCommit 15 0 false, .nodeDispatch 0 3 65535 none,
    .swathDispatch 0 0 0 0 7 1 none, .liftWindowLoad 1 3, .lnkArm 0 15, .slotEvict 1023, .creditReturn 0 2 1 1,
    .cpiSdata (.link 0 0) 256 [], .lnkAgrCfgWrite 0x104 0] : List Instr).all (fun c => !refused c) = true := by decide
theorem test_wf_context : refused (.ctxEnable 8) = true := by decide
theorem test_wf_region : refused (.dmaResume 1) = true := by decide
theorem test_wf_position : refused (.coreAliveTimeout 0 8) = true := by decide
theorem test_wf_channel : refused (.dmaStart 0 32) = true := by decide
theorem test_wf_cluster : refused (.cluAliveToggle 1) = true := by decide
theorem test_wf_tag : refused (.cpiWriteAck 0 1024 false) = true := by decide
theorem test_wf_slice : refused (.liftAliveToggle 2) = true := by decide
theorem test_wf_window : refused (.liftWindowLoad 0 4) = true := by decide
theorem test_wf_link_port : refused (.lnkAliveToggle 1) = true := by decide
theorem test_wf_session : refused (.lnkArm 0 16) = true := by decide
theorem test_wf_slot : refused (.slotEvict 1024) = true := by decide
theorem test_wf_bank : refused (.cbCommit 16 0 false) = true := by decide
theorem test_wf_bank_offset : refused (.cbSideWrite 0 2 0) = true := by decide
theorem test_wf_graph_slot : refused (.taskComplete 0 4 0) = true := by decide
theorem test_wf_node : refused (.taskComplete 0 0 65536) = true := by decide
theorem test_wf_rows : refused (.swathDispatch 0 0 0 0 0 0 none) = true := by decide
theorem test_wf_stream : refused (.agreeTimeout 0 65536) = true := by decide
theorem test_wf_half : refused (.cpiRdata 0 0 false [] none) = true := by decide
theorem test_wf_stream_length : refused (.cpiSdata (.link 0 0) 257 []) = true := by decide
theorem test_wf_stream_id : refused (.cpiSclose 0 256 false) = true := by decide
theorem test_wf_credits : refused (.creditReturn 0 3 0 0) = true := by decide
theorem test_wf_physical : refused (.zombieAliveToggle 0 65) = true := by decide
theorem test_wf_beat : refused (.liftCodeBeat 0 ⟨[], 0, 1, true, ⟨0⟩, 0, true, false⟩) = true := by decide
theorem test_wf_line : refused (.liftScaleLine 0 [] true false) = true := by decide
theorem test_wf_offset : refused (.lnkAgrCfgWrite 0x102 0) = true := by decide
theorem test_wf_record : refused (.recordSeqWrite (.dma 0 32)) = true := by decide
theorem test_wf_upset : refused (.nodeDispatch 0 0 0 (some (.bank 16))) = true := by decide

/-! ## Worked examples of the spec -/

def e2m1 : Side := (preset 1).getD Side.empty
def int8 : Side := (preset 4).getD Side.empty
def e4m3 : Side := (preset 2).getD Side.empty
/-- BF16 patterns as elements. -/
def bf (l : List Nat) : List (Val × Bool) := l.map (fun x => (BitVec.ofNat 32 (x * 65536), false))

/-- 03_drill_arithmetic.md, four-bit codes under UE5M3. -/
def dr1 : Drilled := drillFurrow (mkPass e2m1 .ue5m3 16 0x3D800000 0 none none)
  (bf [0x3F1C, 0xBE80, 0, 0x3C80, 0x3E10, 0xBEE0, 0x3EA0, 0xBD60, 0x3E0C, 0xBF1C, 0x3D20, 0xBB80, 0x3F00, 0x3E40, 0xBE48, 0x3E60])
  (fun j => (0, j))
theorem test_drill_e2m1 : dr1.byte = 0x7E ∧ packCodes 4 dr1.codes = [0xC7, 0x00, 0xE3, 0x95, 0xF3, 0x01, 0x36, 0x4C] := by
  decide +kernel
theorem test_drill_e2m1_counts : dr1.stats.amax = 0x3F1C0000 ∧ dr1.stats.under = 2 ∧ dr1.stats.sat = 0 ∧ dr1.stats.bso = 0 := by
  decide +kernel
theorem test_expand_e2m1 :
    ((expandQ e2m1 .ue5m3 (some 3) (some 0x7E) 0x3D800000 0).bind (roundTo bf16)) = some 0x3E28 ∧
    ((expandQ e2m1 .ue5m3 (some 0xE) (some 0x7E) 0x3D800000 0).bind (roundTo bf16)) = some 0xBEE0 := by decide +kernel

/-- 03_drill_arithmetic.md, 8-bit integer codes under E8M0. -/
def dr2 : Drilled := drillFurrow (mkPass int8 .e8m0 32 0x3F800000 0 none none)
  (([0x407E0000, 0xC0800000, 0x3C400000, 0x3CC00000, 0x3D400000, 0xBDA00000, 0x3FC00000] : List Word).map (fun w => (w, false)) ++
    List.replicate 25 (0, false)) (fun j => (0, j))
theorem test_drill_int8 : dr2.byte = 0x80 ∧
    packCodes 8 dr2.codes = [0x7F, 0x80, 0x00, 0x01, 0x02, 0xFE, 0x30] ++ List.replicate 25 0 ∧
    dr2.stats.amax = 0x40800000 ∧ dr2.stats.under = 1 := by decide +kernel

/-- 08_random_bits.md: the scaled values of its rounding example, as the elements of a furrow without a scale. -/
def dr3 (sr : Option RngKey) : Drilled := drillFurrow (mkPass e2m1 .unscaled 16 0x3F800000 0 sr none)
  (([0x3E000000, 0, 0xC0600000, 0x40C00000, 0x40200000, 0x3F900000, 0xBF600000, 0x40B00000] : List Word).map (fun w => (w, false)) ++
    List.replicate 8 (0, false)) (fun j => (0, j))
theorem test_round_stochastic : packCodes 4 (dr3 (some ⟨0xA3B195E170AB6FD2, 0, 1⟩)).codes = [0x01, 0x7E, 0x25, 0x7A, 0, 0, 0, 0] := by
  decide +kernel
theorem test_round_nearest : packCodes 4 (dr3 none).codes = [0x00, 0x7E, 0x24, 0x7A, 0, 0, 0, 0] := by decide +kernel
theorem test_mix : mix 1 = 0xA3B195E170AB6FD2 ∧ mix 0 = 0 := by decide +kernel

/-- 03_drill_arithmetic.md, R109: a furrow whose every code is the zero code adds to FLUSH only, also where its values are equal. -/
theorem test_flushed_counts : let d := drillFurrow (mkPass e2m1 .ue5m3 16 0x3F800000 0 none none) (List.replicate 16 (0x00800000, false)) (fun j => (0, j))
    d.stats.flush = 1 ∧ d.stats.const = 0 ∧ d.stats.under = 0 ∧ d.stats.sat = 0 ∧ d.stats.bso = 0 ∧ d.byte = 0 := by decide +kernel
/-- 03_drill_arithmetic.md, R111: an expansion that overflows binary32 is its largest finite value, and counts as saturated. -/
theorem test_expand_saturates : expand32 (some (Q.ofInt (2 ^ 200))) = (some (Q.ofInt (2 ^ 128 - 2 ^ 104)), true) := by decide +kernel

/-- 02_codebooks_and_formats.md: a 3-bit furrow. -/
theorem test_pack_three : packCodes 3 [5, 0, 3, 7, 1, 2, 6, 4, 0, 0, 1, 5, 7, 7, 2, 3] = [0xC5, 0x1E, 0x99, 0x40, 0xFA, 0x6B] := by
  decide +kernel

/-- 07_lift_slices.md, the table of R212. -/
theorem test_lift_lanes :
    liftLane e4m3 .ue5m3 0x93 false 0x3A = 0x415C0 ∧ liftLane e4m3 .ue5m3 0x01 false 0x01 = 0x32800 ∧
    liftLane e2m1 .e8m0 0xFC false 7 = 0x7F400 ∧ liftLane e2m1 .e8m0 0xFD false 7 = 0x7F800 ∧
    liftLane e2m1 .ue5m3 0x78 false 8 = 0 := by decide +kernel

/-- 10_region_dma.md, the swap of the gathering example. -/
theorem test_dma_swap : swapUnit 3 [0x80, 0x3F, 0x00, 0xBF, 0x20, 0x41, 0x00, 0x00] =
    [0x00, 0x00, 0x41, 0x20, 0xBF, 0x00, 0x3F, 0x80] := by decide +kernel

/-- 10_region_dma.md, transposing a tile: the block passes its check, and its bursts are 256 B of reading and 4 B of writing. -/
def tile : List Word := regWords [0x00300100, 0x40, 0x10000000, 0x40, 0x003F003F, 0x3F, 4, 0x100, 0x6000, 4, 0, 0, 0x22, 0, 0]
theorem test_dma_transpose : blockFault tile true = 0 ∧
    (spanAt (blockOf tile).srcAddr 4 4096 64).addr = 0x4000300100 + 24576 ∧ (spanAt (blockOf tile).srcAddr 4 4096 64).units = 64 ∧
    (spanAt (blockOf tile).dstAddr 4 4096 1).units = 1 ∧ (blockOf tile).dstAddr 1 = 0x4010000100 := by decide +kernel

/-- 11_link_codec.md, one reduce hop: the frame scale, and the codes of its furrow. -/
def dr4 : Drilled := drillFurrow (mkPass e2m1 .ue5m3 16 (frameScale ⟨7, 2⟩ (Q.ofInt 6)) 0 none none)
  (([0x40600000, 0xBF000000, 0x3F200000, 0x3E840000] : List Word).map (fun w => (w, false)) ++ List.replicate 12 (0, false))
  (fun j => (0, j))
theorem test_reduce_hop : frameScale ⟨7, 2⟩ (Q.ofInt 6) = 0x38000000 ∧ dr4.byte = 0xEA ∧
    packCodes 4 dr4.codes = [0xA7, 0x12, 0, 0, 0, 0, 0, 0] := by decide +kernel

/-- 14_ports_and_integration.md: a word whose only byte that is not zero is byte 1, and bit 6 of that byte flipped. -/
def word1 : List Byte := modAt (zeros 16) 1 (fun _ => 1)
theorem test_guard : g16Guard word1 = 0x8E8F ∧
    g16Check ⟨modAt word1 1 (fun b => b ^^^ 0x40), 0x8E8F⟩ = .corrected word1 := by decide +kernel

/-! ## States and operands that meet the hypotheses of the statements

`test_hyp_<statement>_<clause>` shows that the hypotheses of a clause of the statement can be met together. -/

/-- The state that a command leaves; with a mark in `freeCtr` where it leaves none. -/
def nx (a : Answer) : State := match a with | .next t => t | _ => { State.reset with freeCtr := 99999 }

/-- Right after reset; with every self-test ended, region 0 ready and credits at its port; and with the boot sequence ended. -/
def R : State := State.reset
def rdy : State := modPort 0 (fun p => { p with rd := 8, wr := 8, st := 8 }) (modRegion 0 (fun x => { x with ready := true })
  (modLoader (fun l => { l with selftestDone := true }) R))
def booted : State := modLoader (fun l => { l with state := .done, read := .none, bootDone := true }) rdy
def inPin : State := { R with rst := .pin }

theorem test_hyp_IdleCountsTime : R.pending = [] ∧ R.rst = .run ∧ inPin.pending = [] ∧ inPin.rst ≠ .run ∧ R.sched.sliced = false := by
  decide +kernel
def isNext (a : Answer) : Bool := match a with | .next _ => true | _ => false
def queued : State := { booted with pending := [.ctxEnable 0] }
theorem test_hyp_StepKeepsInv_step : isNext (step queued) = true := by decide +kernel
theorem test_hyp_StepKeepsInv_ports : ∀ p ∈ queued.ports, p.ok := by unfold Port.ok; decide +kernel
theorem test_hyp_StepKeepsInv_inv : State.Inv queued := by
  refine ⟨⟨?_, ?_, ?_, ?_, ?_, ?_, ?_, ?_, ?_⟩, test_hyp_StepKeepsInv_ports⟩ <;> decide +kernel
theorem test_hyp_ExecKeepsQueue : isNext (exec .t5ResetAssert R) = true := by decide +kernel
theorem test_hyp_NothingHappensInReset : inPin.rst ≠ .run ∧ inPin.wrapper.testEn = false := by decide
theorem test_hyp_FullReset : R.rst = .run ∧ inPin.rst = .pin ∧ inPin.wrapper.testEn = false ∧
    ({ R with rst := .requested } : State).rst = .requested := by decide
theorem test_hyp_HeldRequest : inPin.rst = .pin ∧ inPin.wrapper.testEn = false := by decide
def inTest : State := { inPin with wrapper := { R.wrapper with testEn := true, mbistRun := true } }
theorem test_hyp_TestWrapper : R.wrapper.testEn = false ∧ inTest.wrapper.testEn = true ∧ inTest.wrapper.mbistRun = true ∧
    inTest.wrapper.wir ≠ 4 ∧ (nx (exec .wsMbist inTest)).wrapper.wir = 4 ∧ (nx (exec .wsMbist inTest)).wrapper.mbistRun = true := by decide
theorem test_hyp_RandomBits : R.rst = .run ∧ R.rng.busy = false ∧ (nx (exec .rngTestGo R)).rng.busy = true := by decide +kernel

/-! ### The loader -/

def hdr1 : List Byte := [0x4D, 0x42, 0x44, 0x41, 1, 0, 1, 0, 0, 0, 0x01, 0x05] ++ leBytes 4 7 ++ [1] ++ zeros 15
theorem test_hyp_LoaderHeader_valid : R.rst = .run ∧ R.loader.read = .header ∧ headerOk R.build hdr1 = true := by decide +kernel
def alt : State := modLoader (fun l => { l with slot := 1 }) R
theorem test_hyp_LoaderHeader_fallback : headerOk R.build (zeros 32) = false ∧ R.loader.slot = 0 ∧ R.loader.read = .header := by
  decide +kernel
theorem test_hyp_LoaderHeader_none : alt.loader.read = .header ∧ alt.loader.slot = 1 ∧ alt.loader.todo = [] ∧ alt.loader.ready = [] ∧
    alt.live.stage ≠ .waitVerify ∧ alt.loader.selftestDone = false := by decide +kernel

/-- One RECIPES section of one recipe, at target 3. -/
def recBytes : List Byte := [0, 0x10] ++ zeros 30
def sect : List Byte := [0x11, 0, 3, 0] ++ leBytes 4 0x100 ++ leBytes 4 32 ++ leBytes 4 (crc32c recBytes) ++ zeros 16
def hdr2 : List Byte := hdr1.take 28 ++ leBytes 4 (crc32c (hdr1.take 28 ++ sect))
def atTable : State := modLoader (fun l => { l with read := .table hdr2 }) R
theorem test_hyp_LoaderTable : atTable.rst = .run ∧ atTable.loader.read = .table hdr2 ∧ sect.length = 32 * fld hdr2 6 2 ∧
    crc32c (hdr2.take 28 ++ sect) = fld hdr2 28 4 ∧ (∀ e ∈ (chunks 32 sect).map Section.mk, e.type ≠ 1 ∧ e.type ≠ 2) ∧
    atTable.loader.ready = [] ∧ atTable.loader.applying = [] ∧ atTable.live.stage ≠ .waitVerify ∧ atTable.verify.presented = none ∧
    atTable.loader.selftestDone = false := by decide +kernel
/-- CRC-32C of the nine digits, the check value of the code. -/
theorem test_crc32c : crc32c [0x31, 0x32, 0x33, 0x34, 0x35, 0x36, 0x37, 0x38, 0x39] = 0xE3069283 := by decide +kernel

/-- SHA-384 of the three letters abc, as the standard that R367 names prints it. -/
theorem test_sha384 : (sha384 [0x61, 0x62, 0x63]).take 8 = [0xCB, 0x00, 0x75, 0x3F, 0x45, 0xA3, 0x5E, 0x8B] := by decide +kernel

def atSect (tries : Nat) : State := modLoader (fun l => { l with
  read := .sect 0 tries, table := [⟨sect⟩], res := [2], state := .sections, selftestDone := true }) R
theorem test_hyp_LoaderSections_presented : (atSect 0).rst = .run ∧ (atSect 0).loader.read = .sect 0 0 ∧
    (atSect 0).loader.table.getD 0 ⟨[]⟩ = ⟨sect⟩ ∧ recBytes.length = Section.length ⟨sect⟩ ∧ crc32c recBytes = Section.crc ⟨sect⟩ ∧
    (atSect 0).loader.todo = [] ∧ (atSect 0).loader.ready = [] ∧ (atSect 0).verify.presented = none ∧
    (atSect 0).loader.state = .sections := by decide +kernel
theorem test_hyp_LoaderSections_reread : (atSect 1).loader.read = .sect 0 1 ∧ crc32c [1] ≠ Section.crc ⟨sect⟩ ∧ 1 < 2 := by decide +kernel
def busySect (tries : Nat) : State := { atSect tries with verify := { R.verify with presented := some (.boot 0), bytes := recBytes, timed := true } }
theorem test_hyp_LoaderSections_end : (busySect 2).rst = .run ∧ (busySect 2).loader.read = .sect 0 2 ∧ (busySect 2).loader.todo = [] ∧
    (busySect 2).verify.presented = some (.boot 0) ∧ (busySect 2).loader.state = .sections ∧ (busySect 2).health.ring = 0 ∧
    (busySect 2).health.queue.length < 64 := by decide +kernel
theorem test_hyp_VerifyAnswers : (busySect 0).verify.presented = some (.boot 0) ∧ (busySect 0).loader.read ≠ .none ∧
    (busySect 0).loader.ready = [] ∧ (busySect 0).live.stage ≠ .waitVerify ∧ (busySect 0).loader.state = .sections ∧
    Section.type ⟨sect⟩ = 0x11 ∧ (busySect 0).health.wedgedRecipes = false ∧ (busySect 0).verify.timed = true := by decide +kernel

def testing : State := modLoader (fun l => { l with state := .selftest, read := .none, imageOk := true }) R
theorem test_hyp_SelfTestsEnd : testing.rst = .run ∧ testing.loader.todo = [] ∧ testing.loader.ready = [] ∧
    testing.live.stage ≠ .waitVerify ∧ testing.loader.state = .selftest ∧ 0 < testing.regions.length ∧ (region testing 0).ready = false ∧
    testing.loader.selftestDone = false ∧ (∃ x ∈ testing.regions, x.ready = false) ∧ 0 < testing.banks.length := by decide +kernel
theorem test_hyp_LiveUpdates_go : booted.rst = .run ∧ booted.loader.bootDone = true ∧ booted.live.stage = .idle ∧ R.loader.bootDone = false := by
  decide +kernel
/-- A live update of bank 3 whose section has been accepted. -/
def atLive : State := { booted with live := { R.live with
  stage := .waitBank, entry := ⟨[0x10, 0, 3, 0] ++ zeros 28⟩, bytes := leBytes 4 e2m1.desc.toNat ++ (e2m1.tab.take 8).flatMap (fun w => leBytes 4 w.toNat) } }
theorem test_hyp_LiveUpdates_codebook : atLive.rst = .run ∧ atLive.live.stage = .waitBank ∧ atLive.live.entry.target = 3 ∧
    3 < atLive.banks.length ∧ (bank atLive 3).wedged = false ∧ (bank atLive 3).state = .opn ∧ atLive.live.entry.param = 0 := by
  decide +kernel
def seqA : SeqSlot := ⟨2, [1]⟩
def shadowed : State := { booted with
  seqShadow := some (4, ⟨2, [2]⟩), seqSlots := modAt booted.seqSlots 4 (fun _ => some seqA), live := { R.live with stage := .shadow } }
theorem test_hyp_SeqCodeSwap : shadowed.rst = .run ∧ shadowed.seqShadow = some (4, ⟨2, [2]⟩) ∧
    shadowed.seqSlots.getD 4 none = some seqA ∧ tasksUnder shadowed seqA.opset = false ∧ shadowed.health.wedgedSeq = false := by
  decide +kernel

/-! ### Codebook banks -/

/-- Bank 5 with E2M1 live on side 0 and a preset on side 1, in a state. -/
def bankIn (st : CbState) : State := modBank 5 (fun b => { b with
  side0 := e2m1, side1 := e4m3, liveValid := true, state := st }) booted
theorem test_hyp_CodebookSideWrite_stored : bankHeld (bankIn .valid) 5 = false ∧ (bank (bankIn .valid) 5).wedged = false ∧
    5 < (bankIn .valid).banks.length ∧ (bank (bankIn .valid) 5).writable = true ∧ (0xBFC#12).toNat % 4 = 0 ∧
    0x800 ≤ (0xBFC#12).toNat ∧ (0xBFC#12).toNat < 0xC00 ∧ (bank (bankIn .rejected) 5).writable = true ∧ (4#12).toNat < 8 := by decide +kernel
theorem test_hyp_CodebookSideWrite_dropped : (bank (bankIn .opn) 5).writable ≠ decide ((0x400#12).toNat = 4 ∨ 0x800 ≤ (0x400#12).toNat) ∧
    (bank (bankIn .checking) 5).state = .checking ∧ (bank (bankIn .switching) 5).state = .switching ∧
    bankHeld (bankIn .opn) 5 = false := by decide +kernel
theorem test_hyp_CodebookCommit : (bankIn .opn).rst = .run ∧ 5 < (bankIn .opn).banks.length ∧ bankHeld (bankIn .opn) 5 = false ∧
    (bank (bankIn .opn) 5).wedged = false ∧ (bank (bankIn .opn) 5).state = .opn ∧ (bank (bankIn .checking) 5).state = .checking ∧
    bankHeld (bankIn .checking) 5 = false := by decide +kernel
theorem test_hyp_CodebookLoadPreset : (bank (bankIn .rejected) 5).state = .rejected ∧ bankHeld (bankIn .rejected) 5 = false ∧
    (bankIn .rejected).loader.state = .done ∧ (bankIn .rejected).loader.todo = [] ∧ (bankIn .rejected).loader.ready = [] ∧
    (bankIn .rejected).live.stage ≠ .waitVerify ∧ preset (4#4).toNat ≠ none ∧ preset (15#4).toNat = none := by decide +kernel
theorem test_hyp_CodebookCheckDone : (bank (bankIn .checking) 5).state = .checking ∧ (bank (bankIn .checking) 5).user = .sw ∧
    (bank (bankIn .checking) 5).todo = [] ∧ (bankIn .checking).loader.state = .done ∧
    ((bank (bankIn .checking) 5).side (bank (bankIn .checking) 5).writable).check = 0 ∧
    ((bank (modBank 5 (fun b => { b with side1 := Side.empty }) (bankIn .checking)) 5).side true).check ≠ 0 := by decide +kernel
/-- A swath of node 0 of context 0 at position 2. -/
def sw2 : Swath := { (default : Swath) with id := 4, region := 0, pos := 2, epoch := (posOf rdy 0 2).epoch, phys := 2, node := ⟨0, 0, 0⟩ }
theorem test_hyp_CodebookSwitch : bankHeld (bankIn .valid) 5 = false ∧ (bank (bankIn .valid) 5).state = .valid ∧
    (bank (bankIn .valid) 5).node = none ∧ (∀ sl ∈ (bankIn .valid).slices, sl.winOf 5 = none) ∧ (bankIn .valid).swaths = [] ∧
    busyCores { bankIn .valid with swaths := [sw2] } ≠ [] := by decide +kernel

/-! ### Rings, graphs and nodes -/

def cx (f : Ctx → Ctx) : State := modCtx 0 f booted
def desc1 (type step rows : Nat) (gpart : Nat) : List Byte :=
  [BitVec.ofNat 8 type] ++ zeros 11 ++ leBytes 4 step ++ leBytes 8 64 ++ leBytes 8 128 ++ leBytes 4 rows ++ leBytes 4 0 ++ leBytes 4 32 ++
    leBytes 2 0 ++ leBytes 2 0 ++ leBytes 2 gpart ++ leBytes 2 0xFFFF ++ leBytes 4 0 ++ leBytes 8 (if gpart = 0xFFFF then 0 else 64)
def node1 (st : NodeStat) (d : List Byte) : Node := ⟨d, [], 0, false, st, 0, 0, 0, [], none, []⟩
def graph1 (ns : List Node) : Graph := { (default : Graph) with count := ns.length, loaded := true, nodes := ns }
/-- Context 0 with one accepted graph of one node. -/
def withNode (st : CtxState) (n : Node) : State := cx (fun x => { x with state := st, graphs := [graph1 [n]] })

theorem test_hyp_SubmissionDoorbell : booted.rst = .run ∧ 0 < booted.ctxs.length ∧
    2 ^ (ctxOf booted 0).subSize.toNat < dist32 0xFFFFFFFF (ctxOf booted 0).subCons := by decide +kernel
theorem test_hyp_RecordRings_idle : (ctxOf booted 0).emit = .idle ∧ booted.rst = .run ∧ 0 < booted.ctxs.length := by decide +kernel
def atCpl (e : EmitPh) : State := cx (fun x => { x with
  state := .enabled, emit := e, cplSize := 4, cplWrite := 16, glnSize := 8, glnWrite := 256, glnCommit := 256
  graphs := [graph1 [{ node1 .completed (desc1 1 1 4 0xFFFF) with recs := [default] }]] })
theorem test_hyp_RecordRings_completion : (ctxOf (atCpl .cplWait) 0).emit = .cplWait ∧
    ({ ctxOf (atCpl .cplWait) 0 with cplRelease := 1 } : Ctx).cplRoom = true ∧
    ({ ctxOf (atCpl .cplWait) 0 with cplRelease := 0 } : Ctx).cplRoom = false := by decide +kernel
theorem test_hyp_RecordRings_glean : (ctxOf (atCpl (.glnWait 0)) 0).emit = .glnWait 0 ∧
    (ctxOf (atCpl (.glnWait 0)) 0).headNode.isSome = true ∧
    ({ ctxOf (atCpl (.glnWait 0)) 0 with glnRelease := 1 } : Ctx).glnRoom = true ∧
    ({ ctxOf (atCpl (.glnWait 0)) 0 with glnRelease := 0 } : Ctx).glnRoom = false := by decide +kernel
theorem test_hyp_RecordRings_seq : (ctxOf (atCpl .cplBodyDone) 0).emit = .cplBodyDone ∧
    (ctxOf (atCpl (.glnBodyDone 2)) 0).emit = .glnBodyDone 2 := by decide +kernel
def entering : State := cx (fun x => { x with state := .enabled, subSize := 2, subProd := 1 })
theorem test_hyp_GraphAcceptance_begin : (ctxOf entering 0).state = .enabled ∧ (ctxOf entering 0).quiet = false ∧
    (ctxOf entering 0).accept = .idle ∧ (ctxOf entering 0).subCons ≠ (ctxOf entering 0).subProd ∧
    (ctxOf entering 0).graphs.length < 4 ∧ (∀ g ∈ (ctxOf entering 0).graphs, g.slot ≠ (ctxOf entering 0).subCons.toNat % 4) ∧
    (ctxOf (cx (fun x => { x with subCons := 6, graphs := [{ graph1 [] with slot := 1 }] })) 0).slotFree = true ∧
    (ctxOf (cx (fun x => { x with subCons := 5, graphs := [{ graph1 [] with slot := 1 }] })) 0).slotFree = false := by decide +kernel
theorem test_hyp_GraphAcceptance_point : (ctxOf (cx (fun x => { x with accept := .acked (graph1 []) })) 0).accept = .acked (graph1 []) := by
  decide +kernel
def disp (n : Node) : State := withNode .enabled n
def task1 : Node := node1 .waiting (desc1 1 1 4 0xFFFF)
theorem test_hyp_NodeDispatch_task : nodeOf (disp task1) ⟨0, 0, 0⟩ = some task1 ∧ requeuedIn (disp task1) ⟨0, 0, 0⟩ = none ∧
    nextNode (disp task1) 0 = some ⟨0, 0, 0⟩ ∧ dispatchCauses (ctxOf (disp task1) 0) task1 = [] ∧ task1.type = 1 := by decide +kernel
/-- A TASK of step 0, which the context has committed. -/
def task0 : Node := node1 .waiting (desc1 1 0 4 0xFFFF)
theorem test_hyp_NodeDispatch_rejected : nextNode (disp task0) 0 = some ⟨0, 0, 0⟩ ∧
    lowest (dispatchCauses (ctxOf (disp task0) 0) task0) = some 0x02 ∧ task0.stat ≠ .completed ∧
    nodeOf (disp task0) ⟨0, 0, 0⟩ = some task0 ∧ requeuedIn (disp task0) ⟨0, 0, 0⟩ = none := by decide +kernel
def nodeA (type : Nat) (body : List Byte) : Node := node1 .waiting ([BitVec.ofNat 8 type] ++ zeros 11 ++ leBytes 4 1 ++ body ++ zeros (48 - body.length))
def ok1 (s : State) (n : Node) : Bool := nextNode s 0 == some ⟨0, 0, 0⟩ && nodeOf s ⟨0, 0, 0⟩ == some n && requeuedIn s ⟨0, 0, 0⟩ == none &&
  dispatchCauses (ctxOf s 0) n == [] && n.stat != .completed
theorem test_hyp_NodeDispatch_nop : ok1 (disp (nodeA 0 [])) (nodeA 0 []) = true ∧ (nodeA 0 []).type = 0 := by decide +kernel
/-- A DMA node with its CHAIN at 0x1000 in any region, at priority 2. -/
def dmaN : Node := nodeA 3 (leBytes 8 0x1000 ++ [0xFF, 2])
theorem test_hyp_NodeDispatch_dma : ok1 (disp dmaN) dmaN = true ∧ dmaN.type = 3 ∧ dmaPlace (disp dmaN) dmaN = some (0, 0) ∧
    0 < (region (disp dmaN) 0).dma.chans.length := by decide +kernel
/-- A COMMIT of the open step, with three records in the ring. -/
def folding (n : Node) : State := modCtx 0 (fun x => { x with glnSize := 8, glnBaseLo := 0x4000, glnWrite := 3 }) (disp n)
theorem test_hyp_NodeDispatch_commit : ok1 (folding (nodeA 4 [])) (nodeA 4 []) = true ∧ (nodeA 4 []).type = 4 ∧
    (nodeA 4 []).step = (ctxOf (folding (nodeA 4 [])) 0).openStep ∧ (ctxOf (folding (nodeA 4 [])) 0).ringSegs ≠ [] ∧
    ok1 (folding (nodeA 5 [0xFF, 0xFF])) (nodeA 5 [0xFF, 0xFF]) = true ∧ (nodeA 5 [0xFF, 0xFF]).stream = 0xFFFF := by decide +kernel
/-- A COMMIT of the committed step. -/
def replayed : State := modCtx 0 (fun x => { x with sctStep := 1 }) (disp (nodeA 4 []))
theorem test_hyp_NodeDispatch_replay : ok1 replayed (nodeA 4 []) = true ∧ (nodeA 4 []).step ≠ (ctxOf replayed 0).openStep := by decide +kernel
/-- A BANKSWITCH of bank 5. -/
def switching (st : CbState) (ws : List Swath) : State := { bankIn st with ctxs := (disp (nodeA 6 [5])).ctxs, swaths := ws }
theorem test_hyp_NodeDispatch_bank : ok1 (switching .valid []) (nodeA 6 [5]) = true ∧ (nodeA 6 [5]).type = 6 ∧ (nodeA 6 [5]).bank = 5 ∧
    5 < (switching .valid []).banks.length ∧ (bank (switching .valid []) 5).state = .valid ∧ (bank (switching .valid []) 5).wedged = false ∧
    (∀ sl ∈ (switching .valid []).slices, sl.winOf 5 = none) ∧ busyCores (switching .valid []) = [] ∧
    ok1 (switching .valid [{ sw2 with node := ⟨1, 0, 0⟩ }]) (nodeA 6 [5]) = true ∧
    busyCores (switching .valid [{ sw2 with node := ⟨1, 0, 0⟩ }]) ≠ [] ∧ ok1 (switching .opn []) (nodeA 6 [5]) = true ∧
    (bank (switching .opn []) 5).state ≠ .valid := by decide +kernel
theorem test_hyp_NodeDispatch_bank_waits : ok1 (switching .switching []) (nodeA 6 [5]) = true ∧
    (bank (switching .switching []) 5).wedged = false ∧ (bank (switching .switching []) 5).state = .switching ∧
    (bank (switching .switching []) 5).node = none := by decide +kernel
/-- 02_codebooks_and_formats.md, R80: a node that meets a switch of CB_CTRL waits for it; at a bank that is wedged no node is held. -/
def waiting5 : State := nx (exec (.nodeDispatch 0 0 0 none) (switching .switching []))
def turnedAway (s : State) (r : NodeRef) : Bool :=
  (bank s 5).waits.isEmpty && (nodeOf s r).any (fun n => n.stat == .completed && n.status == 0x16 && n.cause == 0x0B)
theorem test_bankswitch_waits : (bank waiting5 5).waits = [⟨0, 0, 0⟩] ∧
    (nodeOf waiting5 ⟨0, 0, 0⟩).map (·.stat) = some .dispatched ∧ turnedAway (wedgeBank 5 waiting5) ⟨0, 0, 0⟩ = true := by decide +kernel
theorem test_hyp_NodeEmission : (ctxOf (disp (node1 .completed (desc1 1 1 4 0xFFFF))) 0).emits = true ∧
    (ctxOf (disp (node1 .completed (desc1 1 1 4 0xFFFF))) 0).emit = .idle ∧
    (ctxOf (disp (node1 .completed (desc1 1 1 4 0xFFFF))) 0).headNode.isSome = true := by decide +kernel

/-! ### Contexts -/

def sized : State := cx (fun x => { x with
  subSize := 2, cplSize := 4, glnSize := 8, subBaseLo := 64, cplBaseLo := 64, scoreLo := 64, glnBaseLo := 64, granLo := 64 })
theorem test_hyp_ContextEnable : sized.loader.selftestDone = true ∧ (ctxOf sized 0).state = .disabled ∧ (ctxOf sized 0).load = .idle ∧
    (ctxOf sized 0).configOk = true ∧ sized.badCtx.contains 0 = false ∧ (ctxOf booted 1).configOk = false := by decide +kernel
theorem test_hyp_ContextDisableCancel_disable : (ctxOf entering 0).state = .enabled ∧ (ctxOf entering 0).accept = .idle ∧
    entering.loader.selftestDone = true := by decide +kernel
theorem test_hyp_ContextDisableCancel_cancel : (ctxOf (withNode .disabled task1) 0).state = .disabled ∧
    (ctxOf (withNode .disabled task1) 0).load = .idle ∧ (∀ g ∈ (ctxOf (withNode .disabled task1) 0).graphs, g.loaded = true) := by
  decide +kernel
theorem test_hyp_ContextSaveRestore : booted.loader.selftestDone = true ∧ (ctxOf booted 0).state = .disabled ∧
    (ctxOf booted 0).load = .idle ∧ (ctxOf booted 0).graphs = [] ∧ booted.badCtx.contains 0 = false := by decide +kernel
def draining : State := { cx (fun x => { x with state := .draining }) with swaths := [{ sw2 with node := ⟨1, 0, 0⟩ }] }
theorem test_hyp_ContextDrained : (ctxOf draining 0).state = .draining ∧ (ctxOf draining 0).emit = .idle ∧
    (ctxOf draining 0).accept = .idle ∧ (ctxOf draining 0).load = .idle ∧ (ctxOf draining 0).graphs = [] ∧
    (ctxOf draining 0).fold = none ∧ (∀ w ∈ draining.swaths, w.node.ctx ≠ 0) := by decide +kernel
/-- A context whose only node waits for an edge that never comes; and one whose emission waits for a commit. -/
def stuck : State := disp { task1 with remaining := 1 }
def stuckGln : State := cx (fun x => { x with
  state := .enabled, emit := .glnWait 0, glnSize := 8, glnWrite := 256
  graphs := [graph1 [{ node1 .completed (desc1 1 1 4 0xFFFF) with recs := [default] }]] })
/-- 09_work_graphs.md, R266: the same while the context drains, with a later task that has been prepared and that R261 does not let run. -/
theorem test_stall_draining : stalled (modCtx 0 (fun x => { x with state := .draining, graphs := x.graphs.map (fun g => { g with
    nodes := g.nodes ++ [{ node1 .dispatched (desc1 1 1 100 0xFFFF) with
      task := some { (default : Task) with id := 1, ph := .ready, ops := zeros 256 } }] }) }) stuckGln) 0 = some true := by decide +kernel
theorem test_hyp_ContextStall : stalled stuck 0 = some false ∧ stalled stuckGln 0 = some true := by decide +kernel

/-- A task of 100 rows that is ready, and cores that are all taken. -/
def taskA (ph : TaskPh) (started : Bool) : Task := { (default : Task) with
  id := 1, ph := ph, ops := zeros 256, prog := zeros 384, started := started, final := true, scales := List.replicate 4 default
  stats := List.replicate 4 Stats.none, chv := List.replicate 4 [] }
def taskN (rows gpart : Nat) (t : Task) : Node := { node1 .dispatched (desc1 1 1 rows gpart) with task := some t }
def held : State := modRegion 0 (fun x => { x with parkReq := true }) (disp (taskN 100 0xFFFF (taskA .run true)))
def sliced : State := { held with sched := { held.sched with sliced := true, holder := some 0 } }
theorem test_hyp_SlicedMode_enter : held.sched.sliced = false ∧ 0 < held.ctxs.length ∧ waitsResource held 0 = true ∧
    held.sched.holder = none ∧ nextHolder { held with sched := { held.sched with sliced := true } } = some 0 := by decide +kernel
theorem test_hyp_IdleCountsTime_slice : (countCycle held).rst = .run ∧ nextHolder (countCycle held) = some 0 ∧
    nextHolder (countCycle booted) = none := by decide +kernel
def freed : State := { booted with sched := { booted.sched with sliced := true, holder := some 0 } }
theorem test_hyp_SlicedMode_exit : freed.sched.sliced = true ∧ ∀ c < freed.ctxs.length, waitsResource freed c = false := by decide +kernel
def inSlice : State := { sliced with swaths := [{ sw2 with slice := some 0 }], ctlTime := 70 }
theorem test_hyp_SlicedMode_end : inSlice.sched.sliced = true ∧ inSlice.sched.holder = some 0 ∧
    (∃ w ∈ inSlice.swaths, w.node.ctx = 0 ∧ w.slice = some inSlice.sched.sliceNo) := by decide +kernel
theorem test_hyp_SlicedMode_next : nextHolder { inSlice with sched := { inSlice.sched with holder := none, lastHolder := 0 } } = some 0 ∧
    nextHolder freed = none := by decide +kernel
theorem test_hyp_SlicedMode_overrun : (ctxOf (nx (exec .sliceEnd inSlice)) 0).overrun = [(0, 70)] := by decide +kernel

/-! ### Commits, the tracker and the exchange -/

def cstr (ph : CommitPh) : CommitStream := { (default : CommitStream) with stream := 3, ph := ph, own := 0x3F80 }
def fold1 (l : List CommitStream) : Fold := ⟨⟨0, 0, 0⟩, false, 5, false, l, [], [], false, false⟩
def commitN : Node := node1 .dispatched ([4] ++ zeros 11 ++ leBytes 4 5 ++ zeros 48)
def committing (l : List CommitStream) : State := cx (fun x => { x with
  state := .enabled, fold := some (fold1 l), graphs := [graph1 [commitN]], granLo := 0x1000, glnWrite := 7, commits := 4 })
theorem test_hyp_CommitHeader : (ctxOf (committing [cstr .done]) 0).fold = some (fold1 [cstr .done]) ∧ (fold1 [cstr .done]).check = false ∧
    (fold1 [cstr .done]).reading = false ∧ (fold1 [cstr .done]).header = false ∧ (∀ y ∈ (fold1 [cstr .done]).streams, y.ph = .done) := by
  decide +kernel
def slot1 : Slot := { (default : Slot) with idx := 2, ctx := 0, stream := 3, ph := .ready }
def waiting : State := modExch (fun e => { e with arrivals := [⟨0, 3, 5, 0x3F00⟩, ⟨0, 3, 6, 0x4000⟩, ⟨0, 4, 6, 1⟩] })
  (modTrk (fun t => { t with slots := [slot1], sel := 3, agreeStep := 5, agreeAmax := 0x3F812345 }) (committing [cstr .agree]))
theorem test_hyp_AgreedValues : (⟨0, 3, 5, (0x3F00#16).toNat⟩ : Arrival) ∈ waiting.exch.arrivals ∧ awaits waiting 0 3 = some 5 ∧
    slotOf waiting 0 3 = some slot1 ∧ slot1.ph = .ready ∧ foldStream waiting 0 3 = some (cstr .agree) ∧ (5#32).toNat = 5 ∧
    (cstr .agree).late = false := by decide +kernel
theorem test_hyp_AgreedValues_next : (⟨0, 3, 6, (0x4000#16).toNat⟩ : Arrival) ∈ waiting.exch.arrivals ∧ (6#32).toNat ≠ 5 ∧
    (6#32) = BitVec.ofNat 32 5 + 1 ∧ slot1.early = none := by decide +kernel
theorem test_hyp_AgreedValues_dropped : (⟨0, 4, 6, (1#16).toNat⟩ : Arrival) ∈ waiting.exch.arrivals ∧ awaits waiting 0 4 = none := by
  decide +kernel
theorem test_hyp_AgreedValues_late : awaits (nx (exec (.agreeTimeout 0 3) waiting)) 0 3 = some 5 ∧
    foldStream (nx (exec (.agreeTimeout 0 3) waiting)) 0 3 = some { cstr .agree with late := true } := by decide +kernel
theorem test_hyp_AgreeBySoftware : bits waiting.trk.sel.toNat 16 6 = 0 ∧ bits waiting.trk.sel.toNat 0 16 = 3 ∧
    awaits waiting 0 3 = some waiting.trk.agreeStep.toNat ∧ (slotReady waiting 0 3).isSome = true ∧
    deliverValue waiting.trk.agreeAmax = some 0x3F82 ∧ awaits booted 0 0 ≠ some booted.trk.agreeStep.toNat := by decide +kernel
theorem test_hyp_AgreeBySoftware_nan : 0x7F800000 < (0xFF800000#32).toNat ∧ (0xFF800000#32).toNat ≠ 0x80000000 := by decide
def planned : State := modCtx 0 (fun x => { x with state := .enabled, oplanLo := 0x800 }) waiting
theorem test_hyp_TrackerRequests_force : 0 < planned.ctxs.length ∧ (ctxOf planned 0).state ≠ .disabled ∧
    word64 (ctxOf planned 0).oplanLo (ctxOf planned 0).oplanHi ≠ 0 ∧ planned.trk.fbReqs.length < 16 := by decide +kernel
def idleSlot : State := modTrk (fun t => { t with slots := [slot1, { slot1 with idx := 7, stream := 8, ph := .loading }] }) booted
theorem test_hyp_TrackerRequests_evict : slotAt idleSlot 2 = some slot1 ∧ slot1.ph = .ready ∧ slot1.early = none ∧
    pinned idleSlot slot1 = false ∧ agreeing idleSlot 0 3 = false ∧ (∀ x ∈ idleSlot.ctxs, x.fold = none) ∧
    (slotAt idleSlot 7).isSome = true ∧ slotAt waiting 2 = some slot1 ∧ agreeing waiting 0 3 = true := by decide +kernel

/-! ### Tasks and swaths -/

def taskRun : State := disp (taskN 100 0xFFFF (taskA .run true))
theorem test_hyp_SwathPlaced_started : nodeOf taskRun ⟨0, 0, 0⟩ = some (taskN 100 0xFFFF (taskA .run true)) ∧
    offered taskRun 0 3 = some ⟨0, 0, 0⟩ ∧ (taskA .run true).reruns = [] ∧
    rowsOk (taskN 100 0xFFFF (taskA .run true)) (taskA .run true) (taskA .run true).next 10 = true ∧
    (∀ b ∈ taskRun.banks, b.node ≠ some ⟨0, 0, 0⟩ ∧ ⟨0, 0, 0⟩ ∉ b.waits) ∧ (taskA .run true).started = true ∧ (taskA .run true).bad = none := by decide +kernel
/-- A task whose node names a stream as gather partner, with a plan table and the stream's slot at hand. -/
def taskNew : State := modTrk (fun t => { t with slots := [{ slot1 with stream := 5 }] })
  (modCtx 0 (fun x => { x with oplanLo := 0x800 }) (disp (taskN 100 5 (taskA .ready false))))
theorem test_hyp_SwathPlaced_first : nodeOf taskNew ⟨0, 0, 0⟩ = some (taskN 100 5 (taskA .ready false)) ∧
    (∀ x ∈ slotStreams (taskN 100 5 (taskA .ready false)) (taskA .ready false).ops ⟨(taskA .ready false).prog⟩, (slotReady taskNew 0 x).isSome = true) ∧
    offered taskNew 0 3 = some ⟨0, 0, 0⟩ ∧ rowsOk (taskN 100 5 (taskA .ready false)) (taskA .ready false) 0 10 = true ∧
    (taskA .ready false).started = false ∧ (taskN 100 5 (taskA .ready false)).isFill = false ∧ (ctxOf taskNew 0).oplan ≠ 0 ∧
    taskStreams (taskN 100 5 (taskA .ready false)) (taskA .ready false).ops ⟨(taskA .ready false).prog⟩ = [5] ∧
    (∀ b ∈ taskNew.banks, b.node ≠ some ⟨0, 0, 0⟩ ∧ ⟨0, 0, 0⟩ ∉ b.waits) ∧ (taskA .ready false).bad = none := by decide +kernel
/-- A task that is to be rejected with cause 0x09. -/
def taskBad : State := disp (taskN 100 0xFFFF { taskA .ready false with bad := some 9 })
theorem test_hyp_SwathPlaced_bad : offered taskBad 0 3 = some ⟨0, 0, 0⟩ ∧
    ({ taskA .ready false with bad := some 9 } : Task).known (taskN 100 0xFFFF { taskA .ready false with bad := some 9 }) = true ∧
    (∀ b ∈ taskBad.banks, b.node ≠ some ⟨0, 0, 0⟩ ∧ ⟨0, 0, 0⟩ ∉ b.waits) ∧
    slotStreams (taskN 100 0xFFFF { taskA .ready false with bad := some 9 }) (zeros 256) ⟨zeros 384⟩ = [] ∧
    (ctxOf taskBad 0).sctStep.toNat < (taskN 100 0xFFFF (taskA .ready false)).step := by decide +kernel
/-- 06_fused_chains.md, the example with B = 8: a chained DRILL, its PRODUCT, and a DRILL of 6,144 columns with scale lines, whose lines
end with every 56 rows only: a task of 16 rows is one swath of two bands, and one of 112 may be cut after whole bands that end a line. -/
def chainTask : Task := { taskA .ready false with
  prog := [4] ++ zeros 127 ++ [1, 0, 0xF, 0xF, 0xF, 1] ++ zeros 10 ++ [8, 0, 0xF, 0xF, 0, 4] ++ zeros 10 ++ [0xB, 0, 0xF, 0xF, 0, 0] ++ zeros 10 ++
    [8, 0, 0xF, 0xF, 2, 0] ++ zeros 10 ++ zeros 192
  ops := zeros 184 ++ [0, 4] ++ zeros 14 ++ leBytes 4 6144 ++ zeros 52 }
def chainN (rows : Nat) : Node := { taskN rows 0xFFFF chainTask with
  desc := (desc1 1 1 rows 0xFFFF).take 44 ++ [8, 0] ++ (desc1 1 1 rows 0xFFFF).drop 46 }
theorem test_chain_rows : rowsOk (chainN 16) chainTask 0 16 = true ∧ rowsOk (chainN 16) chainTask 0 8 = false ∧
    rowsOk (chainN 112) chainTask 0 56 = true ∧ rowsOk (chainN 112) chainTask 0 64 = false ∧
    Env.bands { (default : Env) with node := chainN 16, rows := 16 } = 2 := by decide +kernel
/-- A swath of 10 rows of a task, whose work is done. -/
def swDone : Swath := { sw2 with task := 1, rows := 10, ph := .done, treed := true, stats := List.replicate 4 Stats.none, chv := List.replicate 4 [] }
def reporting (done : Nat) (final : Bool) : State :=
  { disp (taskN 100 0xFFFF { taskA .run true with next := 100, done := done, final := final }) with swaths := [swDone] }
theorem test_hyp_SwathReports_rows : swathOf (reporting 30 true) 4 = some swDone ∧ swDone.region = 0 ∧ swDone.pos = 2 ∧
    swDone.epoch = (posOf (reporting 30 true) 0 2).epoch ∧ (posOf (reporting 30 true) 0 2).vacant = false ∧ swDone.ph = .done ∧
    sending (reporting 30 true) swDone = false ∧ (swathTask (reporting 30 true) swDone).isSome = true ∧
    (∀ b ∈ (reporting 30 true).banks, b.node ≠ some swDone.node ∧ swDone.node ∉ b.waits) ∧ 30 + swDone.rows ≠ 100 ∧
    (∀ y ∈ (reporting 30 true).swaths, y.id ≠ 4 → ¬ (y.region = 0 ∧ y.pos = 2)) := by decide +kernel
/-- The switch of bank 5 waits for the given consumers, and a BANKSWITCH node of context 1 for the switch. -/
def flipping (cs : List Consumer) (s : State) : State :=
  modBank 5 (fun b => { b with side1 := e4m3, liveValid := true, state := .switching, flip := cs, node := some ⟨1, 0, 0⟩ })
    (modCtx 1 (fun x => { x with state := .enabled, graphs := [graph1 [{ nodeA 6 [5] with stat := .dispatched }]] }) s)
/-- Whether that switch has ended, and whether it goes on. -/
def flipped (a : Answer) : Bool :=
  let b := bank (nx a) 5
  b.state == .opn && b.live && b.gen == 1 && (nodeOf (nx a) ⟨1, 0, 0⟩).any (fun n => n.stat == .completed && n.status == 0)
def waitsOn (c : Consumer) (a : Answer) : Bool :=
  let b := bank (nx a) 5
  b.state == .switching && !b.live && b.flip == [c] && (nodeOf (nx a) ⟨1, 0, 0⟩).any (fun n => n.stat == .dispatched)
theorem test_hyp_SwathPlaced_flip : offered (flipping [.core 0 3] taskRun) 0 3 = some ⟨0, 0, 0⟩ ∧
    (posOf taskRun 0 3).phys = 3 ∧ (bank (flipping [.core 0 3] taskRun) 5).node ≠ some ⟨0, 0, 0⟩ := by decide +kernel
/-- 02_codebooks_and_formats.md, R78 and R80: the last consumer's flip ends the switch, an earlier one's does not; a core flips where its
next swath starts, and at once where it runs none. -/
theorem test_flip_core_starts : flipped (exec (.swathDispatch 0 0 0 0 3 10 none) (flipping [.core 0 3] taskRun)) = true ∧
    waitsOn (.core 0 4) (exec (.swathDispatch 0 0 0 0 3 10 none) (flipping [.core 0 3, .core 0 4] taskRun)) = true := by decide +kernel
theorem test_flip_core_idle : flipped (exec (.swathComplete 0 2 4) (flipping [.core 0 2] (reporting 30 true))) = true ∧
    waitsOn (.core 0 2) (exec (.swathComplete 0 2 4)
      (flipping [.core 0 2] { reporting 30 true with swaths := [swDone, { sw2 with id := 6, pos := 2 }] })) = true := by decide +kernel
/-- 02_codebooks_and_formats.md, R80: the node that waited for a switch of CB_CTRL finds the bank in OPEN once it has ended. -/
theorem test_bankswitch_turned_away : let t := nx (exec (.swathComplete 0 2 4) (modBank 5 (fun b => { b with node := none, waits := [⟨1, 0, 0⟩] })
    (flipping [.core 0 2] (reporting 30 true)))); turnedAway t ⟨1, 0, 0⟩ = true ∧ (bank t 5).state = .opn := by decide +kernel
theorem test_hyp_SwathReports_last : (swathTask (reporting 90 true) swDone).isSome = true ∧ 90 + swDone.rows = 100 ∧ swDone.treed = true ∧
    (taskOf (reporting 90 true) ⟨0, 0, 0⟩).map (·.final) = some true ∧ (taskOf (reporting 90 false) ⟨0, 0, 0⟩).map (·.final) = some false := by
  decide +kernel
/-- The same after its slice: what the slice overran by is its context's debt once its last swath completes. -/
def pastSlice (others : List Swath) : State := modCtx 0 (fun x => { x with overrun := [(0, 40)], debt := 5 })
  { reporting 30 true with swaths := { swDone with slice := some 0 } :: others, ctlTime := 70 }
theorem test_hyp_SlicedMode_complete : swathOf (pastSlice []) 4 = some { swDone with slice := some 0 } ∧
    sending (pastSlice []) { swDone with slice := some 0 } = false ∧ (swathTask (pastSlice []) { swDone with slice := some 0 }).isSome = true ∧
    30 + swDone.rows ≠ 100 := by decide +kernel
theorem test_slice_debt : (ctxOf (nx (exec (.swathComplete 0 2 4) (pastSlice []))) 0).debt = 35 ∧
    (ctxOf (nx (exec (.swathComplete 0 2 4) (pastSlice [{ sw2 with id := 6, slice := some 0 }]))) 0).debt = 5 := by decide +kernel
/-- A program of one RSUM stage over columns, with scratch, and rows that make two chunks. -/
def redProg : List Byte := [2] ++ zeros 15 ++ leBytes 8 0x4000 ++ zeros 104 ++
  ([1, 0, 0xF, 0xF, 0xF] ++ zeros 11) ++ ([0x21, 0, 0, 0xF, 0xF] ++ zeros 11) ++ zeros 224
def taskRed : Task := { taskA .run true with prog := redProg, ops := zeros 24 ++ leBytes 4 32 ++ [0, 0, 0x40, 0] ++ zeros 224, next := 600, done := 590 }
def reducing : State := { disp (taskN 600 0xFFFF taskRed) with swaths := [{ swDone with treed := false }] }
theorem test_hyp_SwathReports_tree : swathTask reducing { swDone with treed := false } = some (taskN 600 0xFFFF taskRed, taskRed) ∧
    lastSwath { swDone with treed := false } (taskN 600 0xFFFF taskRed) taskRed = true ∧
    segLen (treeSegs (envOf reducing { swDone with treed := false } (taskN 600 0xFFFF taskRed) taskRed)) ≠ 0 := by decide +kernel
def folded : Task := { taskA .folded true with
  final := false, scales := [{ (default : DestScale) with cold := .twoPass }, default, default, default] }
theorem test_hyp_TaskEnds_second : taskOf (disp (taskN 100 0xFFFF folded)) ⟨0, 0, 0⟩ = some folded ∧ folded.ph = .folded ∧
    (folded.scales.getD 0 default).cold = .twoPass ∧ (folded.scales.getD 1 default).cold ≠ .twoPass ∧
    (destRecipe (disp (taskN 100 0xFFFF folded)) (destRec folded.ops 0)).zpMode = 0 := by decide +kernel
theorem test_hyp_TaskEnds_complete : nodeOf (disp (taskN 100 0xFFFF (taskA .tail true))) ⟨0, 0, 0⟩ = some (taskN 100 0xFFFF (taskA .tail true)) ∧
    (taskN 100 0xFFFF (taskA .tail true)).stat = .dispatched ∧ (taskA .tail true).ph = .tail ∧ (taskA .tail true).tailLeft = 0 ∧
    (taskA .tail true).merges = [] := by decide +kernel

/-! ### Cluster ports -/

def burst (o : Owner) (wr : Bool) : Burst := ⟨o, wr, 0x1000, 16, 0, 0, if wr then zeros 16 else []⟩
def jobA (wr : Bool) (k : JobKind) : Job := ⟨9, k, wr, List.replicate 32 none, 2, none⟩
def withReq (b : Burst) (j : Job) (s : State) : State :=
  { modPort 0 (fun p => { p with out := [⟨3, b⟩] }) s with jobs := [j], nextJob := 10 }
theorem test_hyp_PortAnswers_unknown : reqOf booted 0 5 false = none ∧ reqOf booted 0 5 true = none ∧ 0 < booted.ports.length := by
  decide +kernel
def reading : State := withReq (burst (.ctl 9) false) (jobA false (.enHeader 0)) booted
def beat0 : List GWord := List.replicate 16 (guarded (zeros 16))
theorem test_hyp_PortAnswers_good : reqOf reading 0 3 false = some ⟨3, burst (.ctl 9) false⟩ ∧
    jobOf reading 9 = some (jobA false (.enHeader 0)) ∧ 2 ≤ (jobA false (.enHeader 0)).left ∧
    (takeBeat beat0 (0x1000 % 256) 16).corrected = [] ∧ (takeBeat beat0 (0x1000 % 256) 16).bad = [] := by decide +kernel
theorem test_hyp_PortAnswers_retry : (jobA false (.enHeader 0)).kind.retried = true ∧ 0 < reading.health.retry := by decide +kernel
def writing : State := withReq (burst (.core 0 2 (posOf booted 0 2).epoch 2 9) true) (jobA true (.swathWr 4 ⟨0, 0, 0⟩ 1)) (reporting 30 true)
theorem test_hyp_PortAnswers_core : (reqOf writing 0 3 true).isSome = true ∧ epochHolds writing 0 2 (posOf booted 0 2).epoch = true ∧
    jobOf writing 9 = some (jobA true (.swathWr 4 ⟨0, 0, 0⟩ 1)) ∧ jobSwath writing 9 = some swDone ∧ (swathTask writing swDone).isSome = true ∧
    epochHolds writing 0 2 ((posOf booted 0 2).epoch + 1) = false := by decide +kernel
/-- A commit whose header is at the port. -/
def ending : State := nx (exec (.commitHeaderWrite 0) (committing [cstr .done]))
theorem test_hyp_CommitEnds : (reqOf ending 0 0 true).isSome = true ∧ (jobOf ending 0).map (·.kind) = some (.cmHeader 0) ∧
    (jobOf ending 0).map (·.wr) = some true ∧ (jobOf ending 0).map (·.left) = some 1 ∧ (jobOf ending 0).map (·.fail) = some none ∧
    (reqOf ending 0 0 true).map (·.burst.owner) = some (.ctl 0) ∧ (ctxOf ending 0).fold = some { fold1 [cstr .done] with header := true } ∧
    nodeOf ending ⟨0, 0, 0⟩ = some commitN ∧ commitN.stat = .dispatched := by decide +kernel
theorem test_hyp_CreditsReturn : 0 < booted.ports.length ∧ (port booted 0).lost = false ∧ booted.ctlWait = [] ∧ 
    (∀ p ∈ booted.ports, p.wait = [] ∧ p.beats = []) ∧ booted.swaths = [] ∧ (port (nx (exec (.clusterPartnerLost 0) booted)) 0).lost = true := by decide +kernel

def oStream : OpenStream := ⟨7, true, 0, 2, 4, 0, 0, 0, false⟩
def swBand : Swath := { swDone with ph := .band, need := 64 }
def streaming (w : Swath) : State := modPort 0 (fun p => { p with streams := [oStream] })
  { disp (taskN 100 0xFFFF (taskA .run true)) with swaths := [w] }
theorem test_hyp_InboundStreams_data : (port (streaming swBand) 0).lost = false ∧ (port (streaming swBand) 0).wait = [] ∧
    (port (streaming swBand) 0).beats = [] ∧ recvOf (streaming swBand) 0 7 = some oStream ∧ swathOf (streaming swBand) 4 = some swBand ∧
    streamWanted (streaming swBand) oStream = true ∧ swBand.ph = .band ∧ (takeBeat beat0 0 32).corrected = [] ∧ (takeBeat beat0 0 32).bad = [] ∧
    swBand.got.length + (takeBeat beat0 0 32).bytes.length < swBand.need ∧ recvOf (streaming swBand) 0 8 = none := by decide +kernel
theorem test_hyp_InboundStreams_stale : streamWanted (streaming { swBand with epoch := 5 }) oStream = false ∧
    swathOf (streaming { swBand with epoch := 5 }) 4 = some { swBand with epoch := 5 } := by decide +kernel
/-- A swath that is to go on to its next band: while the stream of the one before it is open, and once that has closed. -/
def swNext : Swath := { swBand with ph := .bandNext }
theorem test_hyp_InboundStreams_band : (swathTask (streaming swNext) swNext).isSome = true ∧ swNext.ph = .bandNext ∧
    epochHolds (streaming swNext) swNext.region swNext.pos swNext.epoch = true ∧
    (port (streaming swNext) (swNext.cluster (streaming swNext))).streams.filter (fun o => o.swath == swNext.id && o.stage == swNext.stage &&
      !o.closed) = [oStream] ∧
    (port (modPort 0 (fun p => { p with streams := [] }) (streaming swNext)) 0).streams = [] := by decide +kernel
/-- A session with two delivered values on route 0x8000, and a swath that waits for the first four on that route. -/
def tiled : State := modSess 0 6 (fun x => { x with route := 0x8000, dq := [0x3F800000, 0x40000000] })
  { disp { taskN 100 0xFFFF (taskA .run true) with desc := (desc1 1 1 100 0xFFFF).take 52 ++ [0, 0x80] ++ (desc1 1 1 100 0xFFFF).drop 54 } with
    swaths := [{ swBand with need := 16 }] }
theorem test_hyp_InboundStreams_tile : sessBuilt tiled 0 6 = true ∧ (tileSwath tiled (session tiled 0 6)).isSome = true ∧
    tileSwath tiled (session tiled 0 5) = none := by decide +kernel
def watched : State := withReq (burst (.ctl 9) false) (jobA false (.enHeader 0)) (streaming swBand)
theorem test_hyp_ClusterPartner : (region watched (watched.build.regionOf 0)).parkAck = false ∧ (port watched 0).lost = false ∧
    (port watched 0).out ≠ [] ∧ jobOf { watched with jobs := [] } 9 = none ∧ (port booted 0).out = [] ∧ (∀ o ∈ (port booted 0).streams, o.recv = false ∨ o.closed = true) := by
  decide +kernel

/-! ### Regions and health -/

def parkable : State := modTrk (fun t => { t with slots := [{ slot1 with idx := 5 }] }) booted
def parkAsked : State := nx (exec (.regionParkRequest 0) parkable)
def parked : State := nx (exec (.regionParkAck 0) parkAsked)
theorem test_hyp_RegionParking : 0 < parkable.regions.length ∧ parkable.build.homeRegion 5 = 0 ∧
    pinned parkable { slot1 with idx := 5 } = false ∧ parkAsked.swaths = [] ∧ (region parkAsked 0).parkReq = true ∧ (region parkAsked 0).parkAck = false ∧
    parkQuiet parkAsked 0 = true ∧ (region parked 0).parkReq = true ∧ (region parked 0).parkAck = true := by decide +kernel
theorem test_hyp_CoreFencing_live : posBuilt booted 0 7 = true ∧ (posOf booted 0 7).vacant = false ∧ (region booted 0).ready = true ∧
    (region booted 0).parkAck = false ∧ ((region booted 0).phys[(posOf booted 0 7).phys]?).isSome = true ∧
    (0x80000007#32).toNat / 2 ^ 31 = 1 ∧ bits (0x80000007#32).toNat 8 3 = 0 ∧ bits (0x80000007#32).toNat 0 6 = 7 := by decide +kernel
def fenced : State := nx (exec (.coreAliveTimeout 0 2) { booted with swaths := [sw2] })
theorem test_hyp_CoreFencing_settled : (posOf fenced 0 2).vacant = true ∧
    (region fenced 0).fences.find? (fun f => f.pos == 2) = some ⟨2, 2, (posOf booted 0 2).epoch, 1⟩ ∧
    fenceOpen fenced 0 ⟨2, 2, (posOf booted 0 2).epoch, 1⟩ = false ∧ fenced.swaths.map (·.phys) = [2] ∧
    (region fenced 0).spareFree = true := by decide +kernel
theorem test_flip_core_retired : flipped (exec (.coreFenceSettled 0 2) (flipping [.core 0 2] fenced)) = true := by decide +kernel
/-- 12_resilience.md, R335 and R336: a core that has been fenced presents nothing for a swath that had not begun, or that had a band to go. -/
def fencedWith (ph : SwathPh) : State := nx (exec (.coreAliveTimeout 0 2)
  (modPort 0 (fun p => { p with streams := [] }) (streaming { swDone with ph := ph })))
theorem test_fenced_presents_nothing : epochHolds (fencedWith .setup) 0 2 swDone.epoch = false ∧
    (swathBegin 4 (fencedWith .setup)).swaths.map (·.ph) = [.setup] ∧ (bandGo 4 (fencedWith .bandNext)).swaths.map (·.ph) = [.bandNext] ∧
    (swathBegin 4 (streaming { swDone with ph := .setup })).swaths.map (·.ph) ≠ [.setup] := by decide +kernel
def fencedBusy : State := withReq (burst (.core 0 2 (posOf booted 0 2).epoch 2 9) true) (jobA true (.swathWr 4 ⟨0, 0, 0⟩ 1)) fenced
theorem test_hyp_CoreFencing_open : fenceOpen fencedBusy 0 ⟨2, 2, (posOf booted 0 2).epoch, 1⟩ = true := by decide +kernel
theorem test_hyp_ZombiesAndLog_zombie : posBuilt fenced 0 2 = true ∧ ((region fenced 0).phys[2]?).map (·.fenced) = some true ∧
    ((region fenced 0).phys[2]?).map (·.logged) = some false ∧ (0#16) ≠ (posOf fenced 0 2).epoch ∧
    ((region fenced 0).phys[3]?).map (·.fenced) = some false ∧
    ((region (nx (exec (.zombieRequest 0 2 2 0 77 true) fenced)) 0).phys[2]?).map (·.logged) = some true := by decide +kernel
def logged : State := logEvent 0x71 4 0 0 0xFFFF 0 0 booted
theorem test_hyp_ZombiesAndLog_log : logged.health.queue ≠ [] ∧ logged.health.phase = .idle ∧
    dist32 logged.health.logWrite logged.health.logRelease < 2 ^ 6 ∧ bits (6#32).toNat 0 5 = 6 ∧ bits (21#32).toNat 0 5 = 21 ∧
    2 ^ 6 ≤ dist32 (modHealth (fun h => { h with logWrite := 64 }) logged).health.logWrite 0 ∧
    (modHealth (fun h => { h with phase := .bodyDone }) logged).health.phase = .bodyDone := by decide +kernel

/-! ### DMA -/

/-- Region 0 with four direct channels, of which channel 1 has a block of one unit and a next block. -/
def dmaRdy : State := modChan 0 1 (fun c => { c with regs := modAt c.regs 13 (fun _ => 0x1000), cfg := 3 })
  (modDma 0 (fun x => { x with own := 0xF }) booted)
theorem test_hyp_DmaCommands_start : 1 < (region dmaRdy 0).dma.chans.length ∧ (region dmaRdy 0).dma.own.getLsbD 1 = true ∧
    (chan dmaRdy 0 1).state = .idle ∧ (region dmaRdy 0).dma.stopped = false ∧ (region dmaRdy 0).dma.draining = false ∧
    (region dmaRdy 0).parkReq = false ∧ ¬ 1 ∈ (region dmaRdy 0).badChans ∧ blockFault (chan dmaRdy 0 1).regs true = 0 ∧
    blockFault (modAt (chan dmaRdy 0 2).regs 4 (fun _ => 3)) true ≠ 0 ∧ (region dmaRdy 0).dma.own.getLsbD 9 = false ∧
    allIdle (region dmaRdy 0).dma = true ∧ (region parked 0).parkAck = true := by decide +kernel
def dmaRun : State := nx (exec (.dmaStart 0 1) dmaRdy)
theorem test_hyp_DmaCommands_disable : (region dmaRun 0).dma.own.getLsbD 1 = true ∧ (chan dmaRun 0 1).state = .active ∧
    allIdle (region dmaRun 0).dma = false := by decide +kernel
def dmaStopped : State := modDma 0 (fun x => { x with stopped := true, autoResume := true }) dmaRdy
theorem test_hyp_DmaEngine_resume : (region dmaStopped 0).dma.stopped = true ∧ (region dmaStopped 0).dma.autoResume = true ∧
    allIdle (region dmaStopped 0).dma = true := by decide +kernel
theorem test_hyp_DmaBursts_read : arbiter (region dmaRun 0).dma false = some 1 ∧
    bestPort dmaRun (regionPorts dmaRun 0) false = some 0 ∧ (readReady (chan dmaRun 0 1)).isSome = true := by decide +kernel
def dmaRead : State := nx (exec (.cpiRdata 0 0 false beat0 none) (nx (exec (.dmaBurstGrant 0 false) dmaRun)))
theorem test_hyp_DmaBursts_write : arbiter (region dmaRead 0).dma true = some 1 ∧
    bestPort dmaRead (regionPorts dmaRead 0) true = some 0 ∧ (writeReady (chan dmaRead 0 1)).isSome = true := by decide +kernel
def dmaDone : State := nx (exec (.cpiWriteAck 0 0 false) (nx (exec (.dmaBurstGrant 0 true) dmaRead)))
theorem test_hyp_DmaEngine_hop : (chan dmaDone 0 1).state = .active ∧ (chan dmaDone 0 1).fetchAt = none ∧
    blockDone (chan dmaDone 0 1) = true ∧ (blockOf (chan dmaDone 0 1).regs).next = 0x1000 ∧
    (∀ f ∈ (chan dmaDone 0 1).flights, f.kind ≠ .write) ∧ (region dmaDone 0).dma.draining = false ∧
    (chan dmaDone 0 1).hops + 1 ≤ max (region dmaDone 0).dma.hoplim.toNat 1 := by decide +kernel
def dmaHops : State := modDma 0 (fun x => { x with hoplim := 1 }) (modChan 0 1 (fun c => { c with hops := 1 }) dmaDone)
theorem test_hyp_DmaEngine_hops_spent : max (region dmaHops 0).dma.hoplim.toNat 1 < (chan dmaHops 0 1).hops + 1 ∧
    blockDone (chan dmaHops 0 1) = true := by decide +kernel
def dmaLast : State := modChan 0 1 (fun c => { c with regs := modAt c.regs 13 (fun _ => 0) }) dmaDone
theorem test_hyp_DmaBursts_record : (chan dmaLast 0 1).state ≠ .idle ∧ (chan dmaLast 0 1).flights = [] ∧
    (chan dmaLast 0 1).recPh = .none ∧ (chan dmaLast 0 1).outcome = none ∧ blockDone (chan dmaLast 0 1) = true ∧
    (blockOf (chan dmaLast 0 1).regs).next = 0 ∧ (chan dmaLast 0 1).node = none ∧ (chan dmaLast 0 1).cfg.getLsbD 0 = true := by
  decide +kernel
def dmaFailed (n : Option NodeRef) : State := modChan 0 1 (fun c => { c with
  cfg := 2, outcome := some (0x12, 0x40), state := .ending, node := n }) { dmaDone with ctxs := (disp (node1 .dispatched (desc1 3 1 0 0))).ctxs }
theorem test_hyp_DmaBursts_end : (chan (dmaFailed none) 0 1).outcome = some (0x12, 0x40) ∧ (chan (dmaFailed none) 0 1).cfg.getLsbD 0 = false ∧
    (chan (dmaFailed none) 0 1).flights = [] ∧ (chan (dmaFailed none) 0 1).recPh = .none ∧ (chan (dmaFailed none) 0 1).node = none := by
  decide +kernel
theorem test_hyp_DmaBursts_node : (chan (dmaFailed (some ⟨0, 0, 0⟩)) 0 1).node = some ⟨0, 0, 0⟩ ∧
    (nodeOf (dmaFailed (some ⟨0, 0, 0⟩)) ⟨0, 0, 0⟩).map (·.stat) = some .dispatched := by decide +kernel
theorem test_hyp_DmaBursts_seq :
    (chan (modChan 0 1 (fun c => { c with recPh := .bodyDone }) dmaLast) 0 1).recPh = .bodyDone := by decide +kernel
def dmaDrain : State := modChan 0 4 (fun c => { c with state := .active, node := some ⟨0, 0, 0⟩, fetchAt := some 9, running := true })
  (modChan 0 3 (fun c => { c with state := .active, running := true })
    (modDma 0 (fun x => { x with draining := true, culprits := [⟨1, 0x41, 0x99, 0x40⟩] }) dmaRun))
theorem test_hyp_DmaEngine_stopped : (region dmaDrain 0).dma.draining = true ∧ (∀ c ∈ (region dmaDrain 0).dma.chans, c.flights = []) ∧
    (region dmaDrain 0).dma.culprits = [⟨1, 0x41, 0x99, 0x40⟩] ∧ (chan dmaDrain 0 1).state = .active ∧ (chan dmaDrain 0 3).state = .active ∧
    (chan dmaDrain 0 3).node = none ∧ (chan dmaDrain 0 4).node = some ⟨0, 0, 0⟩ := by decide +kernel
/-- 10_region_dma.md, R297, and 09_work_graphs.md, R256: what the engine records is the first failure, what the run ends with the lowest cause. -/
theorem test_culprit_lowest : (region (dmaFail 0 1 0x40 5 (dmaFail 0 1 0x41 9 booted)) 0).dma.culprits = [⟨1, 0x41, 9, 0x40⟩] ∧
    (chan (nx (exec (.dmaEngineStopped 0) dmaDrain)) 0 1).outcome = some (0x12, 0x40) := by decide +kernel

/-! ### Lift slices -/

/-- Banks 0 and 1 live with E2M1, slice 0 out of reset with windows 0 and 1 on them. -/
def liftOn : State := modSlice 0 (fun x => { x with inReset := false, cfg := 0x00100003 })
  (modBank 0 (fun b => { b with side0 := e2m1, liveValid := true }) (modBank 1 (fun b => { b with side0 := e2m1, liveValid := true }) booted))
def lifted0 : State := nx (exec (.liftWindowLoad 0 0) liftOn)
theorem test_hyp_LiftReset : sliceBuilt liftOn 0 = true ∧ (liftSlice liftOn 0).inReset = false ∧ (liftSlice liftOn 0).lost = false ∧
    (liftSlice liftOn 1).inReset = true ∧ sliceBuilt liftOn 1 = true ∧
    (liftSlice (nx (exec (.liftPartnerLost 0) liftOn)) 0).lost = true ∧
    (bank (flipping [.slice 0] liftOn) 5).state = .switching ∧ .slice 0 ∈ (bank (flipping [.slice 0] liftOn) 5).flip := by decide +kernel
/-- 07_lift_slices.md, R218, and 14_ports_and_integration.md, R396: the slice is counted off, and its windows are to be loaded again. -/
theorem test_flip_slice_away : ([exec (.liftResetAssert 0), exec (.liftPartnerLost 0), exec (.lclTransferTimeout 0)].all (fun f =>
    flipped (f (flipping [.slice 0] lifted0)) && waitsOn (.core 0 4) (f (flipping [.slice 0, .core 0 4] lifted0)) &&
      !((liftSlice (nx (f (flipping [.slice 0] lifted0))) 0).win 0).loaded)) = true := by decide +kernel
def liftHeld : State := modLoader (fun l => { l with table := [⟨[0x30] ++ zeros 7 ++ leBytes 4 4 ++ zeros 20⟩], res := [2] }) liftOn
theorem test_hyp_LiftConfiguration_write : ldrHolds liftOn 0x30 0 = false ∧ (liftSlice liftOn 0).opn = false ∧ cfgClash 0x00200003 = false ∧
    cfgClash 3 = true ∧ (0x00200003#32).getLsbD 0 = true ∧ (liftSlice liftOn 0).enabled 0 = true ∧
    (liftSlice liftOn 0).bank 0 = bits (0x00200003#32).toNat 16 4 ∧ (liftSlice liftOn 0).bank 1 ≠ bits (0x00200003#32).toNat 20 4 ∧
    ldrHolds liftHeld 0x30 0 = true := by decide +kernel
theorem test_hyp_LiftConfiguration_window : (liftSlice liftOn 0).enabled 1 = true ∧ ((liftSlice liftOn 0).win 1).loaded = false ∧
    (bank liftOn ((liftSlice liftOn 0).bank 1)).ready = true ∧ (bank liftOn ((liftSlice liftOn 0).bank 1)).state ≠ .switching := by
  decide +kernel
def lifting : State := nx (exec (.liftWindowLoad 0 1) (nx (exec (.liftWindowLoad 0 0) liftOn)))
/-- A beat of two furrows of 16 UNSCALED codes of bank 0, and one of UE5M3. -/
def beatOf (fmt : Nat) (last : Bool) : CodeBeat := ⟨(List.range 64).map (fun i => BitVec.ofNat 8 (i * 7)), 0, 2, true, ⟨fmt⟩, 5, last, false⟩
theorem test_hyp_LiftBeats_code : (liftSlice lifting 0).ready = true ∧ (liftSlice lifting 0).em = none ∧ (liftSlice lifting 0).beats = [] ∧
    (liftSlice lifting 0).part = Partial.empty ∧ (∀ y ∈ (liftSlice lifting 0).wins, y.next = none) ∧
    (liftSlice lifting 0).winOf (beatOf 0 true).fmt.bank = some 0 ∧ ((liftSlice lifting 0).win 0).loaded = true ∧
    badFormat (beatOf 0 true).fmt = false ∧ (beatOf 0 true).fmt.mode = .unscaled ∧ (beatOf 0 true).nfur ≤ 64 / (beatOf 0 true).fmt.furrow ∧
    linesHeld (liftSlice lifting 0) < 2 := by decide +kernel
theorem test_hyp_LiftBeats_output : (liftSlice (nx (exec (.liftCodeBeat 0 (beatOf 0 true)) lifting)) 0).out ≠ [] := by decide +kernel
def lineless : State := nx (exec (.liftCodeBeat 0 (beatOf 0x400 false)) lifting)
theorem test_hyp_LiftBeats_timeout : (liftSlice lineless 0).part.waitFrom.isSome = true ∧ (liftSlice lineless 0).em.isSome = true ∧
    (liftSlice lineless 0).lines = [] ∧ (liftSlice lineless 0).lost = false ∧ (liftSlice booted 0).ready = false := by decide +kernel
theorem test_hyp_LiftBeats_full : 4 ≤ (liftSlice (modSlice 0 (fun x => { x with beats := List.replicate 4 default }) lifting) 0).beats.length ∧
    2 ≤ linesHeld (liftSlice (modSlice 0 (fun x => { x with lines := List.replicate 2 default }) lifting) 0) := by decide +kernel

/-! ### Link ports -/

/-- Link port 0 out of reset, bank 0 with E2M1 live, session 3 configured in a mode. -/
def linkOn (mode : Nat) (deliv : Bool) : State := modSess 0 3 (fun x => { x with
  cfg := BitVec.ofNat 32 (mode * 2 ^ 30 + b2n deliv * 2 ^ 28 + 2), fmt := BitVec.ofNat 32 (4 * 2 ^ 16 + 0x400), elems := 40, dcols := 40
  tag := 0x00070009 }) (modLnk 0 (fun l => { l with inReset := false })
  (modBank 0 (fun b => { b with side0 := e2m1, liveValid := true }) booted))
theorem test_hyp_LinkSessions_arm : sessBuilt (linkOn 0 false) 0 3 = true ∧ 3 < (linkPort (linkOn 0 false) 0).sessions.length ∧
    (session (linkOn 0 false) 0 3).state = .idle ∧ armError (linkOn 0 false) 0 3 = 0 ∧ (session (linkOn 0 false) 0 3).wide = false ∧
    armError booted 0 3 ≠ 0 ∧ armError (linkOn 1 true) 0 3 = 0 ∧
    (session (nx (exec (.registerWrite 0x0511C4 0x10040400) (linkOn 0 false))) 0 3).fmt &&& 0xF0000000 ≠ 0 := by decide +kernel
/-- 11_link_codec.md, R305: a reserved bit refuses the ARM with 0x1. -/
theorem test_arm_reserved :
    (session (nx (exec (.lnkArm 0 3) (nx (exec (.registerWrite 0x0511C4 0x10040400) (linkOn 0 false))))) 0 3).armErr = 1 ∧
    (session (nx (exec (.lnkArm 0 3) (nx (exec (.registerWrite 0x0511C4 0x00040400) (linkOn 0 false))))) 0 3).state = .armed := by
  decide +kernel
def sendOn : State := nx (exec (.lnkArm 0 3) (linkOn 0 false))
def redOn : State := nx (exec (.lnkArm 0 3) (linkOn 1 true))
theorem test_hyp_LinkSessions_disarm : (session sendOn 0 3).state = .armed ∧ (session sendOn 0 3).mode = 0 ∧
    (session redOn 0 3).state = .armed ∧ (session redOn 0 3).mode ≠ 0 ∧ (session redOn 0 3).rxNext = 0 ∧ (session redOn 0 3).loc = [] ∧
    (session redOn 0 3).rxq = [] := by decide +kernel
def endingS : State := nx (exec (.lnkDisarm 0 3) sendOn)
theorem test_hyp_LinkSessions_idle : (session endingS 0 3).state = .ending ∧ (session endingS 0 3).dq = [] ∧
    (∀ l ∈ endingS.lnk, ∀ f ∈ l.txq, ¬ (f.port = 0 ∧ f.session = 3)) := by decide +kernel
def withTile (n : Nat) (s : State) : State := modLnk 0 (fun l => { l with tileIn := [⟨3, List.replicate n 1⟩] }) s
theorem test_hyp_LinkFrames_local : (linkPort (withTile 32 sendOn) 0).tileIn = [⟨3, List.replicate 32 1⟩] ∧
    (session sendOn 0 3).loc.length + (chunkVals (session sendOn 0 3) (List.replicate 32 1)).length <
      (session sendOn 0 3).furElems (session sendOn 0 3).doneF ∧ (session booted 0 3).state ≠ .armed := by decide +kernel
def framed : State := nx (exec (.lnkLocalElements 0) (withTile 200 sendOn))
theorem test_hyp_LinkFrames_transmit : (nextPlace (linkPort framed 0).lastServed (txPlaces framed 0)).isSome = true ∧
    (linkPort framed 0).inReset = false ∧ (linkPort framed 0).lost = false ∧ (linkPort framed 0).txq.length = 1 ∧
    ((linkPort framed 0).txq.all (fun f => decide (f.port < framed.lnk.length) && decide (f.session < 16))) = true := by decide +kernel
def frame0 (cbsum : Word) : List Byte := match (linkPort framed 0).txq with
  | f :: _ => frameBytes { f with tag := 7, cbsum := cbsum } 0
  | [] => []
theorem test_hyp_LinkFrames_unknown : 32 ≤ (frame0 0).length ∧ byteAt (frame0 0) 0 = 5 ∧ byteAt (frame0 0) 1 = 0 ∧ byteAt (frame0 0) 19 ≤ 3 ∧
    fld (frame0 0) 28 4 = crc32c ((frame0 0).take 28 ++ (frame0 0).drop 32) ∧ sessOf (linkPort sendOn 0) (fld (frame0 0) 2 2) = none ∧
    rxHeld sendOn 0 = false := by decide +kernel
theorem test_hyp_LinkFrames_held :
    rxHeld (nx (exec (.lnkFrameReceive 0 (frame0 (session redOn 0 3).cbsum) false none) redOn)) 0 = true := by decide +kernel
def awaitingFrame : State := modSess 0 3 (fun x => { x with rxNext := 1 }) redOn
theorem test_hyp_LinkFrames_timeout : (session awaitingFrame 0 3).receives = true ∧ (session awaitingFrame 0 3).mode = 1 ∧
    (session awaitingFrame 0 3).loc = [] ∧ (session awaitingFrame 0 3).rxq = [] ∧
    (session awaitingFrame 0 3).rxNext < (session awaitingFrame 0 3).tileFurrows ∧
    0 < (session awaitingFrame 0 3).furElems (session awaitingFrame 0 3).doneF ∧ tileOpen (session redOn 0 3) = false := by decide +kernel
theorem test_hyp_LinkPorts_port : lnkBuilt redOn 0 = true ∧ (linkPort redOn 0).inReset = false ∧ (linkPort redOn 0).lost = false ∧
    (∀ x ∈ (linkPort redOn 0).sessions, x.rxq = [] ∧ x.loc = [] ∧ x.rxNext = 0) ∧
    (∀ x ∈ (linkPort (linkOn 0 false) 0).sessions, x.state = .idle) ∧ (linkPort booted 0).inReset = true := by decide +kernel
theorem test_hyp_LinkPorts_exchange : (0x102#12).toNat % 4 ≠ 0 ∧ booted.exch.buf = [] ∧
    (modExch (fun e => { e with buf := [default] }) booted).exch.buf ≠ [] ∧ (0xFFFFFFFF#32).getLsbD 31 = true ∧
    ({ booted with dieIndex := 3, dieCountM1 := 1 } : State).dieCountM1.toNat < 3 ∧ booted.exch.refLogged = false := by decide +kernel

/-! ### Registers, codes and guarded words -/

theorem test_hyp_RegisterWrites_answer : (0x010005#22).toNat % 4 ≠ 0 ∧ regAt booted (0x00FFFC#22).toNat = .reserved ∧
    (region parked 0).parkAck = true ∧ 0x100000 ≤ (0x100000#22).toNat := by decide +kernel
theorem test_hyp_RegisterWrites_context : 7 < booted.build.contexts ∧ (0x0111C4#22).toNat = 0x011004 + 0x40 * 7 ∧
    ctxBuilt booted 7 = true ∧ (ctxOf booted 7).state = .disabled ∧ (ctxOf entering 0).state ≠ .disabled := by decide +kernel
theorem test_hyp_RegisterWrites_recipe : (0x039FFC#22).toNat = 0x038000 + 0x20 * 255 + 4 * 7 ∧ booted.health.wedgedRecipes = false ∧
    ldrHolds booted 0x11 255 = false ∧ (modHealth (fun h => { h with wedgedRecipes := true }) booted).health.wedgedRecipes = true := by
  decide +kernel
theorem test_hyp_StoredCodes : (∀ c ∈ [5, 0, 3, 7, 1, 2, 6, 4], c < 2 ^ 3) ∧ [5, 0, 3, 7, 1, 2, 6, 4].length * 3 % 8 = 0 := by decide
theorem test_hyp_GuardedWords : word1.length = 16 ∧ (15 : Nat) < 16 ∧ (0x40 : BitVec 8) ≠ 0 ∧ (0 : BitVec 16) ≠ g16Guard word1 := by
  decide +kernel

/-! ### Further clauses of the statements -/

/-- All regions ready: the test of the control island is the last one. -/
def lastTest (table : List Section) : State := modLoader (fun l => { l with table := table, res := table.map (fun _ => 2) })
  { testing with regions := testing.regions.map (fun x => { x with ready := true }) }
theorem test_hyp_SelfTestsEnd_last : (lastTest []).loader.read = .none ∧ (lastTest []).loader.applying = [] ∧
    (lastTest []).verify.presented = none ∧ (∀ x ∈ (lastTest []).regions, x.ready = true) ∧
    (List.range (lastTest []).loader.table.length).filter (fun k => (lastTest []).loader.res.getD k 0 == 2) = [] := by decide +kernel
theorem test_hyp_SelfTestsEnd_sections : (List.range (lastTest [⟨sect⟩]).loader.table.length).filter
      (fun k => (lastTest [⟨sect⟩]).loader.res.getD k 0 == 2) = [0] ∧
    knownType (Section.type ⟨sect⟩) = true ∧ entryBad ⟨sect⟩ = false ∧ offsetBad 1 ⟨sect⟩ = false ∧
    dupOpen (lastTest [⟨sect⟩]).loader 0 ⟨sect⟩ = false ∧ entryDup (lastTest [⟨sect⟩]).loader 0 ⟨sect⟩ = false ∧
    Section.length ⟨sect⟩ ≠ 0 := by decide +kernel
theorem test_hyp_SelfTestsEnd_headland : ((region booted 0).phys[2]?).map (·.retired) = some false ∧
    firstIdx (fun x : Pos => !x.vacant && x.phys == 2) (region booted 0).pos = some 2 ∧ (region booted 0).spareFree = true := by
  decide +kernel

/-- A context that a failure stopped; and one that stalled. -/
def stoppedQ (quiet : Bool) : State := cx (fun x => { x with state := .stopped, quiet := quiet, graphs := [graph1 [task1]] })
theorem test_hyp_ContextDisableCancel_stopped : (ctxOf (stoppedQ true) 0).state = .stopped ∧ (ctxOf (stoppedQ true) 0).quiet = true ∧
    (ctxOf (stoppedQ false) 0).quiet = false ∧ (stoppedQ true).swaths = [] ∧ (ctxOf (stoppedQ true) 0).graphs ≠ [] ∧
    (ctxOf draining 0).state ≠ .enabled ∧ (ctxOf draining 0).state ≠ .stopped ∧ (ctxOf draining 0).state ≠ .disabled ∧
    R.loader.selftestDone = false := by decide +kernel
/-- A T5 with forty contexts, of which context 35 drains. -/
def draining35 : State := modCtx 35 (fun x => { x with state := .draining }) { booted with ctxs := List.replicate 40 Ctx.reset }
/-- Context 0 drains with a graph of an emitted node, a task of which no swath has been dispatched and one that waits; a stopped one that
leaves; and one whose completed node has not been emitted. -/
def drainingG : State := cx (fun x => { x with state := .draining, graphs := [{
  graph1 [node1 .completed (desc1 1 1 4 0xFFFF), taskN 100 0xFFFF (taskA .ready false), task1] with emitted := 1 }] })
def leaving0 : State := cx (fun x => { x with state := .stopped, leaving := true })
theorem test_hyp_ContextDrained_graphs : (ctxOf drainingG 0).state = .draining ∧ (ctxOf drainingG 0).emit = .idle ∧
    (ctxOf drainingG 0).accept = .idle ∧ (ctxOf drainingG 0).load = .idle ∧ (ctxOf drainingG 0).fold = none ∧ drainingG.swaths = [] ∧
    (∀ g ∈ (ctxOf drainingG 0).graphs, g.refused = false ∧ ∀ n ∈ g.nodes.drop g.emitted, n.stat ≠ .completed) ∧
    (∀ g ∈ (ctxOf drainingG 0).graphs, ∀ n ∈ g.nodes, n.stat = .dispatched → n.task.any (fun t => !t.started) = true) ∧
    (ctxOf drainingG 0).cancelling = false ∧ (ctxOf leaving0 0).state = .stopped ∧ (ctxOf leaving0 0).leaving = true ∧
    (ctxOf leaving0 0).graphs = [] ∧ (ctxOf leaving0 0).emit = .idle := by decide +kernel
/-- 09_work_graphs.md, R261: the emitted nodes are a prefix of node order, and none is partly run. -/
theorem test_drained_graphs : let t := nx (exec (.contextDrained 0) drainingG)
    (ctxOf t 0).state = .disabled ∧ (ctxOf t 0).graphs.map (fun g => g.nodes.map (fun n => (n.stat, n.task.isSome))) =
      [[(.completed, false), (.waiting, false), (.waiting, false)]] ∧
    (ctxOf (nx (exec (.contextDrained 0) leaving0)) 0).state = .disabled := by decide +kernel
theorem test_hyp_ContextDrained_high : (ctxOf draining35 35).state = .draining ∧ (ctxOf draining35 35).emit = .idle ∧
    (ctxOf draining35 35).accept = .idle ∧ (ctxOf draining35 35).load = .idle ∧ (ctxOf draining35 35).graphs = [] ∧
    (ctxOf draining35 35).fold = none ∧ draining35.swaths = [] := by decide +kernel

/-- Bank 0 in VALID with an emission open on its window, bank 1 with a loaded window, and windows of a slice in reset. -/
def liftSwitch : State := modSlice 1 (fun x => { x with cfg := 0x00000001, wins := modAt x.wins 0 (fun w => { w with loaded := true }) })
  (modBank 1 (fun b => { b with side1 := e4m3, state := .valid }) (modBank 0 (fun b => { b with side1 := e4m3, state := .valid })
    (nx (exec (.liftCodeBeat 0 (beatOf 0 false)) lifting))))
theorem test_hyp_CodebookSwitch_slices : bankHeld liftSwitch 0 = false ∧ (bank liftSwitch 0).state = .valid ∧
    (liftSlice liftSwitch 0).winOf 0 = some 0 ∧ ((liftSlice liftSwitch 0).win 0).loaded = true ∧
    ((liftSlice liftSwitch 0).em).map (fun e => (e.refused, e.fmt.bank)) = some (false, 0) ∧ (liftSlice liftSwitch 0).ready = true ∧
    (bank liftSwitch 1).state = .valid ∧ (liftSlice liftSwitch 0).winOf 1 = some 1 ∧
    (liftSlice liftSwitch 1).winOf 0 = some 0 ∧ (liftSlice liftSwitch 1).inReset = true := by decide +kernel

/-- Recipe 4, with a window of two values, unshared or shared; and a record of step 5 of stream 3 under it. -/
def rcp4 (shared : Bool) : List Word := [BitVec.ofNat 32 (2 * 2 ^ 20 + b2n shared * 2 ^ 27), 0, 0x40C00000, 0x3D800000, 0x42800000, 0x3F800000, 0, 0]
def rec5 : GRec := { (default : GRec) with step := 5, stream := 3, recipe := 4, amax := 0x40490000, t := 0x3F800000 }
def slotF : Slot := { slot1 with recs := [rec5, { rec5 with step := 6 }] }
def withRcp (shared : Bool) (s : State) : State := { s with recipes := modAt s.recipes 4 (fun _ => rcp4 shared) }
def foldNow : State := withRcp false (modTrk (fun t => { t with slots := [slotF] }) (committing [{ newStream 3 with plan := ⟨3, [], [], true⟩ }]))
theorem test_hyp_CommitHeader_fold : (ctxOf foldNow 0).fold.isSome = true ∧ (foldStream foldNow 0 3).isSome = true ∧
    slotF.recs.filter (fun r => r.step == 5 && r.tracked) = [rec5] ∧ slotF.entry.valid = false ∧ (recipeOf foldNow 4).valid = true ∧
    foldNow.health.wedgedRecipes = false ∧ (ctxOf foldNow 0).oplan = 0 ∧ (recipeOf foldNow 4).shared = false := by decide +kernel
/-- A plan of four channels with its list at 0x2000, and the stream of a commit that has read it. -/
def planRaw : List Byte := zeros 6 ++ [0x80, 0] ++ leBytes 2 1 ++ leBytes 2 0 ++ leBytes 2 3 ++ [4, 2] ++ zeros 5 ++ [1] ++ zeros 10 ++ leBytes 8 0x2000 ++
  leBytes 8 0x3000 ++ zeros 16
def planF : Plan := ⟨3, planRaw, [], true⟩
def cstrF (shared : Bool) (ph : CommitPh) : CommitStream := { newStream 3 with
  ph := ph, plan := planF, recs := [rec5], rcpIdx := 4, rcp := rcp4 shared, own := 0x4049, new := ⟨5, 4, true, 1, 0x3F800000, 0, [0x4049], 0, 0, 0, 0, 0⟩ }
def commitJob (shared wr : Bool) (ph : CommitPh) (k : JobKind) : State := { withReq (burst (.ctl 9) wr) { jobA wr k with left := 1, buf := List.replicate 16 none } booted with
  ctxs := (modCtx 0 (fun x => { x with oplanLo := 0x800 }) (committing [cstrF shared ph])).ctxs, trk := { booted.trk with slots := [slotF], fbReqs := [⟨0, 3, true⟩] } }
def chv4 : List GWord := List.replicate 16 (guarded ([0x40, 0x3F, 0x80, 0x3F, 0x80, 0x47, 0x80, 0x3F] ++ zeros 8))
theorem test_hyp_CommitHeader_vector : let s := commitJob false false .vector (.cmVec 0 3)
    (reqOf s 0 3 false).map (·.burst.owner) = some (.ctl 9) ∧ (jobOf s 9).map (·.left) = some 1 ∧ (ctxOf s 0).fold.isSome = true ∧
    (foldStream s 0 3).isSome = true ∧ (takeBeat chv4 0 16).corrected = [] ∧ (takeBeat chv4 0 16).bad = [] ∧
    (sound (patch (List.replicate 16 none) 0 (takeBeat chv4 0 16).bytes)).isSome = true := by decide +kernel
theorem test_hyp_CommitHeader_acks : (jobOf (commitJob true true .zeroWr (.cmZero 0 3)) 9).map (·.kind) = some (.cmZero 0 3) ∧
    (Recipe.mk (cstrF true .zeroWr).rcp).shared = true ∧ (Recipe.mk (cstrF false .zeroWr).rcp).shared = false ∧ slotF.early = none ∧
    slotOf (commitJob false true .entryWr (.cmEntry 0 3)) 0 3 = some slotF ∧ slotF.ph = .ready ∧
    (reqOf (commitJob false true .planWr (.cmPlanWr 0 3)) 0 3 true).isSome = true := by decide +kernel

/-- The task of `taskNew` with its program not yet read; of a step that has been committed; with no slot at hand; and with rows to run again. -/
def taskUnread : State := disp (taskN 100 0xFFFF { taskA .ready false with prog := [] })
def taskOld : State := modCtx 0 (fun x => { x with sctStep := 1 }) taskNew
def taskAway : State := modTrk (fun t => { t with slots := [] }) taskNew
def taskAgain : Task := { taskA .run true with reruns := [⟨20, 10, false, []⟩], next := 100 }
def taskRerun : State := disp (taskN 100 0xFFFF taskAgain)
theorem test_hyp_SwathPlaced_unread : offered taskUnread 0 3 = some ⟨0, 0, 0⟩ ∧
    (({ taskA .ready false with prog := [] } : Task).known (taskN 100 0xFFFF { taskA .ready false with prog := [] })) = false ∧
    yieldSlice taskUnread = taskUnread ∧ taskUnread.sched.sliced = false ∧
    (ctxOf taskUnread 0).sctStep.toNat < (taskN 100 0xFFFF (taskA .ready false)).step := by decide +kernel
theorem test_hyp_SwathPlaced_committed : offered taskOld 0 3 = some ⟨0, 0, 0⟩ ∧
    ¬ (ctxOf taskOld 0).sctStep.toNat < (taskN 100 5 (taskA .ready false)).step ∧ (taskN 100 5 (taskA .ready false)).stat = .dispatched ∧
    (∀ b ∈ taskOld.banks, b.node ≠ some ⟨0, 0, 0⟩ ∧ ⟨0, 0, 0⟩ ∉ b.waits) := by decide +kernel
theorem test_hyp_SwathPlaced_away : (taskA .ready false).ph = .ready ∧ (taskA .ready false).known (taskN 100 5 (taskA .ready false)) = true ∧
    (slotReady taskAway 0 5).isSome = false ∧ 5 ∈ slotStreams (taskN 100 5 (taskA .ready false)) (taskA .ready false).ops ⟨(taskA .ready false).prog⟩ := by
  decide +kernel
theorem test_hyp_SwathPlaced_rerun : offered taskRerun 0 3 = some ⟨0, 0, 0⟩ ∧ taskAgain.known (taskN 100 0xFFFF taskAgain) = true ∧
    taskAgain.started = true ∧ taskAgain.reruns = [⟨20, 10, false, []⟩] := by decide +kernel
/-- Context 0 holds the slice, and context 1 of higher PRIO has a ready swath. -/
def outranked : State :=
  let x := { ctxOf taskRun 0 with cfg := 0x01000000 }
  { modCtx 1 (fun _ => x) taskRun with sched := { taskRun.sched with sliced := true, holder := some 0 } }
theorem test_hyp_SwathPlaced_yield : offered (yieldSlice outranked) 0 3 = some ⟨1, 0, 0⟩ ∧ (yieldSlice outranked).sched.holder = some 1 := by
  decide +kernel

/-- A task between its passes whose cold destinations have a recipe with a fixed zero point. -/
def rcpZ : List Word := [BitVec.ofNat 32 (2 * 2 ^ 20 + 2 ^ 28), 0, 0x40C00000, 0x3D800000, 0x42800000, 0x3F800000, 0x3F000000, 0]
def foldedZ : Task := { taskA .folded true with
  final := false
  scales := [⟨0x3F800000, 0x3F000000, .twoPass, false, rcpZ⟩, ⟨0x3F800000, 0x3F000000, .twoPass, false, rcpZ⟩, default, default]
  stats := [{ Stats.none with xmax := some 0x40A00000, xmin := some 0xC0000000 }, Stats.none, Stats.none, Stats.none] }
theorem test_hyp_TaskEnds_span : taskOf (disp (taskN 100 0xFFFF foldedZ)) ⟨0, 0, 0⟩ = some foldedZ ∧
    (foldedZ.scales.map (fun x => ((Recipe.mk x.rcp).zpMode, x.cold == .twoPass))).take 2 = [(1, true), (1, true)] ∧
    (foldedZ.stats.map (fun x => (x.xmax.isSome, x.xmin.isSome))).take 2 = [(true, true), (false, false)] := by decide +kernel

/-- A read of a core; a read, a fetch and a write of a DMA channel; and words that cannot be corrected. -/
def coreReading : State := withReq (burst (.core 0 2 (posOf booted 0 2).epoch 2 9) false) (jobA false (.swathRd 4)) (reporting 30 true)
def dmaOut (wr : Bool) (k : FlightKind) : State := modPort 0 (fun p => { p with out := [⟨3, burst (.dma 0 1 7) wr⟩] })
  (modChan 0 1 (fun c => { c with flights := [{ (default : Flight) with id := 7, kind := k, block := c.block, len := 16, width := 4 }] }) dmaRun)
def badBeat : List GWord := List.replicate 16 ⟨zeros 16, 0xFFFF⟩
theorem test_hyp_PortAnswers_bad : (takeBeat badBeat (0x1000 % 256) 16).bad ≠ [] ∧ sound (takeBeat badBeat (0x1000 % 256) 16).bytes = none ∧
    reading.health.retry ≤ { burst (.ctl 9) false with tries := 9 }.tries ∧ (jobA false (.enHeader 0)).fail = none := by decide +kernel
theorem test_hyp_PortAnswers_read : (reqOf coreReading 0 3 false).isSome = true ∧ epochHolds coreReading 0 2 (posOf booted 0 2).epoch = true ∧
    jobOf coreReading 9 = some (jobA false (.swathRd 4)) ∧ epochHolds coreReading 0 2 ((posOf booted 0 2).epoch + 1) = false ∧
    (taskOf writing ⟨0, 0, 0⟩).map (·.id) = some 1 := by decide +kernel
theorem test_hyp_PortAnswers_dma : (reqOf (dmaOut false .read) 0 3 false).map (·.burst.owner) = some (.dma 0 1 7) ∧
    ((chan (dmaOut false .read) 0 1).flights.find? (fun y => y.id == 7)).map (fun f => (f.kind, f.block)) =
      some (.read, (chan (dmaOut false .read) 0 1).block) ∧ (chan (dmaOut false .read) 0 1).state = .active ∧
    (sound (takeBeat beat0 (0x1000 % 256) 16).bytes).isSome = true ∧
    ((chan (dmaOut true .write) 0 1).flights.find? (fun y => y.id == 7)).map (·.kind) = some .write ∧
    (reqOf (dmaOut true .write) 0 3 true).isSome = true ∧
    ((chan (dmaOut false .fetch) 0 1).flights.find? (fun y => y.id == 7)).map (·.kind) = some .fetch := by decide +kernel

/-- A DATA frame of some furrows from a first one, of zero codes with scale bytes of one half, under the session's codebook. -/
def dataFrame (x : Session) (tile first nfur : Nat) : List Byte := frameBytes
  ⟨0, 3, 0, 7, first, tile, nfur, 2, false, false, 0x3F800000, x.cbsum, List.replicate 8 0x70 ++ List.replicate (8 * nfur) 0x21⟩ 0
def redHalf (n : Nat) : State := modSess 0 3 (fun x => { x with loc := List.replicate n 0x3F800000 }) redOn
def relayOn : State := nx (exec (.lnkArm 0 3) (modSess 0 3 (fun x => { x with cfg := 0xA0000000 }) (linkOn 0 false)))
theorem test_hyp_LinkFrames_data : let b := dataFrame (session redOn 0 3) 0 1 2
    32 ≤ b.length ∧ byteAt b 0 = 5 ∧ byteAt b 19 ≤ 3 ∧ fld b 28 4 = crc32c (b.take 28 ++ b.drop 32) ∧ byteAt b 1 = 0 ∧
    sessOf (linkPort redOn 0) (parseFrame b).tag = some 3 ∧ (session redOn 0 3).mode = 1 ∧ (session redOn 0 3).loc = [] ∧
    b.length = 32 + payloadLen (parseFrame b).wide (session redOn 0 3).fl (session redOn 0 3).snap.width (parseFrame b).nfur ∧
    (parseFrame b).wide = (session redOn 0 3).wide ∧ (parseFrame b).first + (parseFrame b).nfur ≤ (session redOn 0 3).tileFurrows ∧
    (session redOn 0 3).rxNext < (session redOn 0 3).tileFurrows ∧ rxHeld redOn 0 = false ∧ (session redOn 0 3).rxq = [] ∧
    0 < (session redOn 0 3).furElems (session redOn 0 3).doneF ∧ (parseFrame b).tile = (session redOn 0 3).rxTile := by decide +kernel
theorem test_hyp_LinkFrames_reduce : (session (redHalf 16) 0 3).loc.length = (session (redHalf 16) 0 3).furElems (session (redHalf 16) 0 3).doneF ∧
    (session (redHalf 16) 0 3).locLost = [] ∧ (session (redHalf 16) 0 3).fwd = false ∧ (session (redHalf 16) 0 3).deliv = true ∧ (session (redHalf 16) 0 3).rxq = [] ∧
    (parseFrame (dataFrame (session redOn 0 3) 0 0 1)).nfur = 1 := by decide +kernel
theorem test_hyp_LinkFrames_relay : (session relayOn 0 3).state = .armed ∧ (session relayOn 0 3).mode = 2 ∧ (session relayOn 0 3).fwd = true ∧
    (session relayOn 0 3).deliv = false ∧ (linkPort relayOn (session relayOn 0 3).fwdPort).inReset = false ∧
    (linkPort relayOn (session relayOn 0 3).fwdPort).lost = false ∧ rxHeld relayOn 0 = false ∧
    sessOf (linkPort relayOn 0) (parseFrame (dataFrame (session relayOn 0 3) 0 0 1)).tag = some 3 := by decide +kernel
/-- Level 0 on port 0 with the tag 9, this die at a place of a chain, and context 0 as domain 5; and an AMAX frame of one entry. -/
def agrOn (pos last : Nat) : State := modExch (fun e => { e with cfg0 := 0x80000000, tag := 9 }) { modLnk 0 (fun l => { l with inReset := false }) booted with
  dieIndex := BitVec.ofNat 4 pos, dieCountM1 := BitVec.ofNat 4 last, lnkDom := modAt booted.lnkDom 0 (fun _ => 5) }
def agrKey : AgrKey := ⟨5, 3, 6, 0⟩
def amaxFrame (phase v : Nat) : List Byte := frameBytes ⟨0, 0, 1, 9, 0, 0, 1, 0, false, false, 0, 0, agrBytes ⟨agrKey, v, phase⟩⟩ 4
def agrOpened (pos last : Nat) : State := modExch (fun e => { e with opn := [⟨agrKey, 0x3F80, false⟩] }) (agrOn pos last)
theorem test_hyp_LinkFrames_amax : let b := amaxFrame 0 0x4000
    byteAt b 1 = 1 ∧ 32 ≤ b.length ∧ byteAt b 0 = 5 ∧ byteAt b 19 ≤ 3 ∧ fld b 28 4 = crc32c (b.take 28 ++ b.drop 32) ∧
    b.length = 32 + 16 * (parseFrame b).nfur ∧ (parseFrame b).nfur = 1 ∧ rxHeld (agrOn 1 2) 0 = false ∧ (agrOn 1 2).exch.rest = [] ∧
    (level (agrOn 1 2) 0).en = true ∧ (level (agrOn 1 2) 0).recvPort = 0 ∧ (level (agrOn 1 2) 0).tag = (parseFrame b).tag ∧
    (level (agrOn 1 2) 1).en = false ∧
    agrParse (parseFrame b).payload = ⟨agrKey, 0x4000, 0⟩ ∧ domainCtx (agrOn 1 2) 5 = some 0 ∧
    agrOpenOf (agrOn 1 2) agrKey = none ∧ (level (agrOn 1 2) 0).pos ≠ 0 := by decide +kernel
theorem test_hyp_LinkFrames_amax_open : (agrOpenOf (agrOpened 1 2) agrKey).map (·.sent) = some false ∧
    (level (agrOpened 1 2) 0).pos + 1 ≠ (level (agrOpened 1 2) 0).size ∧ (level (agrOpened 2 2) 0).pos + 1 = (level (agrOpened 2 2) 0).size ∧
    (level (agrOpened 2 2) 1).en = false ∧ (agrParse (parseFrame (amaxFrame 1 0x4000)).payload).phase = 1 ∧
    (level (agrOn 0 2) 0).pos = 0 := by decide +kernel
/-- 11_link_codec.md, R320: a distribute entry whose key is not open here is handed to the tracker and forwarded all the same. -/
theorem test_agr_unopened : let t := nx (exec (.lnkFrameReceive 0 (amaxFrame 1 0x4000) false none) (agrOn 0 2))
    t.exch.arrivals = [⟨0, 3, 6, 0x4000⟩] ∧ t.exch.tx = [⟨agrKey, 0x4000, 1⟩] ∧ t.exch.drop = false := by decide +kernel
theorem test_hyp_LinkFrames_lost : (linkPort (nx (exec (.lnkPartnerLost 0) redOn)) 0).lost = true ∧
    (linkPort booted 0).tileIn = [] := by decide +kernel
theorem test_hyp_LinkPorts_armed : ((linkPort sendOn 0).sessions[3]?).map (fun x => (x.state, x.mode)) = some (.armed, 0) ∧
    (linkPort sendOn 0).inReset = false := by decide +kernel

/-- A UE5M3 emission of bank 0 whose first beat waits for its line; lines of it, right, of another tag, and of an earlier range. -/
def lineOf (s : State) (first tag : Nat) : List Byte :=
  let l := leBytes 4 first ++ leBytes 2 tag ++ zeros 2 ++ List.replicate 56 0x70
  l.take 6 ++ leBytes 2 (lineCheck l 0 (b2n ((liftSlice s 0).win 0).sideNo)) ++ l.drop 8
def oneFur (b : CodeBeat) : CodeBeat := { b with nfur := 1 }
def lined (n : Nat) : State := nx (exec (.liftCodeBeat 0 { beatOf 0x400 false with nfur := n }) lifting)
/-- The emission goes on under the line it holds; it is UNSCALED and goes on; and it is refused. -/
def holding : State := nx (exec (.liftScaleLine 0 (lineOf (lined 2) 0 5) true false) (lined 2))
def going : State := nx (exec (.liftCodeBeat 0 (beatOf 0 false)) lifting)
def nextBeat (fidx nfur : Nat) : CodeBeat := { beatOf 0 true with fidx := fidx, nfur := nfur, opn := false }
theorem test_hyp_LiftBeats_open_scaled : (beatOf 0x400 false).fmt.mode ≠ .unscaled ∧ (beatOf 0x400 false).fmt.bank = 0 ∧
    badFormat (beatOf 0x400 false).fmt = false ∧ (liftSlice lifting 0).lines = [] ∧ badFormat (beatOf 0xC00 true).fmt = true ∧
    (liftSlice lifting 0).winOf (beatOf 0x9000 true).fmt.bank = none := by decide +kernel
theorem test_hyp_LiftBeats_line : let sl := liftSlice (lined 2) 0
    sl.ready = true ∧ sl.lines = [] ∧ sl.beats.map (·.beat) = [beatOf 0x400 false] ∧ sl.part.waitFrom.isSome = true ∧
    sl.part = { Partial.empty with waitFrom := sl.part.waitFrom, prev := sl.part.prev } ∧
    sl.em = some ⟨(beatOf 0x400 false).fmt, 5, false, false, 0, false, none⟩ ∧ (lineOf (lined 2) 0 5).length = 64 ∧
    sl.winOf (beatOf 0x400 false).fmt.bank = some 0 ∧ LiftLine.tag ⟨lineOf (lined 2) 0 5, true, false, 0⟩ = 5 ∧
    LiftLine.furrow ⟨lineOf (lined 2) 0 5, true, false, 0⟩ = 0 ∧
    lineCheck (lineOf (lined 2) 0 5) 0 (b2n (sl.win 0).sideNo) = fld (lineOf (lined 2) 0 5) 6 2 := by decide +kernel
theorem test_hyp_LiftBeats_goes_on : ((liftSlice going 0).em).map (fun e => (e.refused, e.endF, e.fmt.mode == .unscaled)) = some (false, 2, true) ∧
    (liftSlice going 0).beats = [] ∧ (liftSlice going 0).part = { Partial.empty with prev := (liftSlice going 0).part.prev } ∧
    (liftSlice going 0).ready = true ∧ ((liftSlice holding 0).em).map (fun e => (e.endF, e.cur.map (fun c => (c.first, c.bad)))) =
      some (2, some (0, false)) ∧ (liftSlice holding 0).beats = [] ∧
    (liftSlice holding 0).part = { Partial.empty with prev := (liftSlice holding 0).part.prev } ∧ (nextBeat 1 1).fidx < 2 := by decide +kernel

/-- A slice with a pending side of bank 0, the last consumer of its switch; and a line as the new side numbers it. -/
def pendOf (s : State) : State := modSlice 0 (fun x => { x with wins := modAt x.wins 0 (fun w => { w with next := some e4m3 }) })
  (modBank 0 (fun b => { b with side1 := e4m3, state := .switching, flip := [.slice 0] }) s)
def lineNew (first tag : Nat) : List Byte :=
  let l := leBytes 4 first ++ leBytes 2 tag ++ zeros 2 ++ List.replicate 56 0x70
  l.take 6 ++ leBytes 2 (lineCheck l 0 1) ++ l.drop 8
theorem test_hyp_CodebookSwitch_flip_none : let sl := liftSlice (pendOf going) 0
    sl.ready = true ∧ sl.winOf 0 = some 0 ∧ (sl.win 0).next = some e4m3 ∧ sl.em.map (fun e => (e.refused, e.endF, e.fmt)) = some (false, 2, ⟨0⟩) ∧
    (nextBeat 2 1).ue = false ∧ (nextBeat 2 1).opn = false ∧ FmtWord.scaleCode ⟨0⟩ = 0 ∧ sl.beats = [] ∧
    sl.part = { Partial.empty with prev := sl.part.prev } ∧ (bank (pendOf going) 0).flip = [.slice 0] := by decide +kernel
theorem test_hyp_CodebookSwitch_flip_line : let sl := liftSlice (pendOf (lined 2)) 0
    sl.ready = true ∧ sl.winOf 0 = some 0 ∧ (sl.win 0).next = some e4m3 ∧ sl.lines = [] ∧ sl.beats.map (·.beat) = [beatOf 0x400 false] ∧
    sl.em = some ⟨(beatOf 0x400 false).fmt, 5, false, false, 0, false, none⟩ ∧ (lineNew 0 5).length = 64 ∧
    LiftLine.tag ⟨lineNew 0 5, true, false, 0⟩ = 5 ∧ LiftLine.furrow ⟨lineNew 0 5, true, false, 0⟩ = 0 ∧
    lineCheck (lineNew 0 5) 0 (b2n (!(sl.win 0).sideNo)) = fld (lineNew 0 5) 6 2 ∧
    sl.part = { Partial.empty with waitFrom := sl.part.waitFrom, prev := sl.part.prev } := by decide +kernel
/-- 07_lift_slices.md, R218: the pending side comes into use, and its switch ends. -/
theorem test_flip_none : let t := nx (exec (.liftCodeBeat 0 (nextBeat 2 1)) (pendOf going))
    ((liftSlice t 0).win 0).side = e4m3 ∧ (bank t 0).state = .opn ∧ (bank t 0).live = true := by decide +kernel
theorem test_flip_line : let t := nx (exec (.liftScaleLine 0 (lineNew 0 5) true false) (pendOf (lined 2)))
    ((liftSlice t 0).win 0).side = e4m3 ∧ (bank t 0).state = .opn ∧ (bank t 0).live = true := by decide +kernel

theorem test_hyp_RegisterWrites_ring : ctxBuilt booted 7 = true ∧ (0x004000 + 0x40 * 7 + 0x14 : Nat) = (0x0041D4#22).toNat ∧
    (ctxOf booted 7).state = .disabled ∧ (0x031000 + 0x40 * 7 + 0x24 : Nat) = (0x0311E4#22).toNat ∧
    (0x032000 + 0x40 * 7 + 0x04 : Nat) = (0x0321C4#22).toNat := by decide
theorem test_hyp_RegisterWrites_dma : (region dmaRdy 0).parkAck = false ∧ (0x100000 + 0x40000 * 0 + 0x10000 + 0x100 * 1 + 0x30 : Nat) = (0x110130#22).toNat ∧
    (0x110130#22).toNat < 0x300000 ∧ (chan dmaRdy 0 1).state = .idle ∧ (region dmaRdy 0).dma.own.getLsbD 1 = true ∧
    (region dmaRdy 0).dma.own.getLsbD 9 = false ∧ (chan dmaRun 0 1).state ≠ .idle ∧ 0 < dmaRdy.build.regions := by decide +kernel
theorem test_hyp_RegisterWrites_link : 0 < booted.build.linkPorts ∧ (0x050000 + 0x1000 * (0 + 1) + 0x100 + 0x40 * 3 + 0x04 : Nat) = (0x0511C4#22).toNat ∧
    (session (linkOn 0 false) 0 3).state = .idle ∧ (session sendOn 0 3).state ≠ .idle ∧
    (0x040000 + 0x30 : Nat) = (0x040030#22).toNat ∧ booted.rng.busy = false ∧ (nx (exec .rngTestGo booted)).rng.busy = true := by decide +kernel

/-- 06_fused_chains.md, R189: the rows that a SIDE stage of the first head of a chain gathers have that head's 96 columns, not COLS, 32. -/
def sideTask : Task := { taskA .run true with
  prog := [5] ++ zeros 127 ++ [1, 1, 0xF, 0xF, 0xF, 1] ++ zeros 10 ++ [0x11, 0, 0xF, 0xF, 0xF, 0] ++ zeros 10 ++
    [8, 0, 0xF, 0xF, 0, 4] ++ zeros 10 ++ [0xB, 0, 0xF, 0xF, 0, 0] ++ zeros 10 ++ [8, 0, 0xF, 0xF, 2, 0] ++ zeros 10 ++ zeros 176
  ops := zeros 104 ++ leBytes 4 96 ++ zeros 148, plans := [⟨0xFFFF, zeros 6 ++ [0x80, 0] ++ leBytes 2 2 ++ zeros 54, [7, 9], true⟩] }
def sideE : Env := { (default : Env) with node := taskN 16 0xFFFF sideTask, task := sideTask, rows := 16 }
theorem test_side_head : ((sideE.pieces []).filter (fun p => p.key == .grows 1)).map (fun p => p.segs) = [[(0, 2 * 96 * 4)]] ∧
    sideE.node.cols = 32 := by decide +kernel
/-- A task that stores to a side region of stream 7, 04_scale_tracking.md R145: it names the stream, though it needs no slot of it. -/
def sidexTask : Task := { taskA .run true with
  prog := [2] ++ zeros 127 ++ [1, 0, 0xF, 0xF, 0xF, 0] ++ zeros 10 ++ [9, 0, 0xF, 0xF, 1, 0] ++ zeros 10 ++ zeros 224
  ops := zeros 140 ++ [7, 0, 0, 0x30] ++ zeros 112 }
theorem test_names_sidex : (taskN 16 0xFFFF sidexTask).names = [7] ∧
    slotStreams (taskN 16 0xFFFF sidexTask) sidexTask.ops ⟨sidexTask.prog⟩ = [] ∧
    destStreams (taskN 16 0xFFFF sidexTask) [] ⟨sidexTask.prog⟩ = [] := by decide +kernel
/-- A swath of that task, of a context that is switched out, is about to report; slot 2 holds the stream, in region 0. -/
def parkReport (pk : Bool) : State := modRegion 0 (fun x => { x with parkReq := pk })
  (modTrk (fun t => { t with slots := [{ slot1 with stream := 7 }] })
    { disp (taskN 100 0xFFFF { sidexTask with next := 100, done := 30 }) with
      swaths := [swDone], sched := { booted.sched with sliced := true, holder := some 1 } })
theorem test_hyp_RegionParking_unpin : (region (parkReport true) 0).parkReq = true ∧ pinned (parkReport true) { slot1 with stream := 7 } = true ∧
    (parkReport true).trk.slots = [{ slot1 with stream := 7 }] ∧ (parkReport true).build.homeRegion 2 = 0 ∧
    (∀ x ∈ (parkReport false).regions, x.parkReq = false) ∧ (∀ x ∈ parkAsked.ctxs, x.fold = none) ∧
    (∀ w ∈ parked.swaths, w.ph ≠ .bandNext) ∧ (∀ x ∈ parked.ctxs, x.fold = none) := by decide +kernel
/-- 14_ports_and_integration.md, R380: the slot leaves its parking region as it unpins, and stays where the region is not to park. -/
theorem test_park_unpin : (nx (exec (.swathComplete 0 2 4) (parkReport true))).trk.slots = [] ∧
    (nx (exec (.swathComplete 0 2 4) (parkReport false))).trk.slots.length = 1 := by decide +kernel
/-- 11_link_codec.md, R321: a second collect entry is dropped, after its key has closed and while the first waits. -/
def agrTwice (s : State) : State :=
  nx (exec (.lnkFrameReceive 0 (amaxFrame 0 0x4000) false none) (nx (exec (.lnkFrameReceive 0 (amaxFrame 0 0x4000) false none) s)))
theorem test_agr_second : (agrTwice (agrOpened 2 2)).exch.drop = true ∧ (agrTwice (agrOpened 2 2)).exch.buf = [] ∧
    (agrTwice (agrOpened 2 2)).exch.arrivals = [⟨0, 3, 6, 0x4000⟩] ∧ (agrTwice (agrOn 1 2)).exch.drop = true ∧
    (agrTwice (agrOn 1 2)).exch.buf.length = 1 := by decide +kernel
theorem test_hyp_LinkFrames_amax_second : agrKey ∉ (agrOn 1 2).exch.collected ∧
    agrKey ∈ (nx (exec (.lnkFrameReceive 0 (amaxFrame 0 0x4000) false none) (agrOn 1 2))).exch.collected ∧
    agrOpenOf (nx (exec (.lnkFrameReceive 0 (amaxFrame 0 0x4000) false none) (agrOn 1 2))) agrKey = none := by decide +kernel
/-- 09_work_graphs.md, R248 and R256: a DRILL to a record that is not CODED and names a stream, with a Z that is no zero point. -/
def uncodedTask : Task := { sidexTask with
  prog := [2] ++ zeros 127 ++ [1, 0, 0xF, 0xF, 0xF, 0] ++ zeros 10 ++ [8, 0, 0xF, 0xF, 1, 0] ++ zeros 10 ++ zeros 224
  ops := zeros 30 ++ [0x40] ++ zeros 109 ++ [7, 0, 0, 0x10] ++ leBytes 4 0 ++ leBytes 4 0x7F800000 ++ leBytes 4 32 ++ zeros 100 }
theorem test_cause_uncoded : progCauses (taskN 16 0xFFFF uncodedTask) uncodedTask.ops ⟨uncodedTask.prog⟩ 4 = [0x0D] := by decide +kernel
theorem test_hyp_FullReset_pins : inPin.rst ≠ .run ∧ inPin.wrapper.testEn = false ∧ inTest.wrapper.testEn = true ∧ inTest.wrapper.wir ≠ 1 := by
  decide
/-- 14_ports_and_integration.md, R382: cp_rdata is 0 outside the cycle of cp_ack. 13_bringup_and_image.md, R359: the read of the flash. -/
theorem test_pins_rdata : (t5Pins booted).map (·.cpRdata) = some 0 ∧
    flashRead (slotBase 1 + 64) 1028 = .xspiRead 0xEE 0x11 0x1000040 20 1028 := by decide +kernel
/-- A task of two columns whose second stage is a ROWREP with CLOSE over one slot, with channel 1 listed. -/
def replacing : Env := { (default : Env) with
  node := taskN 100 0xFFFF (taskA .run true), rows := 2
  task := { taskA .run true with
    plans := [⟨0xFFFF, zeros 64, [1], true⟩], ops := zeros 24 ++ leBytes 4 2 ++ zeros 228
    prog := [2] ++ zeros 127 ++ [1] ++ zeros 15 ++ [0x12, 0, 0, 0, 0, 1] ++ zeros 6 ++ leBytes 4 1 ++ zeros 224 } }
/-- 06_fused_chains.md, R177 and R189: a listed row takes the combined slots, but for an element that is poison. -/
theorem test_rowrep_keeps_poison :
    (repClose replacing 1 ((leBytes 4 0x3F800000 ++ leBytes 4 0x40000000).map some) [[0x3F800000, 0], [poison, 0]]).map (·.map Option.isSome) =
      [[true, true], [false, true]] := by decide +kernel
/-- 04_scale_tracking.md, R119, and 12_resilience.md, R333: a scale word that could not be read has neither a T nor a Z. -/
theorem test_sword_unread : let e : Env := { (default : Env) with task := { (taskA .run true) with swords := [(64, none), (80, some (0x3F800000, 0))] } }
    validScale (e.sword 64).1 = false ∧ zeroQ (e.sword 64).2 = none ∧ e.sword 80 = (0x3F800000, 0) := by decide +kernel
/-- 13_bringup_and_image.md, R358, and R400: the chip select while the loader reads and in reset; EXTEST drives the outputs. -/
theorem test_pins : (t5Pins R).map (·.xspiCsB) = some false ∧ (t5Pins booted).map (·.xspiCsB) = some true ∧
    (t5Pins inPin).map (·.xspiCsB) = some true ∧ t5Pins (nx (exec (.wsExtest [] []) inTest)) = none := by decide +kernel

end Sys2Proof.Tests
end

section
/-! PROOFS. The codes of a furrow as a bit stream (O59): the stream is the number that the codes spell in base 2^w, so its bytes and its
codes are the digits of one number in two bases. -/

namespace Sys2Proof.Machine

/-! ## Little-endian bytes -/

@[simp] theorem length_leBytes (n : Nat) : ∀ v : Nat, (leBytes n v).length = n := by
  induction n with
  | zero => exact fun _ => rfl
  | succ n ih => exact fun v => congrArg (· + 1) (ih (v / 256))

theorem leNat_leBytes (n : Nat) : ∀ v : Nat, leNat (leBytes n v) = v % 256 ^ n := by
  induction n with
  | zero => intro v; simp [leBytes, leNat, Nat.mod_one]
  | succ n ih =>
    intro v
    calc leNat (leBytes (n + 1) v)
        = v % 256 + 256 * (v / 256 % 256 ^ n) := by simp [leBytes, leNat, ih]
      _ = v % 256 ^ (n + 1) := by rw [Nat.pow_succ', Nat.mod_mul]

/-! ## The number that codes spell in base 2^w -/

theorem ofDigits_lt_pow_length {p : Nat} {l : List Nat} (hp : 0 < p) (hl : ∀ c ∈ l, c < p) : Nat.ofDigits p l < p ^ l.length := by
  have h := Nat.ofDigits_mod_pow_eq_ofDigits_take l.length hp l hl
  rw [List.take_length] at h
  exact h ▸ Nat.mod_lt _ (Nat.pow_pos hp)

theorem ofDigits_digit {p : Nat} {l : List Nat} (hp : 0 < p) (hl : ∀ c ∈ l, c < p) (j : Nat) (hj : j < l.length) :
    Nat.ofDigits p l / p ^ j % p = l[j] := by
  rw [Nat.ofDigits_div_pow_eq_ofDigits_drop j hp l hl, List.drop_eq_getElem_cons hj, Nat.ofDigits_cons, Nat.add_mul_mod_self_left,
    Nat.mod_eq_of_lt (hl _ (List.getElem_mem hj))]

/-! ## Packed codes (R62) -/

variable {w : Nat} {codes : List Nat}

theorem length_packCodes (w : Nat) (codes : List Nat) : (packCodes w codes).length = codes.length * w / 8 :=
  length_leBytes _ _

theorem stream_eq_ofDigits (hc : ∀ c ∈ codes, c < 2 ^ w) :
    codes.foldr (fun c n => c % 2 ^ w + n * 2 ^ w) 0 = Nat.ofDigits (2 ^ w) codes := by
  induction codes with
  | nil => rfl
  | cons c cs ih =>
    obtain ⟨hlt, hcs⟩ := List.forall_mem_cons.mp hc
    rw [List.foldr_cons, ih hcs, Nat.mod_eq_of_lt hlt, Nat.ofDigits_cons, Nat.mul_comm]

/-- The premise is that the codes fill whole bytes: otherwise the bits of the last byte that is not full are lost. -/
theorem leNat_packCodes (hc : ∀ c ∈ codes, c < 2 ^ w) (hbytes : codes.length * w % 8 = 0) :
    leNat (packCodes w codes) = Nat.ofDigits (2 ^ w) codes := by
  have hsize : 256 ^ (codes.length * w / 8) = (2 ^ w) ^ codes.length := by
    rw [show 256 = 2 ^ 8 from rfl, ← Nat.pow_mul, ← Nat.pow_mul, Nat.mul_div_cancel' (Nat.dvd_of_mod_eq_zero hbytes), Nat.mul_comm]
  rw [packCodes, leNat_leBytes, stream_eq_ofDigits hc, hsize,
    Nat.mod_eq_of_lt (ofDigits_lt_pow_length (Nat.two_pow_pos w) hc)]

theorem packCodes_code (hc : ∀ c ∈ codes, c < 2 ^ w) (hbytes : codes.length * w % 8 = 0) (j : Nat) (hj : j < codes.length) :
    leNat (packCodes w codes) / 2 ^ (w * j) % 2 ^ w = codes[j] := by
  rw [leNat_packCodes hc hbytes, Nat.pow_mul, ofDigits_digit (Nat.two_pow_pos w) hc j hj]

theorem unpackCodes_packCodes (hc : ∀ c ∈ codes, c < 2 ^ w) (hbytes : codes.length * w % 8 = 0) :
    unpackCodes w codes.length (packCodes w codes) = codes := by
  refine List.ext_getElem (by simp [unpackCodes]) fun j _ hj => ?_
  calc (unpackCodes w codes.length (packCodes w codes))[j]
      = leNat (packCodes w codes) / 2 ^ (w * j) % 2 ^ w := by simp [unpackCodes, bits, Nat.shiftRight_eq_div_pow]
    _ = codes[j] := packCodes_code hc hbytes j hj

end Sys2Proof.Machine

namespace Sys2Proof.Proofs
open Sys2Proof.Machine

/-- Settles O59: the bytes spell the number whose digits in base 2^w are the codes. -/
theorem storedCodes : Obligations.StoredCodes := by
  intro w codes hc hbytes
  exact ⟨length_packCodes w codes, packCodes_code hc hbytes, unpackCodes_packCodes hc hbytes⟩

end Sys2Proof.Proofs
end

section
/-! PROOFS. A write to a side of a codebook bank (O18): what `sideWrite` does to a bank that takes the write, and to one that drops it. -/

namespace Sys2Proof.Machine

/-! ## A bank and its sides -/

@[simp] theorem Bank.setSide_side_same (b : Bank) (one : Bool) (sd : Side) : (b.setSide one sd).side one = sd := by
  cases one <;> rfl

@[simp] theorem Bank.setSide_side_other (b : Bank) (one : Bool) (sd : Side) : (b.setSide one sd).side (!one) = b.side (!one) := by
  cases one <;> rfl

@[simp] theorem Bank.setSide_reject (b : Bank) (one : Bool) (sd : Side) : (b.setSide one sd).reject = b.reject := by
  cases one <;> rfl

@[simp] theorem Bank.setSide_live (b : Bank) (one : Bool) (sd : Side) : (b.setSide one sd).live = b.live := by
  cases one <;> rfl

@[simp] theorem bank_emit {o : Out} {s : State} {n : Nat} : bank (emit o s) n = bank s n := rfl

theorem bank_modBank_same {s : State} {n : Nat} {f : Bank → Bank} (h : n < s.banks.length) : bank (modBank n f s) n = f (bank s n) :=
  (bank_modBank n n f).trans (if_pos ⟨rfl, h⟩)

theorem bank_modBank_other {s : State} {n m : Nat} {f : Bank → Bank} (h : m ≠ n) : bank (modBank n f s) m = bank s m :=
  (bank_modBank n m f).trans (if_neg fun e => h e.1.symm)

/-! ## One write -/

/-- The side that an offset of a descriptor or of a table entry is in (R409). -/
def sideOfOffset (off : Nat) : Bool := off == 4 || 0x800 ≤ off

/-- A side with a word stored at an offset. -/
def Side.store (sd : Side) (off : Nat) (data : Word) : Side :=
  if off < 8 then { sd with desc := data &&& 0xFF3F } else { sd with tab := modAt sd.tab (off % 0x400 / 4) (fun _ => data) }

/-- A bank that has taken a write of a side: a bank in VALID or REJECTED is in OPEN again (R76). -/
def Bank.store (b : Bank) (off : Nat) (data : Word) : Bank :=
  let one := sideOfOffset off
  { b.setSide one ((b.side one).store off data) with
    state := if b.state == .valid || b.state == .rejected then .opn else b.state }

theorem sideOfOffset_eq_decide (off : Nat) : sideOfOffset off = decide (off = 4 ∨ 0x800 ≤ off) := by
  simp [sideOfOffset, Bool.beq_eq_decide_eq]

theorem Side.store_desc (sd : Side) {off : Nat} (data : Word) (h : off < 8) : sd.store off data = { sd with desc := data &&& 0xFF3F } :=
  if_pos h

theorem Side.store_tab (sd : Side) {off : Nat} (data : Word) (h : 0x400 ≤ off) :
    sd.store off data = { sd with tab := modAt sd.tab (off % 0x400 / 4) (fun _ => data) } :=
  if_neg (by omega)

section
variable (b : Bank) (off : Nat) (data : Word)

theorem Bank.store_side_same : (b.store off data).side (sideOfOffset off) = (b.side (sideOfOffset off)).store off data :=
  Bank.setSide_side_same _ _ _

theorem Bank.store_side_other : (b.store off data).side (!sideOfOffset off) = b.side (!sideOfOffset off) :=
  Bank.setSide_side_other _ _ _

theorem Bank.store_reject : (b.store off data).reject = b.reject := by simp [Bank.store]

theorem Bank.store_live : (b.store off data).live = b.live := by simp [Bank.store]

theorem Bank.store_state : (b.store off data).state = if b.state = .valid ∨ b.state = .rejected then .opn else b.state := by
  simp [Bank.store]

end

/-- Whether a bank takes a write to one of its sides: neither wedged nor frozen, and the side the writable one (R75, R340). -/
def Bank.takes (b : Bank) (one : Bool) : Prop := b.wedged = false ∧ b.writable = one ∧ b.state ≠ .checking ∧ b.state ≠ .switching

variable {s : State} {n : Nat} {off : BitVec 12} {data : Word}

theorem sideWrite_drops_iff {one : Bool} : (bankHeld s n || (bank s n).wedged || one != (bank s n).writable ||
    (bank s n).state == .checking || (bank s n).state == .switching) = true ↔ bankHeld s n = true ∨ ¬ (bank s n).takes one := by
  simp only [Bank.takes, Bool.or_eq_true, bne_iff_ne, beq_iff_eq, ← Bool.not_eq_true]
  tauto

theorem sideWrite_of_takes (hheld : bankHeld s n = false) (h : (bank s n).takes (sideOfOffset off.toNat)) :
    sideWrite n off data s = modBank n (fun b => b.store off.toNat data) s :=
  if_neg fun hdrop => (sideWrite_drops_iff.mp hdrop).elim (by simp [hheld]) (· h)

theorem sideWrite_of_not_takes (h : ¬ (bank s n).takes (sideOfOffset off.toNat)) :
    sideWrite n off data s = modBank n (fun b => { b with wrDrop := true }) s :=
  if_pos (sideWrite_drops_iff.mpr (.inr h))

theorem exec_cbSideWrite (hrun : s.rst = .run) (hn : n < 16) (halign : off.toNat % 4 = 0)
    (hoff : off.toNat < 8 ∨ (0x400 ≤ off.toNat ∧ off.toNat < 0xC00)) :
    exec (.cbSideWrite n off data) s = .next (sideWrite n off data (emit (.cpAck false) s)) := by
  have hin : sideOffset off.toNat = true := by simpa [sideOffset] using hoff
  simp [exec, execCbSideWrite, inRun, hrun, halign, hin, Nat.not_le.mpr hn]

end Sys2Proof.Machine

namespace Sys2Proof.Proofs
open Sys2Proof.Machine

/-- Settles O18: the bank takes the write (`sideWrite_of_takes`), or drops it (`sideWrite_of_not_takes`). -/
theorem codebookSideWrite : Obligations.CodebookSideWrite := by
  intro s n off data hrun hn hlen hheld hwedged halign hoff
  have hexec := exec_cbSideWrite (data := data) hrun hn halign hoff
  simp only [← sideOfOffset_eq_decide]
  refine ⟨fun ⟨hside, hcheck, hswitch⟩ => ?stored, fun hdrop => ?dropped⟩
  case stored =>
    have hstored := sideWrite_of_takes (s := emit (.cpAck false) s) (data := data) hheld ⟨hwedged, hside, hcheck, hswitch⟩
    refine ⟨_, hexec.trans (congrArg _ hstored), rfl, ?_⟩
    rw [bank_modBank_same (s := emit (.cpAck false) s) hlen, bank_emit]
    refine ⟨fun h => ?_, fun h => ?_, Bank.store_side_other .., Bank.store_reject .., Bank.store_live .., Bank.store_state ..,
      fun m hm => bank_modBank_other hm⟩
    · exact (Bank.store_side_same ..).trans (Side.store_desc _ data h)
    · exact (Bank.store_side_same ..).trans (Side.store_tab _ data h)
  case dropped =>
    refine hexec.trans (congrArg _ (sideWrite_of_not_takes fun ⟨_, hside, hcheck, hswitch⟩ => ?_))
    exact hdrop.elim (· hside) (·.elim hcheck hswitch)

end Sys2Proof.Proofs
end

section
/-! PROOFS. Rules about the shared operations that the proofs below use: commands while a reset is in force, updates of one unit, what
traffic can have changed, and the accesses of the control island. -/

namespace Sys2Proof.Machine

variable {s u : State}

theorem inRun_of_ne_run {r : Answer} (h : s.rst ≠ .run) : inRun s r = .next s := if_neg h

theorem inRun_of_run {r : Answer} (h : s.rst = .run) : inRun s r = r := if_pos h

/-! ## Updates of one unit -/

theorem modAt_modAt {α : Type} (l : List α) (i : Nat) (f g : α → α) : modAt (modAt l i f) i g = modAt l i (fun x => g (f x)) :=
  List.modify_modify_eq ..

theorem modBank_modBank (n : Nat) (f g : Bank → Bank) (s : State) : modBank n g (modBank n f s) = modBank n (fun b => g (f b)) s := by
  simp only [modBank, modAt_modAt]

theorem modRegion_modRegion (r : Nat) (f g : Region → Region) (s : State) :
    modRegion r g (modRegion r f s) = modRegion r (fun x => g (f x)) s := by
  simp only [modRegion, modAt_modAt]

theorem modCtx_modCtx (c : Nat) (f g : Ctx → Ctx) (s : State) : modCtx c g (modCtx c f s) = modCtx c (fun x => g (f x)) s := by
  simp only [modCtx, modAt_modAt]

theorem ctxOf_modCtx_same {c : Nat} {f : Ctx → Ctx} (h : c < s.ctxs.length) : ctxOf (modCtx c f s) c = f (ctxOf s c) :=
  (ctxOf_modCtx c c f).trans (if_pos ⟨rfl, h⟩)

theorem ctxOf_modCtx_other {c d : Nat} {f : Ctx → Ctx} (h : d ≠ c) : ctxOf (modCtx c f s) d = ctxOf s d :=
  (ctxOf_modCtx c d f).trans (if_neg fun hcd => h hcd.1.symm)

theorem ctxOf_congr {t : State} (h : t.ctxs = s.ctxs) (c : Nat) : ctxOf t c = ctxOf s c := by rw [ctxOf, ctxOf, h]

theorem modAt_eq_self {α : Type} {l : List α} {i : Nat} {f : α → α} (h : ∀ x, l[i]? = some x → f x = x) : modAt l i f = l := by
  refine List.ext_getElem? fun j => ?_
  rw [modAt, List.getElem?_modify]
  by_cases hij : i = j
  · subst hij
    cases hx : l[i]? with
    | none => rfl
    | some x => simp [h x hx]
  · simp [hij]

/-! ## Traffic -/

/-- What traffic can have changed, as an equation that can be substituted. -/
theorem State.Quiet.exists (h : s.Quiet u) : ∃ ports ctlWait jobs nextJob health outs, u = { s with
    ports := ports, ctlWait := ctlWait, jobs := jobs, nextJob := nextJob, health := health, outs := outs } :=
  ⟨_, _, _, _, _, _, h⟩

theorem present_jobs (c : Nat) (b : Burst) (s : State) : (present c b s).jobs = s.jobs := by
  unfold present
  split <;> rfl

theorem drainCtlAux_jobs (k : Nat) : ∀ (kept rest : List Burst) (s : State), (drainCtlAux k kept rest s).jobs = s.jobs := by
  induction k with
  | zero => exact fun _ _ _ => rfl
  | succ k ih =>
    intro kept rest s
    cases rest with
    | nil => rfl
    | cons b rest =>
      rw [drainCtlAux]
      split
      · exact ih _ _ _
      · split
        · exact (ih _ _ _).trans (present_jobs _ _ _)
        · exact ih _ _ _

theorem drainCtl_jobs (s : State) : (drainCtl s).jobs = s.jobs := drainCtlAux_jobs _ _ _ _

theorem present_health (c : Nat) (b : Burst) (s : State) : (present c b s).health = s.health := by
  unfold present
  split <;> rfl

theorem drainCtlAux_health (k : Nat) : ∀ (kept rest : List Burst) (s : State), (drainCtlAux k kept rest s).health = s.health := by
  induction k with
  | zero => exact fun _ _ _ => rfl
  | succ k ih =>
    intro kept rest s
    cases rest with
    | nil => rfl
    | cons b rest =>
      rw [drainCtlAux]
      split
      · exact ih _ _ _
      · split
        · exact (ih _ _ _).trans (present_health _ _ _)
        · exact ih _ _ _

theorem startWrites_health (kind : JobKind) (segs : List (Nat × List Byte)) (s : State) : (startWrites kind segs s).health = s.health :=
  drainCtlAux_health _ _ _ _

/-- Of the health registers the fault log touches its own alone. -/
theorem logEvent_health (code kind reg unit ctx d0 a : Nat) (s : State) : ∃ queue logLost phase,
    (logEvent code kind reg unit ctx d0 a s).health = { s.health with queue := queue, logLost := logLost, phase := phase } := by
  have hpump (u : State) : ∃ queue logLost phase,
      (logPump u).health = { u.health with queue := queue, logLost := logLost, phase := phase } := by
    unfold logPump
    dsimp only
    split
    · exact ⟨_, _, _, rfl⟩
    · split
      · exact ⟨_, _, _, rfl⟩
      · split
        · exact ⟨_, _, _, rfl⟩
        · exact ⟨_, _, _, startWrites_health _ _ _⟩
  unfold logEvent
  dsimp only
  split
  · obtain ⟨queue, logLost, phase, h⟩ := hpump (modHealth (fun h => { h with
      queue := h.queue ++ [⟨code, kind, reg, unit, ctx, d0, a, islandTime s kind reg unit % 2 ^ 32⟩] }) s)
    exact ⟨_, _, _, h⟩
  · exact ⟨_, _, _, rfl⟩

theorem startRead_job (kind : JobKind) (segs : List (Nat × Nat)) (s : State) : ∃ j ∈ (startRead kind segs s).jobs, j.kind = kind := by
  rw [startRead, drainCtl_jobs]
  exact ⟨_, List.mem_append_right _ (List.mem_singleton_self _), rfl⟩

theorem startWrites_job (kind : JobKind) (segs : List (Nat × List Byte)) (s : State) :
    ∃ j ∈ (startWrites kind segs s).jobs, j.kind = kind := by
  rw [startWrites, drainCtl_jobs]
  exact ⟨_, List.mem_append_right _ (List.mem_singleton_self _), rfl⟩

theorem startWrite_job (kind : JobKind) (addr : Nat) (data : List Byte) (s : State) :
    ∃ j ∈ (startWrite kind addr data s).jobs, j.kind = kind := startWrites_job _ _ _

/-- An access changes the traffic alone, and its job is under way. -/
theorem startRead_exists (kind : JobKind) (segs : List (Nat × Nat)) (s : State) : ∃ ports ctlWait jobs nextJob health outs,
    startRead kind segs s = { s with
      ports := ports, ctlWait := ctlWait, jobs := jobs, nextJob := nextJob, health := health, outs := outs } ∧
    ∃ j ∈ jobs, j.kind = kind :=
  ⟨_, _, _, _, _, _, startRead_quiet (.refl s), startRead_job kind segs s⟩

theorem startWrite_exists (kind : JobKind) (addr : Nat) (data : List Byte) (s : State) : ∃ ports ctlWait jobs nextJob health outs,
    startWrite kind addr data s = { s with
      ports := ports, ctlWait := ctlWait, jobs := jobs, nextJob := nextJob, health := health, outs := outs } ∧
    ∃ j ∈ jobs, j.kind = kind :=
  ⟨_, _, _, _, _, _, startWrite_quiet (.refl s), startWrite_job kind addr data s⟩

theorem modAt_const {α : Type} (l : List α) (i : Nat) (f : α → α) (d : α) : modAt l i f = modAt l i (fun _ => f (l.getD i d)) := by
  refine List.ext_getElem? fun j => ?_
  rw [modAt, modAt, List.getElem?_modify, List.getElem?_modify, List.getD_eq_getElem?_getD]
  by_cases hij : i = j
  · subst hij
    cases hx : l[i]? <;> simp
  · simp [hij]

/-- An update of a region may look at the region that it finds. -/
theorem modRegion_const (r : Nat) (f : Region → Region) (s : State) : modRegion r f s = modRegion r (fun _ => f (region s r)) s := by
  rw [modRegion, modAt_const s.regions r f (Region.reset 0)]
  rfl

theorem region_congr {t : State} (h : t.regions = s.regions) (r : Nat) : region t r = region s r := by rw [region, region, h]

theorem region_modRegion_same {r : Nat} {f : Region → Region} (h : r < s.regions.length) : region (modRegion r f s) r = f (region s r) :=
  (region_modRegion r r f).trans (if_pos ⟨rfl, h⟩)

theorem region_modRegion_other {r e : Nat} {f : Region → Region} (h : e ≠ r) : region (modRegion r f s) e = region s e :=
  (region_modRegion r e f).trans (if_neg fun hre => h hre.1.symm)

end Sys2Proof.Machine
end

section
/-! PROOFS. The invariant (O4) and what no command changes (O5): each command's meaning keeps it (Laws), so `exec` and `step` do. -/

namespace Sys2Proof.Machine

theorem exec_keeps (c : Instr) {a s : State} (h : Keeps a s) : AKeeps a (exec c s) := by
  cases c with
  | t5ResetAssert => exact execT5ResetAssert_keeps h
  | t5ResetRelease => exact execT5ResetRelease_keeps h
  | rdyResetFull => exact execRdyResetFull_keeps h
  | requestedResetEnd => exact execRequestedResetEnd_keeps h
  | registerWrite => exact execRegisterWrite_keeps h
  | ldrHeaderReadDone => exact execLdrHeaderReadDone_keeps h
  | ldrTableReadDone => exact execLdrTableReadDone_keeps h
  | ldrSectionReadDone => exact execLdrSectionReadDone_keeps h
  | ldrReadTimeout => exact execLdrReadTimeout_keeps h
  | verifyAnswer => exact execVerifyAnswer_keeps h
  | verifyTimeout => exact execVerifyTimeout_keeps h
  | regionSelftestDone => exact execRegionSelftestDone_keeps h
  | controlSelftestDone => exact execControlSelftestDone_keeps h
  | imgLiveGo => exact execImgLiveGo_keeps h
  | liveCodebookApply => exact execLiveCodebookApply_keeps h
  | seqCodeShadowSwap => exact execSeqCodeShadowSwap_keeps h
  | cbLoadPreset => exact execCbLoadPreset_keeps h
  | cbCommit => exact execCbCommit_keeps h
  | cbCheckDone => exact execCbCheckDone_keeps h
  | cbSwitch => exact execCbSwitch_keeps h
  | cbSideWrite => exact execCbSideWrite_keeps h
  | ringSubProdWrite => exact execRingSubProdWrite_keeps h
  | acceptEntry => exact execAcceptEntry_keeps h
  | acceptancePoint => exact execAcceptancePoint_keeps h
  | nodeDispatch => exact execNodeDispatch_keeps h
  | commitHeaderWrite => exact execCommitHeaderWrite_keeps h
  | agreedValueArrival => exact execAgreedValueArrival_keeps h
  | agreeTimeout => exact execAgreeTimeout_keeps h
  | agreeDeliver => exact execAgreeDeliver_keeps h
  | agreeLocal => exact execAgreeLocal_keeps h
  | fbForce => exact execFbForce_keeps h
  | fbRelease => exact execFbRelease_keeps h
  | slotEvict => exact execSlotEvict_keeps h
  | swathDispatch => exact execSwathDispatch_keeps h
  | twoPassSecondPass => exact execTwoPassSecondPass_keeps h
  | swathComplete => exact execSwathComplete_keeps h
  | taskComplete => exact execTaskComplete_keeps h
  | nodeEmit => exact execNodeEmit_keeps h
  | recordSeqWrite => exact execRecordSeqWrite_keeps h
  | ringCplReleaseWrite => exact execRingCplReleaseWrite_keeps h
  | glnReleaseWrite => exact execGlnReleaseWrite_keeps h
  | ctxEnable => exact execCtxEnable_keeps h
  | ctxDisable => exact execCtxDisable_keeps h
  | ctxCancel => exact execCtxCancel_keeps h
  | ctxSave => exact execCtxSave_keeps h
  | ctxRestore => exact execCtxRestore_keeps h
  | contextDrained => exact execContextDrained_keeps h
  | slicedModeEnter => exact execSlicedModeEnter_keeps h
  | slicedModeExit => exact execSlicedModeExit_keeps h
  | sliceEnd => exact execSliceEnd_keeps h
  | contextStall => exact execContextStall_keeps h
  | cpiRdata => exact execCpiRdata_keeps h
  | cpiSdata => exact execCpiSdata_keeps h
  | cpiSclose _ _ err => exact execCpiSclose_keeps (_err := err) h
  | cpiWriteAck => exact execCpiWriteAck_keeps h
  | creditReturn => exact execCreditReturn_keeps h
  | memResponseTimeout => exact execMemResponseTimeout_keeps h
  | cluAliveToggle => exact execCluAliveToggle_keeps h
  | clusterPartnerLost => exact execClusterPartnerLost_keeps h
  | clusterPartnerReturn => exact execClusterPartnerReturn_keeps h
  | regionParkRequest => exact execRegionParkRequest_keeps h
  | regionParkAck => exact execRegionParkAck_keeps h
  | regionUnpark => exact execRegionUnpark_keeps h
  | coreAliveTimeout => exact execCoreAliveTimeout_keeps h
  | hltRetire => exact execHltRetire_keeps h
  | coreFenceSettled => exact execCoreFenceSettled_keeps h
  | zombieRequest _ _ _ _ _ wr => exact execZombieRequest_keeps (_wr := wr) h
  | zombieAliveToggle => exact execZombieAliveToggle_keeps h
  | hltLogSizeWrite => exact execHltLogSizeWrite_keeps h
  | dmaOwnWrite => exact execDmaOwnWrite_keeps h
  | dmaStart => exact execDmaStart_keeps h
  | dmaDisable => exact execDmaDisable_keeps h
  | dmaBurstGrant => exact execDmaBurstGrant_keeps h
  | dmaHop => exact execDmaHop_keeps h
  | dmaRunEnd => exact execDmaRunEnd_keeps h
  | dmaEngineStopped => exact execDmaEngineStopped_keeps h
  | dmaAutoResume => exact execDmaAutoResume_keeps h
  | dmaResume => exact execDmaResume_keeps h
  | rngTestGo => exact execRngTestGo_keeps h
  | rngTestDone => exact execRngTestDone_keeps h
  | liftResetAssert => exact execLiftResetAssert_keeps h
  | liftResetRelease => exact execLiftResetRelease_keeps h
  | liftCfgWrite => exact execLiftCfgWrite_keeps h
  | liftWindowLoad => exact execLiftWindowLoad_keeps h
  | lclTransferTimeout => exact execLclTransferTimeout_keeps h
  | liftCodeBeat => exact execLiftCodeBeat_keeps h
  | liftScaleLine => exact execLiftScaleLine_keeps h
  | liftLineTimeout => exact execLiftLineTimeout_keeps h
  | liftOutputBeat => exact execLiftOutputBeat_keeps h
  | liftAliveToggle => exact execLiftAliveToggle_keeps h
  | liftPartnerLost => exact execLiftPartnerLost_keeps h
  | liftPartnerReturn => exact execLiftPartnerReturn_keeps h
  | lftClrCounters => exact execLftClrCounters_keeps h
  | lnkArm => exact execLnkArm_keeps h
  | lnkDisarm => exact execLnkDisarm_keeps h
  | lnkSessionIdle => exact execLnkSessionIdle_keeps h
  | lnkLocalElements => exact execLnkLocalElements_keeps h
  | lnkFrameTransmit => exact execLnkFrameTransmit_keeps h
  | lnkFrameReceive => exact execLnkFrameReceive_keeps h
  | lnkFrameTimeout => exact execLnkFrameTimeout_keeps h
  | lnkAliveToggle => exact execLnkAliveToggle_keeps h
  | lnkPartnerLost => exact execLnkPartnerLost_keeps h
  | lnkPartnerReturn => exact execLnkPartnerReturn_keeps h
  | lnkPortResetAssert => exact execLnkPortResetAssert_keeps h
  | lnkPortResetRelease => exact execLnkPortResetRelease_keeps h
  | lnkPClrCounters => exact execLnkPClrCounters_keeps h
  | lnkAgrCfgWrite => exact execLnkAgrCfgWrite_keeps h
  | testModeEnter => exact execTestModeEnter_keeps h
  | wrstnReset => exact execWrstnReset_keeps h
  | wsBypass => exact execWsBypass_keeps h
  | wsExtest => exact execWsExtest_keeps h
  | wsIntest => exact execWsIntest_keeps h
  | wsScan => exact execWsScan_keeps h
  | wsMbist => exact execWsMbist_keeps h
  | wsMbistDone => exact execWsMbistDone_keeps h
  | wsMbistRead => exact execWsMbistRead_keeps h
  | testModeExit => exact execTestModeExit_keeps h

/-- The queue is no unit that is built, so the invariant does not see it. -/
theorem State.Inv.withPending {s : State} (h : s.Inv) (q : List Instr) : State.Inv { s with pending := q } := by
  obtain ⟨⟨hbanks, hrecipes, hseq, hregions, hports, hslices, hlnk, hdom, hctxs⟩, hok⟩ := h
  exact ⟨⟨hbanks, hrecipes, hseq, hregions, hports, hslices, hlnk, hdom, hctxs⟩, hok⟩

theorem step_preserves_inv {s t : State} (h : s.Inv) (hstep : step s = .next t) : t.Inv := by
  unfold step at hstep
  split at hstep
  case h_1 => cases hstep; exact (tick_keeps (Keeps.refl s)).inv h
  case h_2 c rest _ => exact (exec_keeps c (Keeps.refl _) t hstep).inv (h.withPending rest)

theorem resetOf_inv (b : Build) (x y : BitVec 4) : (State.resetOf b x y).Inv where
  built := by constructor <;> exact List.length_replicate
  ports p hp := by
    rw [List.eq_of_mem_replicate hp]
    simp [Port.ok, Port.reset]

end Sys2Proof.Machine

namespace Sys2Proof.Proofs
open Sys2Proof.Machine

/-- Settles O1: by the definition of a step. -/
theorem stepRunsFront : Obligations.StepRunsFront := fun _ _ _ => rfl

/-- Settles O3. -/
theorem resetInv : Obligations.ResetInv := resetOf_inv _ _ _

/-- Settles O4. -/
theorem stepKeepsInv : Obligations.StepKeepsInv := fun _ _ h hstep => step_preserves_inv h hstep

/-- Settles O5. -/
theorem execKeepsQueue : Obligations.ExecKeepsQueue := fun c s t h =>
  have hkeeps := exec_keeps c (Keeps.refl s) t h
  ⟨hkeeps.pending, hkeeps.build⟩

end Sys2Proof.Proofs
end

section
/-! PROOFS. Reset, test mode and the wrapper (O6 to O9), the idle step (O2), and the test draw of the random-bit generator (O10). -/

namespace Sys2Proof.Machine

variable {s : State}

/-! ## The idle step -/

theorem step_idle (h : s.pending = []) : step s = .next (tick s) := by
  unfold step
  rw [h]

theorem yieldSlice_unsliced (hsliced : s.sched.sliced = false) : yieldSlice s = s := by
  unfold yieldSlice
  cases s.sched.holder <;> simp [hsliced]

theorem yieldSlice_no_holder (hsliced : s.sched.sliced = true) (hholder : s.sched.holder = none) :
    yieldSlice s = match nextHolder s with | some c => takeSlice c s | none => s := by
  simp only [yieldSlice, chooseHolder, hholder, hsliced]
  rfl

theorem chooseHolder_frame (s : State) : chooseHolder s = { s with sched := (chooseHolder s).sched, ctxs := (chooseHolder s).ctxs } := by
  unfold chooseHolder
  split
  · rfl
  · split <;> rfl

theorem endSlice_frame (s : State) : endSlice s = { s with sched := (endSlice s).sched, ctxs := (endSlice s).ctxs } := by
  unfold endSlice
  split
  · rfl
  · dsimp only
    split <;> rfl

/-- The slice touches the scheduler and the contexts alone, but for the slots that the holder before unpins. -/
theorem yieldSlice_frame (s : State) :
    ∃ t, (yieldSlice s = t ∨ yieldSlice s = slotsUnpin t) ∧ t = { s with sched := t.sched, ctxs := t.ctxs } := by
  unfold yieldSlice
  split
  · split
    · exact ⟨_, .inl rfl, chooseHolder_frame s⟩
    · exact ⟨_, .inl rfl, rfl⟩
  · split
    · exact ⟨_, .inr rfl, (chooseHolder_frame _).trans (by rw [endSlice_frame])⟩
    · exact ⟨_, .inl rfl, rfl⟩

/-! ## The wrapper (R400) -/

theorem wrapperRun_test {code : Nat} {act : State → State} (htest : s.wrapper.testEn = true) :
    wrapperRun code act s = act (selectWir code s) := if_pos htest

theorem wrapperRun_bypass {code : Nat} {act : State → State} (htest : s.wrapper.testEn = false) :
    wrapperRun code act s = shiftWsi (selectWir code s) := if_neg (by simp [selectWir, modWrap, htest])

theorem selectWir_selected {code : Nat} (h : s.wrapper.wir = code) : selectWir code s = s := by
  subst h
  rfl

theorem mbistStarts_iff {w : Wrapper} :
    mbistStarts w = true ↔ w.wir ≠ 4 ∨ (w.mbistRun = false ∧ w.mbistDone = false) := by
  simp [mbistStarts]

theorem scanOut_shiftWsi (n : Nat) (s : State) : scanOut n (shiftWsi s) =
    { s with
      wrapper := { s.wrapper with bypass := Config.wsiBit s.freeCtr }, freeCtr := s.freeCtr + 1 + n
      outs := s.outs ++ [.wrapper [BitVec.ofNat 8 (b2n s.wrapper.bypass)],
        .wpo ((List.range n).map (fun i => Config.scanByte (s.freeCtr + 1 + i)))] } := by
  simp [scanOut, shiftWsi, shiftBypass, emit, modWrap]

theorem mbistStatus_toNat (w : Wrapper) : (mbistStatus w).toNat = b2n w.mbistDone * 2 ^ 31 + b2n w.mbistFail * 2 ^ 30 := by
  have hle (b : Bool) : b2n b ≤ 1 := by cases b <;> decide
  rw [mbistStatus, BitVec.toNat_ofNat, Nat.mod_eq_of_lt (by have := hle w.mbistDone; have := hle w.mbistFail; omega)]

/-- WS_MBIST in test mode shifts the status out, and starts the self-test where it is to start. -/
theorem exec_wsMbist_test (htest : s.wrapper.testEn = true) : exec .wsMbist s = .next
    (let t := emit (.wrapper (leBytes 4 (b2n s.wrapper.mbistDone * 2 ^ 31 + b2n s.wrapper.mbistFail * 2 ^ 30))) (selectWir 4 s)
     if mbistStarts s.wrapper then
       modWrap (fun w => { w with mbistRun := true, mbistDone := false, mbistFail := false, rows := [] }) t
     else t) := by
  rw [← mbistStatus_toNat]
  exact congrArg _ (wrapperRun_test htest)

/-! ## Requests of the control port (R354, R383) -/

theorem resetEnd_held (x y : BitVec 4) (q : CpReq) (s : State) : resetEnd x y (some q) s = cpServe q (resetEnd x y none s) := rfl

theorem cpServe_read (a : BitVec 22) (w : Word) (s : State) : cpServe ⟨false, a, w⟩ s = cpRead a.toNat s := rfl

theorem cpRead_strap (s : State) :
    cpRead 8 s = emit (.cpRead false (BitVec.ofNat 32 (s.dieIndex.toNat * 16 + s.dieCountM1.toNat))) s :=
  if_neg (by simp [cpFails])

theorem cpWrite_reset (key : BitVec 16) : cpWrite 0x1004 (BitVec.ofNat 32 (key.toNat * 2 ^ 16 + 1)) s =
    if key = 0xD1E5 then resetTo .requested (emit (.cpAck false) s) else emit (.cpAck false) s := by
  have hword : (BitVec.ofNat 32 (key.toNat * 2 ^ 16 + 1)).toNat = key.toNat * 2 ^ 16 + 1 := by
    rw [BitVec.toNat_ofNat]; omega
  have hkey : bits (key.toNat * 2 ^ 16 + 1) 16 16 = key.toNat := by
    rw [bits, Nat.shiftRight_eq_div_pow]; omega
  have hfull : bit (key.toNat * 2 ^ 16 + 1) 0 = true := by
    rw [bit, Nat.testBit_zero]
    exact decide_eq_true (by omega)
  rw [cpWrite, if_neg (by simp [cpFails]), hword, hkey, hfull]
  simp [BitVec.toNat_eq]

/-! ## The outputs in reset (R398) -/

theorem t5Pins_held (hheld : (s.rst ≠ .run ∧ s.wrapper.testEn = false) ∨ (s.wrapper.testEn = true ∧ s.wrapper.wir ≠ 1)) :
    t5Pins s = some (pinsHeld s) := by
  unfold t5Pins
  rcases hheld with ⟨hrst, htest⟩ | ⟨htest, hwir⟩
  · simp [hrst, htest]
  · simp [hwir, htest]

end Sys2Proof.Machine

namespace Sys2Proof.Proofs
open Sys2Proof.Machine

/-- Settles O2: an idle step is `tick`, which counts a cycle and offers the slice (`yieldSlice`). -/
theorem idleCountsTime : Obligations.IdleCountsTime := by
  intro s hidle u
  have hstep (hrun : s.rst = .run) : step s = .next (yieldSlice u) :=
    (step_idle hidle).trans (congrArg _ (if_pos hrun))
  refine ⟨fun hrst => (step_idle hidle).trans (congrArg _ (if_neg hrst)), fun hrun hsliced => ?_, fun hrun hsliced hholder => ?_,
    fun hrun => ?_⟩
  · rw [hstep hrun, yieldSlice_unsliced (s := u) hsliced]
  · rw [hstep hrun, yieldSlice_no_holder (s := u) hsliced hholder]
    exact ⟨fun hnext => by rw [hnext], fun c hnext => by rw [hnext]⟩
  · obtain ⟨t, ht, hframe⟩ := yieldSlice_frame u
    exact ⟨t, by rwa [hstep hrun, Host.Outcome.next.injEq, Host.Outcome.next.injEq], hframe⟩

/-- Settles O6: every command but those listed acts only while no reset is in force (`inRun`). -/
theorem nothingHappensInReset : Obligations.NothingHappensInReset := by
  intro c s hreset
  cases c with
  | t5ResetAssert | t5ResetRelease | requestedResetEnd | testModeEnter | testModeExit | wrstnReset | wsBypass | wsExtest | wsIntest
  | wsScan | wsMbist | wsMbistDone | wsMbistRead => trivial
  | _ => exact inRun_of_ne_run hreset

/-- Settles O7. -/
theorem fullReset : Obligations.FullReset := by
  refine ⟨fun s => ⟨rfl, fun hrun key => ?_⟩, fun s x y => ⟨fun hpin htest => ?_, fun hreq => ?_⟩, fun s hheld => ?_⟩
  · refine (inRun_of_run hrun).trans (congrArg _ ?_)
    rw [cpWrite_reset]
    split <;> rfl
  · exact if_pos (by simp [hpin, htest])
  · exact if_pos hreq
  · rw [t5Pins_held hheld, pinsHeld, List.map_const', List.map_const']
    rfl

/-- Settles O8: the held request is served by the state that the reset has just left (`resetEnd`). -/
theorem heldRequest : Obligations.HeldRequest := by
  intro s x y w hpin htest
  have hrelease (q : CpReq) : exec (.t5ResetRelease x y (some q)) s = .next (resetEnd x y (some q) s) :=
    if_pos (by simp [hpin, htest])
  refine ⟨⟨_, hrelease _, ?_⟩, ⟨_, hrelease _, ?_⟩⟩
  · exact List.append_assoc _ _ _
  · rw [resetEnd_held, cpServe_read, show (8 : BitVec 22).toNat = 8 from rfl, cpRead_strap]
    exact List.append_assoc _ _ _

/-- Settles O9. -/
theorem testWrapper : Obligations.TestWrapper := by
  refine ⟨fun s => ⟨fun htest => ?_, rfl, rfl⟩, fun s htest => ?_, fun s => ?_⟩
  · exact if_neg (by simp [htest])
  · refine ⟨fun d i => ?_, fun d => ?_, fun bits => ?_, fun hstarts => ?_, fun hstarts => ?_, fun hrun rows => ?_, ?_⟩
    · exact congrArg _ (wrapperRun_test htest)
    · exact congrArg _ (wrapperRun_test htest)
    · refine ⟨Config.wsiBit s.freeCtr, (List.range bits.length).map (fun i => Config.scanByte (s.freeCtr + 1 + i)), by simp, ?_⟩
      refine congrArg _ ((wrapperRun_test htest).trans ((scanOut_shiftWsi _ _).trans ?_))
      rfl
    · rw [exec_wsMbist_test htest, if_pos (mbistStarts_iff.mpr hstarts)]
      rfl
    · have hwir : s.wrapper.wir = 4 := by simpa using (not_or.mp hstarts).1
      rw [exec_wsMbist_test htest, if_neg (mt mbistStarts_iff.mp hstarts), selectWir_selected hwir]
      rfl
    · exact congrArg _ (if_pos hrun)
    · exact congrArg _ (wrapperRun_test htest)
  · refine ⟨fun b => rfl, fun htest => ⟨fun d i => ?_, fun d => ?_, fun d => ?_, ?_, ?_⟩⟩
    all_goals exact ⟨_, congrArg _ (wrapperRun_bypass htest)⟩

/-- Settles O10. -/
theorem randomBits : Obligations.RandomBits := by
  refine ⟨fun s hrun => ⟨?_, fun hbusy => ?_⟩, by decide⟩
  · exact inRun_of_run hrun
  · exact (inRun_of_run hrun).trans (if_pos hbusy)

end Sys2Proof.Proofs
end

section
/-! PROOFS. The loader (O11 to O17): how its sequence goes on in each of its states, and what its commands do. -/

namespace Sys2Proof.Machine

variable {s u : State}

/-! ## The loader's sequence (R355) -/

section

/-! With no section to take and nothing to present, the state alone says how the sequence goes on. -/

variable {fuel : Nat} (htake : takeSections 257 s = s) (hvfy : vfyNext s = s)
include htake hvfy

theorem ldrAdvance_early (hstate : s.loader.state = .early) : ldrAdvance (fuel + 1) s =
    if stepEnded s then ldrAdvance fuel (modLoader (fun l => { l with state := .selftest }) s) else s := by
  rw [ldrAdvance, htake, hvfy]
  simp only [hstate]

theorem ldrAdvance_selftest (hstate : s.loader.state = .selftest) : ldrAdvance (fuel + 1) s =
    if testsEnded s then ldrAdvance fuel (modLoader (fun l => { l with
      state := .sections, todo := (List.range l.table.length).filter (fun k => resOf l k == resPending) }) s)
    else s := by
  rw [ldrAdvance, htake, hvfy]
  simp only [hstate]

theorem ldrAdvance_sections (hstate : s.loader.state = .sections) : ldrAdvance (fuel + 1) s =
    if stepEnded s then bootDone s else s := by
  rw [ldrAdvance, htake, hvfy]
  simp only [hstate]

theorem ldrAdvance_noImage (hstate : s.loader.state = .noImage) : ldrAdvance (fuel + 1) s =
    if testsEnded s && !s.loader.bootDone then bootDone s else s := by
  rw [ldrAdvance, htake, hvfy]
  simp only [hstate]

end

theorem stepEnded_iff : stepEnded s = true ↔ s.loader.todo = [] ∧ s.loader.read = .none ∧ s.loader.ready = [] ∧
    s.loader.applying = [] ∧ ∀ k, s.verify.presented ≠ some (.boot k) := by
  unfold stepEnded
  cases s.verify.presented with
  | none => simp [and_assoc]
  | some p => cases p <;> simp [and_assoc]

theorem testsEnded_iff : testsEnded s = true ↔ s.loader.selftestDone = true ∧ ∀ x ∈ s.regions, x.ready = true := by
  simp [testsEnded]

/-- While a self-test has not ended, the sequence waits for it, with an image or without. -/
theorem advance_untested (hstate : s.loader.state = .selftest ∨ s.loader.state = .noImage)
    (htake : takeSections 257 s = s) (hvfy : vfyNext s = s) (htests : testsEnded s = false) : advance s = s := by
  rcases hstate with h | h
  · rw [advance, ldrAdvance_selftest htake hvfy h, if_neg (by simp [htests])]
  · rw [advance, ldrAdvance_noImage htake hvfy h, if_neg (by simp [htests])]

/-- A step that has not ended is waited for. -/
theorem advance_step_open (hstate : s.loader.state = .early ∨ s.loader.state = .sections)
    (htake : takeSections 257 s = s) (hvfy : vfyNext s = s) (hopen : stepEnded s = false) : advance s = s := by
  rcases hstate with h | h
  · rw [advance, ldrAdvance_early htake hvfy h, if_neg (by simp [hopen])]
  · rw [advance, ldrAdvance_sections htake hvfy h, if_neg (by simp [hopen])]

/-- A first step that has nothing to do gives way to the self-tests. -/
theorem advance_early_done (hstate : s.loader.state = .early) (htodo : s.loader.todo = []) (hready : s.loader.ready = [])
    (hlive : s.live.stage ≠ .waitVerify) (hended : stepEnded s = true) (htests : testsEnded s = false) :
    advance s = modLoader (fun l => { l with state := .selftest }) s := by
  have htests' : testsEnded (modLoader (fun l => { l with state := .selftest }) s) = false := by
    simpa [testsEnded] using htests
  rw [advance, ldrAdvance_early (takeSections_none (.inl htodo)) (vfyNext_idle hready hlive) hstate, if_pos hended,
    ldrAdvance_selftest (takeSections_none (.inl (by exact htodo))) (vfyNext_idle (by exact hready) (by exact hlive)) rfl,
    if_neg (by simp [htests'])]

/-- While something is presented, the handshake is not free for the next. -/
theorem vfyNext_presented {p : Presented} (h : s.verify.presented = some p) : vfyNext s = s := if_pos (by simp [h])

theorem vfyNext_ready {k : Nat} {bytes : List Byte} {rest : List (Nat × List Byte)} (hfree : s.verify.presented = none)
    (hready : s.loader.ready = (k, bytes) :: rest) : vfyNext s =
      vfyPresent (.boot k) (s.loader.table.getD k ⟨[]⟩) k bytes (modLoader (fun l => { l with ready := rest }) s) := by
  unfold vfyNext
  simp [hfree, hready]

theorem stepEnded_presented {k : Nat} (h : s.verify.presented = some (.boot k)) : stepEnded s = false :=
  Bool.eq_false_iff.mpr fun hended => (stepEnded_iff.mp hended).2.2.2.2 k h

theorem stepEnded_reading (h : s.loader.read ≠ .none) : stepEnded s = false :=
  Bool.eq_false_iff.mpr fun hended => h (stepEnded_iff.mp hended).2.1

/-- A section that waits is presented as soon as the handshake is free, and the sequence waits for its answer. -/
theorem advance_presents {k : Nat} {bytes : List Byte} (hstate : s.loader.state = .early ∨ s.loader.state = .sections)
    (htodo : s.loader.todo = []) (hfree : s.verify.presented = none) (hready : s.loader.ready = [(k, bytes)]) : advance s =
      vfyPresent (.boot k) (s.loader.table.getD k ⟨[]⟩) k bytes (modLoader (fun l => { l with ready := [] }) s) := by
  rw [advance, ldrAdvance, takeSections_none (.inl htodo), vfyNext_ready hfree hready]
  generalize hp : vfyPresent _ _ _ _ _ = p
  have hpres : stepEnded p = false := stepEnded_presented (k := k) (by rw [← hp]; rfl)
  have hsame : p.loader.state = s.loader.state := by rw [← hp]; rfl
  rcases hstate with h | h <;> simp only [hsame, h, hpres] <;> rfl

/-! ## Reads of the flash (R359) -/

theorem readSection_eq (k tries : Nat) (s : State) : readSection k tries s = { s with
    loader := { s.loader with read := .sect k tries }
    outs := s.outs ++ [.xspiRead 0xEE 0x11 (BitVec.ofNat 32 ((if s.loader.slot = 0 then 0 else 0x1000000) +
      (s.loader.table.getD k ⟨[]⟩).offset)) 20 (s.loader.table.getD k ⟨[]⟩).length] } := rfl

/-- A slot that is not valid gives way to the alternate slot (R355 step 2), after its entry in the fault log. -/
theorem slotBad_primary (hslot : s.loader.slot = 0) : ∃ u, s.Quiet u ∧ slotBad s =
    emit (.xspiRead 0xEE 0x11 0x1000000 20 32) (modLoader (fun l => { l with slot := 1, read := .header }) u) := by
  refine ⟨logEvent 0x70 4 0 0 noCtx s.loader.slot (slotBase s.loader.slot) s, logEvent_quiet (.refl s), ?_⟩
  rw [slotBad, if_pos (by simp [hslot])]
  rfl

/-- The alternate slot gives way to no image; with a self-test to come that is all. -/
theorem slotBad_alternate (hslot : s.loader.slot = 1) (htodo : s.loader.todo = []) (hready : s.loader.ready = [])
    (hlive : s.live.stage ≠ .waitVerify) (htests : s.loader.selftestDone = false) : ∃ u, s.Quiet u ∧
    slotBad s = modLoader (fun l => { l with slot := 0, read := .none, state := .noImage }) u := by
  refine ⟨logEvent 0x70 4 0 0 noCtx s.loader.slot (slotBase s.loader.slot) s, logEvent_quiet (.refl s), ?_⟩
  rw [slotBad, if_neg (by simp [hslot])]
  exact advance_untested (.inr rfl) (takeSections_none (.inl (by simp [htodo]))) (vfyNext_idle (by simp [hready]) (by simp [hlive]))
    (by simp [testsEnded, htests])

/-! ## Sections (R367 to R370) -/

/-- The loader with section `k` ended. -/
def Loader.ended (l : Loader) (k res : Nat) : Loader :=
  { l with res := modAt l.res k (fun _ => res), applying := l.applying.filter (· != k) }

/-- The end of a section is recorded; what else it changes is traffic. -/
theorem endSection_quiet (k res : Nat) (s : State) :
    State.Quiet { s with loader := s.loader.ended k res } (endSection k res s) := by
  unfold endSection
  dsimp only
  split
  all_goals first
    | exact logEvent_quiet (.refl _)
    | exact .refl _

theorem endSection_loader (k res : Nat) (s : State) : (endSection k res s).loader = s.loader.ended k res :=
  (endSection_quiet k res s).loader_eq

/-- A section that cannot be read is logged; while the ring is not set up, its entry waits (R350, R374). -/
theorem endSection_unread_queue {k : Nat} (hring : s.health.ring = 0) (hroom : s.health.queue.length < 64) :
    (endSection k 0x10 s).health.queue = s.health.queue ++
      [⟨0x71, 4, 0, 0, 0xFFFF, k, (s.loader.table.getD k ⟨[]⟩).offset, s.ldrTime % 2 ^ 32⟩] := by
  rw [endSection, logEvent_unset (by exact hring), if_pos (by exact hroom)]
  rfl

/-! ## Commands of the loader's port (R359, R367) -/

section

variable {k tries : Nat} (hrun : s.rst = .run) (hread : s.loader.read = .sect k tries)
include hrun hread

theorem exec_ldrSectionReadDone (data : List Byte) : exec (.ldrSectionReadDone data) s = .next
    (if data.length = (s.loader.table.getD k ⟨[]⟩).length && crc32c data = (s.loader.table.getD k ⟨[]⟩).crc then
      advance (modLoader (fun l => { l with read := .none, ready := l.ready ++ [(k, data)] }) s)
    else if tries < 2 then readSection k (tries + 1) s
    else advance (endSection k 0x10 (modLoader (fun l => { l with read := .none }) s))) := by
  refine (inRun_of_run hrun).trans ?_
  simp only [hread]
  split
  · rfl
  · split <;> rfl

theorem exec_ldrReadTimeout : exec .ldrReadTimeout s = .next
    (if tries < 2 then readSection k (tries + 1) s
    else advance (endSection k 0x10 (modLoader (fun l => { l with read := .none }) s))) := by
  refine (inRun_of_run hrun).trans ?_
  simp only [hread]
  split <;> rfl

end

/-! ## Answers of the verify handshake (R368, R369) -/

theorem exec_verifyAnswer_accept {k : Nat} (hrun : s.rst = .run) (hpres : s.verify.presented = some (.boot k)) :
    exec (.verifyAnswer true) s = .next (advance (applySection k s.verify.bytes (vfyFree s))) := by
  refine (inRun_of_run hrun).trans ?_
  simp only [hpres]
  rfl

theorem exec_verifyAnswer_refuse {k : Nat} (hrun : s.rst = .run) (hpres : s.verify.presented = some (.boot k)) :
    exec (.verifyAnswer false) s = .next (advance (endSection k 0x11 (vfyFree s))) := by
  refine (inRun_of_run hrun).trans ?_
  simp only [hpres]
  rfl

theorem exec_verifyTimeout {k : Nat} (hrun : s.rst = .run) (htimed : s.verify.timed = true)
    (hpres : s.verify.presented = some (.boot k)) : exec .verifyTimeout s = .next (advance (endSection k 0x12 (vfyFree s))) := by
  refine (inRun_of_run hrun).trans ?_
  simp only [hpres, htimed]
  rfl

theorem applySection_recipes {k : Nat} (bytes : List Byte) (htype : (s.loader.table.getD k ⟨[]⟩).type = 0x11)
    (hwedged : s.health.wedgedRecipes = false) : applySection k bytes s =
      endSection k 0x01 (writeRecipes (s.loader.table.getD k ⟨[]⟩).target bytes s) := by
  rw [applySection]
  simp only [htype, hwedged]
  rfl

end Sys2Proof.Machine

namespace Sys2Proof.Proofs
open Sys2Proof.Machine

/-- Settles O11. -/
theorem loaderHeader : Obligations.LoaderHeader := by
  intro s data hrun hread
  have hexec : exec (.ldrHeaderReadDone data) s = .next (if headerOk s.build data then
      emit (flashRead (slotBase s.loader.slot + 32) (32 * fld data 6 2)) (modLoader (fun l => { l with read := .table data }) s)
    else slotBad s) := by
    refine (inRun_of_run hrun).trans ?_
    rw [if_neg (by simp [hread])]
    split <;> rfl
  refine ⟨fun hok => hexec.trans (congrArg _ ?_), fun hbad hslot => ?_, fun hbad hslot htodo hready hlive htests => ?_⟩
  · rw [if_pos hok, flashRead, slotBase]
    split <;> rfl
  · obtain ⟨u, hquiet, heq⟩ := slotBad_primary hslot
    rw [if_neg (by simp [hbad]), heq] at hexec
    obtain ⟨ports, ctlWait, jobs, nextJob, health, outs, rfl⟩ := hquiet.exists
    exact ⟨_, hexec, rfl, rfl, List.getLast?_concat ..⟩
  · obtain ⟨u, hquiet, heq⟩ := slotBad_alternate hslot htodo hready hlive htests
    rw [if_neg (by simp [hbad]), heq] at hexec
    obtain ⟨ports, ctlWait, jobs, nextJob, health, outs, rfl⟩ := hquiet.exists
    exact ⟨_, hexec, rfl, rfl⟩

/-- Settles O12. -/
theorem loaderTable : Obligations.LoaderTable := by
  intro s h data hrun hread hlen hcrc htypes hready happlying hlive hpres htests
  have hearly : [0x01, 0x02].filterMap (fun t => firstIdx (fun e : Section => e.type == t) ((chunks 32 data).map Section.mk)) = [] := by
    have hnone (t : Nat) (ht : t = 1 ∨ t = 2) :
        firstIdx (fun e : Section => e.type == t) ((chunks 32 data).map Section.mk) = none := by
      rw [firstIdx, List.findIdx?_eq_none_iff]
      intro e he
      have := htypes e he
      rcases ht with rfl | rfl <;> simp [this]
    simp [hnone]
  refine (inRun_of_run hrun).trans ?_
  simp only [hread, hlen, hcrc, hearly, decide_true, Bool.and_self, if_true]
  refine congrArg _ ((advance_early_done ?_ ?_ ?_ ?_ ?_ ?_).trans ?_)
  case refine_5 => exact stepEnded_iff.mpr ⟨rfl, rfl, hready, happlying, fun k => by simp [hpres]⟩
  case refine_6 => simp [testsEnded, htests]
  all_goals first | rfl | exact hready | exact hlive

/-- Settles O13. -/
theorem loaderSections : Obligations.LoaderSections := by
  refine ⟨fun s k tries data e hrun hread he => ⟨fun hlen hcrc htodo hready hfree hstate => ?_, fun hcrc htries => ?_⟩,
    fun s k tries e hrun hread he => ⟨fun htries => ?_, fun htries htodo j hpres hstate => ?_⟩⟩
  case refine_1 =>
    rw [exec_ldrSectionReadDone hrun hread, he, if_pos (by simp [hlen, hcrc])]
    refine congrArg _ ((advance_presents (k := k) (bytes := data) (by exact hstate) (by exact htodo) (by exact hfree)
      (by simp [hready])).trans ?_)
    subst he
    rfl
  case refine_2 =>
    rw [exec_ldrSectionReadDone hrun hread, he, if_neg (by simp [hcrc]), if_pos htries, readSection_eq, he]
  case refine_3 =>
    rw [exec_ldrReadTimeout hrun hread, if_pos htries, readSection_eq, he]
  case refine_4 =>
    let u := endSection k 0x10 (modLoader (fun l => { l with read := .none }) s)
    have hquiet : State.Quiet { s with loader := ({ s.loader with read := .none } : Loader).ended k 0x10 } u :=
      endSection_quiet k 0x10 (modLoader (fun l => { l with read := .none }) s)
    have hexec : exec .ldrReadTimeout s = .next u := by
      rw [exec_ldrReadTimeout hrun hread, if_neg (by omega), advance_step_open (s := u)]
      · rw [hquiet.loader_eq]; exact hstate
      · exact takeSections_none (.inl (by rw [hquiet.loader_eq]; exact htodo))
      · exact vfyNext_presented (by rw [hquiet.verify_eq]; exact hpres)
      · exact stepEnded_presented (by rw [hquiet.verify_eq]; exact hpres)
    exact ⟨u, hexec, hquiet, fun hring hroom => he ▸ endSection_unread_queue (s := modLoader _ s) (by exact hring) (by exact hroom)⟩

/-- Settles O14. -/
theorem verifyAnswers : Obligations.VerifyAnswers := by
  intro s k e hrun hpres he hread hready hlive hstate ended
  have hwait {u : State} (hloader : ∃ res, u.loader = s.loader.ended k res) (hstage : u.live = s.live) : advance u = u := by
    obtain ⟨res, hloader⟩ := hloader
    exact advance_step_open (.inr (by rw [hloader]; exact hstate)) (takeSections_none (.inr (by rw [hloader]; exact hread)))
      (vfyNext_idle (by rw [hloader]; exact hready) (by rw [hstage]; exact hlive)) (stepEnded_reading (by rw [hloader]; exact hread))
  refine ⟨fun htype hwedged => ?_, ?_, fun htimed => ?_⟩
  · have happly : applySection k s.verify.bytes (vfyFree s) =
        endSection k 0x01 (writeRecipes e.target s.verify.bytes (vfyFree s)) := by
      rw [← he]
      exact applySection_recipes _ (by rw [← htype, ← he]; rfl) hwedged
    refine ⟨_, (exec_verifyAnswer_accept hrun hpres).trans (congrArg _ ((congrArg advance happly).trans (hwait ⟨0x01, rfl⟩ rfl))), ?_⟩
    rfl
  · exact ⟨_, (exec_verifyAnswer_refuse hrun hpres).trans
      (congrArg _ (hwait ⟨_, endSection_loader ..⟩ ((endSection_quiet ..).live_eq))), endSection_quiet k 0x11 (vfyFree s)⟩
  · exact ⟨_, (exec_verifyTimeout hrun htimed hpres).trans
      (congrArg _ (hwait ⟨_, endSection_loader ..⟩ ((endSection_quiet ..).live_eq))), endSection_quiet k 0x12 (vfyFree s)⟩

end Sys2Proof.Proofs
end

section
/-! PROOFS. Codebook banks (O19 to O21): the writes of CB_CTRL and the end of a check, as one update of the bank each. -/

namespace Sys2Proof.Machine

variable {s : State} {n : Nat}

/-! ## A bank that takes actions (R77) -/

theorem cbFree_iff {b : Bank} : cbFree b = true ↔ b.state = .opn ∨ b.state = .valid ∨ b.state = .rejected := by
  simp [cbFree, or_assoc]

theorem not_cbFree_iff {b : Bank} : cbFree b = false ↔ b.state = .checking ∨ b.state = .switching := by
  cases h : b.state <;> simp [cbFree, h]

/-- What an action of CB_CTRL finds: its bank is written by software, and known by PRESET_ID. -/
def Bank.asked (b : Bank) (presetId : BitVec 4) : Bank := { b with presetId := presetId.toNat, user := .sw }

theorem Bank.asked_writable (b : Bank) (p : BitVec 4) : (b.asked p).writable = b.writable := rfl

theorem Bank.asked_setSide (b : Bank) (p : BitVec 4) (one : Bool) (sd : Side) :
    (b.asked p).setSide one sd = (b.setSide one sd).asked p := by
  cases one <;> rfl

section
variable {p : BitVec 4} {load commit switch : Bool} (hheld : bankHeld s n = false) (hwedged : (bank s n).wedged = false)
  (hn : n < s.banks.length)
include hheld hwedged hn

theorem cbCtrlWrite_free (hacts : actsOf load commit switch ≠ []) (hfree : cbFree (bank s n) = true) :
    cbCtrlWrite n p load commit switch s = runActs n (actsOf load commit switch) false (modBank n (fun b => b.asked p) s) := by
  have hfree' : cbFree (bank (modBank n (fun b => { b with presetId := p.toNat }) s) n) = true := by
    rw [bank_modBank_same hn]
    exact hfree
  rw [cbCtrlWrite, if_neg (by simp [hheld, hwedged])]
  cases h : actsOf load commit switch with
  | nil => exact absurd h hacts
  | cons a as =>
    dsimp only
    rw [if_pos hfree', modBank_modBank]
    rfl

theorem cbCtrlWrite_busy (hacts : actsOf load commit switch ≠ []) (hbusy : cbFree (bank s n) = false) :
    cbCtrlWrite n p load commit switch s = modBank n (fun b => { b with presetId := p.toNat, seqErr := true }) s := by
  have hbusy' : cbFree (bank (modBank n (fun b => { b with presetId := p.toNat }) s) n) = false := by
    rw [bank_modBank_same hn]
    exact hbusy
  rw [cbCtrlWrite, if_neg (by simp [hheld, hwedged])]
  cases h : actsOf load commit switch with
  | nil => exact absurd h hacts
  | cons a as =>
    dsimp only
    rw [if_neg (by simp [hbusy']), modBank_modBank]

end

/-! ## Actions in turn (R77) -/

theorem runActs_commit {rest : List CbAct} {after : Bool} (hfree : cbFree (bank s n) = true) :
    runActs n (.commit :: rest) after s = modBank n (fun b => { b with state := .checking, todo := rest }) s := by
  rw [runActs, if_neg (by simp [hfree])]

theorem runActs_load_known {rest : List CbAct} {after : Bool} {side : Side} (hfree : cbFree (bank s n) = true)
    (hknown : preset (bank s n).presetId = some side) : runActs n (.load :: rest) after s =
      modBank n (fun b => { (b.setSide b.writable side) with state := .checking, todo := rest }) s := by
  rw [runActs]
  dsimp only
  rw [if_neg (by simp [hfree]), hknown]

theorem runActs_load_unknown {rest : List CbAct} {after : Bool} (hfree : cbFree (bank s n) = true)
    (hunknown : preset (bank s n).presetId = none) : runActs n (.load :: rest) after s =
      runActs n rest true (modBank n (fun b => { b with reject := 8, state := .rejected }) s) := by
  rw [runActs]
  dsimp only
  rw [if_neg (by simp [hfree]), hunknown]

theorem exec_cbCommit {p : BitVec 4} {sw : Bool} (hrun : s.rst = .run) (hn : n < 16) :
    exec (.cbCommit n p sw) s = .next (cbCtrlWrite n p false true sw (emit (.cpAck false) s)) :=
  (inRun_of_run hrun).trans (if_neg (by omega))

theorem exec_cbLoadPreset {p : BitVec 4} {commit sw : Bool} (hrun : s.rst = .run) (hn : n < 16) :
    exec (.cbLoadPreset n p commit sw) s = .next (advance (cbCtrlWrite n p true commit sw (emit (.cpAck false) s))) :=
  (inRun_of_run hrun).trans (if_neg (by omega))

theorem exec_cbCheckDone (hrun : s.rst = .run) (hn : n < 16) (hstate : (bank s n).state = .checking) :
    exec (.cbCheckDone n) s = .next (advance (checkDone n s)) :=
  (inRun_of_run hrun).trans (if_neg (by simp [hstate]; omega))

/-- The bank after the end of a check that found `code` (R43, R77). -/
def Bank.checked (b : Bank) (code : Nat) : Bank :=
  if code = 0 then { b with reject := 0, liveValid := true, state := if b.liveValid then .valid else .opn }
  else { b with reject := code, state := .rejected }

/-- The end of a check that software has started, with no action to follow. -/
theorem checkDone_sw (huser : (bank s n).user = .sw) (htodo : (bank s n).todo = []) : checkDone n s =
    modBank n (fun b => { b.checked ((bank s n).side (bank s n).writable).check with user := .sw, todo := [] }) s := by
  rw [checkDone]
  simp only [huser, htodo]
  rw [runActs, modBank_modBank, modBank_modBank]
  rfl

/-- Every preset passes the check (R45). -/
theorem preset_check {id : Nat} {side : Side} (h : preset id = some side) : side.check = 0 := by
  unfold preset at h
  split at h <;> cases h
  all_goals decide +kernel

end Sys2Proof.Machine

namespace Sys2Proof.Proofs
open Sys2Proof.Machine

/-- Settles O19. -/
theorem codebookCommit : Obligations.CodebookCommit := by
  intro s n p sw hrun hn hlen hheld hwedged
  have hacts : actsOf false true sw ≠ [] := by simp [actsOf]
  refine ⟨fun hstate => ?_, fun hstate => ?_⟩
  · have hfree : cbFree (bank (modBank n (fun b => b.asked p) (emit (.cpAck false) s)) n) = true := by
      rw [bank_modBank_same (by exact hlen)]
      exact cbFree_iff.mpr hstate
    have hexec := exec_cbCommit (p := p) (sw := sw) hrun hn
    rw [cbCtrlWrite_free (by exact hheld) (by exact hwedged) (by exact hlen) hacts (cbFree_iff.mpr (by exact hstate)),
      show actsOf false true sw = .commit :: (if sw then [.switch] else []) from rfl, runActs_commit hfree, modBank_modBank] at hexec
    exact ⟨_, hexec, rfl, bank_modBank_same (by exact hlen), fun m hm => bank_modBank_other hm⟩
  · have hexec := exec_cbCommit (p := p) (sw := sw) hrun hn
    rw [cbCtrlWrite_busy (by exact hheld) (by exact hwedged) (by exact hlen) hacts (not_cbFree_iff.mpr (by exact hstate))] at hexec
    exact ⟨_, hexec, rfl, bank_modBank_same (by exact hlen), fun m hm => bank_modBank_other hm⟩

/-- Settles O20: the loader, whose sequence has ended, takes no part (`advance_idle`). -/
theorem codebookLoadPreset : Obligations.CodebookLoadPreset := by
  intro s n p hrun hn hlen hheld hwedged hstate hdone htodo hready hlive
  have hfree : cbFree (bank (modBank n (fun b => b.asked p) (emit (.cpAck false) s)) n) = true := by
    rw [bank_modBank_same (by exact hlen)]
    exact cbFree_iff.mpr hstate
  have hasked : (bank (modBank n (fun b => b.asked p) (emit (.cpAck false) s)) n).presetId = p.toNat := by
    rw [bank_modBank_same (by exact hlen)]
    rfl
  have hidle (u : State) (hloader : u.loader = s.loader) (hstage : u.live = s.live) : advance u = u :=
    advance_idle (.inl (hloader ▸ hdone)) (hloader ▸ htodo) (hloader ▸ hready) (hstage ▸ hlive)
  have hexec := exec_cbLoadPreset (p := p) (commit := false) (sw := false) hrun hn
  rw [cbCtrlWrite_free (by exact hheld) (by exact hwedged) (by exact hlen) (by simp [actsOf]) (cbFree_iff.mpr (by exact hstate)),
    show actsOf true false false = [.load] from rfl] at hexec
  cases hpreset : preset p.toNat with
  | some side =>
    rw [runActs_load_known hfree (hasked ▸ hpreset), modBank_modBank] at hexec
    refine ⟨_, hexec.trans (congrArg _ (hidle _ (by rfl) (by rfl))), rfl, fun sd hsd => ?_, fun h => by simp at h, fun m hm => bank_modBank_other hm⟩
    obtain rfl := Option.some.inj hsd
    refine ⟨(bank_modBank_same (by exact hlen)).trans ?_, preset_check hpreset⟩
    rw [Bank.asked_setSide, Bank.asked_writable]
    rfl
  | none =>
    rw [runActs_load_unknown hfree (hasked ▸ hpreset), runActs, modBank_modBank, modBank_modBank] at hexec
    exact ⟨_, hexec.trans (congrArg _ (hidle _ (by rfl) (by rfl))), rfl, fun _ h => by simp at h, fun _ => bank_modBank_same (by exact hlen), fun m hm => bank_modBank_other hm⟩

/-- Settles O21. -/
theorem codebookCheckDone : Obligations.CodebookCheckDone := by
  intro s n hrun hn hlen hstate huser htodo hdone hltodo hready hlive
  have hexec := exec_cbCheckDone hrun hn hstate
  rw [checkDone_sw huser htodo, advance_idle (.inl (by exact hdone)) (by exact hltodo) (by exact hready) (by exact hlive)] at hexec
  refine ⟨_, hexec, rfl, ?_, fun m hm => bank_modBank_other hm⟩
  rw [bank_modBank_same hlen, Bank.checked]
  dsimp only
  split <;> simp only [huser, htodo]

end Sys2Proof.Proofs
end

section
/-! PROOFS. Live updates (O16, O17). -/

namespace Sys2Proof.Machine

variable {s : State}

theorem exec_imgLiveGo (hrun : s.rst = .run) : exec .imgLiveGo s = .next (liveGo (emit (.cpAck false) s)) := inRun_of_run hrun

theorem liveGo_starts (hboot : s.loader.bootDone = true) (hidle : s.live.stage = .idle) : liveGo s =
    startRead .liveEntry [(s.live.addrHi.toNat * 2 ^ 32 + s.live.addrLo.toNat, 32)]
      { s with live := { s.live with stage := .readEntry, buf := s.live.addrHi.toNat * 2 ^ 32 + s.live.addrLo.toNat } } :=
  if_neg (by simp [hboot, hidle])

theorem liveGo_ignored (h : s.loader.bootDone = false ∨ s.live.stage ≠ .idle) : liveGo s = s :=
  if_pos (by rcases h with h | h <;> simp [h])

/-- The side that a CODEBOOK section gives (R362). -/
def sectionSide (bytes : List Byte) : Side :=
  ⟨((chunks 4 bytes).map (fun w => (BitVec.ofNat 32 (leNat w) : Word))).headD 0 &&& 0xFF3F,
    ((chunks 4 bytes).map (fun w => (BitVec.ofNat 32 (leNat w) : Word))).drop 1⟩

theorem cbFree_setSide (b : Bank) (one : Bool) (sd : Side) : cbFree (b.setSide one sd) = cbFree b := by
  cases one <;> rfl

/-- A bank whose writable side a section with its own codebook fills (R363). -/
def Bank.filled (b : Bank) (user : CbUser) (sd : Side) : Bank :=
  { (b.setSide b.writable sd) with user := user, state := .checking, todo := [] }

theorem applyCodebook_own {e : Section} {bytes : List Byte} {user : CbUser} (hparam : e.param = 0)
    (hlen : e.target < s.banks.length) (hfree : cbFree (bank s e.target) = true) :
    applyCodebook e bytes user s = modBank e.target (fun b => b.filled user (sectionSide bytes)) s := by
  have hfill (b : Bank) : ({ ({ b with user := user }.setSide { b with user := user }.writable (sectionSide bytes)) with
      state := .checking, todo := [] } : Bank) = b.filled user (sectionSide bytes) := by
    unfold Bank.filled Bank.setSide
    rw [show ({ b with user := user } : Bank).writable = b.writable from rfl]
    split <;> rfl
  rw [applyCodebook, if_neg (by simp [hparam])]
  refine (runActs_commit ?_).trans ?_
  · rw [modBank_modBank, bank_modBank_same hlen, cbFree_setSide]
    exact hfree
  · rw [modBank_modBank, modBank_modBank]
    exact congrArg (fun f => modBank e.target f s) (funext hfill)

section
variable (b : Bank) (user : CbUser) (sd : Side)

theorem Bank.filled_live : (b.filled user sd).live = b.live := Bank.setSide_live ..

theorem Bank.filled_gen : (b.filled user sd).gen = b.gen := by
  unfold Bank.filled Bank.setSide
  split <;> rfl

/-- With a live side in use the writable side is the other one, so what is in use stays (R75). -/
theorem Bank.filled_liveSide (hvalid : b.liveValid = true) : (b.filled user sd).liveSide = b.liveSide := by
  have hwritable : b.writable = !b.live := by simp [Bank.writable, hvalid]
  unfold Bank.filled Bank.liveSide Bank.setSide
  rw [hwritable]
  cases b.live <;> rfl

end

theorem exec_seqCodeShadowSwap {t : Nat} {q old : SeqSlot} (hrun : s.rst = .run) (hshadow : s.seqShadow = some (t, q))
    (hold : s.seqSlots.getD t none = some old) (htasks : tasksUnder s old.opset = false) (hwedged : s.health.wedgedSeq = false) :
    exec .seqCodeShadowSwap s =
      .next (endLive 0x01 { s with seqShadow := none, seqSlots := modAt s.seqSlots t (fun _ => some q) }) := by
  refine (inRun_of_run hrun).trans ?_
  simp only [hshadow, hold, htasks, hwedged]
  rfl

end Sys2Proof.Machine

namespace Sys2Proof.Proofs
open Sys2Proof.Machine

/-- Settles O16. -/
theorem liveUpdates : Obligations.LiveUpdates := by
  refine ⟨fun s hrun => ⟨fun hboot hidle => ?_, fun h => ?_⟩, fun s n hrun hstage htarget hlen hwedged hstate hparam => ?_⟩
  · have hexec := (exec_imgLiveGo hrun).trans (congrArg _ (liveGo_starts (by exact hboot) (by exact hidle)))
    obtain ⟨ports, ctlWait, jobs, nextJob, health, outs, heq, hjob⟩ :=
      startRead_exists .liveEntry [(s.live.addrHi.toNat * 2 ^ 32 + s.live.addrLo.toNat, 32)] { emit (.cpAck false) s with
        live := { s.live with stage := .readEntry, buf := s.live.addrHi.toNat * 2 ^ 32 + s.live.addrLo.toNat } }
    exact ⟨_, hexec.trans (congrArg _ heq), rfl, rfl, hjob⟩
  · exact (exec_imgLiveGo hrun).trans (congrArg _ (liveGo_ignored (by exact h)))
  · subst htarget
    have hfree := cbFree_iff.mpr hstate
    have hexec : exec .liveCodebookApply s = .next (liveCodebook s) :=
      (inRun_of_run hrun).trans (if_pos (by simp [hstage, bankTakes, hfree]))
    rw [liveCodebook, if_neg (by simp [hwedged]), applyCodebook_own hparam (by exact hlen) (by exact hfree)] at hexec
    refine ⟨_, hexec, rfl, ?_⟩
    rw [bank_modBank_same (by exact hlen)]
    exact ⟨rfl, Bank.filled_live .., Bank.filled_gen .., fun hvalid => Bank.filled_liveSide _ _ _ hvalid,
      fun m hm => bank_modBank_other hm⟩

/-- Settles O17. -/
theorem seqCodeSwap : Obligations.SeqCodeSwap :=
  fun _ _ _ _ hrun hshadow hold htasks hwedged => exec_seqCodeShadowSwap hrun hshadow hold htasks hwedged

end Sys2Proof.Proofs
end

section
/-! PROOFS. The self-tests (O15): what a failing store changes, and what follows the last self-test. -/

namespace Sys2Proof.Machine

variable {s : State}

/-! ## Stores that fail (R357) -/

/-- A region in which physical core `c` is retired at reset: the spare takes its position, or the position stays vacant (R357, R365). -/
def Region.retireAtReset (x : Region) (c : Nat) : Region :=
  let pos := firstIdx (fun p : Pos => !p.vacant && p.phys == c) x.pos
  let spare := x.spareFree && c != 64
  { x with
    phys := modAt x.phys c (fun p => { p with retired := true })
    pos := match pos with
      | none => x.pos
      | some p => modAt x.pos p (fun y => if spare then { y with phys := 64 } else { y with vacant := true })
    spareFree := if c = 64 || (spare && pos.isSome) then false else x.spareFree }

theorem region_modPhys_pos (r c : Nat) (f : Phys → Phys) (s : State) : (region (modPhys r c f s) r).pos = (region s r).pos := by
  rw [modPhys, region_modRegion]
  split <;> rfl

theorem region_modPhys_spareFree (r c : Nat) (f : Phys → Phys) (s : State) :
    (region (modPhys r c f s) r).spareFree = (region s r).spareFree := by
  rw [modPhys, region_modRegion]
  split <;> rfl

theorem retireAtReset_eq {r c : Nat} (cause : Nat) (h : ((region s r).phys.getD c Phys.reset).retired = false) :
    retireAtReset r c cause s = logEvent 0x76 1 r c noCtx
      (((firstIdx (fun p : Pos => !p.vacant && p.phys == c) (region s r).pos).getD noPos) * 2 ^ 16 + cause) 0
      (modRegion r (fun x => x.retireAtReset c) s) := by
  rw [Machine.retireAtReset, if_neg (by rw [h]; simp)]
  simp only [region_modPhys_pos, region_modPhys_spareFree]
  congr 1
  rw [modRegion_const r (fun x => x.retireAtReset c), Region.retireAtReset]
  cases firstIdx (fun p : Pos => !p.vacant && p.phys == c) (region s r).pos with
  | none =>
    simp only [Option.isSome_none, Bool.and_false, Bool.or_false]
    split
    · rw [modPhys, modRegion_modRegion, modRegion_const]
    · rw [modPhys, modRegion_const]
  | some p =>
    simp only [Option.isSome_some, Bool.and_true]
    split
    · rw [modPhys, modPos, modRegion_modRegion, modRegion_modRegion, modRegion_const]
    · rw [modPhys, modPos, modRegion_modRegion, modRegion_const]

/-! ### What the failure of a store leaves alone -/

/-- A state in which stores have been found to fail: beside traffic, only what R357 names. -/
def State.StoresFailed (s t : State) : Prop := t = { s.withTraffic t with
  regions := t.regions, banks := t.banks, ctxs := t.ctxs, exch := t.exch, badCtx := t.badCtx, badSlots := t.badSlots } ∧
  t.regions.map (·.ready) = s.regions.map (·.ready)

theorem map_ready_modAt (l : List Region) (r : Nat) {f : Region → Region} (hf : ∀ x, (f x).ready = x.ready) :
    (modAt l r f).map (·.ready) = l.map (·.ready) := by
  refine List.ext_getElem (by simp) fun j _ _ => ?_
  simp only [List.getElem_map, modAt, List.getElem_modify]
  split
  · exact hf _
  · rfl

theorem State.StoresFailed.refl (s : State) : s.StoresFailed s := ⟨rfl, rfl⟩

theorem State.StoresFailed.trans {s t u : State} (h : s.StoresFailed t) (k : t.StoresFailed u) : s.StoresFailed u := by
  obtain ⟨h, hr⟩ := h
  obtain ⟨k, kr⟩ := k
  refine ⟨?_, kr.trans hr⟩
  rw [h] at k
  exact k

theorem State.Quiet.storesFailed {s t : State} (h : s.Quiet t) : s.StoresFailed t := by
  obtain ⟨ports, ctlWait, jobs, nextJob, health, outs, rfl⟩ := h.exists
  exact ⟨rfl, rfl⟩

theorem modRegion_storesFailed {s : State} (r : Nat) {f : Region → Region} (hf : ∀ x, (f x).ready = x.ready) :
    s.StoresFailed (modRegion r f s) := ⟨rfl, map_ready_modAt _ _ hf⟩

theorem retireAtReset_storesFailed (r c cause : Nat) (s : State) : s.StoresFailed (retireAtReset r c cause s) := by
  by_cases h : ((region s r).phys.getD c Phys.reset).retired = false
  · rw [retireAtReset_eq cause h]
    exact (modRegion_storesFailed r (f := fun x => x.retireAtReset c) (fun _ => rfl)).trans (logEvent_quiet (.refl _)).storesFailed
  · rw [Machine.retireAtReset, if_pos (by simpa using h)]
    exact .refl s

theorem bankTurnAway_storesFailed (n : Nat) (s : State) : s.StoresFailed (bankTurnAway n s) := by
  rw [bankTurnAway_frame]
  exact ⟨rfl, rfl⟩

theorem wedgeBank_storesFailed (n : Nat) (s : State) : s.StoresFailed (wedgeBank n s) := by
  unfold wedgeBank
  split
  · exact .refl s
  · refine .trans (t := bankTurnAway n (modBank n (fun b => { b with wedged := true }) s)) ?_ (logEvent_quiet (.refl _)).storesFailed
    exact .trans (t := modBank n (fun b => { b with wedged := true }) s) ⟨rfl, rfl⟩ (bankTurnAway_storesFailed _ _)

theorem wedgeRecipes_quiet (s : State) : s.Quiet (wedgeRecipes s) := by
  unfold wedgeRecipes
  split
  · exact .refl s
  · exact logEvent_quiet (modHealth_quiet (.refl s))

theorem wedgeSeq_quiet (s : State) : s.Quiet (wedgeSeq s) := by
  unfold wedgeSeq
  split
  · exact .refl s
  · exact logEvent_quiet (modHealth_quiet (.refl s))

theorem failStore_storesFailed (r : Nat) (f : FailStore) (s : State) : s.StoresFailed (failStore r f s) := by
  cases f with
  | headland c => exact retireAtReset_storesFailed r c 2 s
  | dmaBuffer c => exact modRegion_storesFailed r (fun _ => rfl)
  | slot | scoreboard | context | agreement => exact ⟨rfl, rfl⟩
  | bank n => exact wedgeBank_storesFailed n s
  | recipes => exact (wedgeRecipes_quiet s).storesFailed
  | seqCode => exact (wedgeSeq_quiet s).storesFailed

/-- The failing stores of a self-test, each logged and then recorded (R357, R374). -/
def noteFails (kind r : Nat) (unit : FailStore → Nat) (fails : List SelfFail) (s : State) : State :=
  fails.foldl (fun s f => failStore r f.store
    (logEvent 0x75 kind r (unit f.store) 0xFFFF ((failCode f.store).1 * 2 ^ 16 + (failCode f.store).2) f.row s)) s

theorem noteFails_storesFailed (kind r : Nat) (unit : FailStore → Nat) (fails : List SelfFail) :
    ∀ s : State, s.StoresFailed (noteFails kind r unit fails s) := by
  induction fails with
  | nil => exact State.StoresFailed.refl
  | cons f fails ih =>
    exact fun s => .trans ((logEvent_quiet (.refl s)).storesFailed.trans (failStore_storesFailed r f.store _)) (ih _)

section
variable {t : State} (h : s.StoresFailed t)
include h

theorem State.StoresFailed.loader_eq : t.loader = s.loader := by rw [h.1]; rfl

theorem State.StoresFailed.live_eq : t.live = s.live := by rw [h.1]; rfl

theorem State.StoresFailed.all_ready_iff : (∀ x ∈ t.regions, x.ready = true) ↔ ∀ x ∈ s.regions, x.ready = true := by
  have hall (l : List Region) : (∀ x ∈ l, x.ready = true) ↔ ∀ b ∈ l.map (·.ready), b = true := by simp
  rw [hall, h.2, ← hall]

end

/-! ## The ends of the self-tests (R355 step 4) -/

/-- A region that is ready, with the credits of its ports (R388). -/
def openRegion (r : Nat) (s : State) : State :=
  emits ((List.range s.build.clustersPerRegion).map (fun k => .istCredits (r * s.build.clustersPerRegion + k) 32))
    (modRegion r (fun x => { x with ready := true }) s)

theorem exec_regionSelftestDone {r : Nat} {fails : List SelfFail} (hrun : s.rst = .run) (hstate : s.loader.state = .selftest)
    (hr : r < s.regions.length) (hready : (region s r).ready = false) : exec (.regionSelftestDone r fails) s =
      .next (advance (noteFails 1 r failUnit fails (openRegion r s))) :=
  (inRun_of_run hrun).trans (if_neg (by simp [hstate, hready]; omega))

theorem exec_controlSelftestDone {fails : List SelfFail} (hrun : s.rst = .run) (hstate : s.loader.state = .selftest)
    (htest : s.loader.selftestDone = false) : exec (.controlSelftestDone fails) s =
      .next (advance (noteFails 0 0 (fun _ => 0) fails (modLoader (fun l => { l with selftestDone := true }) s))) :=
  (inRun_of_run hrun).trans (if_neg (by simp [hstate, htest]))

/-- The sequence goes on waiting where the self-test that has ended is not the last. -/
theorem advance_storesFailed {t : State} (h : s.StoresFailed t) (hstate : s.loader.state = .selftest) (htodo : s.loader.todo = [])
    (hready : s.loader.ready = []) (hlive : s.live.stage ≠ .waitVerify)
    (hopen : s.loader.selftestDone = false ∨ ∃ x ∈ s.regions, x.ready = false) : advance t = t := by
  have htests : testsEnded t = false := by
    rw [Bool.eq_false_iff, Ne, testsEnded_iff, h.all_ready_iff, h.loader_eq]
    rintro ⟨hdone, hall⟩
    rcases hopen with htest | ⟨x, hx, hrdy⟩
    · simp [htest] at hdone
    · simp [hall x hx] at hrdy
  rw [← h.loader_eq] at hstate htodo hready
  rw [← h.live_eq] at hlive
  exact advance_untested (.inl hstate) (takeSections_none (.inl htodo)) (vfyNext_idle hready hlive) htests

/-! ## What follows the last self-test (R355 step 5) -/

/-- The sections that are pending. -/
def Loader.pending (l : Loader) : List Nat := (List.range l.table.length).filter (fun k => l.res.getD k 0 == 2)

/-- A section that has nothing against it and a length is read. -/
theorem takeSections_reads {fuel k : Nat} {ks : List Nat} {e : Section} (hread : s.loader.read = .none) (htodo : s.loader.todo = k :: ks)
    (he : s.loader.table.getD k ⟨[]⟩ = e) (hknown : knownType e.type = true) (hbad : entryBad e = false)
    (hoffset : offsetBad s.loader.table.length e = false) (hopen : dupOpen s.loader k e = false)
    (hdup : entryDup s.loader k e = false) (hlen : e.length ≠ 0) :
    takeSections (fuel + 1) s = readSection k 0 (modLoader (fun l => { l with todo := ks }) s) := by
  rw [takeSections, if_neg (by simp [hread])]
  simp only [htodo, he, hknown, hbad, hoffset, hopen, hdup, if_neg hlen]
  rfl

section
variable (hstate : s.loader.state = .selftest) (htodo : s.loader.todo = []) (hready : s.loader.ready = [])
  (hlive : s.live.stage ≠ .waitVerify) (htests : testsEnded s = true)
include hstate htodo hready hlive htests

theorem advance_tested : advance s =
    ldrAdvance 3 (modLoader (fun l => { l with state := .sections, todo := s.loader.pending }) s) := by
  rw [advance, ldrAdvance_selftest (takeSections_none (.inl htodo)) (vfyNext_idle hready hlive) hstate, if_pos htests]
  rfl

theorem advance_boots (hread : s.loader.read = .none) (happlying : s.loader.applying = []) (hpres : s.verify.presented = none) (hpending : s.loader.pending = []) :
    advance s = bootDone (modLoader (fun l => { l with state := .sections, todo := [] }) s) := by
  rw [advance_tested hstate htodo hready hlive htests, hpending]
  refine (ldrAdvance_sections (takeSections_none (.inl rfl)) (vfyNext_idle (by exact hready) (by exact hlive)) rfl).trans (if_pos ?_)
  exact stepEnded_iff.mpr ⟨rfl, hread, hready, happlying, fun k => by simp [hpres]⟩

theorem advance_reads_first {k : Nat} {ks : List Nat} {e : Section} (hread : s.loader.read = .none) (hpending : s.loader.pending = k :: ks)
    (he : s.loader.table.getD k ⟨[]⟩ = e) (hknown : knownType e.type = true) (hbad : entryBad e = false)
    (hoffset : offsetBad s.loader.table.length e = false) (hopen : dupOpen s.loader k e = false)
    (hdup : entryDup s.loader k e = false) (hlen : e.length ≠ 0) : advance s =
      readSection k 0 (modLoader (fun l => { l with state := .sections, todo := ks }) s) := by
  have htake : takeSections 257 (modLoader (fun l => { l with state := .sections, todo := k :: ks }) s) =
      readSection k 0 (modLoader (fun l => { l with state := .sections, todo := ks }) s) :=
    takeSections_reads (by exact hread) rfl (by exact he) hknown hbad hoffset (by exact hopen) (by exact hdup) hlen
  rw [advance_tested hstate htodo hready hlive htests, hpending, ldrAdvance, htake, vfyNext_idle (by exact hready) (by exact hlive)]
  exact if_neg (by rw [stepEnded_reading (by simp [readSection_eq])]; simp)

end

/-- BOOT_DONE with an image (R355 step 6, R374). -/
theorem bootDone_sections (hstate : s.loader.state = .sections) (htodo : s.loader.todo = []) : bootDone s =
    logEvent 0x78 4 0 0 0xFFFF (imgStat { s.loader with state := .done, todo := [], bootDone := true }).toNat s.loader.imageId.toNat
      { s with loader := { s.loader with state := .done, todo := [], bootDone := true } } := by
  have hloader : ({ s.loader with bootDone := true, state := if s.loader.state == .noImage then .noImage else .done } : Loader) =
      { s.loader with state := .done, todo := [], bootDone := true } := by
    rw [hstate, ← htodo]
    rfl
  rw [bootDone, modLoader, hloader]
  rfl

/-! ## A core that is retired at reset (R357) -/

section
variable {x : Region} {c p : Nat}

theorem Region.retireAtReset_phys {y : Phys} (hy : x.phys[c]? = some y) :
    (x.retireAtReset c).phys[c]? = some { y with retired := true } := by
  simp [Region.retireAtReset, modAt, hy]

variable (hp : firstIdx (fun q : Pos => !q.vacant && q.phys == c) x.pos = some p)
include hp

theorem Region.retireAtReset_spareFree : (x.retireAtReset c).spareFree = false := by
  rw [Region.retireAtReset, hp]
  cases h : x.spareFree
  all_goals simp

theorem Region.retireAtReset_pos (hc : c < 64) : (x.retireAtReset c).pos =
    modAt x.pos p (fun y => if x.spareFree then { y with phys := 64 } else { y with vacant := true }) := by
  rw [Region.retireAtReset, hp]
  simp [Nat.ne_of_lt hc]

end

theorem region_lt_of_pos {r : Nat} {f : Pos → Bool} {p : Nat} (h : firstIdx f (region s r).pos = some p) : r < s.regions.length := by
  by_contra hr
  have hpos : (region s r).pos = [] := by rw [region, List.getD_eq_default _ _ (by omega)]; rfl
  rw [hpos] at h
  cases h

theorem pos_lt_of_firstIdx {l : List Pos} {f : Pos → Bool} {p : Nat} (h : firstIdx f l = some p) : p < l.length :=
  (List.findIdx?_eq_some_iff_getElem.mp h).1

/-! ## A store that is wedged (R340) -/

theorem wedgeBank_wedged {n : Nat} (h : n < s.banks.length) : (bank (wedgeBank n s) n).wedged = true := by
  unfold wedgeBank
  split
  · assumption
  · have hlog : ∀ {u : State}, bank (logEvent 0x10 0 0 0 noCtx (16 + n) 0 u) n = bank u n := fun {u} =>
      congrArg (fun l => l.getD n Bank.reset) ((logEvent_quiet (.refl u)).banks_eq)
    rw [hlog, bankTurnAway_frame]
    refine (congrArg Bank.wedged (getD_modAt (modAt s.banks n fun b => { b with wedged := true }) n n _ Bank.reset)).trans ?_
    rw [getD_modAt]
    simp [h]

theorem wedgeRecipes_wedged (s : State) : (wedgeRecipes s).health.wedgedRecipes = true := by
  unfold wedgeRecipes
  split
  · assumption
  · obtain ⟨queue, logLost, phase, h⟩ :=
      logEvent_health 0x10 0 0 0 noCtx 0 0 (modHealth (fun h => { h with wedgedRecipes := true }) s)
    rw [h]
    rfl

theorem wedgeSeq_wedged (s : State) : (wedgeSeq s).health.wedgedSeq = true := by
  unfold wedgeSeq
  split
  · assumption
  · obtain ⟨queue, logLost, phase, h⟩ :=
      logEvent_health 0x10 0 0 0 noCtx 1 0 (modHealth (fun h => { h with wedgedSeq := true }) s)
    rw [h]
    rfl

end Sys2Proof.Machine

namespace Sys2Proof.Proofs
open Sys2Proof.Machine

/-- Settles O15. -/
theorem selfTestsEnd : Obligations.SelfTestsEnd := by
  refine ⟨?ends, fun s r => ⟨fun c => rfl, fun c => rfl, fun t => rfl, fun e => rfl, fun l => rfl, fun n hn => wedgeBank_wedged hn,
    wedgeRecipes_wedged s, wedgeSeq_wedged s, fun c p y hc hy hret hp => ?headland⟩⟩
  case ends =>
    intro s hrun htodo hready hlive hstate opened control noted
    refine ⟨fun r fails hr hrdy htest => ?_, fun fails htest hopen => ?_, ?_⟩
    · exact (exec_regionSelftestDone hrun hstate hr hrdy).trans (congrArg _
        (advance_storesFailed (noteFails_storesFailed 1 r failUnit fails (openRegion r s)) hstate htodo hready hlive (.inl htest)))
    · exact (exec_controlSelftestDone hrun hstate htest).trans (congrArg _
        (advance_storesFailed (noteFails_storesFailed 0 0 (fun _ => 0) fails control) hstate htodo hready hlive (.inr hopen)))
    · intro hread happlying hpres pend goesOn
      have hgoes (u : State) (done : Bool) (hloader : u.loader = { s.loader with selftestDone := done }) (hulive : u.live = s.live)
          (hverify : u.verify = s.verify) (htests : testsEnded u = true) : goesOn u (.next (advance u)) := by
        have hustate : u.loader.state = .selftest := hloader ▸ hstate
        have hutodo : u.loader.todo = [] := hloader ▸ htodo
        have huready : u.loader.ready = [] := hloader ▸ hready
        have huread : u.loader.read = .none := hloader ▸ hread
        have hpending : u.loader.pending = pend := by rw [hloader]; rfl
        refine ⟨fun hnone => ?_, fun k ks hsome => ?_⟩
        · rw [advance_boots hustate hutodo huready (hulive ▸ hlive) htests huread (hloader ▸ happlying) (hverify ▸ hpres)
            (hpending.trans hnone), bootDone_sections rfl rfl]
          rfl
        · intro e hknown hbad hoffset hopen hdup hlen
          rw [advance_reads_first hustate hutodo huready (hulive ▸ hlive) htests huread (hpending.trans hsome) (e := e)
            (by rw [hloader]) hknown hbad (by rw [hloader]; exact hoffset) (by rw [hloader]; exact hopen)
            (by rw [hloader]; exact hdup) hlen, readSection_eq]
          have htable : (modLoader (fun l => { l with state := .sections, todo := ks }) u).loader.table.getD k ⟨[]⟩ = e := by
            simp only [modLoader_loader, hloader]
            rfl
          rw [htable]
          simp only [modLoader_loader, hloader]
          rfl
      refine ⟨fun htest hall => ?_, fun r hr hrdy htest hall => ?_⟩
      · rw [exec_controlSelftestDone hrun hstate htest]
        exact hgoes control true rfl rfl rfl (testsEnded_iff.mpr ⟨rfl, hall⟩)
      · rw [exec_regionSelftestDone hrun hstate hr hrdy]
        refine hgoes (opened r) s.loader.selftestDone rfl rfl rfl (testsEnded_iff.mpr ⟨htest, fun x hx => ?_⟩)
        obtain ⟨j, hj, rfl⟩ := List.getElem_of_mem hx
        have hjs : j < s.regions.length := by simpa [opened] using hj
        have hget : (opened r).regions[j] = region (opened r) j := by simp [region, hj]
        rw [hget]
        by_cases hjr : j = r
        · subst hjr
          exact congrArg Region.ready (region_modRegion_same (s := s) hjs)
        · exact (congrArg Region.ready (region_modRegion_other (s := s) hjr)).trans (hall j hjs hjr)
  case headland =>
    have hnot : ((region s r).phys.getD c Phys.reset).retired = false := by
      rw [List.getD_eq_getElem?_getD, hy]
      exact hret
    have hr := region_lt_of_pos hp
    have hregions : (failStore r (.headland c) s).regions = (modRegion r (fun x => x.retireAtReset c) s).regions := by
      rw [failStore, retireAtReset_eq 2 hnot]
      exact (logEvent_quiet (.refl _)).regions_eq
    have hsame : region (failStore r (.headland c) s) r = (region s r).retireAtReset c :=
      (region_congr hregions r).trans (region_modRegion_same hr)
    intro t
    refine ⟨?_, ?_, fun e he => (region_congr hregions e).trans (region_modRegion_other he), fun q hq => ?_, ?_⟩
    · rw [hsame]
      exact Region.retireAtReset_phys hy
    · rw [hsame]
      exact Region.retireAtReset_spareFree hp
    · rw [posOf, hsame, Region.retireAtReset_pos hp hc, getD_modAt, if_neg (fun h => hq h.1.symm)]
      rfl
    · rw [posOf, hsame, Region.retireAtReset_pos hp hc, getD_modAt, if_pos ⟨rfl, pos_lt_of_firstIdx hp⟩]
      rfl

end Sys2Proof.Proofs
end

section
/-! PROOFS. Rings, acceptance and the emission of records (O23 to O25, O27). -/

namespace Sys2Proof.Machine

variable {s : State} {c : Nat}

/-! ## The submission ring (R239) -/

/-- A doorbell write that is ignored: it passes the ring's size, or moves backwards outside DISABLED. -/
def Ctx.badDoorbell (x : Ctx) (data : Word) : Prop :=
  2 ^ x.subSize.toNat < dist32 data x.subCons ∨ (x.state ≠ .disabled ∧ 2 ^ 31 ≤ dist32 data x.subProd)

theorem badDoorbell_iff {x : Ctx} {data : Word} : (decide (2 ^ x.subSize.toNat < dist32 data x.subCons) ||
    (x.state != .disabled && decide (2 ^ 31 ≤ dist32 data x.subProd))) = true ↔ x.badDoorbell data := by
  simp [Ctx.badDoorbell]

theorem exec_ringSubProdWrite {data : Word} (hrun : s.rst = .run) :
    exec (.ringSubProdWrite c data) s = .next (subProdWrite c data (emit (.cpAck false) s)) := inRun_of_run hrun

theorem ctxOf_subProdWrite_bad {data : Word} (hc : c < s.ctxs.length) (h : (ctxOf s c).badDoorbell data) :
    ctxOf (subProdWrite c data s) c = { ctxOf s c with subErr := true } :=
  (ctxOf_modCtx_same hc).trans (if_pos (badDoorbell_iff.mpr h))

theorem ctxOf_subProdWrite_good {data : Word} (hc : c < s.ctxs.length) (h : ¬ (ctxOf s c).badDoorbell data) :
    ctxOf (subProdWrite c data s) c = { ctxOf s c with subProd := data } :=
  (ctxOf_modCtx_same hc).trans (if_neg (mt badDoorbell_iff.mp h))

/-! ## Acceptance (R240) -/

theorem slotFree_iff {x : Ctx} : x.slotFree = true ↔ x.graphs.length < 4 ∧ ∀ g ∈ x.graphs, g.slot ≠ x.subCons.toNat % 4 := by
  simp [Ctx.slotFree]

theorem exec_acceptEntry (hrun : s.rst = .run) (hc : c < s.ctxs.length) (hstate : (ctxOf s c).state = .enabled)
    (hquiet : (ctxOf s c).quiet = false) (haccept : (ctxOf s c).accept = .idle) (hring : (ctxOf s c).subCons ≠ (ctxOf s c).subProd)
    (hfree : (ctxOf s c).slotFree = true) : exec (.acceptEntry c none) s = .next (startRead (.accEntry c)
      [((ctxOf s c).subAddr (ctxOf s c).subCons, 64)] (modCtx c (fun x => { x with accept := .entry }) s)) :=
  (inRun_of_run hrun).trans (if_neg (by simp [applyUpsets, ctxBuilt, hc, hstate, hquiet, haccept, hring, hfree]))

theorem exec_acceptancePoint {g : Graph} (hrun : s.rst = .run) (haccept : (ctxOf s c).accept = .acked g) :
    exec (.acceptancePoint c) s = .next (modCtx c (fun x => { x with
      accept := .idle, subCons := cntMod x.subCons 1, graphs := x.graphs ++ [g] }) s) := by
  refine (inRun_of_run hrun).trans ?_
  simp only [haccept]

theorem cntMod_eq (w : Word) (n : Nat) : cntMod w n = BitVec.ofNat 32 ((w.toNat + n) % 2 ^ 32) :=
  BitVec.eq_of_toNat_eq (by simp [cntMod])

/-! ## Emission (R257) -/

theorem emitPump_idle (h : (ctxOf s c).emit = .idle) : emitPump c s = s := by
  unfold emitPump
  simp only [h]

theorem emitPump_cplWait (h : (ctxOf s c).emit = .cplWait) (hroom : (ctxOf s c).cplRoom = true) : ∃ addr data,
    emitPump c s = startWrite (.cplBody c) addr data (modCtx c (fun x => { x with emit := .cplBody }) s) := by
  unfold emitPump
  simp only [h, hroom]
  exact ⟨_, _, rfl⟩

theorem emitPump_glnWait {k : Nat} {g : Graph} {n : Node} {r : GRec} (h : (ctxOf s c).emit = .glnWait k)
    (hhead : (ctxOf s c).headNode = some (g, some n)) (hrec : n.recs[k]? = some r) (hroom : (ctxOf s c).glnRoom = true) :
    ∃ addr data,
      emitPump c s = startWrite (.glnBody c) addr data (modCtx c (fun x => { x with emit := .glnBody k }) s) := by
  unfold emitPump
  simp only [h, hhead, hrec, hroom]
  exact ⟨_, _, rfl⟩

theorem exec_ringCplReleaseWrite {data : Word} (hrun : s.rst = .run) : exec (.ringCplReleaseWrite c data) s =
    .next (emitPump c (modCtx c (fun x => { x with cplRelease := data }) (emit (.cpAck false) s))) := inRun_of_run hrun

theorem exec_glnReleaseWrite {data : Word} (hrun : s.rst = .run) : exec (.glnReleaseWrite c data) s =
    .next (emitPump c (modCtx c (fun x => { x with glnRelease := data }) (emit (.cpAck false) s))) := inRun_of_run hrun

theorem exec_nodeEmit {g : Graph} {n : Node} (hrun : s.rst = .run) (hc : c < s.ctxs.length) (hemits : (ctxOf s c).emits = true)
    (hidle : (ctxOf s c).emit = .idle) (hhead : (ctxOf s c).headNode = some (g, some n)) : exec (.nodeEmit c) s =
      .next (startWrite (.score c) ((ctxOf s c).scoreAddr g.slot g.emitted) (leBytes 1 n.status ++ leBytes 1 n.cause ++ [0, 0x80])
        (modCtx c (fun x => { x with emit := .score }) s)) := by
  refine (inRun_of_run hrun).trans ((if_neg ?_).trans ?_)
  · simp [ctxBuilt, hc, hemits, hidle]
  · simp only [hhead]

end Sys2Proof.Machine

namespace Sys2Proof.Proofs
open Sys2Proof.Machine

/-- Settles O23. -/
theorem submissionDoorbell : Obligations.SubmissionDoorbell := by
  intro s c data hrun hc x bad
  exact ⟨_, exec_ringSubProdWrite hrun, rfl, fun h => ctxOf_subProdWrite_bad (s := emit (.cpAck false) s) hc h,
    fun h => ctxOf_subProdWrite_good (s := emit (.cpAck false) s) hc h, fun d hd => ctxOf_modCtx_other (s := emit (.cpAck false) s) hd⟩

/-- Settles O24: the emission goes on where it waits (`emitPump`). -/
theorem recordRings : Obligations.RecordRings := by
  refine ⟨?_, ?_⟩
  · intro s c data hrun hc x
    have hctx (f : Ctx → Ctx) : ctxOf (modCtx c f (emit (.cpAck false) s)) c = f x := ctxOf_modCtx_same (by exact hc)
    refine ⟨fun hemit => ⟨?_, ?_⟩, fun hemit hroom => ?_, fun k g n r hemit hhead hrec hroom => ?_⟩
    · rw [exec_ringCplReleaseWrite hrun, emitPump_idle (by rw [hctx]; exact hemit)]
      rfl
    · rw [exec_glnReleaseWrite hrun, emitPump_idle (by rw [hctx]; exact hemit)]
      rfl
    · obtain ⟨addr, bytes, hpump⟩ := emitPump_cplWait (c := c) (s := modCtx c (fun x => { x with cplRelease := data }) (emit (.cpAck false) s))
        (by rw [hctx]; exact hemit) (by rw [hctx]; exact hroom)
      rw [modCtx_modCtx] at hpump
      obtain ⟨ports, ctlWait, jobs, nextJob, health, outs, hwrite, hjob⟩ := startWrite_exists (.cplBody c) addr bytes
        (modCtx c (fun x => { x with cplRelease := data, emit := .cplBody }) (emit (.cpAck false) s))
      exact ⟨_, (exec_ringCplReleaseWrite hrun).trans (congrArg _ (hpump.trans hwrite)), rfl, hctx _, hjob⟩
    · obtain ⟨addr, bytes, hpump⟩ := emitPump_glnWait (c := c) (s := modCtx c (fun x => { x with glnRelease := data }) (emit (.cpAck false) s))
        (by rw [hctx]; exact hemit) (by rw [hctx]; exact hhead) hrec (by rw [hctx]; exact hroom)
      rw [modCtx_modCtx] at hpump
      obtain ⟨ports, ctlWait, jobs, nextJob, health, outs, hwrite, hjob⟩ := startWrite_exists (.glnBody c) addr bytes
        (modCtx c (fun x => { x with glnRelease := data, emit := .glnBody k }) (emit (.cpAck false) s))
      exact ⟨_, (exec_glnReleaseWrite hrun).trans (congrArg _ (hpump.trans hwrite)), rfl, hctx _, hjob⟩
  · intro s c hrun hc x
    refine ⟨fun hemit => ?_, fun k hemit => ?_⟩
    all_goals
      refine (inRun_of_run hrun).trans ?_
      have hemit' : (ctxOf s c).emit = _ := hemit
      simp only [hemit']
      rfl

/-- Settles O25. -/
theorem graphAcceptance : Obligations.GraphAcceptance := by
  intro s c hrun hc x
  refine ⟨fun hstate hquiet haccept hring hroom hslot => ?_, fun g haccept => ?_⟩
  · exact exec_acceptEntry hrun hc hstate hquiet haccept hring (slotFree_iff.2 ⟨hroom, hslot⟩)
  · rw [exec_acceptancePoint hrun haccept]
    simp only [cntMod_eq]
    rfl

/-- Settles O27. -/
theorem nodeEmission : Obligations.NodeEmission :=
  fun _ _ _ _ hrun hc hemits hidle hhead => exec_nodeEmit hrun hc hemits hidle hhead

end Sys2Proof.Proofs
end

section
/-! PROOFS. The actions of a context: ENABLE, DISABLE, CANCEL, SAVE and RESTORE (R259 to R261, R268, R270), a context that has drained,
and a stall (R266, R267). -/

namespace Sys2Proof.Machine

variable {s : State} {c : Nat} {w : Word}

/-! ## SCH_CTX_CTRL (R259, R356) -/

/-- A context in DISABLED that reads no structures: the actions of R259 apply to it. -/
def Ctx.atRest (x : Ctx) : Prop := x.state = .disabled ∧ x.load = .idle

theorem Ctx.not_atRest {x : Ctx} : ¬ x.atRest ↔ x.state ≠ .disabled ∨ x.load ≠ .idle := by
  unfold Ctx.atRest
  tauto

theorem Ctx.busy_iff {x : Ctx} : (!(x.state == .disabled) || x.load != .idle) = true ↔ ¬ x.atRest := by
  simp [Ctx.not_atRest]

theorem Ctx.busy_eq_false {x : Ctx} (h : x.atRest) : (!(x.state == .disabled) || x.load != .idle) = false := by
  simp [h.1, h.2]

theorem ctxBuilt_eq_true (hc : c < s.ctxs.length) : ctxBuilt s c = true := decide_eq_true hc

theorem ctxCtrl_enable (hc : c < s.ctxs.length) : ctxCtrl c 1 s =
    if !s.loader.selftestDone || !((ctxOf s c).state == .disabled) || (ctxOf s c).load != .idle then ctxSeqErr c s else enable c s :=
  if_neg (by simp [ctxBuilt_eq_true hc])

theorem ctxCtrl_disable (hc : c < s.ctxs.length) : ctxCtrl c 2 s = disable c s :=
  if_neg (by simp [ctxBuilt_eq_true hc])

theorem ctxCtrl_cancel (hc : c < s.ctxs.length) : ctxCtrl c 4 s =
    if !((ctxOf s c).state == .disabled) || (ctxOf s c).load != .idle then ctxSeqErr c s else cancel c s :=
  if_neg (by simp [ctxBuilt_eq_true hc])

theorem ctxCtrl_save (hc : c < s.ctxs.length) : ctxCtrl c 8 s =
    if !s.loader.selftestDone || !((ctxOf s c).state == .disabled) || (ctxOf s c).load != .idle then ctxSeqErr c s else save c s :=
  if_neg (by simp [ctxBuilt_eq_true hc])

theorem ctxCtrl_restore (hc : c < s.ctxs.length) : ctxCtrl c 16 s =
    if !s.loader.selftestDone || !((ctxOf s c).state == .disabled) || (ctxOf s c).load != .idle || !(ctxOf s c).graphs.isEmpty then
      ctxSeqErr c s
    else restore c s :=
  if_neg (by simp [ctxBuilt_eq_true hc])

theorem exec_ctxEnable (hrun : s.rst = .run) : exec (.ctxEnable c) s = .next (ctxCtrl c 1 (emit (.cpAck false) s)) := inRun_of_run hrun

theorem exec_ctxDisable (hrun : s.rst = .run) : exec (.ctxDisable c) s = .next (ctxCtrl c 2 (emit (.cpAck false) s)) := inRun_of_run hrun

theorem exec_ctxCancel (hrun : s.rst = .run) : exec (.ctxCancel c) s = .next (ctxCtrl c 4 (emit (.cpAck false) s)) := inRun_of_run hrun

theorem exec_ctxSave (hrun : s.rst = .run) : exec (.ctxSave c) s = .next (ctxCtrl c 8 (emit (.cpAck false) s)) := inRun_of_run hrun

theorem exec_ctxRestore (hrun : s.rst = .run) : exec (.ctxRestore c) s = .next (ctxCtrl c 16 (emit (.cpAck false) s)) := inRun_of_run hrun

theorem enable_ok (hcfg : (ctxOf s c).configOk = true) (hstore : s.badCtx.contains c = false) : enable c s =
    startRead (.enHeader c) [((ctxOf s c).gran 0xFFFF, 64)] (modCtx c (fun x => { x with load := .header }) s) :=
  if_neg (by simp only [hcfg, hstore]; decide)

theorem enable_bad (h : (ctxOf s c).configOk = false ∨ s.badCtx.contains c = true) : enable c s = ctxCfgBad c s :=
  if_pos (by rcases h with h | h <;> simp only [h, Bool.not_false, Bool.true_or, Bool.or_true])

theorem restore_ok (hstore : s.badCtx.contains c = false) : restore c s =
    startRead (.restore c) [((ctxOf s c).img, 512)] (modCtx c (fun x => { x with state := .restoring }) s) :=
  if_neg (by simp only [hstore]; decide)

/-! ## DISABLE and CANCEL (R259, R261) -/

theorem disable_enabled (hstate : (ctxOf s c).state = .enabled) (haccept : (ctxOf s c).accept = .idle) :
    disable c s = modCtx c (fun x => { x with state := .draining }) s := by
  unfold disable acceptAbort
  simp only [hstate, haccept]

theorem disable_stalled (hstate : (ctxOf s c).state = .stopped) (hquiet : (ctxOf s c).quiet = false) :
    disable c s = modCtx c (fun x => { x with leaving := true }) s := by
  unfold disable
  simp only [hstate, hquiet]
  rfl

theorem disable_failed (hstate : (ctxOf s c).state = .stopped) (hquiet : (ctxOf s c).quiet = true) :
    disable c s = enterDisabled c (discardGraphs c s) := by
  unfold disable
  simp only [hstate, hquiet]
  rfl

theorem disable_other (h1 : (ctxOf s c).state ≠ .enabled) (h2 : (ctxOf s c).state ≠ .stopped) : disable c s = ctxSeqErr c s := by
  unfold disable
  dsimp only
  split
  · exact absurd ‹_› h1
  · exact absurd ‹_› h2
  · rfl

/-- Where none of its swaths is under way the graphs of a context are gone, and no unit refers to its nodes. -/
theorem discardGraphs_alone (h : ∀ w ∈ s.swaths, w.node.ctx ≠ c) :
    discardGraphs c s = forgetRefs c (modCtx c (fun x => { x with graphs := [] }) s) := by
  have hnone : s.swaths.filter (fun w => w.node.ctx == c && w.ph == .setup) = [] := by
    rw [List.filter_eq_nil_iff]
    intro w hw
    simp [h w hw]
  unfold discardGraphs
  rw [hnone]
  rfl

/-- Entering DISABLED touches the context, its slots and the accesses that load them. -/
theorem ctxOf_enterDisabled_same (hc : c < s.ctxs.length) : ctxOf (enterDisabled c s) c =
    { ctxOf s c with state := .disabled, quiet := false, leaving := false, cancelling := false } :=
  ctxOf_modCtx_same hc

theorem ctxOf_enterDisabled_other {d : Nat} (hd : d ≠ c) : ctxOf (enterDisabled c s) d = ctxOf s d := ctxOf_modCtx_other hd

theorem mem_enterDisabled_slots {y : Slot} : y ∈ (enterDisabled c s).trk.slots ↔ y ∈ s.trk.slots ∧ y.ctx ≠ c := by
  show y ∈ s.trk.slots.filter (fun y => y.ctx != c) ↔ _
  simp

theorem cancel_loaded (h : ∀ g ∈ (ctxOf s c).graphs, g.loaded = true) (hc : c < s.ctxs.length) : cancel c s =
    modCtx c (fun x => { x with state := .draining, cancelling := true, graphs := x.graphs.map cancelNodes }) s := by
  have hmiss : (ctxOf (modCtx c (fun x => { x with state := .draining, cancelling := true }) s) c).graphs.filter (fun g => !g.loaded) = [] := by
    rw [ctxOf_modCtx_same hc, List.filter_eq_nil_iff]
    intro g hg
    simp [h g hg]
  unfold cancel
  dsimp only
  rw [hmiss]
  exact modCtx_modCtx _ _ _ _

/-- What has become of the nodes of a graph past those emitted, where every one of them is set by the same rule. -/
theorem mem_drop_map_zipIdx {α β : Type} {l : List α} {e : Nat} {f : α × Nat → β} {x : β} (h : x ∈ (l.zipIdx.map f).drop e) :
    ∃ y k, e ≤ k ∧ x = f (y, k) := by
  obtain ⟨i, hi, rfl⟩ := List.getElem_of_mem h
  refine ⟨l[e + i]'(by simp at hi; omega), e + i, Nat.le_add_right _ _, ?_⟩
  simp

theorem mem_cancelNodes {g : Graph} {n : Node} (hrefused : (cancelNodes g).refused = false)
    (hn : n ∈ (cancelNodes g).nodes.drop (cancelNodes g).emitted) : n.stat = .completed ∧ n.status = 0x11 ∧ n.cause = 0x21 := by
  unfold cancelNodes at hrefused hn
  split at hn
  · rename_i hg
    rw [if_pos hg] at hrefused
    exact absurd (hrefused.symm.trans hg) (by decide)
  · obtain ⟨y, k, hk, rfl⟩ := mem_drop_map_zipIdx hn
    rw [if_neg (Nat.not_lt.2 hk)]
    exact ⟨rfl, rfl, rfl⟩

/-! ## CONTEXT_DRAINED (R261) -/

/-- A task of which no swath has been dispatched. -/
def Node.prepared (n : Node) : Prop := ∃ tk, n.task = some tk ∧ tk.started = false

/-- A context of which no access for its emission, its accept pass or its structures is under way. -/
def Ctx.unoccupied (x : Ctx) : Prop := x.emit = .idle ∧ x.accept = .idle ∧ x.load = .idle

theorem Ctx.occupied_iff {x : Ctx} : (x.emit != .idle || x.accept != .idle || x.load != .idle) = true ↔ ¬ x.unoccupied := by
  unfold Ctx.unoccupied
  simp only [Bool.or_eq_true, bne_iff_ne, ne_eq]
  tauto

theorem Node.running_iff {n : Node} : n.running = true ↔ n.stat = .dispatched ∧ ¬ n.prepared := by
  unfold Node.running Node.prepared
  cases h : n.task <;> simp

theorem nothingRuns_iff : nothingRuns s c = true ↔ ¬ ((ctxOf s c).fold ≠ none ∨ (∃ w ∈ s.swaths, w.node.ctx = c) ∨
    ∃ g ∈ (ctxOf s c).graphs, ∃ n ∈ g.nodes, n.stat = .dispatched ∧ ¬ n.prepared) := by
  unfold nothingRuns
  simp only [Bool.and_eq_true, Bool.not_eq_true', List.any_eq_false, beq_iff_eq, Option.isNone_iff_eq_none, List.any_eq_true,
    Node.running_iff, not_or, not_exists, not_and, ne_eq, not_not]
  tauto

theorem allOut_iff {x : Ctx} : allOut x = true ↔
    ¬ ∃ g ∈ x.graphs, g.refused = true ∨ ∃ n ∈ g.nodes.drop g.emitted, n.stat = .completed := by
  unfold allOut
  simp only [Bool.not_eq_true', List.any_eq_false, Bool.or_eq_true, List.any_eq_true, beq_iff_eq, not_exists, not_and]

theorem exec_contextDrained_draining (hrun : s.rst = .run) (hc : c < s.ctxs.length) (hidle : (ctxOf s c).unoccupied)
    (hstate : (ctxOf s c).state = .draining) (hruns : nothingRuns s c = true) (hout : allOut (ctxOf s c) = true)
    (hcancel : (ctxOf s c).cancelling = true → (ctxOf s c).graphs = []) :
    exec (.contextDrained c) s = .next (ctxEvent c (enterDisabled c (unprepare c s))) := by
  refine (inRun_of_run hrun).trans ((if_neg ?_).trans (if_pos ?_))
  · simp [ctxBuilt_eq_true hc, hidle.1, hidle.2.1, hidle.2.2]
  · simp only [hstate, hruns, hout, Bool.and_true, beq_self_eq_true, Bool.or_eq_true, Bool.not_eq_true', List.isEmpty_iff, Bool.true_and]
    cases h : (ctxOf s c).cancelling with
    | false => exact .inl rfl
    | true => exact .inr (hcancel h)

theorem exec_contextDrained_leaving (hrun : s.rst = .run) (hc : c < s.ctxs.length) (hidle : (ctxOf s c).unoccupied)
    (hstate : (ctxOf s c).state = .stopped) (hleaving : (ctxOf s c).leaving = true) (hgraphs : (ctxOf s c).graphs = []) :
    exec (.contextDrained c) s = .next (enterDisabled c s) := by
  refine (inRun_of_run hrun).trans ((if_neg ?_).trans ((if_neg ?_).trans (if_pos ?_)))
  · simp [ctxBuilt_eq_true hc, hidle.1, hidle.2.1, hidle.2.2]
  · simp [hstate]
  · simp [hstate, hleaving, hgraphs]

theorem exec_contextDrained_occupied (hrun : s.rst = .run) (h : ¬ (ctxOf s c).unoccupied) : exec (.contextDrained c) s = .next s :=
  (inRun_of_run hrun).trans (if_pos (by
    rw [Bool.or_assoc, Bool.or_assoc, Bool.or_eq_true, ← Bool.or_assoc]
    exact .inr (Ctx.occupied_iff.2 h)))

theorem exec_contextDrained_waits (hrun : s.rst = .run)
    (h1 : ¬ ((ctxOf s c).state = .draining ∧ nothingRuns s c = true ∧ allOut (ctxOf s c) = true ∧
      ((ctxOf s c).cancelling = false ∨ (ctxOf s c).graphs = [])))
    (h2 : ¬ ((ctxOf s c).state = .stopped ∧ (ctxOf s c).leaving = true ∧ (ctxOf s c).graphs = [])) :
    exec (.contextDrained c) s = .next s := by
  refine (inRun_of_run hrun).trans ?_
  split
  · rfl
  · rw [if_neg (by simpa [and_assoc] using h1), if_neg (by simpa [and_assoc] using h2)]

/-- A prepared node goes back to waiting; any other stays as it is. -/
def Node.unprepared (n : Node) : Node :=
  if (match n.task with | some t => !t.started | none => false) then { n with stat := .waiting, task := none } else n

theorem Node.unprepared_of_prepared {n : Node} (h : n.prepared) : n.unprepared = { n with stat := .waiting, task := none } := by
  obtain ⟨tk, htask, hstarted⟩ := h
  exact if_pos (by simp [htask, hstarted])

theorem Node.unprepared_of_not {n : Node} (h : ¬ n.prepared) : n.unprepared = n := by
  refine if_neg ?_
  cases htask : n.task with
  | none => simp
  | some tk =>
    intro hp
    exact h ⟨tk, htask, by simpa using hp⟩

/-- The graph whose prepared nodes have gone back to waiting. -/
def Graph.unprepared (g : Graph) : Graph := { g with nodes := g.nodes.map Node.unprepared }

theorem ctxOf_unprepare_same (hc : c < s.ctxs.length) : ctxOf (unprepare c s) c = { ctxOf s c with
    graphs := (ctxOf s c).graphs.map Graph.unprepared } :=
  ctxOf_modCtx_same (by exact hc)

theorem unprepare_exists (c : Nat) (s : State) : ∃ ctxs jobs ctlWait, unprepare c s = { s with ctxs := ctxs, jobs := jobs, ctlWait := ctlWait } :=
  ⟨_, _, _, rfl⟩

/-- What a context that has drained touches. -/
theorem drained_frame (c : Nat) (s : State) : ctxEvent c (enterDisabled c (unprepare c s)) =
    { s.withTraffic (ctxEvent c (enterDisabled c (unprepare c s))) with
      ctxs := (ctxEvent c (enterDisabled c (unprepare c s))).ctxs, trk := (ctxEvent c (enterDisabled c (unprepare c s))).trk
      sched := (ctxEvent c (enterDisabled c (unprepare c s))).sched } := by
  obtain ⟨ctxs, jobs, ctlWait, h⟩ := unprepare_exists c s
  rw [h]
  rfl

theorem ctxOf_unprepare_other {d : Nat} (hd : d ≠ c) : ctxOf (unprepare c s) d = ctxOf s d := ctxOf_modCtx_other hd

theorem ctxEvent_low (h : c < 32) : (ctxEvent c s).sched = { s.sched with event0 := setBit s.sched.event0 c } := if_pos h

theorem ctxEvent_high (h : 32 ≤ c) : (ctxEvent c s).sched = { s.sched with event1 := setBit s.sched.event1 (c - 32) } :=
  if_neg (Nat.not_lt.2 h)

/-! ## CONTEXT_STALL (R266, R267) -/

theorem mem_stallNodes {cause : Nat} {g : Graph} {n : Node} (hrefused : (stallNodes cause g).refused = false)
    (hn : n ∈ (stallNodes cause g).nodes.drop (stallNodes cause g).emitted) :
    n.stat = .completed ∧ n.status = 0x15 ∧ n.cause = cause := by
  unfold stallNodes at hrefused hn
  split at hn
  · rename_i hg
    rw [if_pos hg] at hrefused
    exact absurd (hrefused.symm.trans hg) (by decide)
  · obtain ⟨y, k, hk, rfl⟩ := mem_drop_map_zipIdx hn
    rw [if_neg (Nat.not_lt.2 hk)]
    exact ⟨rfl, rfl, rfl⟩

theorem stalled_runs {gln : Bool} (h : stalled s c = some gln) : nothingRuns s c = true := by
  by_contra hruns
  have hnone : stalled s c = none := by
    unfold stalled
    exact if_neg (by simp [hruns])
  exact absurd (hnone.symm.trans h) (by simp)

theorem stalled_fold {gln : Bool} (h : stalled s c = some gln) : (ctxOf s c).fold = none := by
  have := nothingRuns_iff.1 (stalled_runs h)
  tauto

theorem enginesOff_noFold (h : (ctxOf s c).fold = none) : enginesOff c s =
    modCtx c (fun x => { x with accept := .idle, emit := .idle, load := .idle, fold := none }) (dropJobs (fun k => k.ctx == c) s) := by
  unfold enginesOff
  simp only [h]

/-- What a stall makes of a context. -/
def Ctx.stalledBy (cause : Nat) (x : Ctx) : Ctx :=
  { x with accept := .idle, emit := .idle, load := .idle, fold := none, state := .stopped, errStall := true, cancelling := false,
           graphs := x.graphs.map (stallNodes cause) }

/-- The slots after a stall: those of the context have settled. -/
def settleSlots (c : Nat) (x : Ctx) (l : List Slot) : List Slot := l.map (fun y => if y.ctx = c then y.settled x else y)

theorem settleSlots_idx {x : Ctx} (l : List Slot) : (settleSlots c x l).map (·.idx) = l.map (·.idx) := by
  unfold settleSlots
  rw [List.map_map]
  refine List.map_congr_left fun y _ => ?_
  dsimp only [Function.comp]
  split <;> rfl

theorem mem_settleSlots {x : Ctx} {l : List Slot} {y : Slot} (hy : y ∈ l) (h : y.ctx ≠ c) : y ∈ settleSlots c x l :=
  List.mem_map.2 ⟨y, hy, if_neg h⟩

/-- The state after a stall, but for the context's event. -/
def stallState (gln : Bool) (c : Nat) (x : Ctx) (s : State) : State :=
  modCtx c (Ctx.stalledBy (if gln then 0x31 else 0x30))
    (modTrk (fun t => { t with slots := settleSlots c x t.slots }) (dropJobs (fun k => k.ctx == c) s))

theorem ctxOf_stallState_same {gln : Bool} {x : Ctx} (hc : c < s.ctxs.length) :
    ctxOf (stallState gln c x s) c = (ctxOf s c).stalledBy (if gln then 0x31 else 0x30) := ctxOf_modCtx_same hc

theorem ctxOf_stallState_other {gln : Bool} {x : Ctx} {d : Nat} (hd : d ≠ c) : ctxOf (stallState gln c x s) d = ctxOf s d :=
  ctxOf_modCtx_other hd

theorem ctxOf_ctxEvent (d : Nat) : ctxOf (ctxEvent c s) d = ctxOf s d := rfl

theorem exec_contextStall {gln : Bool} (hrun : s.rst = .run) (h : stalled s c = some gln) :
    ∃ x : Ctx, exec (.contextStall c) s = .next (ctxEvent c (stallState gln c x s)) := by
  refine ⟨ctxOf (enginesOff c s) c, (inRun_of_run hrun).trans ?_⟩
  simp only [h]
  rw [enginesOff_noFold (stalled_fold h)]
  refine congrArg Host.Outcome.next (congrArg (ctxEvent c) ?_)
  exact modCtx_modCtx c _ _ (modTrk (fun t => { t with slots := settleSlots c _ t.slots }) (dropJobs (fun k => k.ctx == c) s))

end Sys2Proof.Machine

namespace Sys2Proof.Proofs
open Sys2Proof.Machine

/-- Settles O28. -/
theorem contextEnable : Obligations.ContextEnable := by
  intro s c hrun hc htests hstate hload
  have hact : exec (.ctxEnable c) s = .next (enable c (emit (.cpAck false) s)) :=
    (exec_ctxEnable hrun).trans (congrArg _ ((ctxCtrl_enable (by exact hc)).trans (if_neg (by
      show ¬ (!s.loader.selftestDone || !((ctxOf s c).state == .disabled) || (ctxOf s c).load != .idle) = true
      simp [htests, hstate, hload]))))
  refine ⟨fun hcfg hstore => ?_, fun hbad => ?_⟩
  · exact hact.trans (congrArg _ (enable_ok (by exact hcfg) (by exact hstore)))
  · exact hact.trans (congrArg _ (enable_bad (by exact hbad)))

/-- Settles O29. -/
theorem contextDisableCancel : Obligations.ContextDisableCancel := by
  intro s c hrun hc x set err
  have hdis : exec (.ctxDisable c) s = .next (disable c (emit (.cpAck false) s)) :=
    (exec_ctxDisable hrun).trans (congrArg _ (ctxCtrl_disable (by exact hc)))
  refine ⟨fun hstate haccept => ?_, fun hstate hquiet => ?_, fun hstate hquiet hswaths => ?_, fun hstate hload hloaded => ?_,
    fun h1 h2 => ?_, fun h => ?_, fun h => ?_, fun h => ?_⟩
  · exact hdis.trans (congrArg _ (disable_enabled (by exact hstate) (by exact haccept)))
  · exact hdis.trans (congrArg _ (disable_stalled (by exact hstate) (by exact hquiet)))
  · refine ⟨_, hdis.trans (congrArg _ ((disable_failed (by exact hstate) (by exact hquiet)).trans
      (congrArg _ (discardGraphs_alone (by exact hswaths))))), ?_⟩
    have hctx : ctxOf (forgetRefs c (modCtx c (fun x => { x with graphs := [] }) (emit (.cpAck false) s))) c = { x with graphs := [] } :=
      ctxOf_modCtx_same (by exact hc)
    have hsame := ctxOf_enterDisabled_same (c := c)
      (s := forgetRefs c (modCtx c (fun x => { x with graphs := [] }) (emit (.cpAck false) s))) (by simpa [forgetRefs, modAt] using hc)
    rw [hctx] at hsame
    refine ⟨by rw [hsame], by rw [hsame], by rw [hsame], fun y hy => (mem_enterDisabled_slots.1 hy).2, fun d hd => ?_⟩
    exact (ctxOf_enterDisabled_other hd).trans (ctxOf_modCtx_other hd)
  · have hexec : exec (.ctxCancel c) s = .next (modCtx c (fun x => { x with
        state := .draining, cancelling := true, graphs := x.graphs.map cancelNodes }) (emit (.cpAck false) s)) :=
      (exec_ctxCancel hrun).trans (congrArg _ ((ctxCtrl_cancel (by exact hc)).trans ((if_neg (by
        show ¬ (!((ctxOf s c).state == .disabled) || (ctxOf s c).load != .idle) = true
        rw [Ctx.busy_eq_false ⟨hstate, hload⟩]
        decide)).trans (cancel_loaded (by exact hloaded) (by exact hc)))))
    have hctx : ctxOf (modCtx c (fun x => { x with
        state := .draining, cancelling := true, graphs := x.graphs.map cancelNodes }) (emit (.cpAck false) s)) c = _ :=
      ctxOf_modCtx_same (by exact hc)
    refine ⟨_, hexec, rfl, hctx, fun g hg hrefused n hn => ?_, fun d hd => ctxOf_modCtx_other hd⟩
    rw [hctx] at hg
    obtain ⟨h, -, rfl⟩ := List.mem_map.1 hg
    exact mem_cancelNodes hrefused hn
  · exact hdis.trans (congrArg _ (disable_other (by exact h1) (by exact h2)))
  · refine (exec_ctxCancel hrun).trans (congrArg _ ((ctxCtrl_cancel (by exact hc)).trans (if_pos ?_)))
    exact Ctx.busy_iff.2 (Ctx.not_atRest.2 h)
  · have hcond : (!s.loader.selftestDone || !((ctxOf s c).state == .disabled) || (ctxOf s c).load != .idle) = true := by
      rw [Bool.or_assoc, Bool.or_eq_true]
      rcases h with h | h | h
      · exact .inr (Ctx.busy_iff.2 (Ctx.not_atRest.2 (.inl h)))
      · exact .inr (Ctx.busy_iff.2 (Ctx.not_atRest.2 (.inr h)))
      · exact .inl (by simp [h])
    refine ⟨?_, ?_, ?_⟩
    · exact (exec_ctxEnable hrun).trans (congrArg _ ((ctxCtrl_enable (by exact hc)).trans (if_pos hcond)))
    · exact (exec_ctxSave hrun).trans (congrArg _ ((ctxCtrl_save (by exact hc)).trans (if_pos hcond)))
    · exact (exec_ctxRestore hrun).trans (congrArg _ ((ctxCtrl_restore (by exact hc)).trans
        (if_pos (Bool.or_eq_true_iff.2 (.inl hcond)))))
  · refine (exec_ctxRestore hrun).trans (congrArg _ ((ctxCtrl_restore (by exact hc)).trans (if_pos (Bool.or_eq_true_iff.2 (.inr ?_)))))
    show (!x.graphs.isEmpty) = true
    simpa using h

/-- Settles O30. -/
theorem contextSaveRestore : Obligations.ContextSaveRestore := by
  intro s c hrun hc htests hstate hload
  have hcond : (!s.loader.selftestDone || !((ctxOf s c).state == .disabled) || (ctxOf s c).load != .idle) = false := by
    simp [htests, hstate, hload]
  refine ⟨?_, fun hgraphs hstore => ?_⟩
  · exact (exec_ctxSave hrun).trans (congrArg _ ((ctxCtrl_save (by exact hc)).trans (if_neg (Bool.eq_false_iff.1 hcond))))
  · refine (exec_ctxRestore hrun).trans (congrArg _ ((ctxCtrl_restore (by exact hc)).trans ((if_neg ?_).trans
      (restore_ok (by exact hstore)))))
    refine Bool.eq_false_iff.1 (Bool.or_eq_false_iff.2 ⟨hcond, ?_⟩)
    show (!(ctxOf s c).graphs.isEmpty) = false
    simp [hgraphs]

/-- Settles O31. -/
theorem contextDrained : Obligations.ContextDrained := by
  intro s c hrun hc x idle prepared runs unsent disabled
  refine ⟨fun hstate hidle hruns hunsent hcancel => ?_, fun hstate hleaving hidle hgraphs => ?_, fun h => ?_⟩
  · have hexec := exec_contextDrained_draining hrun hc hidle hstate (nothingRuns_iff.2 hruns) (allOut_iff.2 hunsent) hcancel
    refine ⟨_, x.graphs.map Graph.unprepared, hexec, ?_, ?_,
      ⟨List.length_map .., fun i g hg => ?_⟩, fun h => ctxEvent_low h, fun h => ctxEvent_high h⟩
    · refine ⟨(ctxOf_enterDisabled_same (s := unprepare c s) (by simpa [unprepare, dropJobs, modAt] using hc)).trans
        (by rw [ctxOf_unprepare_same hc]), fun y hy => (mem_enterDisabled_slots.1 hy).2,
        fun y hy hyc => mem_enterDisabled_slots.2 ⟨hy, hyc⟩, fun d hd => ?_⟩
      exact (ctxOf_enterDisabled_other hd).trans (ctxOf_unprepare_other hd)
    · exact drained_frame c s
    · refine ⟨g.unprepared, ?_, rfl, List.length_map .., fun k n hn => ⟨fun hp => ?_, fun hp => ?_⟩⟩
      · rw [List.getElem?_map, show (ctxOf s c).graphs[i]? = some g from hg]
        rfl
      · show (g.nodes.map Node.unprepared)[k]? = _
        rw [List.getElem?_map, hn, Option.map_some, Node.unprepared_of_prepared hp]
      · show (g.nodes.map Node.unprepared)[k]? = _
        rw [List.getElem?_map, hn, Option.map_some, Node.unprepared_of_not hp]
  · refine ⟨_, exec_contextDrained_leaving hrun hc hidle hstate hleaving hgraphs, ?_, rfl⟩
    refine ⟨(ctxOf_enterDisabled_same hc).trans ?_, fun y hy => (mem_enterDisabled_slots.1 hy).2,
      fun y hy hyc => mem_enterDisabled_slots.2 ⟨hy, hyc⟩, fun d hd => ctxOf_enterDisabled_other hd⟩
    rw [← hgraphs]
  · by_cases hidle : idle
    · refine exec_contextDrained_waits hrun ?_ ?_
      · rintro ⟨hstate, hruns, hout, hcancel⟩
        have hruns := nothingRuns_iff.1 hruns
        have hout := allOut_iff.1 hout
        rcases h with ⟨-, h | h | ⟨h, h'⟩⟩ | ⟨h, -⟩ | ⟨h, -⟩ | h
        · exact hruns h
        · exact hout h
        · rcases hcancel with hcancel | hcancel
          · exact absurd (h.symm.trans hcancel) (by decide)
          · exact h' hcancel
        · exact absurd (h.symm.trans hstate) (by decide)
        · exact h hstate
        · exact h hidle
      · rintro ⟨hstate, hleaving, hgraphs⟩
        rcases h with ⟨h, -⟩ | ⟨-, h | h⟩ | ⟨-, h⟩ | h
        · exact absurd (h.symm.trans hstate) (by decide)
        · exact absurd (h.symm.trans hleaving) (by decide)
        · exact h hgraphs
        · exact h hstate
        · exact h hidle
    · exact exec_contextDrained_occupied hrun hidle

/-- Settles O32. -/
theorem contextStall : Obligations.ContextStall := by
  intro s c gln hrun hc hstall
  obtain ⟨x, hexec⟩ := exec_contextStall hrun hstall
  have hctx := (ctxOf_ctxEvent (s := stallState gln c x s) (c := c) c).trans (ctxOf_stallState_same hc)
  refine ⟨_, hexec, by rw [hctx]; rfl, by rw [hctx]; rfl, by rw [hctx]; rfl, fun g hg hrefused n hn => ?_, ?_,
    fun y hy hyc => ?_, rfl, fun h => ctxEvent_low h, fun h => ctxEvent_high h, fun d hd => ?_⟩
  rotate_left
  · exact settleSlots_idx (c := c) (x := x) s.trk.slots
  · exact mem_settleSlots (c := c) (x := x) hy hyc
  · exact (ctxOf_ctxEvent d).trans (ctxOf_stallState_other hd)
  rw [hctx] at hg
  obtain ⟨h, -, rfl⟩ := List.mem_map.1 hg
  exact mem_stallNodes hrefused hn

end Sys2Proof.Proofs
end

section
/-! PROOFS. Agreed values (R147 to R150), fallback requests (R169, R172) and evictions (R145). -/

namespace Sys2Proof.Machine

variable {s : State} {c stream n : Nat} {y : CommitStream}

/-! ## The fold of a context -/

theorem ctxOf_built {P : Ctx → Prop} (h : P (ctxOf s c)) (hreset : ¬ P Ctx.reset) : c < s.ctxs.length := by
  by_contra hc
  rw [ctxOf, List.getD_eq_default _ _ (Nat.not_lt.1 hc)] at h
  exact hreset h

theorem built_of_fold {f : Fold} (h : (ctxOf s c).fold = some f) : c < s.ctxs.length :=
  ctxOf_built (P := fun x => x.fold = some f) h (by simp [Ctx.reset])

theorem ctxOf_modFold_same {f : Fold} {g : Fold → Fold} (h : (ctxOf s c).fold = some f) :
    ctxOf (modFold c g s) c = { ctxOf s c with fold := some (g f) } := by
  rw [modFold, ctxOf_modCtx_same (built_of_fold h), h]
  rfl

theorem ctxOf_modFold_other {g : Fold → Fold} {d : Nat} (h : d ≠ c) : ctxOf (modFold c g s) d = ctxOf s d := ctxOf_modCtx_other h

/-- What an update of a stream makes of a fold. -/
def Fold.modStream (stream : Nat) (g : CommitStream → CommitStream) (f : Fold) : Fold :=
  { f with streams := f.streams.map (fun z => if z.stream = stream then g z else z) }

theorem ctxOf_modStream_same {f : Fold} {g : CommitStream → CommitStream} (h : (ctxOf s c).fold = some f) :
    ctxOf (modStream c stream g s) c = { ctxOf s c with fold := some (f.modStream stream g) } := ctxOf_modFold_same h

theorem ctxOf_modStream_other {g : CommitStream → CommitStream} {d : Nat} (h : d ≠ c) :
    ctxOf (modStream c stream g s) d = ctxOf s d := ctxOf_modCtx_other h

theorem foldStream_of_fold {f : Fold} (h : (ctxOf s c).fold = some f) :
    foldStream s c stream = f.streams.find? (fun z => z.stream == stream) := by rw [foldStream, h]; rfl

theorem foldStream_congr {t : State} (h : t.ctxs = s.ctxs) : foldStream t c stream = foldStream s c stream := by
  rw [foldStream, foldStream, ctxOf_congr h]

theorem find_modStream {l : List CommitStream} {g : CommitStream → CommitStream} (hg : ∀ z, (g z).stream = z.stream)
    (h : l.find? (fun z => z.stream == stream) = some y) :
    (l.map (fun z => if z.stream = stream then g z else z)).find? (fun z => z.stream == stream) = some (g y) := by
  induction l with
  | nil => cases h
  | cons a l ih =>
    rw [List.map_cons, List.find?_cons]
    rw [List.find?_cons] at h
    by_cases ha : a.stream = stream
    · simp only [beq_iff_eq.2 ha, Option.some.injEq] at h
      subst h
      simp [ha, hg]
    · simp only [beq_eq_false_iff_ne.2 ha] at h
      simp only [if_neg ha, beq_eq_false_iff_ne.2 ha]
      exact ih h

/-- A stream after its update. -/
theorem foldStream_modStream_same {f : Fold} {g : CommitStream → CommitStream} (hg : ∀ z, (g z).stream = z.stream)
    (hf : (ctxOf s c).fold = some f) (hy : foldStream s c stream = some y) :
    foldStream (modStream c stream g s) c stream = some (g y) := by
  rw [foldStream_of_fold hf] at hy
  rw [foldStream, ctxOf_modStream_same hf]
  exact find_modStream hg hy

theorem fold_of_foldStream (h : foldStream s c stream = some y) : ∃ f, (ctxOf s c).fold = some f := by
  cases hf : (ctxOf s c).fold with
  | none => rw [foldStream, hf] at h; cases h
  | some f => exact ⟨f, rfl⟩

/-- A stream of a commit that awaits the agreed value of step `n`. -/
theorem awaits_iff (hy : foldStream s c stream = some y) : awaits s c stream = some n ↔
    ∃ f, (ctxOf s c).fold = some f ∧ f.check = false ∧ y.ph = .agree ∧ f.step = n := by
  obtain ⟨f, hf⟩ := fold_of_foldStream hy
  unfold awaits
  simp only [hf, hy]
  simp [and_assoc]

theorem awaits_congr {t : State} (h : t.ctxs = s.ctxs) : awaits t c stream = awaits s c stream := by
  unfold awaits foldStream
  rw [ctxOf_congr h]

/-! ## Agreed values that are used (R148) -/

/-- The write of a stream's new entry (R140 step 2). -/
def CommitStream.written (y : CommitStream) (step : Nat) (agreed : Option Nat) : CommitStream :=
  { y with ph := .entryWr, new := y.entry step agreed, changed := true }

/-- Beside the stream the write of its entry touches the traffic alone. -/
theorem writeEntry_exists {f : Fold} (agreed : Option Nat) (hf : (ctxOf s c).fold = some f) (hy : foldStream s c stream = some y) :
    ∃ u, writeEntry c stream agreed s = u ∧ u = { s.withTraffic u with ctxs := u.ctxs } ∧
      foldStream u c stream = some (y.written f.step agreed) ∧ ∀ d, d ≠ c → ctxOf u d = ctxOf s d := by
  refine ⟨_, rfl, ?_⟩
  unfold writeEntry
  simp only [hf, hy]
  generalize (ctxOf s c).gran stream = addr
  have hmod := foldStream_modStream_same (s := s) (c := c) (stream := stream)
    (g := fun z => { z with ph := .entryWr, new := y.entry f.step agreed, changed := true }) (fun _ => rfl) hf hy
  obtain ⟨ports, ctlWait, jobs, nextJob, health, outs, hwrite, -⟩ := startWrite_exists (.cmEntry c stream) addr
    (GEntry.bytes stream (y.entry f.step agreed))
    (modStream c stream (fun z => { z with ph := .entryWr, new := y.entry f.step agreed, changed := true }) s)
  rw [hwrite]
  exact ⟨rfl, hmod, fun d hd => ctxOf_modStream_other hd⟩

/-- The tracker after an agreed value has been used: a value below the stream's own is noted. -/
def Tracker.used (v own : Nat) (t : Tracker) : Tracker := { t with agreeLow := t.agreeLow || decide (v < own) }

theorem useAgreed_exists {f : Fold} (v : Nat) (hf : (ctxOf s c).fold = some f) (hy : foldStream s c stream = some y) :
    ∃ u, useAgreed c stream v s = u ∧ u = { s.withTraffic u with ctxs := u.ctxs, trk := s.trk.used v y.own } ∧
      foldStream u c stream = some (y.written f.step (some v)) ∧ ∀ d, d ≠ c → ctxOf u d = ctxOf s d := by
  unfold useAgreed
  simp only [hf, hy]
  by_cases hv : v < y.own
  · rw [if_pos hv]
    generalize s.build.homeRegion (((slotOf s c stream).map (·.idx)).getD 0) = reg
    obtain ⟨ports, ctlWait, jobs, nextJob, health, outs, hlog⟩ := (logEvent_quiet (code := 0x3A) (kind := 1) (reg := reg) (unit := 0x200)
      (ctx := c) (d0 := stream) (a := f.step) (State.Quiet.refl (modTrk (fun t => { t with agreeLow := true }) s))).exists
    rw [hlog]
    obtain ⟨u, hu, hframe, hstream, hother⟩ := writeEntry_exists (c := c) (stream := stream) (y := y) (f := f)
      (s := { modTrk (fun t => { t with agreeLow := true }) s with
        ports := ports, ctlWait := ctlWait, jobs := jobs, nextJob := nextJob, health := health, outs := outs }) (some v) hf hy
    refine ⟨u, hu, hframe.trans ?_, hstream, hother⟩
    have hused : s.trk.used v y.own = { s.trk with agreeLow := true } := by
      rw [Tracker.used, decide_eq_true hv, Bool.or_true]
    rw [hused]
    rfl
  · rw [if_neg hv]
    obtain ⟨u, hu, hframe, hstream, hother⟩ := writeEntry_exists (some v) hf hy
    refine ⟨u, hu, hframe.trans ?_, hstream, hother⟩
    have hused : s.trk.used v y.own = s.trk := by
      rw [Tracker.used, decide_eq_false hv, Bool.or_false]
    rw [hused]
    rfl

/-! ## AGREED_VALUE_ARRIVAL and AGREE_TIMEOUT (R148, R149) -/

/-- A value that arrives has left the exchange. -/
def arrived (c x : Nat) (step : Word) (v : BitVec 16) (s : State) : State :=
  { s with exch := { s.exch with arrivals := s.exch.arrivals.erase ⟨c, x, step, v.toNat⟩ } }

section Arrival
variable {step : Word} {v : BitVec 16} (hrun : s.rst = .run) (harr : (⟨c, stream, step, v.toNat⟩ : Arrival) ∈ s.exch.arrivals)
include hrun harr

theorem exec_arrival_none (h : awaits s c stream = none) : exec (.agreedValueArrival c stream step v) s =
    .next (agreeDropped (arrived c stream step v s)) := by
  refine (inRun_of_run hrun).trans ((if_neg (by simp [harr])).trans ?_)
  have h' : awaits (arrived c stream step v s) c stream = none := h
  unfold arrived at h' ⊢
  simp only [h']

theorem exec_arrival_used (h : awaits s c stream = some n) (hn : step.toNat = n) : exec (.agreedValueArrival c stream step v) s =
    .next (useAgreed c stream v.toNat (arrived c stream step v s)) := by
  refine (inRun_of_run hrun).trans ((if_neg (by simp [harr])).trans ?_)
  have h' : awaits (arrived c stream step v s) c stream = some n := h
  unfold arrived at h' ⊢
  simp only [h', if_pos hn]

theorem exec_arrival_noSlot (h : awaits s c stream = some n) (hn : step.toNat ≠ n) (hslot : slotOf s c stream = none) :
    exec (.agreedValueArrival c stream step v) s = .next (agreeDropped (arrived c stream step v s)) := by
  refine (inRun_of_run hrun).trans ((if_neg (by simp [harr])).trans ?_)
  have h' : awaits (arrived c stream step v s) c stream = some n := h
  have hslot' : slotOf (arrived c stream step v s) c stream = none := hslot
  unfold arrived at h' hslot' ⊢
  simp only [h', hslot', if_neg hn]

theorem exec_arrival_slot {sl : Slot} (h : awaits s c stream = some n) (hn : step.toNat ≠ n) (hslot : slotOf s c stream = some sl) :
    exec (.agreedValueArrival c stream step v) s =
      if step.toNat = (BitVec.ofNat 32 n + 1 : Word).toNat && sl.early.isNone then
        .next (modSlotAt sl.idx (fun y => { y with early := some (step.toNat, v.toNat) }) (arrived c stream step v s))
      else .next (agreeDropped (arrived c stream step v s)) := by
  refine (inRun_of_run hrun).trans ((if_neg (by simp [harr])).trans ?_)
  have h' : awaits (arrived c stream step v s) c stream = some n := h
  have hslot' : slotOf (arrived c stream step v s) c stream = some sl := hslot
  unfold arrived at h' hslot' ⊢
  simp only [h', hslot', if_neg hn]

end Arrival

theorem exec_agreeTimeout (hrun : s.rst = .run) (h : awaits s c stream = some n) (hy : foldStream s c stream = some y) :
    exec (.agreeTimeout c stream) s = if y.late then .next s
      else .next (logEvent 0x39 1 (s.build.homeRegion (((slotOf s c stream).map (·.idx)).getD 0)) 0x200 c stream n
        (modStream c stream (fun z => { z with late := true }) s)) := by
  refine (inRun_of_run hrun).trans ?_
  simp only [h, hy]

/-! ## DELIVER and LOCAL (R149, R150) -/

theorem exec_agreeDeliver (hrun : s.rst = .run) : exec .agreeDeliver s = .next (agreeDeliver (emit (.cpAck false) s)) := inRun_of_run hrun

theorem exec_agreeLocal (hrun : s.rst = .run) : exec .agreeLocal s = .next (agreeLocal (emit (.cpAck false) s)) := inRun_of_run hrun

theorem selAwaits_iff : selAwaits s = true ↔ awaits s (selCtx s) (selStream s) = some s.trk.agreeStep.toNat := beq_iff_eq

theorem agreeDeliver_used {v : Nat} (hv : deliverValue s.trk.agreeAmax = some v) (h : selAwaits s = true) :
    agreeDeliver s = useAgreed (selCtx s) (selStream s) v s := by
  unfold agreeDeliver
  simp only [hv, h]
  rfl

theorem agreeDeliver_notAwaited (h : selAwaits s = false) : agreeDeliver s = agreeDropped s := by
  unfold agreeDeliver
  rw [h]
  split <;> rfl

theorem agreeDeliver_noValue (hv : deliverValue s.trk.agreeAmax = none) : agreeDeliver s = agreeDropped s := by
  unfold agreeDeliver
  rw [hv]

theorem agreeLocal_used (h : selAwaits s = true) (hy : foldStream s (selCtx s) (selStream s) = some y) :
    agreeLocal s = useAgreed (selCtx s) (selStream s) y.own s := by
  unfold agreeLocal
  rw [if_pos h, hy]
  rfl

theorem agreeLocal_notAwaited (h : selAwaits s = false) : agreeLocal s = agreeDropped s :=
  if_neg (Bool.eq_false_iff.1 h)

/-- NaN and negative values: every encoding above that of infinity but that of -0. -/
theorem deliverValue_none {w : Word} (h : 0x7F800000 < w.toNat) (h0 : w.toNat ≠ 0x80000000) : deliverValue w = none := by
  have hlt := w.isLt
  unfold deliverValue
  rw [if_neg (by omega), if_pos (by simp [h])]

/-! ## Fallback requests (R169, R172) and evictions (R145) -/

theorem exec_fbForce (hrun : s.rst = .run) : exec .fbForce s = .next (fbRequest true (emit (.cpAck false) s)) := inRun_of_run hrun

theorem exec_fbRelease (hrun : s.rst = .run) : exec .fbRelease s = .next (fbRequest false (emit (.cpAck false) s)) := inRun_of_run hrun

theorem fbRoom_iff : fbRoom s c stream = true ↔ s.trk.fbReqs.length < 16 ∨ ∃ q ∈ s.trk.fbReqs, q.ctx = c ∧ q.stream = stream := by
  unfold fbRoom fbReqOf
  simp [Option.isSome_map]

/-- What makes a request of the selected stream one that is dropped. -/
theorem fbRequest_drops : (!ctxBuilt s c || (ctxOf s c).state == .disabled || !fbRoom s c stream || (ctxOf s c).oplan == 0) = true ↔
    s.ctxs.length ≤ c ∨ (ctxOf s c).state = .disabled ∨ (ctxOf s c).oplan = 0 ∨
      (16 ≤ s.trk.fbReqs.length ∧ ∀ q ∈ s.trk.fbReqs, ¬ (q.ctx = c ∧ q.stream = stream)) := by
  have hroom : fbRoom s c stream = false ↔ 16 ≤ s.trk.fbReqs.length ∧ ∀ q ∈ s.trk.fbReqs, ¬ (q.ctx = c ∧ q.stream = stream) := by
    rw [Bool.eq_false_iff, ne_eq, fbRoom_iff]
    push Not
    rfl
  simp only [Bool.or_eq_true, Bool.not_eq_true', hroom, beq_iff_eq, ctxBuilt, decide_eq_false_iff_not, Nat.not_lt]
  tauto

theorem fbRequest_dropped {force : Bool} (h : s.ctxs.length ≤ selCtx s ∨ (ctxOf s (selCtx s)).state = .disabled ∨
    (ctxOf s (selCtx s)).oplan = 0 ∨ (16 ≤ s.trk.fbReqs.length ∧ ∀ q ∈ s.trk.fbReqs, ¬ (q.ctx = selCtx s ∧ q.stream = selStream s))) :
    fbRequest force s = reqDropped s := if_pos (fbRequest_drops.2 h)

theorem fbRequest_asked {force : Bool} (hc : selCtx s < s.ctxs.length) (hstate : (ctxOf s (selCtx s)).state ≠ .disabled)
    (hplan : (ctxOf s (selCtx s)).oplan ≠ 0)
    (hroom : s.trk.fbReqs.length < 16 ∨ ∃ q ∈ s.trk.fbReqs, q.ctx = selCtx s ∧ q.stream = selStream s) :
    fbRequest force s = startRead (.fbPlan s.nextJob) [((ctxOf s (selCtx s)).oplan + 64 * selStream s, 64)]
      (modTrk (fun t => { t with fbAsks := t.fbAsks ++ [⟨s.nextJob, ⟨selCtx s, selStream s, force⟩, none⟩] }) s) := by
  refine if_neg (mt fbRequest_drops.1 ?_)
  rintro (h | h | h | ⟨h, h'⟩)
  · omega
  · exact hstate h
  · exact hplan h
  · rcases hroom with hroom | ⟨q, hq, hmatch⟩
    · omega
    · exact h' q hq hmatch

theorem evictable_iff {sl : Slot} : evictable s sl = true ↔
    ¬ (sl.ph ≠ .ready ∨ sl.early ≠ none ∨ pinned s sl = true ∨ agreeing s sl.ctx sl.stream = true) := by
  unfold evictable
  simp only [Bool.and_eq_true, beq_iff_eq, Option.isNone_iff_eq_none, Bool.not_eq_true', not_or, ne_eq, not_not, Bool.not_eq_true, and_assoc]

theorem exec_slotEvict {i : Nat} {sl : Slot} (hrun : s.rst = .run) (hslot : slotAt s i = some sl) : exec (.slotEvict i) s =
    if evictable s sl then .next (foldPumpAll (modTrk (fun t => { t with slots := t.slots.filter (fun y => y.idx != i) }) s))
    else .next s := by
  refine (inRun_of_run hrun).trans ?_
  simp only [hslot]

end Sys2Proof.Machine

namespace Sys2Proof.Proofs
open Sys2Proof.Machine

/-- Settles O35. -/
theorem agreedValues : Obligations.AgreedValues := by
  refine ⟨fun s c x step v hrun harr => ?_, fun s c x n y hrun hc hawaits hy => ⟨fun hlate => ?_, fun hlate => ?_⟩⟩
  · intro u dropped
    refine ⟨fun h => exec_arrival_none hrun harr h, fun n h => ⟨fun hn hslot => exec_arrival_noSlot hrun harr h hn hslot,
      fun sl hslot hn => ⟨fun hcase => ?_, fun hstep hearly => ?_⟩, fun hn y hy => ?_⟩⟩
    · refine (exec_arrival_slot hrun harr h hn hslot).trans (if_neg ?_)
      rcases hcase with hstep | hearly
      · intro hcond
        exact hstep (BitVec.eq_of_toNat_eq (by simpa using (Bool.and_eq_true_iff.1 hcond).1))
      · simp [hearly]
    · exact (exec_arrival_slot hrun harr h hn hslot).trans (if_pos (by simp [hstep, hearly]))
    · obtain ⟨f, hf, -, -, hstep⟩ := (awaits_iff hy).1 h
      obtain ⟨t, ht, hframe, hstream, hother⟩ := useAgreed_exists (s := arrived c x step v s) (c := c) (stream := x) (y := y) (f := f)
        v.toNat hf hy
      refine ⟨t, (exec_arrival_used hrun harr h hn).trans (congrArg _ ht), ?_, ?_, ?_, hother⟩
      · rw [hframe]
        rfl
      · rw [hframe]
        rfl
      · rw [hstream, hstep]
        rfl
  · exact (exec_agreeTimeout hrun hawaits hy).trans (if_pos hlate)
  · obtain ⟨f, hf, hcheck, hph, hstep⟩ := (awaits_iff hy).1 hawaits
    have hstream : foldStream (modStream c x (fun z => { z with late := true }) s) c x = some { y with late := true } :=
      foldStream_modStream_same (fun _ => rfl) hf hy
    have hctxs : (logEvent 0x39 1 (s.build.homeRegion (((slotOf s c x).map (·.idx)).getD 0)) 0x200 c x n
        (modStream c x (fun z => { z with late := true }) s)).ctxs = (modStream c x (fun z => { z with late := true }) s).ctxs := by simp
    refine ⟨_, s.build.homeRegion (((slotOf s c x).map (·.idx)).getD 0), (exec_agreeTimeout hrun hawaits hy).trans (if_neg (Bool.eq_false_iff.1 hlate)), ?_, ?_, ⟨{ y with late := true }, ?_, rfl⟩, fun d hd => ?_⟩
    · rw [hctxs]
      rfl
    · rw [awaits_congr hctxs]
      exact (awaits_iff hstream).2 ⟨_, congrArg Ctx.fold (ctxOf_modStream_same hf), hcheck, hph, hstep⟩
    · exact (foldStream_congr hctxs).trans hstream
    · exact (ctxOf_congr hctxs d).trans (ctxOf_modStream_other hd)

/-- Settles O36. -/
theorem agreeBySoftware : Obligations.AgreeBySoftware := by
  intro s hrun c x n dropped
  refine ⟨fun h => ?_, fun h => ?_, fun h y hy => ?_⟩
  · have hsel : selAwaits (emit (.cpAck false) s) = false := by
      rw [Bool.eq_false_iff, ne_eq, selAwaits_iff]
      exact h
    exact ⟨(exec_agreeDeliver hrun).trans (congrArg _ (agreeDeliver_notAwaited hsel)),
      (exec_agreeLocal hrun).trans (congrArg _ (agreeLocal_notAwaited hsel))⟩
  · exact (exec_agreeDeliver hrun).trans (congrArg _ (agreeDeliver_noValue (deliverValue_none h.1 h.2)))
  · obtain ⟨f, hf, -, -, hstep⟩ := (awaits_iff hy).1 h
    have hsel : selAwaits (emit (.cpAck false) s) = true := selAwaits_iff.2 h
    refine ⟨?_, fun v hv => ?_⟩
    · obtain ⟨t, ht, hframe, hstream, hother⟩ := useAgreed_exists (s := emit (.cpAck false) s) (c := c) (stream := x) (y := y) (f := f)
        y.own hf hy
      refine ⟨t, (exec_agreeLocal hrun).trans (congrArg _ ((agreeLocal_used hsel (y := y) (by exact hy)).trans ht)), ?_, ?_, hother⟩
      · have hused : s.trk.used y.own y.own = s.trk := by
          rw [Tracker.used, decide_eq_false (lt_irrefl _), Bool.or_false]
        rw [hframe]
        rw [show (emit (.cpAck false) s).trk = s.trk from rfl, hused]
        rfl
      · rw [hstream, hstep]
        rfl
    · obtain ⟨t, ht, hframe, hstream, hother⟩ := useAgreed_exists (s := emit (.cpAck false) s) (c := c) (stream := x) (y := y) (f := f)
        v hf hy
      refine ⟨t, (exec_agreeDeliver hrun).trans (congrArg _ ((agreeDeliver_used (by exact hv) hsel).trans ht)), ?_, ?_, hother⟩
      · rw [hframe]
        rfl
      · rw [hstream, hstep]
        rfl

/-- Settles O37. -/
theorem trackerRequests : Obligations.TrackerRequests := by
  refine ⟨fun s hrun => ?_, fun s i sl hrun hslot => ?_⟩
  · intro c x p dropped asked
    refine ⟨fun h => ⟨?_, ?_⟩, fun hc hstate hplan hroom => ⟨?_, ?_⟩⟩
    · exact (exec_fbForce hrun).trans (congrArg _ (fbRequest_dropped (by exact h)))
    · exact (exec_fbRelease hrun).trans (congrArg _ (fbRequest_dropped (by exact h)))
    · exact (exec_fbForce hrun).trans (congrArg _ (fbRequest_asked (by exact hc) (by exact hstate) (by exact hplan) (by exact hroom)))
    · exact (exec_fbRelease hrun).trans (congrArg _ (fbRequest_asked (by exact hc) (by exact hstate) (by exact hplan) (by exact hroom)))
  · intro u stays
    have hevicts (h : ¬ stays) : exec (.slotEvict i) s = .next (foldPumpAll u) :=
      (exec_slotEvict hrun hslot).trans (if_pos (evictable_iff.2 h))
    exact ⟨hevicts, fun h hfold => (hevicts h).trans (congrArg _ (foldPumpAll_idle hfold)),
      fun h => (exec_slotEvict hrun hslot).trans (if_neg fun he => evictable_iff.1 he h)⟩

end Sys2Proof.Proofs
end

section
/-! PROOFS. The G16 guard code (R391, R392): products in GF(2^8), the syndrome of a word and of one with a flipped byte. -/

namespace Sys2Proof.Machine

/-! ## Products (R391) -/

theorem bit_xor (a b k : Nat) : bit (a ^^^ b) k = (bit a k != bit b k) := by
  simp [bit]

theorem xor_div_two (a b : Nat) : (a ^^^ b) / 2 = a / 2 ^^^ b / 2 := by
  rw [← Nat.shiftRight_one, ← Nat.shiftRight_one, ← Nat.shiftRight_one, Nat.shiftRight_xor_distrib]

/-- A product is linear in its second factor. -/
theorem gmulAux_xor (k : Nat) : ∀ a b c x y, gmulAux k a (b ^^^ c) (x ^^^ y) = gmulAux k a b x ^^^ gmulAux k a c y := by
  induction k with
  | zero => exact fun _ _ _ _ _ => rfl
  | succ k ih =>
    intro a b c x y
    have hacc : (if bit (b ^^^ c) 0 then (x ^^^ y) ^^^ a else x ^^^ y) =
        (if bit b 0 then x ^^^ a else x) ^^^ (if bit c 0 then y ^^^ a else y) := by
      rw [bit_xor]
      cases bit b 0 <;> cases bit c 0
      · rfl
      · exact Nat.xor_assoc x y a
      · exact (Nat.xor_assoc x y a).trans ((congrArg (x ^^^ ·) (Nat.xor_comm y a)).trans (Nat.xor_assoc x a y).symm)
      · show x ^^^ y = (x ^^^ a) ^^^ (y ^^^ a)
        rw [Nat.xor_assoc, Nat.xor_comm y a, ← Nat.xor_assoc a a y, Nat.xor_self, Nat.zero_xor]
    rw [gmulAux, gmulAux, gmulAux, hacc, xor_div_two, ih]

theorem gmul_xor (a b c : Nat) : gmul a (b ^^^ c) = gmul a b ^^^ gmul a c := gmulAux_xor 8 a b c 0 0

theorem gmulAux_lt (k : Nat) : ∀ {a acc : Nat} (b : Nat), a < 256 → acc < 256 → gmulAux k a b acc < 256 := by
  induction k with
  | zero => exact fun _ _ h => h
  | succ k ih =>
    intro a acc b ha hacc
    rw [gmulAux]
    refine ih _ ?_ ?_
    · split
      · exact Nat.xor_lt_two_pow (n := 8) (by omega) (by omega)
      · rename_i h
        have hb : a.testBit 7 = false := by simpa [bit] using h
        rw [Nat.testBit_eq_decide_div_mod_eq] at hb
        simp only [decide_eq_false_iff_not] at hb
        omega
    · split
      · exact Nat.xor_lt_two_pow (n := 8) hacc ha
      · exact hacc

theorem gmul_lt {a : Nat} (b : Nat) (ha : a < 256) : gmul a b < 256 := gmulAux_lt 8 b ha (by omega)

/-- The guard symbol of locator 4 solves its equation, and is the only byte that does. -/
theorem gmul_guard : ∀ x < 256, gmul 0x02 (gmul 0x7A x) ^^^ gmul 0x04 (gmul 0x7A x) = x ∧
    gmul 0x7A (gmul 0x02 x ^^^ gmul 0x04 x) = x := by decide +kernel

/-- A byte other than 0 tells the locators apart. -/
theorem gmul_locators : ∀ e < 256, e ≠ 0 → (g16Loc.map (gmul · e)).Nodup := by decide +kernel

/-! ## Sums -/

theorem foldl_xor (l : List Nat) (a : Nat) : l.foldl (· ^^^ ·) a = a ^^^ l.foldl (· ^^^ ·) 0 := by
  induction l generalizing a with
  | nil => exact (Nat.xor_zero a).symm
  | cons b l ih => rw [List.foldl_cons, List.foldl_cons, ih, ih (0 ^^^ b), Nat.zero_xor, Nat.xor_assoc]

theorem xorAll_cons (a : Nat) (l : List Nat) : xorAll (a :: l) = a ^^^ xorAll l := by
  rw [xorAll, List.foldl_cons, foldl_xor, Nat.zero_xor, xorAll]

theorem xorAll_append (l r : List Nat) : xorAll (l ++ r) = xorAll l ^^^ xorAll r := by
  rw [xorAll, List.foldl_append, foldl_xor, xorAll, xorAll]

theorem xorAll_lt {l : List Nat} (h : ∀ x ∈ l, x < 256) : xorAll l < 256 := by
  induction l with
  | nil => decide
  | cons a l ih =>
    rw [xorAll_cons]
    exact Nat.xor_lt_two_pow (n := 8) (h a List.mem_cons_self) (ih fun x hx => h x (List.mem_cons_of_mem _ hx))

/-- A symbol that changes by `e` changes the sum by `e`, and the weighted sum by the product of its locator with `e`. -/
theorem syndrome_modAt (e : Nat) : ∀ (loc l : List Nat) (i : Nat), i < l.length → i < loc.length →
    xorAll (modAt l i (· ^^^ e)) = xorAll l ^^^ e ∧
    xorAll (List.zipWith gmul loc (modAt l i (· ^^^ e))) = xorAll (List.zipWith gmul loc l) ^^^ gmul (loc.getD i 0) e := by
  intro loc l
  induction l generalizing loc with
  | nil => exact fun i hi => absurd hi (Nat.not_lt_zero i)
  | cons a l ih =>
    intro i hi hloc
    cases loc with
    | nil => exact absurd hloc (Nat.not_lt_zero i)
    | cons c loc =>
      cases i with
      | zero =>
        refine ⟨?_, ?_⟩
        · show xorAll ((a ^^^ e) :: l) = _
          rw [xorAll_cons, xorAll_cons, Nat.xor_assoc, Nat.xor_comm e, Nat.xor_assoc]
        · show xorAll (gmul c (a ^^^ e) :: List.zipWith gmul loc l) = xorAll (gmul c a :: List.zipWith gmul loc l) ^^^ gmul c e
          rw [xorAll_cons, xorAll_cons, gmul_xor, Nat.xor_assoc, Nat.xor_comm (gmul c e), Nat.xor_assoc]
      | succ i =>
        obtain ⟨h1, h2⟩ := ih loc i (Nat.lt_of_succ_lt_succ hi) (Nat.lt_of_succ_lt_succ hloc)
        refine ⟨?_, ?_⟩
        · show xorAll (a :: modAt l i (· ^^^ e)) = _
          rw [xorAll_cons, xorAll_cons, h1, Nat.xor_assoc]
        · show xorAll (gmul c a :: List.zipWith gmul loc (modAt l i (· ^^^ e))) =
            xorAll (gmul c a :: List.zipWith gmul loc l) ^^^ gmul (loc.getD i 0) e
          rw [xorAll_cons, xorAll_cons, h2, Nat.xor_assoc]

/-! ## Guarded words (R391, R392) -/

/-- The data sums of a word. -/
def dataSum (d : List Byte) : Nat := xorAll (d.map (·.toNat))
def dataWeighted (d : List Byte) : Nat := xorAll (List.zipWith gmul g16Loc (d.map (·.toNat)))

theorem dataSum_lt (d : List Byte) : dataSum d < 256 := xorAll_lt fun x hx => by
  obtain ⟨b, -, rfl⟩ := List.mem_map.1 hx
  exact b.isLt

theorem locator_lt : ∀ c ∈ g16Loc, c < 256 := by decide

theorem dataWeighted_lt (d : List Byte) : dataWeighted d < 256 := xorAll_lt fun x hx => by
  obtain ⟨i, hi, rfl⟩ := List.getElem_of_mem hx
  rw [List.getElem_zipWith]
  exact gmul_lt _ (locator_lt _ (List.getElem_mem _))

/-- What the two guard symbols have to solve: the syndrome of a word in its data sums. -/
theorem g16Syndrome_eq {d : List Byte} (hd : d.length = 16) (g : BitVec 16) : g16Syndrome ⟨d, g⟩ =
    (dataSum d ^^^ (g.toNat % 256 ^^^ g.toNat / 256), dataWeighted d ^^^ (gmul 0x02 (g.toNat % 256) ^^^ gmul 0x04 (g.toNat / 256))) := by
  have hlen : (g16Loc.take 16).length = (d.map (·.toNat)).length := by rw [List.length_map, hd]; rfl
  have happend (r : List Nat) : List.zipWith gmul g16Loc (d.map (·.toNat) ++ r) =
      List.zipWith gmul (g16Loc.take 16) (d.map (·.toNat)) ++ List.zipWith gmul [0x02, 0x04] r := by
    rw [← List.zipWith_append hlen]
    rfl
  have hdata : dataWeighted d = xorAll (List.zipWith gmul (g16Loc.take 16) (d.map (·.toNat))) := by
    have h := happend []
    rw [List.append_nil] at h
    rw [dataWeighted, h]
    exact congrArg xorAll (List.append_nil _)
  unfold g16Syndrome
  dsimp only
  rw [happend, xorAll_append, xorAll_append, ← hdata]
  have hsum (a b : Nat) : xorAll [a, b] = a ^^^ b := by rw [xorAll_cons, xorAll_cons]; exact congrArg (a ^^^ ·) (Nat.xor_zero b)
  exact Prod.ext (congrArg (dataSum d ^^^ ·) (hsum _ _)) (congrArg (dataWeighted d ^^^ ·) (hsum _ _))

/-- What the second guard symbol is found from. -/
def guardNeed (d : List Byte) : Nat := dataWeighted d ^^^ gmul 0x02 (dataSum d)

theorem guardNeed_lt (d : List Byte) : guardNeed d < 256 :=
  Nat.xor_lt_two_pow (n := 8) (dataWeighted_lt d) (gmul_lt _ (by omega))

theorem g16Guard_symbols (d : List Byte) : (g16Guard d).toNat % 256 = dataSum d ^^^ gmul 0x7A (guardNeed d) ∧
    (g16Guard d).toNat / 256 = gmul 0x7A (guardNeed d) := by
  have h17 : gmul 0x7A (guardNeed d) < 256 := gmul_lt _ (by omega)
  have h16 : dataSum d ^^^ gmul 0x7A (guardNeed d) < 256 := Nat.xor_lt_two_pow (n := 8) (dataSum_lt d) h17
  have hguard : (g16Guard d).toNat = gmul 0x7A (guardNeed d) * 256 + (dataSum d ^^^ gmul 0x7A (guardNeed d)) := by
    show (gmul 0x7A (guardNeed d) * 256 + (dataSum d ^^^ gmul 0x7A (guardNeed d))) % 2 ^ 16 = _
    exact Nat.mod_eq_of_lt (by omega)
  rw [hguard]
  constructor <;> omega

/-- A word is good where its guard bits are those of its data, and no other guard bits make it so. -/
theorem g16Syndrome_zero_iff {d : List Byte} (hd : d.length = 16) (g : BitVec 16) :
    ((g16Syndrome ⟨d, g⟩).1 = 0 ∧ (g16Syndrome ⟨d, g⟩).2 = 0) ↔ g = g16Guard d := by
  have hhi : g.toNat / 256 < 256 := by have := g.isLt; omega
  obtain ⟨hlo16, hhi17⟩ := g16Guard_symbols d
  have hsum : dataSum d ^^^ (g.toNat % 256 ^^^ g.toNat / 256) = 0 ↔ g.toNat % 256 = dataSum d ^^^ g.toNat / 256 := by
    rw [Nat.xor_eq_zero_iff]
    constructor
    · intro h
      rw [h, Nat.xor_xor_cancel_right]
    · intro h
      rw [h, Nat.xor_xor_cancel_right]
  have hweighted : g.toNat % 256 = dataSum d ^^^ g.toNat / 256 →
      dataWeighted d ^^^ (gmul 0x02 (g.toNat % 256) ^^^ gmul 0x04 (g.toNat / 256)) =
        guardNeed d ^^^ (gmul 0x02 (g.toNat / 256) ^^^ gmul 0x04 (g.toNat / 256)) := by
    intro h
    rw [h, gmul_xor, guardNeed, Nat.xor_assoc, Nat.xor_assoc]
  rw [g16Syndrome_eq hd]
  dsimp only
  rw [hsum]
  constructor
  · rintro ⟨hlo, hw⟩
    rw [hweighted hlo, Nat.xor_eq_zero_iff] at hw
    have hhi' : g.toNat / 256 = gmul 0x7A (guardNeed d) := by rw [hw, (gmul_guard _ hhi).2]
    refine BitVec.eq_of_toNat_eq ?_
    rw [← Nat.div_add_mod g.toNat 256, ← Nat.div_add_mod (g16Guard d).toNat 256, hlo16, hhi17, hlo, hhi']
  · rintro rfl
    have hlo : (g16Guard d).toNat % 256 = dataSum d ^^^ (g16Guard d).toNat / 256 := by rw [hlo16, hhi17]
    refine ⟨hlo, ?_⟩
    rw [hweighted hlo, hhi17, (gmul_guard _ (guardNeed_lt d)).1, Nat.xor_self]

/-- A word with a flipped data byte has the flip and its product with the byte's locator as its syndrome. -/
theorem g16Syndrome_flipped {d : List Byte} (hd : d.length = 16) {i : Nat} (hi : i < 16) (e : Byte) :
    g16Syndrome ⟨modAt d i (· ^^^ e), g16Guard d⟩ = (e.toNat, gmul (g16Loc.getD i 0) e.toNat) := by
  obtain ⟨h1, h2⟩ := (g16Syndrome_zero_iff hd (g16Guard d)).2 rfl
  unfold g16Syndrome at h1 h2 ⊢
  dsimp only at h1 h2 ⊢
  generalize [(g16Guard d).toNat % 256, (g16Guard d).toNat / 256] = tail at h1 h2 ⊢
  have hmod : (modAt d i (· ^^^ e)).map (·.toNat) ++ tail = modAt (d.map (·.toNat) ++ tail) i (· ^^^ e.toNat) := by
    refine List.ext_getElem? fun j => ?_
    have hlen : i < (d.map (·.toNat)).length := by simpa [hd] using hi
    rcases Nat.lt_or_ge j (d.map (·.toNat)).length with hj | hj
    · rw [modAt, modAt, List.getElem?_modify, List.getElem?_append_left (by simpa using hj), List.getElem?_append_left hj,
        List.getElem?_map, List.getElem?_map, List.getElem?_modify]
      cases d[j]? <;> by_cases hij : i = j <;> simp [hij]
    · rw [modAt, modAt, List.getElem?_modify, List.getElem?_append_right (by simpa using hj), List.getElem?_append_right hj]
      simp [(hlen.trans_le hj).ne]
  obtain ⟨hsum, hweighted⟩ := syndrome_modAt e.toNat g16Loc (d.map (·.toNat) ++ tail) i (by simp; omega)
    (Nat.lt_of_lt_of_le hi (by decide))
  rw [hmod, hsum, hweighted, h1, h2, Nat.zero_xor, Nat.zero_xor]

/-- A locator is found at its own place. -/
theorem firstIdx_locator {e : Nat} (he : e < 256) (h0 : e ≠ 0) {i : Nat} (hi : i < 16) :
    firstIdx (fun c => gmul c e == gmul (g16Loc.getD i 0) e) g16Loc = some i := by
  have hnodup := gmul_locators e he h0
  have hlen : i < g16Loc.length := Nat.lt_of_lt_of_le hi (by decide)
  rw [firstIdx, List.findIdx?_eq_some_iff_getElem]
  refine ⟨hlen, ?_, fun j hj => ?_⟩
  · rw [List.getD_eq_getElem _ _ hlen]
    exact beq_self_eq_true _
  · have hne := (List.nodup_iff_getElem?_ne_getElem?.1 hnodup) j i hj (by simpa using hlen)
    rw [List.getElem?_map, List.getElem?_map, List.getElem?_eq_getElem hlen, List.getElem?_eq_getElem (hj.trans hlen)] at hne
    rw [List.getD_eq_getElem _ _ hlen]
    simpa using hne

end Sys2Proof.Machine

namespace Sys2Proof.Proofs
open Sys2Proof.Machine

/-- Settles O60. -/
theorem guardedWords : Obligations.GuardedWords := by
  intro d hd
  refine ⟨?_, fun g hg => ?_, fun i e hi he => ?_⟩
  · exact if_pos ((g16Syndrome_zero_iff hd _).2 rfl)
  · unfold g16Check
    dsimp only
    rw [if_neg (mt (g16Syndrome_zero_iff hd g).1 hg)]
    split
    · simp
    · split <;> simp
  · have he0 : e.toNat ≠ 0 := fun h => he (BitVec.eq_of_toNat_eq h)
    have hback : modAt (modAt d i (fun b => b ^^^ e)) i (fun b => b ^^^ BitVec.ofNat 8 e.toNat) = d := by
      rw [modAt_modAt, BitVec.ofNat_toNat, BitVec.setWidth_eq]
      exact modAt_eq_self fun b _ => by rw [BitVec.xor_assoc, BitVec.xor_self, BitVec.xor_zero]
    unfold g16Check
    rw [g16Syndrome_flipped hd hi e]
    dsimp only
    rw [if_neg (fun h => he0 h.1), if_neg he0, firstIdx_locator e.isLt he0 hi]
    exact congrArg Checked.corrected hback

end Sys2Proof.Proofs
end

section
/-! PROOFS. Zombie cores (R335, R338) and the ring of the fault log (R348, R350). -/

namespace Sys2Proof.Machine

variable {s : State} {r c p a : Nat} {epoch : BitVec 16} {wr : Bool} {y : Phys}

/-! ## Zombies -/

theorem phys_of_getElem? (h : (region s r).phys[c]? = some y) : (region s r).phys.getD c Phys.reset = y := by
  rw [List.getD_eq_getElem?_getD, h]
  rfl

/-- A request of a fenced core is counted. -/
def Health.fenceDropped (h : Health) : Health := { h with fenceDrop := cntSat h.fenceDrop 1, fenced := true }

theorem exec_zombieRequest (hrun : s.rst = .run) (hpos : posBuilt s r p = true) (hy : (region s r).phys[c]? = some y)
    (hfenced : y.fenced = true) (hepoch : epoch ≠ (posOf s r p).epoch) : exec (.zombieRequest r c p epoch a wr) s =
      if y.logged then .next (modHealth Health.fenceDropped s)
      else .next (logEvent 0x0A 1 r c 0xFFFF (p * 2 ^ 16 + epoch.toNat) a
        (modPhys r c (fun y => { y with logged := true }) (modHealth Health.fenceDropped s))) := by
  refine (inRun_of_run hrun).trans ((if_neg ?_).trans ?_)
  · rw [phys_of_getElem? hy, hpos, hfenced]
    simpa using hepoch.symm
  · rw [phys_of_getElem? hy]
    rfl

theorem exec_zombieAliveToggle (hrun : s.rst = .run) (hy : (region s r).phys[c]? = some y) : exec (.zombieAliveToggle r c) s =
    if y.fenced then .next (modPhys r c (fun y => { y with held := true }) s) else .next s := by
  refine (inRun_of_run hrun).trans ?_
  rw [phys_of_getElem? hy]

/-! ## The ring -/

theorem ring_eq_zero {h : Health} (hlog : h.logLog2 < 6 ∨ 20 < h.logLog2) : h.ring = 0 := if_neg (by simp; omega)

theorem ring_eq {h : Health} (hlo : 6 ≤ h.logLog2) (hhi : h.logLog2 ≤ 20) : h.ring = h.logLog2 := if_pos (by simp [hlo, hhi])

theorem logPump_unset (h : s.health.ring = 0) : logPump s = s := if_pos (by simp [h])

theorem logPump_busy (h : s.health.phase ≠ .idle) : logPump s = s := if_pos (by simp [h])

theorem logPump_empty (h : s.health.queue = []) : logPump s = s := by
  unfold logPump
  dsimp only
  split
  · rfl
  · simp only [h]

theorem logPump_full {e : LogEntry} {es : List LogEntry} (hring : s.health.ring ≠ 0) (hphase : s.health.phase = .idle)
    (hqueue : s.health.queue = e :: es) (hfull : 2 ^ s.health.ring ≤ dist32 s.health.logWrite s.health.logRelease) :
    logPump s = modHealth (fun h => { h with queue := [], logLost := cntSat h.logLost h.queue.length }) s := by
  unfold logPump
  dsimp only
  rw [if_neg (by simp [hring, hphase])]
  simp only [hqueue, if_pos hfull]

theorem logPump_writes {e : LogEntry} {es : List LogEntry} (hring : s.health.ring ≠ 0) (hphase : s.health.phase = .idle)
    (hqueue : s.health.queue = e :: es) (hroom : dist32 s.health.logWrite s.health.logRelease < 2 ^ s.health.ring) : ∃ addr data,
    logPump s = startWrite .log addr data (modHealth (fun h => { h with phase := .body }) s) := by
  refine ⟨logAddr s.health s.health.logWrite + 4, (logBytes s.health.logWrite e).drop 4, ?_⟩
  unfold logPump
  dsimp only
  rw [if_neg (by simp [hring, hphase])]
  simp only [hqueue, if_neg (Nat.not_le.2 hroom)]

theorem startWrites_jobs (kind : JobKind) (segs : List (Nat × List Byte)) (s : State) :
    ∃ j ∈ (startWrites kind segs s).jobs, j.kind = kind ∧ j.wr = true := by
  rw [startWrites, drainCtl_jobs]
  exact ⟨_, List.mem_append_right _ (List.mem_singleton_self _), rfl, rfl⟩

theorem exec_hltLogSizeWrite (hrun : s.rst = .run) (data : Word) : exec (.hltLogSizeWrite data) s =
    .next (logPump (modHealth (fun h => { h with logLog2 := bits data.toNat 0 5 }) (emit (.cpAck false) s))) := inRun_of_run hrun

end Sys2Proof.Machine

namespace Sys2Proof.Proofs
open Sys2Proof.Machine

/-- Settles O48. -/
theorem zombiesAndLog : Obligations.ZombiesAndLog := by
  intro s hrun
  refine ⟨fun r c p epoch a wr y hpos hy hfenced hepoch => ?_, fun r c y hy => ⟨fun hf => ?_, fun hf => ?_⟩, fun data => ?_, fun hphase => ?_⟩
  · intro h
    have hexec := exec_zombieRequest (a := a) (wr := wr) hrun hpos hy hfenced hepoch
    exact ⟨fun hl => hexec.trans (if_pos hl), fun hl => hexec.trans (if_neg (Bool.eq_false_iff.1 hl))⟩
  · exact (exec_zombieAliveToggle hrun hy).trans (if_pos hf)
  · exact (exec_zombieAliveToggle hrun hy).trans (if_neg (Bool.eq_false_iff.1 hf))
  · intro n
    refine ⟨fun h => ?_, fun hlo hhi e es hqueue hphase hroom => ?_, fun hlo hhi e es hqueue hphase hfull => ?_⟩
    · refine (exec_hltLogSizeWrite hrun data).trans (congrArg _ ?_)
      rcases h with h | h | h | h
      · exact logPump_unset (ring_eq_zero (.inl h))
      · exact logPump_unset (ring_eq_zero (.inr h))
      · exact logPump_empty h
      · exact logPump_busy h
    all_goals
      have hring : (modHealth (fun h => { h with logLog2 := bits data.toNat 0 5 }) (emit (.cpAck false) s)).health.ring = n :=
        ring_eq (by exact hlo) (by exact hhi)
    · obtain ⟨addr, bytes, hpump⟩ := logPump_writes
        (s := modHealth (fun h => { h with logLog2 := bits data.toNat 0 5 }) (emit (.cpAck false) s))
        (by rw [hring]; omega) (by exact hphase) (by exact hqueue) (by rw [hring]; exact hroom)
      refine ⟨_, (exec_hltLogSizeWrite hrun data).trans (congrArg _ hpump), ?_, startWrites_health _ _ _, startWrites_jobs _ _ _⟩
      exact startWrite_quiet rfl
    · refine (exec_hltLogSizeWrite hrun data).trans (congrArg _ ((logPump_full (by rw [hring]; omega) (by exact hphase)
        (by exact hqueue) (by rw [hring]; exact hfull)).trans ?_))
      have hlen : s.health.queue.length = es.length + 1 := by rw [hqueue]; rfl
      rw [← hlen]
      rfl
  · refine (inRun_of_run hrun).trans (congrArg Host.Outcome.next (if_pos ?_))
    rw [hphase]
    rfl

end Sys2Proof.Proofs
end

section
/-! PROOFS. Nodes as they complete (R251, R252), and consumers that are counted off the switches of the codebook banks (R78, R80). -/

namespace Sys2Proof.Machine

variable {s t u : State} {g : Graph} {q r : NodeRef} {n m : Node} {status cause : Nat}

/-! ## Access -/

theorem graphIn_map {l : List Graph} {slot : Nat} {f : Graph → Graph} (hf : ∀ g, (f g).slot = g.slot) (a : Nat) :
    (l.map (fun g => if g.slot = slot then f g else g)).find? (fun g => g.slot == a) =
      (l.find? (fun g => g.slot == a)).map (fun g => if g.slot = slot then f g else g) := by
  rw [List.find?_map]
  refine congrArg _ (congrArg (List.find? · l) (funext fun g => ?_))
  show ((if g.slot = slot then f g else g).slot == a) = (g.slot == a)
  split
  · rw [hf]
  · rfl

theorem graphOf_modCtx_graphs (c : Nat) (f : Ctx → Ctx) (hf : ∀ x, (f x).graphs = x.graphs) (d a : Nat) :
    graphOf (modCtx c f s) d a = graphOf s d a := by
  rw [graphOf, graphOf, Ctx.graphIn, Ctx.graphIn, ctxOf_modCtx]
  split
  · rename_i h
    exact congrArg (List.find? _) (hf _)
  · rfl

theorem nodeOf_congr (h : t.ctxs = s.ctxs) (r : NodeRef) : nodeOf t r = nodeOf s r := by
  rw [nodeOf, nodeOf, graphOf, graphOf, ctxOf_congr h]

theorem built_of_graph {c a : Nat} (h : graphOf s c a = some g) : c < s.ctxs.length :=
  ctxOf_built (P := fun x => x.graphIn a = some g) h (by simp [Ctx.reset, Ctx.graphIn])

theorem graphOf_modGraph_same {c a : Nat} {f : Graph → Graph} (hf : ∀ g, (f g).slot = g.slot) (h : graphOf s c a = some g) :
    graphOf (modGraph c a f s) c a = some (f g) := by
  have hslot : g.slot = a := by
    have := List.find?_some (show (ctxOf s c).graphs.find? (fun g => g.slot == a) = some g from h)
    simpa using this
  rw [graphOf, modGraph, ctxOf_modCtx_same (built_of_graph h), Ctx.graphIn, graphIn_map hf]
  rw [show (ctxOf s c).graphs.find? (fun g => g.slot == a) = some g from h, Option.map_some, if_pos hslot]

theorem graphOf_modGraph_other {c a d b : Nat} {f : Graph → Graph} (hf : ∀ g, (f g).slot = g.slot) (h : d ≠ c ∨ b ≠ a) :
    graphOf (modGraph c a f s) d b = graphOf s d b := by
  by_cases hd : d = c
  · subst hd
    have hb : b ≠ a := h.resolve_left (fun h => h rfl)
    rw [graphOf, graphOf, modGraph, ctxOf_modCtx]
    split
    · rw [Ctx.graphIn, graphIn_map hf, Ctx.graphIn]
      cases hg : (ctxOf s d).graphs.find? (fun g => g.slot == b) with
      | none => rfl
      | some g =>
        have hslot : g.slot = b := by simpa using List.find?_some hg
        rw [Option.map_some, if_neg (by rw [hslot]; exact hb)]
    · rfl
  · rw [graphOf, graphOf, modGraph, ctxOf_modCtx_other hd]

theorem nodeOf_of_graph (h : graphOf s r.ctx r.graph = some g) : nodeOf s r = g.nodes[r.node]? := by rw [nodeOf, h]; rfl

theorem graph_of_nodeOf (h : nodeOf s r = some n) : ∃ g, graphOf s r.ctx r.graph = some g ∧ g.nodes[r.node]? = some n := by
  cases hg : graphOf s r.ctx r.graph with
  | none => rw [nodeOf, hg] at h; cases h
  | some g => exact ⟨g, rfl, by rw [nodeOf_of_graph hg] at h; exact h⟩

theorem built_of_node (h : nodeOf s r = some n) : r.ctx < s.ctxs.length :=
  have ⟨_, hg, _⟩ := graph_of_nodeOf h
  built_of_graph hg

/-- An update of a graph's nodes: what the node of a reference has become. -/
theorem nodeOf_modGraph {f : Graph → Graph} (hf : ∀ g, (f g).slot = g.slot) {c a : Nat} (r : NodeRef) :
    nodeOf (modGraph c a f s) r = if r.ctx = c ∧ r.graph = a then (graphOf s c a).bind (fun g => (f g).nodes[r.node]?) else nodeOf s r := by
  split
  · rename_i h
    obtain ⟨rfl, rfl⟩ := h
    cases hg : graphOf s r.ctx r.graph with
    | some g => rw [nodeOf_of_graph (graphOf_modGraph_same hf hg)]; rfl
    | none =>
      rw [nodeOf, graphOf, modGraph, ctxOf_modCtx]
      split
      · have hnone : (ctxOf s r.ctx).graphs.find? (fun g => g.slot == r.graph) = none := hg
        rw [Ctx.graphIn, graphIn_map hf, hnone]
        rfl
      · rw [show (ctxOf s r.ctx).graphIn r.graph = none from hg]
        rfl
  · rename_i h
    rw [nodeOf, nodeOf, graphOf_modGraph_other hf (not_and_or.1 h)]

theorem nodeOf_modNode (f : Node → Node) (r : NodeRef) : nodeOf (modNode q f s) r = if r = q then (nodeOf s r).map f else nodeOf s r := by
  rw [modNode, nodeOf_modGraph (f := fun g => { g with nodes := modAt g.nodes q.node f }) (fun _ => rfl)]
  by_cases hgraph : r.ctx = q.ctx ∧ r.graph = q.graph
  · rw [if_pos hgraph, ← hgraph.1, ← hgraph.2, nodeOf]
    cases hg : graphOf s r.ctx r.graph with
    | none => split <;> rfl
    | some g =>
      show (modAt g.nodes q.node f)[r.node]? = if r = q then (g.nodes[r.node]?).map f else g.nodes[r.node]?
      rw [modAt, List.getElem?_modify]
      by_cases hnode : q.node = r.node
      · have hrq : r = q := by
          cases r; cases q
          simp only at hgraph hnode
          simp [hgraph.1, hgraph.2, hnode]
        rw [if_pos hrq]
        simp [hnode]
      · rw [if_neg (by rintro rfl; exact hnode rfl)]
        simp [hnode]
  · rw [if_neg hgraph, if_neg (by rintro rfl; exact hgraph ⟨rfl, rfl⟩)]

theorem nodeOf_modNode_same {f : Node → Node} (h : nodeOf s r = some n) : nodeOf (modNode r f s) r = some (f n) := by
  rw [nodeOf_modNode, if_pos rfl, h]
  rfl

theorem nodeOf_modNode_other {f : Node → Node} (h : r ≠ q) : nodeOf (modNode q f s) r = nodeOf s r := by
  rw [nodeOf_modNode, if_neg h]

theorem ctxOf_modNode_other {f : Node → Node} {d : Nat} (h : d ≠ r.ctx) : ctxOf (modNode r f s) d = ctxOf s d := ctxOf_modCtx_other h

/-! ## Completion (R251, R252) -/

/-- What the completion of other nodes leaves of a node: everything but the count of its predecessors and whether it is doomed. -/
def Node.Same (n m : Node) : Prop := m = { n with remaining := m.remaining, doomed := m.doomed }

theorem Node.Same.refl (n : Node) : n.Same n := rfl

theorem Node.Same.trans {a b c : Node} (h : a.Same b) (k : b.Same c) : a.Same c := by
  unfold Node.Same at *
  rw [h] at k
  exact k

theorem Node.Same.stat_eq (h : n.Same m) : m.stat = n.stat := by rw [h]
theorem Node.Same.status_eq (h : n.Same m) : m.status = n.status := by rw [h]
theorem Node.Same.cause_eq (h : n.Same m) : m.cause = n.cause := by rw [h]
theorem Node.Same.task_eq (h : n.Same m) : m.task = n.task := by rw [h]

/-- The nodes of a graph that do not wait stay as they are. -/
def Graph.Keeps (g h : Graph) : Prop := ∀ (k : Nat) (n : Node), g.nodes[k]? = some n → n.stat ≠ .waiting → ∃ m : Node, h.nodes[k]? = some m ∧ n.Same m

theorem Graph.Keeps.trans {g h i : Graph} (h₁ : g.Keeps h) (h₂ : h.Keeps i) : g.Keeps i := by
  intro k n hn hstat
  obtain ⟨m, hm, hsame⟩ := h₁ k n hn hstat
  obtain ⟨m', hm', hsame'⟩ := h₂ k m hm (by rw [hsame.stat_eq]; exact hstat)
  exact ⟨m', hm', hsame.trans hsame'⟩

theorem applySucc_same (a : Nat) (g : Graph) (k : Nat) (n : Node) (hn : g.nodes[k]? = some n) :
    ∃ m, (applySucc a g).nodes[k]? = some m ∧ n.Same m := by
  unfold applySucc
  dsimp only
  generalize (g.nodes.getD a default).succ = l
  generalize failing (g.nodes.getD a default).status = d
  generalize g.nodes = ns at hn
  induction l generalizing ns n with
  | nil => exact ⟨n, hn, .refl n⟩
  | cons j l ih =>
    rw [List.foldl_cons]
    have hmod : ∃ m, (modAt ns j (fun x => { x with remaining := x.remaining - 1, doomed := x.doomed || d }))[k]? = some m ∧ n.Same m := by
      rw [modAt, List.getElem?_modify, hn]
      exact ⟨_, rfl, by dsimp only; split <;> rfl⟩
    obtain ⟨m, hm, hsame⟩ := hmod
    obtain ⟨m', hm', hsame'⟩ := ih _ _ hm
    exact ⟨m', hm', hsame.trans hsame'⟩

theorem applySucc_keeps (a : Nat) (g : Graph) : g.Keeps (applySucc a g) := fun k n hn _ => applySucc_same a g k n hn

theorem doomedCancel_keeps (g : Graph) (a : Nat) : g.Keeps (doomedCancel g a) := by
  unfold doomedCancel
  split
  · rename_i hcancels
    refine Graph.Keeps.trans (h := { g with nodes := modAt g.nodes a (fun n =>
      { n with stat := .completed, status := stCancelled, cause := 0x20, named := n.uses }) }) (fun k n hn hstat => ?_) (applySucc_keeps _ _)
    have hne : a ≠ k := by
      rintro rfl
      rw [List.getD_eq_getElem?_getD, hn] at hcancels
      simp only [Option.getD_some, Node.cancels, Bool.and_eq_true, beq_iff_eq] at hcancels
      exact hstat hcancels.1.1.1
    refine ⟨n, ?_, .refl n⟩
    show (modAt g.nodes a _)[k]? = some n
    rw [modAt, List.getElem?_modify, hn]
    simp [hne]
  · exact fun k n hn _ => ⟨n, hn, .refl n⟩

theorem cascade_keeps (g : Graph) : g.Keeps (cascade g) := by
  unfold cascade
  generalize List.range g.nodes.length = l
  induction l generalizing g with
  | nil => exact fun k n hn _ => ⟨n, hn, .refl n⟩
  | cons a l ih => exact (doomedCancel_keeps g a).trans (ih _)

/-- What the completion of a node makes of itself. -/
def Node.ended (status cause : Nat) (n : Node) : Node :=
  { n with stat := .completed, status := status, cause := cause, task := none, named := n.uses }

theorem completeIn_same {k : Nat} (h : g.nodes[k]? = some n) :
    ∃ m, (completeIn k status cause g).nodes[k]? = some m ∧ (n.ended status cause).Same m := by
  have hmod : ({ g with nodes := modAt g.nodes k (Node.ended status cause) } : Graph).nodes[k]? = some (n.ended status cause) := by
    show (modAt g.nodes k _)[k]? = _
    rw [modAt, List.getElem?_modify, h]
    simp
  exact (applySucc_keeps k _).trans (cascade_keeps _) k _ hmod (by simp [Node.ended])

theorem completeIn_other {j k : Nat} (hjk : j ≠ k) (h : g.nodes[j]? = some n) (hstat : n.stat ≠ .waiting) :
    ∃ m, (completeIn k status cause g).nodes[j]? = some m ∧ n.Same m := by
  have hmod : ({ g with nodes := modAt g.nodes k (Node.ended status cause) } : Graph).nodes[j]? = some n := by
    show (modAt g.nodes k _)[j]? = _
    rw [modAt, List.getElem?_modify, h]
    simp [hjk.symm]
  exact (applySucc_keeps k _).trans (cascade_keeps _) j _ hmod hstat

/-- Of a graph only the nodes change as one completes. -/
theorem applySucc_frame (a : Nat) (g : Graph) : applySucc a g = { g with nodes := (applySucc a g).nodes } := rfl

theorem doomedCancel_frame (g : Graph) (a : Nat) : doomedCancel g a = { g with nodes := (doomedCancel g a).nodes } := by
  unfold doomedCancel
  split <;> rfl

theorem cascade_frame (g : Graph) : cascade g = { g with nodes := (cascade g).nodes } := by
  unfold cascade
  generalize List.range g.nodes.length = l
  induction l generalizing g with
  | nil => rfl
  | cons a l ih =>
    rw [List.foldl_cons, ih, doomedCancel_frame]

theorem completeIn_frame (k status cause : Nat) (g : Graph) :
    completeIn k status cause g = { g with nodes := (completeIn k status cause g).nodes } := by
  unfold completeIn
  rw [cascade_frame, applySucc_frame]

theorem completeIn_slot (k status cause : Nat) (g : Graph) : (completeIn k status cause g).slot = g.slot := by rw [completeIn_frame]

theorem completeNode_eq (h : nodeOf s r = some n) (hstat : n.stat ≠ .completed) :
    completeNode r status cause s = modGraph r.ctx r.graph (completeIn r.node status cause) s := by
  unfold completeNode
  simp only [h]
  exact if_neg (by simpa using hstat)

theorem completeNode_completed (h : nodeOf s r = some n) (hstat : n.stat = .completed) : completeNode r status cause s = s := by
  unfold completeNode
  simp only [h]
  exact if_pos (by simp [hstat])

theorem completeNode_absent (h : nodeOf s r = none) : completeNode r status cause s = s := by
  unfold completeNode
  simp only [h]

/-- A node that completes. -/
theorem nodeOf_completeNode_same (h : nodeOf s r = some n) (hstat : n.stat ≠ .completed) :
    ∃ m, nodeOf (completeNode r status cause s) r = some m ∧ (n.ended status cause).Same m := by
  obtain ⟨g, hg, hn⟩ := graph_of_nodeOf h
  rw [completeNode_eq h hstat, nodeOf_modGraph (completeIn_slot _ _ _), if_pos ⟨rfl, rfl⟩, hg]
  exact completeIn_same hn

/-- Another node, unless it waits. -/
theorem nodeOf_completeNode_other (hrq : r ≠ q) (h : nodeOf s r = some n) (hstat : n.stat ≠ .waiting) :
    ∃ m, nodeOf (completeNode q status cause s) r = some m ∧ n.Same m := by
  cases hq : nodeOf s q with
  | none => rw [completeNode_absent hq]; exact ⟨n, h, .refl n⟩
  | some k =>
    by_cases hk : k.stat = .completed
    · rw [completeNode_completed hq hk]; exact ⟨n, h, .refl n⟩
    · rw [completeNode_eq hq hk, nodeOf_modGraph (completeIn_slot _ _ _)]
      split
      · rename_i hgraph
        obtain ⟨g, hg, hn⟩ := graph_of_nodeOf h
        rw [← hgraph.1, ← hgraph.2, hg]
        refine completeIn_other ?_ hn hstat
        intro hnode
        refine hrq ?_
        cases r; cases q
        simp only at hgraph hnode
        simp [hgraph.1, hgraph.2, hnode]
      · exact ⟨n, h, .refl n⟩

theorem ctxOf_completeNode_other {d : Nat} (hd : d ≠ r.ctx) : ctxOf (completeNode r status cause s) d = ctxOf s d := by
  cases h : nodeOf s r with
  | none => rw [completeNode_absent h]
  | some n =>
    by_cases hn : n.stat = .completed
    · rw [completeNode_completed h hn]
    · rw [completeNode_eq h hn, modGraph, ctxOf_modCtx_other hd]

/-- Of a context the completion of a node touches the graphs alone. -/
theorem ctxOf_completeNode_graphs (r : NodeRef) (status cause : Nat) (s : State) (d : Nat) :
    ctxOf (completeNode r status cause s) d = { ctxOf s d with graphs := (ctxOf (completeNode r status cause s) d).graphs } := by
  cases h : nodeOf s r with
  | none => rw [completeNode_absent h]
  | some n =>
    by_cases hn : n.stat = .completed
    · rw [completeNode_completed h hn]
    · rw [completeNode_eq h hn, modGraph, ctxOf_modCtx]
      split
      · rfl
      · rfl

/-- A node has completed with a status and a cause. -/
def NodeEnded (s : State) (r : NodeRef) (status cause : Nat) : Prop :=
  ∃ k, nodeOf s r = some k ∧ k.stat = .completed ∧ k.status = status ∧ k.cause = cause

theorem NodeEnded.after (h : NodeEnded s r status cause) (q : NodeRef) (st ca : Nat) :
    NodeEnded (completeNode q st ca s) r status cause := by
  obtain ⟨k, hk, hstat, hstatus, hcause⟩ := h
  by_cases hrq : r = q
  · subst hrq
    rw [completeNode_completed hk hstat]
    exact ⟨k, hk, hstat, hstatus, hcause⟩
  · obtain ⟨m, hm, hsame⟩ := nodeOf_completeNode_other (status := st) (cause := ca) hrq hk (by simp [hstat])
    exact ⟨m, hm, hsame.stat_eq.trans hstat, hsame.status_eq.trans hstatus, hsame.cause_eq.trans hcause⟩

theorem completeNode_ended (h : nodeOf s r = some n) (hstat : n.stat ≠ .completed) : NodeEnded (completeNode r status cause s) r status cause := by
  obtain ⟨m, hm, hsame⟩ := nodeOf_completeNode_same (status := status) (cause := cause) h hstat
  exact ⟨m, hm, hsame.stat_eq, hsame.status_eq, hsame.cause_eq⟩

/-- A node that runs, or has been left alone since. -/
def NodeKept (s : State) (r : NodeRef) (n : Node) : Prop := ∃ m, nodeOf s r = some m ∧ n.Same m

theorem NodeKept.refl (h : nodeOf s r = some n) : NodeKept s r n := ⟨n, h, .refl n⟩

theorem NodeKept.after (h : NodeKept s r n) (hstat : n.stat ≠ .waiting) (hrq : r ≠ q) : NodeKept (completeNode q status cause s) r n := by
  obtain ⟨m, hm, hsame⟩ := h
  obtain ⟨m', hm', hsame'⟩ := nodeOf_completeNode_other (status := status) (cause := cause) hrq hm (by rw [hsame.stat_eq]; exact hstat)
  exact ⟨m', hm', hsame.trans hsame'⟩

theorem NodeKept.ended (h : NodeKept s r n) (hstat : n.stat ≠ .completed) : NodeEnded (completeNode r status cause s) r status cause := by
  obtain ⟨m, hm, hsame⟩ := h
  exact completeNode_ended hm (by rw [hsame.stat_eq]; exact hstat)

theorem NodeKept.congr (h : NodeKept s r n) (hctx : t.ctxs = s.ctxs) : NodeKept t r n := by
  rw [NodeKept, nodeOf_congr hctx]
  exact h

theorem NodeEnded.congr (h : NodeEnded s r status cause) (hctx : t.ctxs = s.ctxs) : NodeEnded t r status cause := by
  rw [NodeEnded, nodeOf_congr hctx]
  exact h

/-- The nodes of a list complete with one status and cause. -/
theorem foldl_completeNode_ended (l : List NodeRef) (h : NodeEnded s r status cause) {st ca : Nat} :
    NodeEnded (l.foldl (fun s q => completeNode q st ca s) s) r status cause := by
  induction l generalizing s with
  | nil => exact h
  | cons q l ih => exact ih (h.after q st ca)

theorem foldl_completeNode_kept (l : List NodeRef) (h : NodeKept s r n) (hstat : n.stat ≠ .waiting) (hr : r ∉ l) :
    NodeKept (l.foldl (fun s q => completeNode q status cause s) s) r n := by
  induction l generalizing s with
  | nil => exact h
  | cons q l ih => exact ih (h.after hstat (fun hq => hr (hq ▸ List.mem_cons_self))) (fun hl => hr (List.mem_cons_of_mem _ hl))

theorem foldl_completeNode_mem (l : List NodeRef) (h : NodeKept s r n) (hstat : n.stat = .dispatched) (hr : r ∈ l) :
    NodeEnded (l.foldl (fun s q => completeNode q status cause s) s) r status cause := by
  induction l generalizing s with
  | nil => cases hr
  | cons q l ih =>
    rw [List.foldl_cons]
    by_cases hq : r = q
    · subst hq
      exact foldl_completeNode_ended l (h.ended (by simp [hstat]))
    · exact ih (h.after (by simp [hstat]) hq) ((List.mem_cons.1 hr).resolve_left hq)

/-! ## Switches of the banks (R78, R80) -/

variable {c : Consumer} {a : Nat} {b : Bank}

/-- A bank whose switch has ended. -/
def Bank.switched (b : Bank) : Bank :=
  { b with live := !b.live, gen := (b.gen + 1) % 256, state := .opn, flip := [], node := none, waits := [] }

/-- The consumer is the last that the switch of the bank waits for. -/
def Bank.Last (c : Consumer) (b : Bank) : Prop := b.state = .switching ∧ c ∈ b.flip ∧ b.flip.filter (· != c) = []

/-- The bank after a consumer has been counted off. -/
def Bank.counted (c : Consumer) (b : Bank) : Bank :=
  if b.state = .switching ∧ c ∈ b.flip then
    if b.flip.filter (· != c) = [] then b.switched else { b with flip := b.flip.filter (· != c) }
  else b

theorem Bank.counted_of_not (h : b.state ≠ .switching ∨ c ∉ b.flip) : b.counted c = b :=
  if_neg fun hb => h.elim (fun h => h hb.1) (fun h => h hb.2)

theorem Bank.counted_of_more (h : b.state = .switching) (hc : c ∈ b.flip) (hrest : b.flip.filter (· != c) ≠ []) :
    b.counted c = { b with flip := b.flip.filter (· != c) } := (if_pos ⟨h, hc⟩).trans (if_neg hrest)

theorem Bank.counted_of_last (h : b.Last c) : b.counted c = b.switched := (if_pos ⟨h.1, h.2.1⟩).trans (if_pos h.2.2)

theorem built_of_switching (h : (bank s a).state = .switching) : a < s.banks.length := by
  by_contra ha
  rw [bank, List.getD_eq_default _ _ (Nat.not_lt.1 ha)] at h
  cases h

/-- The node that started the switch completes. -/
def nodeDone (o : Option NodeRef) (s : State) : State := match o with
  | some r => completeNode r 0 0 s
  | none => s

theorem nodeDone_frame (o : Option NodeRef) (s : State) : nodeDone o s = { s with ctxs := (nodeDone o s).ctxs } := by
  cases o with
  | none => rfl
  | some r => exact completeNode_frame r 0 0 s

/-- The end of a switch, before the nodes that wait for it are turned away. -/
def switchEnds (a : Nat) (s : State) : State :=
  modBank a (fun b => { b with waits := [] }) (nodeDone (bank s a).node (modBank a (fun b =>
    { b with live := !b.live, gen := (b.gen + 1) % 256, state := .opn, flip := [], node := none }) s))

theorem switchEnds_frame (a : Nat) (s : State) : switchEnds a s =
    { s with banks := modAt s.banks a Bank.switched, ctxs := (switchEnds a s).ctxs } := by
  have hbanks : modAt (modAt s.banks a (fun b => { b with
      live := !b.live, gen := (b.gen + 1) % 256, state := .opn, flip := [], node := none })) a (fun b => { b with waits := [] }) =
      modAt s.banks a Bank.switched := modAt_modAt _ _ _ _
  rw [switchEnds, nodeDone_frame, ← hbanks]
  rfl

theorem bank_nodeDone (o : Option NodeRef) (s : State) (b : Nat) : bank (nodeDone o s) b = bank s b := by
  rw [nodeDone_frame]
  rfl

theorem switchDone_eq (a : Nat) (s : State) : switchDone a s =
    (bank s a).waits.foldl (fun s r => completeNode r 0x16 0x0B s) (switchEnds a s) := by
  have hwaits (o : Option NodeRef) : (bank (nodeDone o (modBank a (fun b =>
      { b with live := !b.live, gen := (b.gen + 1) % 256, state := .opn, flip := [], node := none }) s)) a).waits = (bank s a).waits := by
    rw [bank_nodeDone]
    by_cases ha : a < s.banks.length
    · rw [bank_modBank_same ha]
    · rw [bank, bank, List.getD_eq_default _ _ (Nat.not_lt.1 ha), List.getD_eq_default _ _ (by simpa [modBank, modAt] using ha)]
  have hturn : switchDone a s = bankTurnAway a (nodeDone (bank s a).node (modBank a (fun b =>
      { b with live := !b.live, gen := (b.gen + 1) % 256, state := .opn, flip := [], node := none }) s)) := by
    unfold switchDone nodeDone
    cases (bank s a).node <;> rfl
  rw [hturn, bankTurnAway, hwaits]
  rfl

theorem foldl_completeNode_frame (l : List NodeRef) (s : State) : l.foldl (fun s q => completeNode q status cause s) s =
    { s with ctxs := (l.foldl (fun s q => completeNode q status cause s) s).ctxs } := by
  induction l generalizing s with
  | nil => rfl
  | cons q l ih => rw [List.foldl_cons, ih, completeNode_frame]

theorem switchDone_frame (a : Nat) (s : State) : switchDone a s =
    { s with banks := modAt s.banks a Bank.switched, ctxs := (switchDone a s).ctxs } := by
  rw [switchDone_eq, foldl_completeNode_frame, switchEnds_frame]

theorem nodeDone_kept {o : Option NodeRef} (hnode : o ≠ some r) (h : NodeKept s r n) (hstat : n.stat ≠ .waiting) :
    NodeKept (nodeDone o s) r n := by
  cases o with
  | none => exact h
  | some q => exact h.after hstat (fun hrq => hnode (hrq ▸ rfl))

theorem nodeDone_ended {o : Option NodeRef} (h : NodeEnded s r status cause) : NodeEnded (nodeDone o s) r status cause := by
  cases o with
  | none => exact h
  | some q => exact h.after q 0 0

theorem switchEnds_kept (hnode : (bank s a).node ≠ some r) (h : NodeKept s r n) (hstat : n.stat ≠ .waiting) : NodeKept (switchEnds a s) r n :=
  NodeKept.congr (nodeDone_kept hnode (h.congr (t := modBank a _ s) rfl) hstat) rfl

/-- What the end of a switch does to a node: the one that started it completes, those that wait are turned away, any other stays. -/
theorem switchDone_starter (hnode : (bank s a).node = some r) (h : NodeKept s r n) (hstat : n.stat = .dispatched) :
    NodeEnded (switchDone a s) r 0 0 := by
  rw [switchDone_eq]
  refine foldl_completeNode_ended _ ?_
  refine NodeEnded.congr (t := switchEnds a s) (s := nodeDone (bank s a).node (modBank a _ s)) ?_ rfl
  rw [hnode]
  exact (h.congr (t := modBank a _ s) rfl).ended (by simp [hstat])

theorem switchDone_waiter (hnode : (bank s a).node ≠ some r) (hwaits : r ∈ (bank s a).waits) (h : NodeKept s r n)
    (hstat : n.stat = .dispatched) : NodeEnded (switchDone a s) r 0x16 0x0B := by
  rw [switchDone_eq]
  exact foldl_completeNode_mem _ (switchEnds_kept hnode h (by simp [hstat])) hstat hwaits

theorem switchDone_other (hnode : (bank s a).node ≠ some r) (hwaits : r ∉ (bank s a).waits) (h : NodeKept s r n)
    (hstat : n.stat ≠ .waiting) : NodeKept (switchDone a s) r n := by
  rw [switchDone_eq]
  exact foldl_completeNode_kept _ (switchEnds_kept hnode h hstat) hstat hwaits

theorem switchDone_ended (h : NodeEnded s r status cause) : NodeEnded (switchDone a s) r status cause := by
  rw [switchDone_eq]
  refine foldl_completeNode_ended _ ?_
  exact NodeEnded.congr (t := switchEnds a s) (nodeDone_ended (h.congr (t := modBank a _ s) rfl)) rfl

theorem cbFlip_off (h : (bank s a).state ≠ .switching ∨ c ∉ (bank s a).flip) : cbFlip a c s = s :=
  if_neg (by rcases h with h | h <;> simp [h])

theorem cbFlip_on (h : (bank s a).state = .switching) (hc : c ∈ (bank s a).flip) : cbFlip a c s =
    if (bank s a).flip.filter (· != c) = [] then switchDone a (modBank a (fun b => { b with flip := b.flip.filter (· != c) }) s)
    else modBank a (fun b => { b with flip := b.flip.filter (· != c) }) s := by
  refine (if_pos (by simp [h, hc])).trans ?_
  rw [bank_modBank_same (built_of_switching h)]
  simp only [List.isEmpty_iff]

/-- A consumer that is counted off one bank: the bank, and nothing else but contexts. -/
theorem cbFlip_frame (a : Nat) (c : Consumer) (s : State) :
    cbFlip a c s = { s with banks := modAt s.banks a (Bank.counted c), ctxs := (cbFlip a c s).ctxs } := by
  by_cases h : (bank s a).state = .switching ∧ c ∈ (bank s a).flip
  · rw [modAt_const s.banks a (Bank.counted c) Bank.reset]
    show _ = { s with banks := modAt s.banks a (fun _ => (bank s a).counted c), ctxs := _ }
    rw [cbFlip_on h.1 h.2]
    split
    · rename_i hrest
      rw [switchDone_frame, Bank.counted_of_last ⟨h.1, h.2, hrest⟩]
      have hbanks : modAt (modAt s.banks a (fun b => { b with flip := b.flip.filter (· != c) })) a Bank.switched =
          modAt s.banks a (fun _ => (bank s a).switched) := by
        rw [modAt_modAt, modAt_const _ _ _ Bank.reset]
        rfl
      rw [← hbanks]
      rfl
    · rename_i hrest
      rw [Bank.counted_of_more h.1 h.2 hrest]
      have hbanks : modAt s.banks a (fun b => { b with flip := b.flip.filter (· != c) }) =
          modAt s.banks a (fun _ => { bank s a with flip := (bank s a).flip.filter (· != c) }) := modAt_const _ _ _ Bank.reset
      rw [← hbanks]
      rfl
  · have hoff : (bank s a).state ≠ .switching ∨ c ∉ (bank s a).flip := by tauto
    have hbanks : modAt s.banks a (Bank.counted c) = s.banks := by
      rw [modAt_const _ _ _ Bank.reset]
      refine modAt_eq_self fun x hx => ?_
      have hb : s.banks.getD a Bank.reset = x := by rw [List.getD_eq_getElem?_getD, hx]; rfl
      rw [hb]
      exact Bank.counted_of_not (by rw [← hb]; exact hoff)
    rw [cbFlip_off hoff, hbanks]

theorem bank_cbFlip_same : bank (cbFlip a c s) a = (bank s a).counted c := by
  rw [cbFlip_frame]
  by_cases ha : a < s.banks.length
  · exact bank_modBank_same ha
  · show (modAt s.banks a (Bank.counted c)).getD a Bank.reset = (bank s a).counted c
    rw [bank, List.getD_eq_default _ _ (Nat.not_lt.1 ha), List.getD_eq_default _ _ (by simpa [modAt] using ha)]
    rfl

theorem bank_cbFlip_other {d : Nat} (h : d ≠ a) : bank (cbFlip a c s) d = bank s d := by
  rw [cbFlip_frame]
  exact bank_modBank_other h

/-! ## A consumer that is counted off every bank (R78) -/

/-- What has become of a node after a consumer has been counted off some banks: it is left alone, or it is the starter or one of the
waiting nodes of a bank whose switch has ended. -/
def NodeFate (c : Consumer) (s t : State) (l : List Nat) (r : NodeRef) (n : Node) : Prop :=
  (NodeKept t r n ∧ ∀ a ∈ l, (bank s a).Last c → (bank s a).node ≠ some r ∧ r ∉ (bank s a).waits) ∨
  (NodeEnded t r 0 0 ∧ ∃ a ∈ l, (bank s a).Last c ∧ (bank s a).node = some r) ∨
  (NodeEnded t r 0x16 0x0B ∧ ∃ a ∈ l, (bank s a).Last c ∧ (bank s a).node ≠ some r ∧ r ∈ (bank s a).waits)

theorem Bank.counted_off (c : Consumer) (b : Bank) : (b.counted c).state ≠ .switching ∨ c ∉ (b.counted c).flip := by
  by_cases h : b.state = .switching ∧ c ∈ b.flip
  · by_cases hrest : b.flip.filter (· != c) = []
    · rw [Bank.counted_of_last ⟨h.1, h.2, hrest⟩]
      exact .inl (by simp [Bank.switched])
    · rw [Bank.counted_of_more h.1 h.2 hrest]
      exact .inr (by simp)
  · rw [Bank.counted_of_not (by tauto)]
    tauto

/-- The switch of a bank from which the last consumer has been counted off has ended. -/
theorem cbFlip_last (h : (bank s a).Last c) :
    cbFlip a c s = switchDone a (modBank a (fun b => { b with flip := b.flip.filter (· != c) }) s) :=
  (cbFlip_on h.1 h.2.1).trans (if_pos h.2.2)

theorem cbFlip_ctxs (h : ¬ (bank s a).Last c) : (cbFlip a c s).ctxs = s.ctxs := by
  by_cases hon : (bank s a).state = .switching ∧ c ∈ (bank s a).flip
  · rw [cbFlip_on hon.1 hon.2, if_neg (fun hrest => h ⟨hon.1, hon.2, hrest⟩)]
    rfl
  · rw [cbFlip_off (by tauto)]

theorem bank_unflipped (h : (bank s a).state = .switching) : bank (modBank a (fun b => { b with flip := b.flip.filter (· != c) }) s) a =
    { bank s a with flip := (bank s a).flip.filter (· != c) } := bank_modBank_same (built_of_switching h)

section Last
variable (h : (bank s a).Last c)
include h

theorem cbFlip_starter (hnode : (bank s a).node = some r) (hn : NodeKept s r n) (hstat : n.stat = .dispatched) :
    NodeEnded (cbFlip a c s) r 0 0 := by
  rw [cbFlip_last h]
  exact switchDone_starter (by rw [bank_unflipped h.1]; exact hnode) (hn.congr rfl) hstat

theorem cbFlip_waiter (hnode : (bank s a).node ≠ some r) (hwaits : r ∈ (bank s a).waits) (hn : NodeKept s r n) (hstat : n.stat = .dispatched) :
    NodeEnded (cbFlip a c s) r 0x16 0x0B := by
  rw [cbFlip_last h]
  exact switchDone_waiter (by rw [bank_unflipped h.1]; exact hnode) (by rw [bank_unflipped h.1]; exact hwaits) (hn.congr rfl) hstat

end Last

theorem cbFlip_kept (hn : NodeKept s r n) (hstat : n.stat ≠ .waiting)
    (h : (bank s a).Last c → (bank s a).node ≠ some r ∧ r ∉ (bank s a).waits) : NodeKept (cbFlip a c s) r n := by
  by_cases hlast : (bank s a).Last c
  · rw [cbFlip_last hlast]
    exact switchDone_other (by rw [bank_unflipped hlast.1]; exact (h hlast).1) (by rw [bank_unflipped hlast.1]; exact (h hlast).2)
      (hn.congr rfl) hstat
  · exact hn.congr (cbFlip_ctxs hlast)

theorem cbFlip_ended (hn : NodeEnded s r status cause) : NodeEnded (cbFlip a c s) r status cause := by
  by_cases hlast : (bank s a).Last c
  · rw [cbFlip_last hlast]
    exact switchDone_ended (hn.congr rfl)
  · exact hn.congr (cbFlip_ctxs hlast)

/-- A consumer is counted off some banks, one after another. -/
def cbFlips (c : Consumer) (l : List Nat) (s : State) : State := l.foldl (fun s a => cbFlip a c s) s

theorem cbFlipAll_eq (c : Consumer) (s : State) : cbFlipAll c s = cbFlips c (List.range 16) s := rfl

theorem cbFlips_append (c : Consumer) (l m : List Nat) (s : State) : cbFlips c (l ++ m) s = cbFlips c m (cbFlips c l s) := List.foldl_append

theorem cbFlips_concat (c : Consumer) (l : List Nat) (k : Nat) (s : State) : cbFlips c (l ++ [k]) s = cbFlip k c (cbFlips c l s) :=
  cbFlips_append c l [k] s

theorem cbFlips_frame (c : Consumer) (l : List Nat) (s : State) :
    cbFlips c l s = { s with banks := (cbFlips c l s).banks, ctxs := (cbFlips c l s).ctxs } := by
  induction l using List.reverseRecOn with
  | nil => rfl
  | append_singleton l k ih => rw [cbFlips_concat, cbFlip_frame, ih]

theorem bank_cbFlips (c : Consumer) (l : List Nat) (s : State) (a : Nat) :
    bank (cbFlips c l s) a = if a ∈ l then (bank s a).counted c else bank s a := by
  induction l using List.reverseRecOn with
  | nil => rfl
  | append_singleton l k ih =>
    rw [cbFlips_concat]
    by_cases ha : a = k
    · subst ha
      rw [bank_cbFlip_same, ih, if_pos (List.mem_append_right _ (List.mem_singleton_self a))]
      split
      · exact Bank.counted_of_not (Bank.counted_off c _)
      · rfl
    · rw [bank_cbFlip_other ha, ih]
      simp [ha]

theorem cbFlips_fate (c : Consumer) (hn : nodeOf s r = some n) (hstat : n.stat = .dispatched) (l : List Nat) :
    NodeFate c s (cbFlips c l s) l r n := by
  induction l using List.reverseRecOn with
  | nil => exact .inl ⟨.refl hn, fun a ha => absurd ha List.not_mem_nil⟩
  | append_singleton l k ih =>
    have hleft {a : Nat} (ha : a ∈ l) : a ∈ l ++ [k] := List.mem_append_left _ ha
    have hself : k ∈ l ++ [k] := List.mem_append_right _ (List.mem_singleton_self k)
    rw [cbFlips_concat]
    rcases ih with ⟨hkept, huntouched⟩ | ⟨hended, a, ha, hcase⟩ | ⟨hended, a, ha, hcase⟩
    · by_cases hk : k ∈ l
      · have hbank : bank (cbFlips c l s) k = (bank s k).counted c := (bank_cbFlips c l s k).trans (if_pos hk)
        rw [cbFlip_off (by rw [hbank]; exact Bank.counted_off c _)]
        refine .inl ⟨hkept, fun a ha => huntouched a ?_⟩
        rcases List.mem_append.1 ha with ha | ha
        · exact ha
        · exact List.mem_singleton.1 ha ▸ hk
      · have hbank : bank (cbFlips c l s) k = bank s k := (bank_cbFlips c l s k).trans (if_neg hk)
        by_cases hnode : (bank s k).Last c ∧ (bank s k).node = some r
        · exact .inr (.inl ⟨cbFlip_starter (hbank ▸ hnode.1) (by rw [hbank]; exact hnode.2) hkept hstat, k, hself, hnode⟩)
        · by_cases hwaits : (bank s k).Last c ∧ r ∈ (bank s k).waits
          · have hnode' : (bank s k).node ≠ some r := fun h => hnode ⟨hwaits.1, h⟩
            exact .inr (.inr ⟨cbFlip_waiter (hbank ▸ hwaits.1) (by rw [hbank]; exact hnode') (by rw [hbank]; exact hwaits.2) hkept hstat,
              k, hself, hwaits.1, hnode', hwaits.2⟩)
          · have huntouched' : (bank s k).Last c → (bank s k).node ≠ some r ∧ r ∉ (bank s k).waits :=
              fun hl => ⟨fun h => hnode ⟨hl, h⟩, fun h => hwaits ⟨hl, h⟩⟩
            refine .inl ⟨cbFlip_kept hkept (by simp [hstat]) (by rw [hbank]; exact huntouched'), fun a ha => ?_⟩
            rcases List.mem_append.1 ha with ha | ha
            · exact huntouched a ha
            · exact List.mem_singleton.1 ha ▸ huntouched'
    · exact .inr (.inl ⟨cbFlip_ended hended, a, hleft ha, hcase⟩)
    · exact .inr (.inr ⟨cbFlip_ended hended, a, hleft ha, hcase⟩)

/-- A consumer that has been counted off every bank, some of them perhaps more than once. -/
theorem cbFlips_countedOff (c : Consumer) (l : List Nat) (hl : ∀ a, a ∈ l ↔ a < 16) (s : State) : s.CountedOff c (cbFlips c l s) := by
  intro a ha b rest
  have hbank : bank (cbFlips c l s) a = b.counted c := (bank_cbFlips c l s a).trans (if_pos ((hl a).2 ha))
  refine ⟨fun h => hbank.trans (Bank.counted_of_not h), fun h hc hrest => hbank.trans (Bank.counted_of_more h hc hrest),
    fun h hc hrest => ⟨hbank.trans (Bank.counted_of_last ⟨h, hc, hrest⟩), fun r m hm hstat => ?_⟩⟩
  intro ended
  have hlast : (bank s a).Last c := ⟨h, hc, hrest⟩
  refine ⟨fun hnode hwaits => ?_, fun hwaits hnode => ?_⟩
  · rcases cbFlips_fate c hm hstat l with ⟨-, huntouched⟩ | ⟨hended, -⟩ | ⟨-, d, hd, -, hnode', hwaits'⟩
    · exact absurd hnode (huntouched a ((hl a).2 ha) hlast).1
    · exact hended
    · by_cases hda : d = a
      · subst hda
        exact absurd hnode hnode'
      · exact absurd hwaits' (hwaits d ((hl d).1 hd) hda)
  · rcases cbFlips_fate c hm hstat l with ⟨-, huntouched⟩ | ⟨-, d, hd, -, hnode'⟩ | ⟨hended, -⟩
    · exact absurd hwaits (huntouched a ((hl a).2 ha) hlast).2
    · exact absurd hnode' (hnode d ((hl d).1 hd))
    · exact hended

theorem cbFlipAll_countedOff (c : Consumer) (s : State) : s.CountedOff c (cbFlipAll c s) :=
  cbFlips_countedOff c _ (fun _ => List.mem_range) s

theorem bank_mem_or_reset (s : State) (a : Nat) : bank s a ∈ s.banks ∨ bank s a = Bank.reset := by
  by_cases ha : a < s.banks.length
  · refine .inl ?_
    rw [bank, List.getD_eq_getElem _ _ ha]
    exact List.getElem_mem ha
  · exact .inr (List.getD_eq_default _ _ (Nat.not_lt.1 ha))

/-- Where no switch waits for the consumer nothing changes. -/
theorem cbFlips_off {l : List Nat} (h : ∀ a ∈ l, (bank s a).state = .switching → c ∉ (bank s a).flip) : cbFlips c l s = s := by
  induction l using List.reverseRecOn with
  | nil => rfl
  | append_singleton l k ih =>
    rw [cbFlips_concat, ih fun a ha => h a (List.mem_append_left _ ha), cbFlip_off]
    have hk := h k (List.mem_append_right _ (List.mem_singleton_self k))
    tauto

theorem bank_off (h : ∀ b ∈ s.banks, b.state = .switching → c ∉ b.flip) (a : Nat) : (bank s a).state = .switching → c ∉ (bank s a).flip := by
  rcases bank_mem_or_reset s a with hb | hb
  · exact h _ hb
  · rw [hb]
    exact fun hr => absurd hr (by simp [Bank.reset])

theorem cbFlipAll_off (h : ∀ b ∈ s.banks, b.state = .switching → c ∉ b.flip) : cbFlipAll c s = s := cbFlips_off fun a _ => bank_off h a

/-- A later state with the same banks, whose nodes have kept their statuses, shows the same. -/
theorem State.CountedOff.of_eq {s₀ : State} (h : s.CountedOff c t) (hbanks₀ : s₀.banks = s.banks) (hbanks : u.banks = t.banks)
    (hnodes₀ : ∀ r m, nodeOf s₀ r = some m → m.stat = .dispatched → ∃ k, nodeOf s r = some k ∧ k.stat = .dispatched)
    (hnodes : ∀ r status cause, NodeEnded t r status cause → NodeEnded u r status cause) : s₀.CountedOff c u := by
  intro a ha
  have hb (e : Nat) : bank s₀ e = bank s e := by rw [bank, bank, hbanks₀]
  have hb' : bank u a = bank t a := by rw [bank, bank, hbanks]
  obtain ⟨h1, h2, h3⟩ := h a ha
  dsimp only at h1 h2 h3 ⊢
  simp only [hb, hb']
  refine ⟨h1, h2, fun hs hc hrest => ⟨(h3 hs hc hrest).1, fun r m hm hstat => ?_⟩⟩
  obtain ⟨k, hk, hkstat⟩ := hnodes₀ r m hm hstat
  obtain ⟨h4, h5⟩ := (h3 hs hc hrest).2 r k hk hkstat
  exact ⟨fun h6 h7 => hnodes r _ _ (h4 h6 h7), fun h6 h7 => hnodes r _ _ (h5 h6 h7)⟩

end Sys2Proof.Machine
end

section
/-! PROOFS. The end of a commit with the acknowledgement of its header (R140). -/

namespace Sys2Proof.Machine

variable {s u : State} {c tag id x : Nat} {q : Req} {j : Job}

/-! ## Answers to the control island -/

theorem reqOf_wr {wr : Bool} (h : reqOf s c tag wr = some q) : q.burst.wr = wr := by
  have := List.find?_some h
  simp only [Bool.and_eq_true, beq_iff_eq] at this
  exact this.2

theorem exec_cpiWriteAck {err : Bool} (hrun : s.rst = .run) (h : reqOf s c tag true = some q) : exec (.cpiWriteAck c tag err) s =
    .next (reply c q.burst (if err then .err else .ack) (dropReq c q s)) := by
  refine (inRun_of_run hrun).trans ?_
  simp only [h]

theorem jobOf_modJob {f : Job → Job} (hf : ∀ j, (f j).id = j.id) (h : jobOf s id = some j) : jobOf (modJob id f s) id = some (f j) := by
  have hid : j.id = id := by simpa using List.find?_some h
  show (s.jobs.map (fun j => if j.id = id then f j else j)).find? (fun j => j.id == id) = some (f j)
  rw [List.find?_map]
  have hpred : ((fun j : Job => j.id == id) ∘ fun j => if j.id = id then f j else j) = fun j => j.id == id := by
    funext k
    dsimp only [Function.comp]
    split
    · rw [hf]
    · rfl
  rw [hpred, show s.jobs.find? (fun j => j.id == id) = some j from h, Option.map_some, if_pos hid]

/-- The last burst of an access hands it back. -/
theorem settle_last (h : jobOf s id = some j) (hleft : j.left ≤ 1) :
    settle id s = ({ s with jobs := s.jobs.filter (fun x => x.id != id) }, some { j with left := 0 }) := by
  unfold settle
  simp only [h, if_pos hleft]

/-- The last acknowledgement of a write that has not failed. -/
theorem ctlReply_writeEnd {b : Burst} (hwr : b.wr = true) (hj : jobOf s id = some j) (hleft : j.left ≤ 1) (hjwr : j.wr = true) : ∃ jobs,
    ctlReply c id b .ack s = writeEnd j.kind j.fail { s with jobs := jobs } := by
  have hmod : jobOf (modJob id (fun j => { j with buf := j.buf }) s) id = some j := jobOf_modJob (fun _ => rfl) hj
  refine ⟨(modJob id (fun j => { j with buf := j.buf }) s).jobs.filter (fun x => x.id != id), ?_⟩
  unfold ctlReply ctlGood
  dsimp only
  rw [if_neg (by simp [hwr])]
  simp only [hwr, if_true]
  rw [settle_last hmod hleft]
  unfold jobEnd
  simp only [hjwr]
  rfl

/-- After the owner of a request has been told, the port presents what it can. -/
theorem reply_ctl {b : Burst} {y : Reply} (h : b.owner = .ctl id) : (ctlReply c id b y s).Quiet (reply c b y s) := by
  unfold reply
  simp only [h]
  exact drainCtl_quiet (drainRegion_quiet (.refl _))

/-! ## Slots as a step commits -/

/-- From `s` to `u` nothing but traffic and the tracker has changed. -/
def State.TrackerOnly (s u : State) : Prop := u = { s.withTraffic u with trk := u.trk }

theorem State.TrackerOnly.refl (s : State) : s.TrackerOnly s := rfl

theorem State.TrackerOnly.trans {a b d : State} (h : a.TrackerOnly b) (k : b.TrackerOnly d) : a.TrackerOnly d := by
  unfold State.TrackerOnly at *
  rw [h] at k
  exact k

theorem State.Quiet.trackerOnly (h : s.Quiet u) : s.TrackerOnly u := by
  obtain ⟨ports, ctlWait, jobs, nextJob, health, outs, rfl⟩ := h.exists
  rfl

theorem State.TrackerOnly.ctxs (h : s.TrackerOnly u) : u.ctxs = s.ctxs := by rw [h]; rfl

/-- Every slot of a context is empty of records and of a corrected scale. -/
def SlotsClear (c : Nat) (s : State) : Prop := ∀ y ∈ s.trk.slots, y.ctx = c → y.recs = [] ∧ y.corr = none

theorem slotRead_trackerOnly (i : Nat) (s : State) : s.TrackerOnly (slotRead i s) := by
  unfold slotRead
  split
  · exact .refl s
  · refine State.TrackerOnly.trans (b := modSlotAt i (fun y => { y with ph := .loading, recs := [] }) (dropJobs (fun k => k == .slotLoad i) s))
      rfl ?_
    exact (startRead_quiet (.refl _)).trackerOnly

theorem slotRead_clear {i : Nat} (h : SlotsClear c s) : SlotsClear c (slotRead i s) := by
  unfold slotRead
  split
  · exact h
  · unfold SlotsClear
    rw [startRead_trk]
    intro y hy hctx
    obtain ⟨z, hz, rfl⟩ := List.mem_map.1 hy
    split at hctx
    · rename_i hi
      rw [if_pos hi]
      exact ⟨rfl, (h z hz hctx).2⟩
    · rename_i hi
      rw [if_neg hi]
      exact h z hz hctx

theorem foldl_slotRead (l : List Slot) : ∀ s : State, s.TrackerOnly (l.foldl (fun s y => slotRead y.idx s) s) ∧
    (SlotsClear c s → SlotsClear c (l.foldl (fun s y => slotRead y.idx s) s)) := by
  induction l with
  | nil => exact fun s => ⟨.refl s, id⟩
  | cons a l ih =>
    intro s
    exact ⟨(slotRead_trackerOnly a.idx s).trans (ih _).1, fun h => (ih _).2 (slotRead_clear h)⟩

theorem slotsCommitted_trackerOnly (c : Nat) (s : State) : s.TrackerOnly (slotsCommitted c s) :=
  State.TrackerOnly.trans (b := modTrk (fun t => { t with slots := t.slots.map (fun y =>
    if y.ctx = c then { y with recs := [], corr := none } else y) }) s) rfl (foldl_slotRead (c := c) _ _).1

theorem slotsCommitted_clear (c : Nat) (s : State) : SlotsClear c (slotsCommitted c s) := by
  refine (foldl_slotRead _ _).2 fun y hy hctx => ?_
  obtain ⟨z, hz, rfl⟩ := List.mem_map.1 hy
  split at hctx
  · rename_i hz
    rw [if_pos hz]
    exact ⟨rfl, rfl⟩
  · exact absurd hctx ‹_›

/-! ## The header (R140 steps 4 and 5) -/

/-- What the acknowledgement of its header makes of a context. -/
def Ctx.headed (step : Nat) (x : Ctx) : Ctx :=
  { x with glnCommit := x.glnWrite, sctStep := BitVec.ofNat 32 step, commits := cntMod x.commits 1, fold := none }

theorem headerWritten_eq {f : Fold} (hf : (ctxOf s x).fold = some f) : headerWritten x s =
    completeNode f.node 0 0 (slotsCommitted x (modCtx x (Ctx.headed f.step) s)) := by
  unfold headerWritten
  simp only [hf]
  rfl

theorem nodeOf_headed {f : Fold} {r : NodeRef} : nodeOf (modCtx x (Ctx.headed f.step) s) r = nodeOf s r := by
  rw [nodeOf, nodeOf, graphOf_modCtx_graphs x (Ctx.headed f.step) (fun _ => rfl)]

end Sys2Proof.Machine

namespace Sys2Proof.Proofs
open Sys2Proof.Machine

/-- Settles O42. -/
theorem commitEnds : Obligations.CommitEnds := by
  intro s c tag x id q j f n hrun hc hq howner hj hkind hwr hleft hfail hf hfctx hn hstat
  obtain ⟨jobs, hreply⟩ := ctlReply_writeEnd (s := dropReq c q s) (c := c) (reqOf_wr hq) (by exact hj) hleft hwr
  rw [hkind, hfail] at hreply
  have hhead : ctlReply c id q.burst .ack (dropReq c q s) = completeNode f.node 0 0
      (slotsCommitted x (modCtx x (Ctx.headed f.step) { dropReq c q s with jobs := jobs })) :=
    hreply.trans (headerWritten_eq (s := { dropReq c q s with jobs := jobs }) (by exact hf))
  have hquiet := reply_ctl (s := dropReq c q s) (c := c) (y := .ack) howner
  rw [hhead] at hquiet
  generalize hu : modCtx x (Ctx.headed f.step) { dropReq c q s with jobs := jobs } = u at hquiet
  have hslots := slotsCommitted_trackerOnly x u
  have hclear := slotsCommitted_clear x u
  generalize slotsCommitted x u = v at hquiet hslots hclear
  have hctx : ctxOf u x = (ctxOf s x).headed f.step := by
    rw [← hu]
    exact ctxOf_modCtx_same (built_of_fold (by exact hf))
  have hnode : nodeOf v f.node = some n := by
    rw [nodeOf_congr hslots.ctxs, ← hu, nodeOf_headed]
    exact hn
  obtain ⟨m, hm, hstat', hstatus, hcause⟩ := completeNode_ended (status := 0) (cause := 0) hnode (by simp [hstat])
  generalize ht : reply c q.burst .ack (dropReq c q s) = t at hquiet
  have hctxs : t.ctxs = (completeNode f.node 0 0 v).ctxs := by rw [hquiet]; rfl
  have htrk : t.trk = v.trk := by rw [hquiet, completeNode_frame]; rfl
  have hx : ctxOf t x = { (ctxOf s x).headed f.step with graphs := (ctxOf t x).graphs } := by
    rw [ctxOf_congr hctxs, ctxOf_completeNode_graphs, ctxOf_congr hslots.ctxs, hctx]
  refine ⟨t, m, (exec_cpiWriteAck hrun hq).trans (congrArg _ ht), ?_, by rw [hx]; rfl, by rw [hx]; rfl, by rw [hx]; rfl, ?_,
    (nodeOf_congr hctxs f.node).trans hm, hstat', hstatus, hcause, ?_, fun d hd => ?_⟩
  · rw [hquiet, completeNode_frame, hslots, ← hu]
    rfl
  · rw [hx]
    simp [Ctx.headed, cntMod]
  · rw [htrk]
    exact hclear
  · rw [ctxOf_congr hctxs, ctxOf_completeNode_other (by rw [hfctx]; exact hd), ctxOf_congr hslots.ctxs, ← hu]
    exact ctxOf_modCtx_other hd

end Sys2Proof.Proofs
end

section
/-! PROOFS. Reset, liveness, loss and configuration of a lift slice (R217 to R222, R396). -/

namespace Sys2Proof.Machine

variable {s : State} {i : Nat} {sl : Slice}

/-! ## Access -/

theorem liftSlice_modSlice_same {f : Slice → Slice} (h : i < s.slices.length) : liftSlice (modSlice i f s) i = f (liftSlice s i) := by
  rw [liftSlice, liftSlice, List.getD_eq_getElem?_getD, List.getD_eq_getElem?_getD]
  show ((modAt s.slices i f)[i]?).getD Slice.reset = _
  rw [modAt, List.getElem?_modify, List.getElem?_eq_getElem h]
  simp

theorem liftSlice_modSlice_other {f : Slice → Slice} {e : Nat} (h : e ≠ i) : liftSlice (modSlice i f s) e = liftSlice s e := by
  rw [liftSlice, liftSlice, List.getD_eq_getElem?_getD, List.getD_eq_getElem?_getD]
  show ((modAt s.slices i f)[e]?).getD Slice.reset = _
  rw [modAt, List.getElem?_modify]
  simp [h.symm]

theorem modSlice_const (i : Nat) (f : Slice → Slice) (s : State) : modSlice i f s = modSlice i (fun _ => f (liftSlice s i)) s := by
  rw [modSlice, modAt_const s.slices i f Slice.reset]
  rfl

theorem sliceBuilt_slices (h : sliceBuilt s i = true) : i < s.slices.length := by
  simp only [sliceBuilt, Bool.and_eq_true, decide_eq_true_eq] at h
  exact h.2

/-! ## Pending sides (R218) -/

theorem bits_lt (n lo w : Nat) : bits n lo w < 2 ^ w := by
  rw [bits]
  exact Nat.mod_lt _ (Nat.two_pow_pos w)

/-- A pending side that comes into use touches the windows, and counts the slice off its bank. -/
theorem flipWin_exists (b : Nat) (x : LiftRun) : ∃ wins flips, flipWin b x =
    ⟨{ x.sl with wins := wins }, { x.eff with flips := x.eff.flips ++ flips }⟩ ∧ ∀ a ∈ flips, a = b := by
  unfold flipWin
  split
  · exact ⟨x.sl.wins, [], by rw [List.append_nil], by simp⟩
  · split
    · exact ⟨x.sl.wins, [], by rw [List.append_nil], by simp⟩
    · exact ⟨_, [b], rfl, by simp⟩

theorem flipAll_exists (x : LiftRun) : ∃ wins flips, flipAll x =
    ⟨{ x.sl with wins := wins }, { x.eff with flips := x.eff.flips ++ flips }⟩ ∧ ∀ a ∈ flips, a < 16 := by
  unfold flipAll
  generalize List.range 4 = l
  induction l generalizing x with
  | nil => exact ⟨x.sl.wins, [], by rw [List.append_nil]; rfl, by simp⟩
  | cons n l ih =>
    obtain ⟨wins, flips, hflip, hflips⟩ := flipWin_exists (x.sl.bank n) x
    obtain ⟨wins', flips', hfold, hflips'⟩ := ih (flipWin (x.sl.bank n) x)
    refine ⟨wins', flips ++ flips', ?_, fun a ha => ?_⟩
    · rw [List.foldl_cons, hfold, hflip, List.append_assoc]
    · rcases List.mem_append.1 ha with ha | ha
      · rw [hflips a ha]
        exact bits_lt _ _ 4
      · exact hflips' a ha

/-! ## Everything in a slice ends (R219, R222) -/

/-- A slice in whose logic everything has ended. -/
def Slice.stopped (wins : List Window) (sl : Slice) : Slice :=
  { sl with
    beats := [], lines := [], out := [], part := Partial.empty, em := none
    emitCnt := if sl.opn then cntMod sl.emitCnt 1 else sl.emitCnt
    wins := wins, strayLogged := false }

/-- The windows are to be reloaded. -/
def WinsCleared (wins : List Window) : Prop := ∀ w ∈ wins, w.loaded = false ∧ w.next = none

theorem winsCleared_map (l : List Window) : WinsCleared (l.map (fun w => { w with loaded := false, next := none })) := by
  intro w hw
  obtain ⟨v, -, rfl⟩ := List.mem_map.1 hw
  exact ⟨rfl, rfl⟩

theorem liftCommit_flips (sl : Slice) (flips : List Nat) (s : State) :
    liftCommit i ⟨sl, ⟨flips, [], 0⟩⟩ s = cbFlips (.slice i) flips (modSlice i (fun _ => sl) s) := rfl

theorem sliceStop_exists (i : Nat) (s : State) : ∃ wins flips, WinsCleared wins ∧ (∀ a ∈ flips, a < 16) ∧
    sliceStop i s = cbFlips (.slice i) flips (modSlice i (fun _ => (liftSlice s i).stopped wins) s) := by
  unfold sliceStop
  dsimp only
  cases hopn : (liftSlice s i).opn with
  | false =>
    refine ⟨_, [], winsCleared_map (liftSlice s i).wins, by simp, ?_⟩
    refine Eq.trans (congrArg (liftCommit i · s) ?_) (liftCommit_flips _ [] s)
    simp only [Slice.stopped, hopn, Bool.false_eq_true, if_false, endEmission]
  | true =>
    obtain ⟨wins, flips, hflip, hflips⟩ := flipAll_exists ⟨{ liftSlice s i with
      beats := [], lines := [], out := [], part := Partial.empty, em := none, emitCnt := cntMod (liftSlice s i).emitCnt 1 }, ⟨[], [], 0⟩⟩
    refine ⟨_, flips, winsCleared_map wins, hflips, ?_⟩
    refine Eq.trans (congrArg (liftCommit i · s) ?_) (liftCommit_flips _ flips s)
    simp only [Slice.stopped, hopn, if_true, endEmission, hflip]
    rfl

theorem sliceOffSwitches_eq (i : Nat) (s : State) : sliceOffSwitches i s = cbFlipAll (.slice i) s := by
  have hstep (u : State) (a : Nat) : (if (bank u a).flip.contains (.slice i) then cbFlip a (.slice i) u else u) = cbFlip a (.slice i) u := by
    split
    · rfl
    · rename_i h
      rw [cbFlip_off (.inr (by simpa using h))]
  unfold sliceOffSwitches cbFlipAll
  simp only [hstep]

/-- A slice that stops is counted off every switch that waits for it. -/
theorem sliceStopped_exists (i : Nat) (s : State) : ∃ wins l, WinsCleared wins ∧ (∀ a, a ∈ l ↔ a < 16) ∧
    sliceOffSwitches i (sliceStop i s) = cbFlips (.slice i) l (modSlice i (fun _ => (liftSlice s i).stopped wins) s) := by
  obtain ⟨wins, flips, hwins, hflips, hstop⟩ := sliceStop_exists i s
  refine ⟨wins, flips ++ List.range 16, hwins, fun a => ?_, ?_⟩
  · rw [List.mem_append, List.mem_range]
    exact ⟨fun h => h.elim (hflips a) id, .inr⟩
  · rw [sliceOffSwitches_eq, hstop, cbFlipAll_eq, cbFlips_append]

/-- A consumer counted off, seen from before and after updates that leave banks and contexts alone. -/
theorem cbFlips_countedOff_of_eq {c : Consumer} {l : List Nat} (hl : ∀ a, a ∈ l ↔ a < 16) {s₀ t : State} (hbanks : s.banks = s₀.banks)
    (hctxs : s.ctxs = s₀.ctxs) (hbanks' : t.banks = (cbFlips c l s).banks) (hctxs' : t.ctxs = (cbFlips c l s).ctxs) :
    s₀.CountedOff c t ∧ ((∀ b ∈ s₀.banks, b.state = .switching → c ∉ b.flip) → t.banks = s₀.banks ∧ t.ctxs = s₀.ctxs) := by
  refine ⟨(cbFlips_countedOff c l hl s).of_eq hbanks.symm hbanks' (fun r m hm hstat => ⟨m, ?_, hstat⟩) (fun r status cause h => h.congr hctxs'),
    fun hoff => ?_⟩
  · rw [nodeOf_congr hctxs]
    exact hm
  · rw [hbanks', hctxs', cbFlips_off fun a _ => bank_off (by rw [hbanks]; exact hoff) a]
    exact ⟨hbanks, hctxs⟩

/-! ## The commands -/

section Commands
variable (hrun : s.rst = .run) (hbuilt : sliceBuilt s i = true)
include hrun hbuilt

theorem exec_liftResetAssert (h : (liftSlice s i).inReset = false) : exec (.liftResetAssert i) s = .next (
    if (liftSlice s i).alive then emit (.liftAlive i false) (modSlice i (fun sl => { sl with inReset := true, alive := false })
      (sliceOffSwitches i (sliceStop i s)))
    else modSlice i (fun sl => { sl with inReset := true, alive := false }) (sliceOffSwitches i (sliceStop i s))) :=
  (inRun_of_run hrun).trans (if_neg (by simp [hbuilt, h]))

theorem exec_liftResetRelease (h : (liftSlice s i).inReset = true) (fails : List Nat) : exec (.liftResetRelease i fails) s =
    .next (fails.foldl (fun u row => logEvent 0x75 2 0 i 0xFFFF (i * 2 ^ 16 + 3) row u) (modSlice i (fun sl => { sl with
      inReset := false, seen := true, failed := sl.failed || !fails.isEmpty }) s)) :=
  (inRun_of_run hrun).trans (if_neg (by simp [hbuilt, h]))

theorem exec_liftAliveToggle (h : (liftSlice s i).inReset = false) : exec (.liftAliveToggle i) s =
    .next (emit (.liftAlive i (!(liftSlice s i).alive)) (modSlice i (fun sl => { sl with alive := !sl.alive }) s)) :=
  (inRun_of_run hrun).trans (if_neg (by simp [hbuilt, h]))

theorem exec_liftPartnerLost (h : (liftSlice s i).inReset = false) (h' : (liftSlice s i).lost = false) :
    exec (.liftPartnerLost i) s = .next (logEvent 0x28 2 0 i 0xFFFF 0 0
      (modSlice i (fun sl => ({ sl with lost := true }).flag fLost) (sliceOffSwitches i (sliceStop i s)))) :=
  (inRun_of_run hrun).trans (if_neg (by simp [hbuilt, h, h']))

theorem exec_liftPartnerReturn (h : (liftSlice s i).lost = true) : exec (.liftPartnerReturn i) s =
    .next (modSlice i (fun sl => { sl with lost := false }) s) :=
  (inRun_of_run hrun).trans (if_neg (by simp [hbuilt, h]))

theorem exec_liftCfgWrite (v : Word) : exec (.liftCfgWrite i v) s = .next (if ldrHolds s 0x30 i then
    modSlice i (fun sl => sl.flag fWrDrop) (emit (.cpAck false) s) else lftCfgSet i v (emit (.cpAck false) s)) :=
  (inRun_of_run hrun).trans (congrArg Host.Outcome.next (if_neg (by
    show ¬ (!sliceBuilt s i) = true
    simp [hbuilt])))

theorem exec_liftClrCounters : exec (.lftClrCounters i) s = .next (modSlice i (fun sl => { sl with
    poisonCnt := 0, mismatchCnt := 0, dropCnt := 0, emitCnt := 0, lastFidx := 0, lastTags := 0 }) (emit (.cpAck false) s)) :=
  (inRun_of_run hrun).trans (congrArg Host.Outcome.next (if_neg (by
    show ¬ (!sliceBuilt s i) = true
    simp [hbuilt])))

theorem exec_lclTransferTimeout : exec (.lclTransferTimeout i) s = .next (modSlice i (fun sl => { sl with
    wins := sl.wins.map (fun w => { w with loaded := false, next := none }) }) (sliceOffSwitches i s)) :=
  (inRun_of_run hrun).trans (if_neg (by simp [hbuilt]))

theorem exec_liftWindowLoad {w : Nat} (hw : w < 4) (hreset : (liftSlice s i).inReset = false) (hlost : (liftSlice s i).lost = false)
    (hon : (liftSlice s i).enabled w = true) (hloaded : ((liftSlice s i).win w).loaded = false)
    (hready : (bank s ((liftSlice s i).bank w)).ready = true) (hstate : (bank s ((liftSlice s i).bank w)).state ≠ .switching) :
    exec (.liftWindowLoad i w) s = .next (emit (.lclWindow i w ((bank s ((liftSlice s i).bank w)).liveSide.desc ::
        (bank s ((liftSlice s i).bank w)).liveSide.tab)) (modSlice i (fun sl => { sl with wins := modAt sl.wins w (fun _ =>
      ⟨true, (bank s ((liftSlice s i).bank w)).live, (bank s ((liftSlice s i).bank w)).liveSide, none⟩) }) s)) :=
  (inRun_of_run hrun).trans (if_neg (by simp [hbuilt, hreset, hlost, hon, hloaded, hready, hstate, hw]))

end Commands

/-! ## LFT_CFG (R217) -/

theorem lftCfgSet_open (v : Word) (h : (liftSlice s i).opn = true) : lftCfgSet i v s = modSlice i (fun sl => sl.flag fWrDrop) s := if_pos h

theorem lftCfgSet_clash {v : Word} (h : (liftSlice s i).opn = false) (hclash : cfgClash v = true) :
    lftCfgSet i v s = modSlice i (fun sl => sl.flag fCfgErr) s := (if_neg (by simp [h])).trans (if_pos hclash)

/-- The windows under a configuration word: one that stays with its bank keeps its contents. -/
def cfgWins (v : Word) (sl : Slice) : List Window := sl.wins.mapIdx (fun n w =>
  if bit v.toNat n && sl.enabled n && sl.bank n == bits v.toNat (16 + 4 * n) 4 then w else Window.reset)

/-- A slice after a configuration write. -/
def Slice.configured (v : Word) (sl : Slice) : Slice := { sl with cfg := v &&& 0xFFFF000F, wins := cfgWins v sl }

theorem Slice.configured_frame (v : Word) (sl : Slice) :
    sl.configured v = { sl with cfg := (sl.configured v).cfg, wins := (sl.configured v).wins } := by
  rw [Slice.configured]

theorem lftCfgSet_written {v : Word} (h : (liftSlice s i).opn = false) (hclash : cfgClash v = false) :
    lftCfgSet i v s = modSlice i (Slice.configured v) s := (if_neg (by simp [h])).trans (if_neg (by simp [hclash]))

theorem cfgWins_getD {v : Word} {w : Nat} (hw : w < sl.wins.length) : (cfgWins v sl).getD w Window.reset =
    if bit v.toNat w && sl.enabled w && sl.bank w == bits v.toNat (16 + 4 * w) 4 then sl.win w else Window.reset := by
  rw [cfgWins, List.getD_eq_getElem?_getD, List.getElem?_mapIdx, List.getElem?_eq_getElem hw, Slice.win, List.getD_eq_getElem _ _ hw]
  rfl

end Sys2Proof.Machine

namespace Sys2Proof.Proofs
open Sys2Proof.Machine

/-- Settles O52. -/
theorem liftReset : Obligations.LiftReset := by
  intro s i hrun hbuilt sl only counted emptied
  have hi := sliceBuilt_slices hbuilt
  obtain ⟨wins, l, hwins, hl, hstop⟩ := sliceStopped_exists i s
  have hv : (modSlice i (fun _ => sl.stopped wins) s).slices = modAt s.slices i (fun _ => sl.stopped wins) := rfl
  have hafter (g : Slice → Slice) : ∃ t, modSlice i g (sliceOffSwitches i (sliceStop i s)) = t ∧
      t = { s with banks := t.banks, ctxs := t.ctxs, slices := t.slices } ∧ liftSlice t i = g (sl.stopped wins) ∧
      (∀ e, e ≠ i → liftSlice t e = liftSlice s e) ∧ s.CountedOff (.slice i) t ∧
      ((∀ b ∈ s.banks, b.state = .switching → Consumer.slice i ∉ b.flip) → t.banks = s.banks ∧ t.ctxs = s.ctxs) := by
    refine ⟨_, rfl, ?_⟩
    rw [hstop]
    obtain ⟨hcount, hoff⟩ := cbFlips_countedOff_of_eq (c := .slice i) (s := modSlice i (fun _ => sl.stopped wins) s) (s₀ := s) hl rfl rfl
      (t := modSlice i g (cbFlips (.slice i) l (modSlice i (fun _ => sl.stopped wins) s))) rfl rfl
    refine ⟨?_, ?_, ?_, hcount, hoff⟩
    · rw [cbFlips_frame]
      rfl
    · rw [cbFlips_frame]
      exact (liftSlice_modSlice_same (by simpa [modAt] using hi)).trans (congrArg g (liftSlice_modSlice_same hi))
    · intro e he
      rw [cbFlips_frame]
      exact (liftSlice_modSlice_other he).trans (liftSlice_modSlice_other he)
  refine ⟨fun hreset => ?_, fun hreset fails => exec_liftResetRelease hrun hbuilt hreset fails,
    fun hreset => exec_liftAliveToggle hrun hbuilt hreset, fun hreset hlost => ?_, fun hlost => exec_liftPartnerReturn hrun hbuilt hlost⟩
  · obtain ⟨t, ht, hframe, hslice, honly, hcount, hoff⟩ := hafter (fun sl => { sl with inReset := true, alive := false })
    have hexec := exec_liftResetAssert hrun hbuilt hreset
    rw [ht] at hexec
    have hemptied (u : State) (hu : liftSlice u i = liftSlice t i) : emptied u := by
      rw [show emptied u ↔ emptied t by simp only [emptied, hu]]
      simp only [emptied, hslice]
      exact ⟨rfl, rfl, rfl, rfl, rfl, rfl, rfl, rfl, hwins⟩
    have hready (u : State) (hu : liftSlice u i = liftSlice t i) : (liftSlice u i).inReset = true ∧ (liftSlice u i).lost = sl.lost ∧
        (liftSlice u i).alive = false ∧ (liftSlice u i).ready = false := by
      rw [hu, hslice]
      exact ⟨rfl, rfl, rfl, rfl⟩
    cases halive : (liftSlice s i).alive with
    | true =>
      rw [halive] at hexec
      refine ⟨emit (.liftAlive i false) t, hexec, ⟨hcount, hoff⟩, ?_, honly, hemptied _ rfl, hready _ rfl⟩
      rw [hframe]
      rfl
    | false =>
      rw [halive] at hexec
      refine ⟨t, hexec, ⟨hcount, hoff⟩, ?_, honly, hemptied _ rfl, hready _ rfl⟩
      refine hframe.trans ?_
      rw [if_neg (by decide), List.append_nil]
  · obtain ⟨u, hu, hframe, hslice, honly, hcount, hoff⟩ := hafter (fun sl => ({ sl with lost := true }).flag fLost)
    have hexec := exec_liftPartnerLost hrun hbuilt hreset hlost
    rw [hu] at hexec
    obtain ⟨ports, ctlWait, jobs, nextJob, health, outs, hlog⟩ := (logEvent_quiet (code := 0x28) (kind := 2) (reg := 0) (unit := i)
      (ctx := 0xFFFF) (d0 := 0) (a := 0) (State.Quiet.refl u)).exists
    have hsame (e : Nat) : liftSlice (logEvent 0x28 2 0 i 0xFFFF 0 0 u) e = liftSlice u e := by rw [hlog]; rfl
    refine ⟨_, hexec, ⟨?_, ?_⟩, ?_, fun e he => (hsame e).trans (honly e he), ?_, ?_, ?_, ?_⟩
    · exact hcount.of_eq rfl (by simp) (fun r m hm hstat => ⟨m, hm, hstat⟩) (fun r status cause h => h.congr (by simp))
    · simpa using hoff
    · rw [show (logEvent 0x28 2 0 i 0xFFFF 0 0 u).banks = u.banks by simp, show (logEvent 0x28 2 0 i 0xFFFF 0 0 u).ctxs = u.ctxs by simp,
        show (logEvent 0x28 2 0 i 0xFFFF 0 0 u).slices = u.slices by simp, ← hframe]
    · simp only [emptied, hsame, hslice]
      exact ⟨rfl, rfl, rfl, rfl, rfl, rfl, rfl, rfl, hwins⟩
    all_goals rw [hsame, hslice]
    · rfl
    · rfl
    · simp [Slice.ready, Slice.flag]

/-- Settles O53. -/
theorem liftConfiguration : Obligations.LiftConfiguration := by
  intro s i hrun hbuilt sl acked
  have hi := sliceBuilt_slices hbuilt
  refine ⟨fun v => ⟨fun h => ?_, fun hheld hopn hclash => ?_, fun hheld hopn hclash => ?_⟩, exec_liftClrCounters hrun hbuilt,
    fun w hw hreset hlost hon hloaded hready hstate => exec_liftWindowLoad hrun hbuilt hw hreset hlost hon hloaded hready hstate, ?_⟩
  · refine (exec_liftCfgWrite hrun hbuilt v).trans (congrArg _ ?_)
    cases hheld : ldrHolds s 0x30 i with
    | true => rfl
    | false => exact lftCfgSet_open v (h.resolve_left (by simp [hheld]))
  · exact (exec_liftCfgWrite hrun hbuilt v).trans (congrArg _ ((if_neg (by simp [hheld])).trans (lftCfgSet_clash (by exact hopn) hclash)))
  · have hexec := (exec_liftCfgWrite hrun hbuilt v).trans (congrArg _ ((if_neg (by simp [hheld])).trans
      (lftCfgSet_written (s := emit (.cpAck false) s) (by exact hopn) hclash)))
    have hslice : liftSlice (modSlice i (Slice.configured v) (emit (.cpAck false) s)) i = sl.configured v := liftSlice_modSlice_same hi
    refine ⟨_, hexec, rfl, congrArg Slice.cfg hslice, fun w hw => ⟨fun h => ?_, fun h => ?_⟩, ?_⟩
    · exact (congrArg (Slice.win · w) hslice).trans ((cfgWins_getD hw).trans (if_pos (by simpa [bit, BitVec.getLsbD, and_assoc] using h)))
    · exact (congrArg (Slice.win · w) hslice).trans ((cfgWins_getD hw).trans (if_neg (by
        intro hp
        simp only [Bool.and_eq_true, beq_iff_eq] at hp
        rcases h with h | h | h
        · exact absurd (h.symm.trans hp.1.1) (by decide)
        · exact absurd (h.symm.trans hp.1.2) (by decide)
        · exact h hp.2)))
    · rw [hslice]
      exact Slice.configured_frame v sl
  · refine ⟨_, exec_lclTransferTimeout hrun hbuilt, ?_⟩
    rw [sliceOffSwitches_eq, cbFlipAll_eq]
    generalize hrange : List.range 16 = l
    obtain ⟨hcount, hoff⟩ := cbFlips_countedOff_of_eq (c := .slice i) (l := l) (s := s) (s₀ := s)
      (fun _ => hrange ▸ List.mem_range) rfl rfl
      (t := modSlice i (fun sl => { sl with wins := sl.wins.map (fun w => { w with loaded := false, next := none }) }) (cbFlips (.slice i) l s))
      rfl rfl
    refine ⟨hcount, hoff, ?_⟩
    rw [cbFlips_frame]
    rfl

end Sys2Proof.Proofs
end

section
/-! PROOFS. Credits and partners of the cluster ports (R388, R395), and the parking of a region (R380). -/

namespace Sys2Proof.Machine

variable {s : State} {c r : Nat}

/-! ## Where nothing waits -/

/-- Nothing waits at any port or in the control island for a credit. -/
def State.Unwaited (s : State) : Prop := s.ctlWait = [] ∧ ∀ p ∈ s.ports, p.wait = [] ∧ p.beats = []

theorem port_unwaited (h : s.Unwaited) (c : Nat) : (port s c).wait = [] ∧ (port s c).beats = [] := by
  rw [port, List.getD_eq_getElem?_getD]
  cases hp : s.ports[c]? with
  | none => exact ⟨rfl, rfl⟩
  | some p => exact h.2 p (List.mem_of_getElem? hp)

theorem drainPort_unwaited (h : s.Unwaited) (c : Nat) : drainPort c s = s := by
  obtain ⟨hwait, hbeats⟩ := port_unwaited h c
  unfold drainPort
  rw [hwait, h.1]
  show drainBeats (port s c).beats.length c s = s
  rw [hbeats]
  rfl

theorem drainRegion_unwaited (h : s.Unwaited) (r : Nat) : drainRegion r s = s := by
  unfold drainRegion
  generalize regionPorts s r = l
  induction l with
  | nil => rfl
  | cons c l ih => rw [List.foldl_cons, drainPort_unwaited h, ih]

theorem drainCtl_unwaited (h : s.ctlWait = []) : drainCtl s = s := by
  unfold drainCtl
  rw [h]
  show { s with ctlWait := [] } = s
  rw [← h]

/-- No swath waits for its next band. -/
def State.NoBandNext (s : State) : Prop := ∀ w ∈ s.swaths, w.ph ≠ .bandNext

theorem bandPump_none (h : s.NoBandNext) (c : Nat) : bandPump c s = s := by
  have hnone : s.swaths.filter (fun w => w.ph == .bandNext && w.cluster s == c) = [] := by
    rw [List.filter_eq_nil_iff]
    intro w hw
    simp [h w hw]
  rw [bandPump, hnone]
  rfl

theorem bandsGo_none (h : s.NoBandNext) (r : Nat) : bandsGo r s = s := by
  unfold bandsGo
  generalize regionPorts s r = l
  induction l with
  | nil => rfl
  | cons c l ih => rw [List.foldl_cons, bandPump_none h, ih]

/-! ## Credits (R388) -/

/-- Credits that return to a pair saturate. -/
def Port.credited (rd wr st : Nat) (p : Port) : Port := { p with rd := min 255 (p.rd + rd), wr := min 255 (p.wr + wr), st := min 255 (p.st + st) }

theorem exec_creditReturn_none {rd wr st : Nat} (hrun : s.rst = .run) (h : s.ports.length ≤ c ∨ (port s c).lost = true) :
    exec (.creditReturn c rd wr st) s = .next s :=
  (inRun_of_run hrun).trans (if_pos (by simpa using h))

theorem exec_creditReturn {rd wr st : Nat} (hrun : s.rst = .run) (hc : c < s.ports.length) (hlost : (port s c).lost = false) :
    exec (.creditReturn c rd wr st) s = .next (bandsGo (s.build.regionOf c) (drainCtl (drainRegion (s.build.regionOf c)
      (modPort c (Port.credited rd wr st) s)))) :=
  (inRun_of_run hrun).trans (if_neg (by simp [hlost, hc]))

theorem modPort_unwaited {f : Port → Port} (hf : ∀ p, (f p).wait = p.wait ∧ (f p).beats = p.beats) (h : s.Unwaited) : (modPort c f s).Unwaited := by
  refine ⟨h.1, fun p hp => ?_⟩
  obtain ⟨i, hi⟩ := List.getElem?_of_mem hp
  have hmod : (modAt s.ports c f)[i]? = some p := hi
  rw [modAt, List.getElem?_modify] at hmod
  cases hq : s.ports[i]? with
  | none => rw [hq] at hmod; cases hmod
  | some q =>
    have hwait := h.2 q (List.mem_of_getElem? hq)
    rw [hq] at hmod
    obtain rfl : (if c = i then f q else q) = p := by simpa using hmod
    split
    · rw [(hf q).1, (hf q).2]
      exact hwait
    · exact hwait

/-! ## Partners (R395) -/

section Watched
variable (hrun : s.rst = .run) (hc : c < s.ports.length) (hpark : (region s (s.build.regionOf c)).parkAck = false)
include hrun hc hpark

omit hrun in
theorem cluWatched_eq_true : cluWatched s c = true := by simp [cluWatched, hc, hpark]

theorem exec_cluAliveToggle : exec (.cluAliveToggle c) s =
    .next (emit (.cluAlive c (!(port s c).alive)) (modPort c (fun p => { p with alive := !p.alive }) s)) :=
  (inRun_of_run hrun).trans (if_pos (cluWatched_eq_true hc hpark))

theorem exec_clusterPartnerLost (hlost : (port s c).lost = false) {u v : State}
    (hu : u = modPort c (fun p => { p with lost := true, rd := 0, wr := 0, st := 0, out := [], late := [] }) s)
    (hv : v = (port s c).out.foldl (fun t q => reply c q.burst .timeout (lossLog q.burst t)) u) : exec (.clusterPartnerLost c) s =
    .next (((port v c).streams.filter (fun o => o.recv && !o.closed)).foldl (fun t o => closeRecv c o t) v) := by
  subst hv hu
  exact (inRun_of_run hrun).trans (if_neg (by simp [cluWatched_eq_true hc hpark, hlost]))

theorem exec_clusterPartnerReturn (hlost : (port s c).lost = true) : exec (.clusterPartnerReturn c) s =
    .next (if (region s (s.build.regionOf c)).ready then emit (.istCredits c 32) (modPort c (fun p => { p with lost := false }) s)
      else modPort c (fun p => { p with lost := false }) s) :=
  (inRun_of_run hrun).trans (if_pos (by simp [cluWatched_eq_true hc hpark, hlost]))

end Watched

theorem port_modPort_same {f : Port → Port} (h : c < s.ports.length) : port (modPort c f s) c = f (port s c) := by
  rw [port, port, List.getD_eq_getElem?_getD, List.getD_eq_getElem?_getD]
  show ((modAt s.ports c f)[c]?).getD Port.reset = _
  rw [modAt, List.getElem?_modify, List.getElem?_eq_getElem h]
  simp

/-- A loss where nothing is under way. -/
theorem exec_clusterPartnerLost_idle (hrun : s.rst = .run) (hc : c < s.ports.length)
    (hpark : (region s (s.build.regionOf c)).parkAck = false) (hlost : (port s c).lost = false) (hout : (port s c).out = [])
    (hstreams : ∀ o ∈ (port s c).streams, o.recv = false ∨ o.closed = true) : exec (.clusterPartnerLost c) s =
    .next (modPort c (fun p => { p with lost := true, rd := 0, wr := 0, st := 0, out := [], late := [] }) s) := by
  refine (exec_clusterPartnerLost hrun hc hpark hlost rfl (v := modPort c _ s) (by rw [hout]; rfl)).trans ?_
  have hnone : (port s c).streams.filter (fun o => o.recv && !o.closed) = [] := by
    rw [List.filter_eq_nil_iff]
    intro o ho
    rcases hstreams o ho with h | h <;> simp [h]
  rw [port_modPort_same hc, hnone]
  rfl

theorem lossLog_job {b : Burst} {id : Nat} {j : Job} (howner : b.owner = .ctl id) (hj : jobOf s id = some j)
    (hretry : j.kind.retried = true) (htries : b.tries < s.health.retry) :
    lossLog b s = logEvent 0x04 0 0 0 (jobCtx s j.kind) (b2n b.wr) b.addr s := by
  unfold lossLog
  simp only [howner, hj, hretry, decide_eq_true htries]
  exact if_neg (by simp)

theorem lossLog_noJob {b : Burst} {id : Nat} (howner : b.owner = .ctl id) (hj : jobOf s id = none) :
    lossLog b s = logEvent 0x04 0 0 0 0xFFFF (b2n b.wr) b.addr s := by
  unfold lossLog
  simp only [howner, hj]
  rfl

/-! ## Slots that leave (R380) -/

/-- Whether a slot is pinned rests on the contexts, the scheduler and the swaths. -/
theorem pinned_congr {t : State} (hctxs : t.ctxs = s.ctxs) (hsched : t.sched = s.sched) (hswaths : t.swaths = s.swaths) (sl : Slot) :
    pinned t sl = pinned s sl := by
  unfold pinned nodePins checkHas Node.pins switchedOut
  simp only [ctxOf_congr hctxs, hsched, hswaths]

/-- A slot of an index that is homed in one of some regions that are asked to park is not pinned. -/
def Leaves (s : State) (l : List Nat) (i : Nat) : Prop :=
  ∃ z ∈ s.trk.slots, z.idx = i ∧ s.build.homeRegion i ∈ l ∧ (region s (s.build.homeRegion i)).parkReq = true ∧ pinned s z = false

theorem mem_slotsPark {y : Slot} : y ∈ (slotsPark r s).trk.slots ↔ y ∈ s.trk.slots ∧
    ¬ ∃ z ∈ s.trk.slots, z.idx = y.idx ∧ s.build.homeRegion y.idx = r ∧ pinned s z = false := by
  show y ∈ s.trk.slots.filter _ ↔ _
  rw [List.mem_filter]
  refine and_congr_right fun _ => ?_
  simp only [Bool.not_eq_true', List.contains_eq_mem, List.mem_map, List.mem_filter, Bool.and_eq_true, beq_iff_eq,
    decide_eq_false_iff_not]
  refine not_congr ⟨?_, ?_⟩
  · rintro ⟨z, ⟨hz, hhome, hpin⟩, hidx⟩
    exact ⟨z, hz, hidx, hidx ▸ hhome, hpin⟩
  · rintro ⟨z, hz, hidx, hhome, hpin⟩
    exact ⟨z, ⟨hz, hidx ▸ hhome, hpin⟩, hidx⟩

/-- The regions of a list whose slots leave, one after another. -/
def slotsLeaveOf (l : List Nat) (s : State) : State := l.foldl (fun s r => if (region s r).parkReq then slotsPark r s else s) s

theorem slotsLeaveOf_frame (l : List Nat) (s : State) : slotsLeaveOf l s =
    { s with trk := (slotsLeaveOf l s).trk, jobs := (slotsLeaveOf l s).jobs, ctlWait := (slotsLeaveOf l s).ctlWait } := by
  induction l using List.reverseRecOn with
  | nil => rfl
  | append_singleton l r ih =>
    have hstep : slotsLeaveOf (l ++ [r]) s = if (region (slotsLeaveOf l s) r).parkReq then slotsPark r (slotsLeaveOf l s)
      else slotsLeaveOf l s := by rw [slotsLeaveOf, List.foldl_append]; rfl
    rw [hstep]
    split
    · rw [slotsPark_frame, ih]
    · exact ih

theorem mem_slotsLeaveOf (l : List Nat) {y : Slot} : y ∈ (slotsLeaveOf l s).trk.slots ↔ y ∈ s.trk.slots ∧ ¬ Leaves s l y.idx := by
  induction l using List.reverseRecOn generalizing y with
  | nil => exact ⟨fun h => ⟨h, fun ⟨_, _, _, hl, _⟩ => absurd hl List.not_mem_nil⟩, fun h => h.1⟩
  | append_singleton l r ih =>
    have hstep : slotsLeaveOf (l ++ [r]) s = if (region (slotsLeaveOf l s) r).parkReq then slotsPark r (slotsLeaveOf l s)
      else slotsLeaveOf l s := by rw [slotsLeaveOf, List.foldl_append]; rfl
    have hframe := slotsLeaveOf_frame l s
    have hregion : region (slotsLeaveOf l s) r = region s r := by rw [hframe]; rfl
    have hbuild : (slotsLeaveOf l s).build = s.build := by rw [hframe]
    have hpin (z : Slot) : pinned (slotsLeaveOf l s) z = pinned s z :=
      pinned_congr (by rw [hframe]) (by rw [hframe]) (by rw [hframe]) z
    rw [hstep, hregion]
    split
    · rename_i hpark
      rw [mem_slotsPark, ih, and_assoc]
      refine and_congr_right fun hy => ?_
      simp only [hbuild, hpin, ih, Leaves, List.mem_append, List.mem_singleton]
      constructor
      · rintro ⟨hnot, hnone⟩ ⟨z, hz, hidx, hhome | hhome, hreq, hfree⟩
        · exact hnot ⟨z, hz, hidx, hhome, hreq, hfree⟩
        · exact hnone ⟨z, ⟨hz, fun hleft => hnot (hidx ▸ hleft)⟩, hidx, hhome, hfree⟩
      · intro hnot
        refine ⟨fun ⟨z, hz, hidx, hhome, hreq, hfree⟩ => hnot ⟨z, hz, hidx, .inl hhome, hreq, hfree⟩, ?_⟩
        rintro ⟨z, ⟨hz, -⟩, hidx, hhome, hfree⟩
        exact hnot ⟨z, hz, hidx, .inr hhome, hhome ▸ hpark, hfree⟩
    · rename_i hpark
      rw [ih]
      refine and_congr_right fun hy => not_congr ⟨?_, ?_⟩
      · rintro ⟨z, hz, hidx, hhome, hreq, hfree⟩
        exact ⟨z, hz, hidx, List.mem_append_left _ hhome, hreq, hfree⟩
      · rintro ⟨z, hz, hidx, hhome, hreq, hfree⟩
        rcases List.mem_append.1 hhome with hhome | hhome
        · exact ⟨z, hz, hidx, hhome, hreq, hfree⟩
        · exact absurd (List.mem_singleton.1 hhome ▸ hreq) hpark

theorem slotsLeave_eq (s : State) : slotsLeave s = slotsLeaveOf (List.range s.regions.length) s := rfl

theorem slotAt_none {i : Nat} (h : ∀ y ∈ s.trk.slots, y.idx ≠ i) : slotAt s i = none := by
  rw [slotAt, List.find?_eq_none]
  intro y hy
  simp [h y hy]

theorem slotsUnpin_parked {x : Region} (hx : x ∈ s.regions) (hreq : x.parkReq = true) : slotsUnpin s = foldPumpAll (slotsLeave s) :=
  if_pos (List.any_eq_true.2 ⟨x, hx, hreq⟩)

/-! ## The commands -/

theorem exec_regionParkRequest (hrun : s.rst = .run) (hr : r < s.regions.length) : exec (.regionParkRequest r) s =
    .next (foldPumpAll (slotsPark r (modRegion r (fun y => { y with parkReq := true }) s))) :=
  (inRun_of_run hrun).trans (if_neg (by omega))

theorem exec_regionParkAck (hrun : s.rst = .run) (hr : r < s.regions.length) (hreq : (region s r).parkReq = true)
    (hack : (region s r).parkAck = false) (hquiet : parkQuiet s r = true) : exec (.regionParkAck r) s =
    .next (slotsPark r (modRegion r (fun y => { y with parkAck := true }) s)) :=
  (inRun_of_run hrun).trans (if_neg (by simp [hreq, hack, hquiet, hr]))

theorem exec_regionParkAck_none (hrun : s.rst = .run)
    (h : (region s r).parkReq = false ∨ (region s r).parkAck = true ∨ parkQuiet s r = false) : exec (.regionParkAck r) s = .next s :=
  (inRun_of_run hrun).trans (if_pos (by rcases h with h | h | h <;> simp [h]))

theorem exec_regionUnpark (hrun : s.rst = .run) (hr : r < s.regions.length) (hreq : (region s r).parkReq = true) :
    exec (.regionUnpark r) s = .next (foldPumpAll (bandsGo r (drainCtl (drainRegion r
      (modRegion r (fun y => { y with parkReq := false, parkAck := false }) s))))) :=
  (inRun_of_run hrun).trans (if_neg (by simp [hreq, hr]))

/-- A slot that a parking region gives up is gone; those of other regions stay. -/
theorem slotsPark_gone {sl : Slot} (hsl : sl ∈ s.trk.slots) (hhome : s.build.homeRegion sl.idx = r) (hpin : pinned s sl = false) :
    slotAt (slotsPark r s) sl.idx = none :=
  slotAt_none fun y hy hidx => (mem_slotsPark.1 hy).2 ⟨sl, hsl, hidx.symm, by rw [hidx]; exact hhome, hpin⟩

theorem slotsPark_stays {sl : Slot} (hsl : sl ∈ s.trk.slots) (hhome : s.build.homeRegion sl.idx ≠ r) : sl ∈ (slotsPark r s).trk.slots :=
  mem_slotsPark.2 ⟨hsl, fun ⟨_, _, _, hhome', _⟩ => hhome hhome'⟩

end Sys2Proof.Machine

namespace Sys2Proof.Proofs
open Sys2Proof.Machine

/-- Settles O43. -/
theorem creditsReturn : Obligations.CreditsReturn := by
  intro s c rd wr st hrun u
  refine ⟨fun h => exec_creditReturn_none hrun h, fun hc hlost => ?_, fun hc hlost hctl hports hswaths => ?_⟩
  · intro v
    have hexec := exec_creditReturn (rd := rd) (wr := wr) (st := st) hrun hc hlost
    refine ⟨hexec, fun hswaths => hexec.trans (congrArg _ (bandsGo_none ?_ _))⟩
    unfold State.NoBandNext
    simpa using hswaths
  · have hidle : (modPort c (Port.credited rd wr st) s).Unwaited := modPort_unwaited (fun _ => ⟨rfl, rfl⟩) ⟨hctl, hports⟩
    refine (exec_creditReturn hrun hc hlost).trans (congrArg _ ?_)
    rw [drainRegion_unwaited hidle, drainCtl_unwaited hidle.1, bandsGo_none (by exact hswaths)]
    rfl

/-- Settles O45. -/
theorem clusterPartner : Obligations.ClusterPartner := by
  intro s c hrun hc hpark
  refine ⟨exec_cluAliveToggle hrun hc hpark, fun hlost => ?_, fun b id j howner hj hretry htries => lossLog_job howner hj hretry htries,
    fun b id howner hj => lossLog_noJob howner hj, fun hlost => ?_⟩
  · intro u v
    exact ⟨exec_clusterPartnerLost hrun hc hpark hlost rfl rfl,
      fun hout hstreams => exec_clusterPartnerLost_idle hrun hc hpark hlost hout hstreams⟩
  · refine (exec_clusterPartnerReturn hrun hc hpark hlost).trans (congrArg _ ?_)
    split
    · rfl
    · rw [List.append_nil]
      rfl

/-- Settles O46. -/
theorem regionParking : Obligations.RegionParking := by
  intro s r hrun hr gone evicted
  have hgone (f : Region → Region) : evicted (slotsPark r (modRegion r f s)) :=
    ⟨fun sl hsl hhome hpin => slotsPark_gone (s := modRegion r f s) hsl hhome
      ((pinned_congr (s := s) (t := modRegion r f s) rfl rfl rfl sl).trans hpin),
      fun sl hsl hhome => slotsPark_stays (s := modRegion r f s) hsl hhome⟩
  refine ⟨⟨_, exec_regionParkRequest hrun hr, hgone _, foldPumpAll_idle, rfl⟩, fun hreq hack hquiet => ?_,
    fun h => exec_regionParkAck_none hrun h, fun hreq => ?_, slotsUnpin_idle, fun hreq => ?_⟩
  · exact ⟨_, exec_regionParkAck hrun hr hreq hack hquiet, hgone _, rfl⟩
  · intro u
    have hexec := exec_regionUnpark hrun hr hreq
    refine ⟨hexec, fun hswaths hfold => ?_⟩
    have hquiet : u.Quiet (drainCtl (drainRegion r u)) := drainCtl_quiet (drainRegion_quiet (.refl u))
    refine ⟨_, hexec.trans (congrArg _ ?_), hquiet⟩
    rw [bandsGo_none (by unfold State.NoBandNext; simpa using hswaths), foldPumpAll_idle (by simpa using hfold)]
    rfl
  · have hmem : region s r ∈ s.regions := by
      rw [region, List.getD_eq_getElem _ _ hr]
      exact List.getElem_mem hr
    refine ⟨slotsLeave s, slotsUnpin_parked hmem hreq, fun sl hsl hhome hpin => ?_, slotsLeave_frame s, fun sl hsl hfree => ?_,
      fun sl hsl hpin honly => ?_⟩
    all_goals rw [slotsLeave_eq]
    · refine slotAt_none fun y hy hidx => (mem_slotsLeaveOf _).1 hy |>.2 ⟨sl, hsl, hidx.symm, ?_, ?_, hpin⟩
      · rw [hidx, hhome]
        exact List.mem_range.2 hr
      · rw [hidx, hhome]
        exact hreq
    · refine (mem_slotsLeaveOf _).2 ⟨hsl, fun ⟨_, _, _, _, hreq', _⟩ => absurd (hreq'.symm.trans hfree) (by decide)⟩
    · refine (mem_slotsLeaveOf _).2 ⟨hsl, fun ⟨z, hz, hidx, _, _, hfree⟩ => ?_⟩
      rw [honly z hz hidx, hpin] at hfree
      exact absurd hfree (by decide)

end Sys2Proof.Proofs
end

section
/-! PROOFS. DMA engines: the commands by registers, chaining and stops, bursts and the end of a run (10_region_dma.md). -/

namespace Sys2Proof.Machine

variable {s t : State} {r ch : Nat}

/-! ## Channels of an engine -/

theorem modDma_modDma (r : Nat) (f g : Dma → Dma) (s : State) : modDma r g (modDma r f s) = modDma r (fun d => g (f d)) s :=
  modRegion_modRegion ..

/-- An update of an engine may look at the engine that it finds. -/
theorem modDma_const (r : Nat) (f : Dma → Dma) (s : State) :
    modDma r f s = modRegion r (fun x => { x with dma := f (region s r).dma }) s :=
  (modRegion_const r (fun x => { x with dma := f x.dma }) s).trans
    (modRegion_const r (fun x => { x with dma := f (region s r).dma }) s).symm

theorem modChan_modChan (r ch : Nat) (f g : Chan → Chan) (s : State) :
    modChan r ch g (modChan r ch f s) = modChan r ch (fun c => g (f c)) s := by
  simp only [modChan, modDma_modDma, modAt_modAt]

theorem dma_modDma (h : r < s.regions.length) (f : Dma → Dma) : (region (modDma r f s) r).dma = f (region s r).dma :=
  congrArg Region.dma (region_modRegion_same h)

theorem dma_modChan (h : r < s.regions.length) (f : Chan → Chan) : (region (modChan r ch f s) r).dma =
    { (region s r).dma with chans := modAt (region s r).dma.chans ch f } := dma_modDma h _

theorem region_modDma_other {e : Nat} {f : Dma → Dma} (h : e ≠ r) : region (modDma r f s) e = region s e := region_modRegion_other h

theorem region_modChan_other {e : Nat} {f : Chan → Chan} (h : e ≠ r) : region (modChan r ch f s) e = region s e := region_modRegion_other h

theorem chan_congr (h : t.regions = s.regions) (r ch : Nat) : chan t r ch = chan s r ch := by rw [chan, chan, region_congr h]

theorem chan_congr_region (h : (region t r).dma.chans = (region s r).dma.chans) (ch : Nat) : chan t r ch = chan s r ch := by
  rw [chan, chan, h]

theorem chan_modChan_same (hr : r < s.regions.length) (hch : ch < (region s r).dma.chans.length) (f : Chan → Chan) :
    chan (modChan r ch f s) r ch = f (chan s r ch) := by
  rw [chan, dma_modChan hr]
  simp only [modAt, chan, List.getD_eq_getElem?_getD, List.getElem?_modify_eq, List.getElem?_eq_getElem hch]
  rfl

theorem chan_modChan_other {e : Nat} (h : e ≠ ch) (f : Chan → Chan) : chan (modChan r ch f s) r e = chan s r e := by
  by_cases hr : r < s.regions.length
  · rw [chan, dma_modChan hr]
    simp [modAt, chan, List.getD_eq_getElem?_getD, h.symm]
  · exact chan_congr (by simp only [modChan, modDma, modRegion, modAt, List.modify_eq_self (Nat.le_of_not_lt hr)]) r e

@[simp] theorem modDma_regions_length (f : Dma → Dma) : (modDma r f s).regions.length = s.regions.length := List.length_modify ..

@[simp] theorem modChan_regions_length (f : Chan → Chan) : (modChan r ch f s).regions.length = s.regions.length := List.length_modify ..

theorem modChan_chans_length (hr : r < s.regions.length) (f : Chan → Chan) :
    (region (modChan r ch f s) r).dma.chans.length = (region s r).dma.chans.length := by
  rw [dma_modChan hr]
  exact List.length_modify ..

/-! ## The outcome of a run, and a block that becomes current -/

/-- The channel once the outcome of its run is decided. -/
def Chan.decided (status cause : Nat) (c : Chan) : Chan :=
  { c with state := .ending, fetchAt := none, outcome := some (c.outcome.getD (status, cause)) }

theorem decide'_eq (status cause : Nat) : decide' r ch status cause s = modChan r ch (Chan.decided status cause) s := rfl

/-- The channel with the block of some words as its current one. -/
def Chan.withBlock (addr : Nat) (ws : List Word) (crc : Bool) (c : Chan) : Chan :=
  let f := blockFault ws crc
  let c := { c with
    regs := regWords ws, blockAddr := addr, srcIdx := 0, dstIdx := 0, buf := [], acked := [], pos := 0
    fault := f, running := f == 0, block := c.block + 1 }
  if f = 0 then c else c.decided 0x16 0x0D

theorem blockStart_eq (addr : Nat) (ws : List Word) (crc : Bool) :
    blockStart r ch addr ws crc s = modChan r ch (Chan.withBlock addr ws crc) s := by
  unfold blockStart Chan.withBlock
  dsimp only
  split
  · rfl
  · exact modChan_modChan ..

/-! ## DMA_OWN -/

/-- The channels that are idle, one bit each. -/
def idleMask (s : State) (r : Nat) : Word :=
  (List.range 32).foldl (fun m c => if (chan s r c).state == .idle then setBit m c else m) (0 : Word)

theorem getLsbD_setBit (w : Word) {i c : Nat} (hi : i < 32) : (setBit w c).getLsbD i = (w.getLsbD i || decide (c = i)) := by
  rw [setBit, BitVec.getLsbD_or, BitVec.getLsbD_ofNat, Nat.testBit_two_pow]
  simp [hi]

theorem getLsbD_foldl_setBit {i : Nat} (hi : i < 32) (p : Nat → Bool) (l : List Nat) : ∀ m : Word,
    (l.foldl (fun m c => if p c then setBit m c else m) m).getLsbD i = (m.getLsbD i || (decide (i ∈ l) && p i)) := by
  induction l with
  | nil => simp
  | cons c l ih =>
    intro m
    rw [List.foldl_cons, ih]
    by_cases hc : c = i
    · subst hc
      by_cases hp : p c = true <;> simp [hp, getLsbD_setBit _ hi]
    · by_cases hp : p c = true <;> simp [hp, getLsbD_setBit _ hi, hc, Ne.symm hc]

theorem getLsbD_idleMask (h : ch < 32) : (idleMask s r).getLsbD ch = ((chan s r ch).state == .idle) := by
  rw [idleMask, getLsbD_foldl_setBit h (fun c => (chan s r c).state == .idle)]
  simp [h]

theorem idleMask_full : ~~~ idleMask s r = 0 ↔ ∀ ch < 32, (chan s r ch).state = .idle := by
  constructor
  · intro h ch hch
    have hbit : (~~~ idleMask s r).getLsbD ch = (0 : Word).getLsbD ch := by rw [h]
    rw [BitVec.getLsbD_not, getLsbD_idleMask hch] at hbit
    simpa [hch] using hbit
  · intro h
    refine BitVec.eq_of_getLsbD_eq fun i hi => ?_
    rw [BitVec.getLsbD_not, getLsbD_idleMask hi, h i hi]
    simp [hi]

theorem getLsbD_own (h : ch < 32) {own data : Word} : ((own &&& ~~~ idleMask s r) ||| (data &&& idleMask s r)).getLsbD ch =
    if (chan s r ch).state = .idle then data.getLsbD ch else own.getLsbD ch := by
  rw [BitVec.getLsbD_or, BitVec.getLsbD_and, BitVec.getLsbD_and, BitVec.getLsbD_not, getLsbD_idleMask h]
  by_cases hidle : (chan s r ch).state = .idle
  · simp [hidle, h]
  · simp [hidle, h, beq_eq_false_iff_ne.2 hidle]

theorem dmaOwn_eq (data : Word) : dmaOwn r data s = modDma r (fun d => { d with
    own := (d.own &&& ~~~ idleMask s r) ||| (data &&& idleMask s r), ownDrop := d.ownDrop || ~~~ idleMask s r != 0 }) s := rfl

/-! ## What the commands by registers do -/

theorem regionAck_eq (hr : r < s.regions.length) : regionAck s r = (region s r).parkAck := by simp [regionAck, hr]

section
variable (hrun : s.rst = .run) (hr : r < s.regions.length)
include hrun hr

theorem exec_dmaOwnWrite (data : Word) : exec (.dmaOwnWrite r data) s = .next (
    if (region s r).parkAck then emit (.cpAck true) s else dmaOwn r data (emit (.cpAck false) s)) := by
  refine (inRun_of_run hrun).trans ?_
  rw [regionAck_eq hr]
  split <;> rfl

theorem exec_dmaResume : exec (.dmaResume r) s = .next (
    if (region s r).parkAck then emit (.cpAck true) s else dmaResume r (emit (.cpAck false) s)) := by
  refine (inRun_of_run hrun).trans ?_
  rw [regionAck_eq hr]
  split <;> rfl

theorem exec_dmaStart (ch : Nat) : exec (.dmaStart r ch) s = .next (
    if (region s r).parkAck then emit (.cpAck true) s else dmaCtrl r ch true false (emit (.cpAck false) s)) := by
  refine (inRun_of_run hrun).trans ?_
  rw [regionAck_eq hr]
  split <;> rfl

theorem exec_dmaDisable (ch : Nat) : exec (.dmaDisable r ch) s = .next (
    if (region s r).parkAck then emit (.cpAck true) s else dmaCtrl r ch false true (emit (.cpAck false) s)) := by
  refine (inRun_of_run hrun).trans ?_
  rw [regionAck_eq hr]
  split <;> rfl

end

/-- Whether START may begin a direct run on a channel. -/
def startable (s : State) (r ch : Nat) : Prop :=
  (region s r).dma.own.getLsbD ch = true ∧ (chan s r ch).state = .idle ∧ (region s r).dma.stopped = false ∧
    (region s r).dma.draining = false ∧ (region s r).parkReq = false ∧ ch ∉ (region s r).badChans

theorem dmaCtrl_start (h : startable s r ch) : dmaCtrl r ch true false s =
    modChan r ch (fun c => (runStart c none (bits c.cfg.toNat 8 3)).withBlock 0 (chan s r ch).regs true) s := by
  obtain ⟨hown, hidle, hstop, hdrain, hpark, hbad⟩ := h
  have hdirect : bit (region s r).dma.own.toNat ch = true := hown
  simp only [dmaCtrl, hdirect, hidle, hstop, hdrain, hpark, List.contains_eq_mem, hbad]
  exact (blockStart_eq ..).trans (modChan_modChan ..)

theorem dmaCtrl_start_refused (h : ¬ startable s r ch) : dmaCtrl r ch true false s = chanSeqErr r ch s := by
  by_cases hown : (region s r).dma.own.getLsbD ch = true
  · have hdirect : bit (region s r).dma.own.toNat ch = true := hown
    have hbusy : ((chan s r ch).state != .idle || (region s r).dma.stopped || (region s r).dma.draining || (region s r).parkReq ||
        (region s r).badChans.contains ch) = true := by
      by_contra hfree
      simp only [Bool.or_eq_true, bne_iff_ne, ne_eq, List.contains_eq_mem, decide_eq_true_eq, not_or, Bool.not_eq_true,
        Decidable.not_not] at hfree
      obtain ⟨⟨⟨⟨hidle, hstop⟩, hdrain⟩, hpark⟩, hbad⟩ := hfree
      exact h ⟨hown, hidle, hstop, hdrain, hpark, hbad⟩
    simp only [dmaCtrl, hdirect, hbusy]
    rfl
  · have hnode : bit (region s r).dma.own.toNat ch = false := Bool.eq_false_iff.2 hown
    simp only [dmaCtrl, hnode]
    rfl

theorem dmaCtrl_disable (hown : (region s r).dma.own.getLsbD ch = true) (hact : (chan s r ch).state = .active) :
    dmaCtrl r ch false true s = drainRegion r (modChan r ch (Chan.decided 0x11 0x21) s) := by
  have hdirect : bit (region s r).dma.own.toNat ch = true := hown
  simp only [dmaCtrl, hdirect, hact]
  rfl

theorem dmaCtrl_disable_refused (h : (region s r).dma.own.getLsbD ch = false ∨ (chan s r ch).state ≠ .active) :
    dmaCtrl r ch false true s = chanSeqErr r ch s := by
  by_cases hown : (region s r).dma.own.getLsbD ch = true
  · have hdirect : bit (region s r).dma.own.toNat ch = true := hown
    have hidle : ((chan s r ch).state != .active) = true := bne_iff_ne.2 (h.resolve_left (by simp [hown]))
    simp only [dmaCtrl, hdirect, hidle]
    rfl
  · have hnode : bit (region s r).dma.own.toNat ch = false := Bool.eq_false_iff.2 hown
    simp only [dmaCtrl, hnode]
    rfl

theorem dmaResume_done (hstop : (region s r).dma.stopped = true) (hidle : allIdle (region s r).dma = true) : dmaResume r s =
    modRegion r (fun x => { x with dma := { (region s r).dma with stopped := false } }) s := by
  simp only [dmaResume, hstop, hidle]
  exact modDma_const r (fun d => { d with stopped := false }) s

theorem dmaResume_refused (h : (region s r).dma.stopped = false ∨ allIdle (region s r).dma = false) : dmaResume r s =
    modRegion r (fun x => { x with dma := { (region s r).dma with seqErr := true } }) s := by
  have hno : ((region s r).dma.stopped && allIdle (region s r).dma) = false := by
    rcases h with h | h <;> simp [h]
  simp only [dmaResume, hno]
  exact modDma_const r (fun d => { d with seqErr := true }) s

end Sys2Proof.Machine

namespace Sys2Proof.Proofs
open Sys2Proof.Machine

/-- Settles O49: DMA_OWN takes the bits of the idle channels (`getLsbD_idleMask`), START makes the register block current, DISABLE decides
the outcome, and what the state does not allow sets SEQ_ERR alone. -/
theorem dmaCommands : Obligations.DmaCommands := by
  intro s r hrun hr
  have hlen : r < (emit (.cpAck false) s).regions.length := hr
  have others (f : Region → Region) : ∀ e, e ≠ r → region (modRegion r f (emit (.cpAck false) s)) e = region s e :=
    fun _ he => region_modRegion_other he
  refine ⟨fun hpark ch data => ?_, fun hpark => ⟨fun data => ?_, fun hstop hidle => ?_, fun h => ?_, fun ch hch => ?_⟩⟩
  · rw [exec_dmaOwnWrite hrun hr, exec_dmaStart hrun hr, exec_dmaDisable hrun hr, exec_dmaResume hrun hr, if_pos hpark]
    exact ⟨rfl, if_pos hpark ▸ rfl, if_pos hpark ▸ rfl, if_pos hpark ▸ rfl⟩
  · refine ⟨dmaOwn r data (emit (.cpAck false) s), (exec_dmaOwnWrite hrun hr data).trans (by rw [if_neg (by simp [hpark])]), ⟨rfl, others _⟩, ?_⟩
    rw [dmaOwn_eq, dma_modDma hlen]
    refine ⟨fun ch hch => ?_, fun ⟨ch, hch, hbusy⟩ => ?_, fun hidle => ?_, rfl⟩
    · exact getLsbD_own hch
    · have hdrop : ~~~ idleMask (emit (.cpAck false) s) r ≠ 0 := fun h => hbusy (idleMask_full.1 h ch hch)
      exact Bool.or_eq_true_iff.2 (.inr (bne_iff_ne.2 hdrop))
    · have hnone : ~~~ idleMask (emit (.cpAck false) s) r = 0 := idleMask_full.2 hidle
      rw [hnone]
      exact Bool.or_false _
  · exact (exec_dmaResume hrun hr).trans (by rw [if_neg (by simp [hpark])]; exact congrArg _ (dmaResume_done hstop hidle))
  · exact (exec_dmaResume hrun hr).trans (by rw [if_neg (by simp [hpark])]; exact congrArg _ (dmaResume_refused h))
  · have hstart : exec (.dmaStart r ch) s = .next (dmaCtrl r ch true false (emit (.cpAck false) s)) :=
      (exec_dmaStart hrun hr ch).trans (by rw [if_neg (by simp [hpark])])
    have hdisable : exec (.dmaDisable r ch) s = .next (dmaCtrl r ch false true (emit (.cpAck false) s)) :=
      (exec_dmaDisable hrun hr ch).trans (by rw [if_neg (by simp [hpark])])
    have hsame (f : Chan → Chan) : chan (modChan r ch f (emit (.cpAck false) s)) r ch = f (chan s r ch) := chan_modChan_same hlen hch f
    have hother (f : Chan → Chan) : ∀ e, e ≠ ch → chan (modChan r ch f (emit (.cpAck false) s)) r e = chan s r e :=
      fun _ he => chan_modChan_other he f
    refine ⟨fun hown hidle hstop hdrain hreq hbad => ?_, fun h => ?_, fun hown hact => ?_, fun h => ?_⟩
    · refine ⟨_, hstart.trans (congrArg _ (dmaCtrl_start ⟨hown, hidle, hstop, hdrain, hreq, hbad⟩)), ⟨rfl, others _⟩, hother _, ?_⟩
      rw [hsame]
      have hcount : (cntMod (chan s r ch).run 1).toNat = ((chan s r ch).run.toNat + 1) % 2 ^ 32 := by simp [cntMod]
      have hregs : (chan (emit (.cpAck false) s) r ch).regs = (chan s r ch).regs := rfl
      rw [hregs]
      by_cases hfault : blockFault (chan s r ch).regs true = 0
      · simp [Chan.withBlock, hfault, runStart, hcount]
      · simp [Chan.withBlock, hfault, runStart, hcount, Chan.decided]
    · refine ⟨_, hstart.trans (congrArg _ (dmaCtrl_start_refused ?_)), ⟨rfl, others _⟩, hsame _, hother _⟩
      rintro ⟨hown, hidle, hstop, hdrain, hreq, hbad⟩
      have hown' : (region s r).dma.own.getLsbD ch = true := hown
      have hidle' : (chan s r ch).state = .idle := hidle
      have hstop' : (region s r).dma.stopped = false := hstop
      have hdrain' : (region s r).dma.draining = false := hdrain
      have hreq' : (region s r).parkReq = false := hreq
      have hbad' : ch ∉ (region s r).badChans := hbad
      simp [hown', hidle', hstop', hdrain', hreq', hbad'] at h
    · exact ⟨_, hdisable.trans (congrArg _ (dmaCtrl_disable hown hact)), ⟨rfl, others _⟩, hother _, hsame _⟩
    · exact ⟨_, hdisable.trans (congrArg _ (dmaCtrl_disable_refused h)), ⟨rfl, others _⟩, hsame _, hother _⟩

end Sys2Proof.Proofs
end

section
/-! PROOFS. DMA engines on their own: the next block of a chain, a stop and its resume (R285 to R289, R297). -/

namespace Sys2Proof.Machine

variable {s t u : State} {r ch : Nat}

/-! ## Hops -/

/-- The channel whose current block, of some size, has presented its last burst. -/
def Chan.blockOver (size : Nat) (c : Chan) : Chan := { c with running := false, doneBlocks := c.doneBlocks ++ [(c.block, size)] }

theorem exec_dmaHop (hrun : s.rst = .run) (hr : r < s.regions.length) (hch : ch < 32) (hstop : (region s r).dma.stopped = false)
    (hdrain : (region s r).dma.draining = false) (hact : (chan s r ch).state = .active) (hfetch : (chan s r ch).fetchAt = none)
    (hdone : blockDone (chan s r ch) = true) (hnext : (blockOf (chan s r ch).regs).next ≠ 0)
    (hbar : (blockOf (chan s r ch).regs).barrier = true → ∀ f ∈ (chan s r ch).flights, f.kind ≠ .write) :
    exec (.dmaHop r ch) s = .next (
      if max (region s r).dma.hoplim.toNat 1 < (chan s r ch).hops + 1 then
        modChan r ch (fun c => (c.blockOver (blockOf (chan s r ch).regs).size).decided 0x14 0x50) s
      else modChan r ch (fun c => { c.blockOver (blockOf (chan s r ch).regs).size with
        hops := c.hops + 1, fetchAt := some (blockOf (chan s r ch).regs).next }) s) := by
  refine (inRun_of_run hrun).trans ?_
  have hopen : ((blockOf (chan s r ch).regs).barrier && (chan s r ch).flights.any (fun f => f.kind == .write)) = false := by
    cases hb : (blockOf (chan s r ch).regs).barrier with
    | false => rfl
    | true => simpa using hbar hb
  dsimp only
  rw [if_neg (by simp [hr, hch, hstop, hdrain, hact, hfetch, hdone, hnext, hopen])]
  split
  · rw [decide'_eq, modChan_modChan, modChan_modChan]
    rfl
  · rw [modChan_modChan]
    rfl

/-! ## What a stop leaves of an engine -/

/-- From `s` to `t` nothing but the channels of a region's engine has changed, and the nodes it has taken back. -/
structure EngineKept (r : Nat) (s t : State) : Prop where
  frame : t = { s with regions := t.regions }
  built : t.regions.length = s.regions.length
  other : ∀ e, e ≠ r → region t e = region s e
  dma : (region t r).dma = { (region s r).dma with chans := (region t r).dma.chans }
  chans : (region t r).dma.chans.length = (region s r).dma.chans.length
  requeued : ∀ n ∈ (region s r).requeued, n ∈ (region t r).requeued

theorem EngineKept.refl (r : Nat) (s : State) : EngineKept r s s := ⟨rfl, rfl, fun _ _ => rfl, rfl, rfl, fun _ h => h⟩

theorem EngineKept.trans (h : EngineKept r s t) (k : EngineKept r t u) : EngineKept r s u where
  frame := by
    have hu := k.frame
    rw [h.frame] at hu
    exact hu
  built := k.built.trans h.built
  other := fun e he => (k.other e he).trans (h.other e he)
  dma := by
    have hu := k.dma
    rw [h.dma] at hu
    exact hu
  chans := k.chans.trans h.chans
  requeued := fun n hn => k.requeued n (h.requeued n hn)

theorem modChan_engineKept (hr : r < s.regions.length) (f : Chan → Chan) : EngineKept r s (modChan r ch f s) where
  frame := rfl
  built := modChan_regions_length f
  other := fun _ he => region_modChan_other he
  dma := by rw [dma_modChan hr]
  chans := modChan_chans_length hr f
  requeued := fun n hn => by
    rw [modChan, modDma, region_modRegion_same hr]
    exact hn

/-- A node that is taken back waits in its region to be run again. -/
def requeue (r : Nat) (n : NodeRef) (s : State) : State := modRegion r (fun x => { x with requeued := x.requeued ++ [n] }) s

theorem region_requeue (hr : r < s.regions.length) (n : NodeRef) : region (requeue r n s) r =
    { region s r with requeued := (region s r).requeued ++ [n] } := region_modRegion_same hr

theorem requeue_engineKept (hr : r < s.regions.length) (n : NodeRef) : EngineKept r s (requeue r n s) where
  frame := rfl
  built := List.length_modify ..
  other := fun _ he => region_modRegion_other he
  dma := by rw [region_requeue hr]
  chans := by rw [region_requeue hr]
  requeued := fun m hm => by
    rw [region_requeue hr]
    exact List.mem_append_left _ hm

theorem chan_requeue (hr : r < s.regions.length) (n : NodeRef) (ch : Nat) : chan (requeue r n s) r ch = chan s r ch :=
  chan_congr_region (by rw [region_requeue hr]) ch

/-! ## What a stop does to a channel -/

theorem stopChan_culprit {l : List Culprit} {x : Culprit} (hx : l.find? (fun y => y.chan == ch) = some x)
    (hbusy : (chan s r ch).state ≠ .idle) (hout : (chan s r ch).outcome ≠ some (0x11, 0x21)) : stopChan r l ch s =
    modChan r ch (fun c => { c with state := .ending, fetchAt := none, outcome := some (0x12, x.low) }) s := by
  simp only [stopChan, hx]
  rw [if_neg (by simp [hbusy, hout]), decide'_eq, modChan_modChan]
  rfl

theorem stopChan_culprit_ended {l : List Culprit} {x : Culprit} (hx : l.find? (fun y => y.chan == ch) = some x)
    (h : (chan s r ch).state = .idle ∨ (chan s r ch).outcome = some (0x11, 0x21)) : stopChan r l ch s = s := by
  simp only [stopChan, hx]
  exact if_pos (by simpa using h)

theorem stopChan_inactive {l : List Culprit} (hx : l.find? (fun y => y.chan == ch) = none) (h : (chan s r ch).state ≠ .active) :
    stopChan r l ch s = s := by
  simp only [stopChan, hx]
  exact if_pos (by simpa using h)

theorem stopChan_direct {l : List Culprit} (hx : l.find? (fun y => y.chan == ch) = none) (hact : (chan s r ch).state = .active)
    (hnode : (chan s r ch).node = none) : stopChan r l ch s = modChan r ch (Chan.decided 0x12 0x48) s := by
  simp only [stopChan, hx, hnode]
  exact if_neg (by simp [hact])

theorem stopChan_node {l : List Culprit} {n : NodeRef} (hx : l.find? (fun y => y.chan == ch) = none)
    (hact : (chan s r ch).state = .active) (hnode : (chan s r ch).node = some n) : stopChan r l ch s =
    requeue r n (modChan r ch (fun c => { c with state := .idle, running := false, fetchAt := none, node := none }) s) := by
  simp only [stopChan, hx, hnode]
  exact if_neg (by simp [hact])

/-- What a stop does to channel `ch`, from `s` to `t`. -/
def ChanStopped (r : Nat) (culprits : List Culprit) (ch : Nat) (s t : State) : Prop :=
  let c := chan s r ch
  (∀ x, culprits.find? (fun y => y.chan == ch) = some x →
    (c.state = .idle ∨ c.outcome = some (0x11, 0x21) → chan t r ch = c) ∧
    (c.state ≠ .idle → c.outcome ≠ some (0x11, 0x21) → chan t r ch = { c with
      state := .ending, fetchAt := none, outcome := some (0x12, x.low) })) ∧
  (culprits.find? (fun y => y.chan == ch) = none →
    (c.state ≠ .active → chan t r ch = c) ∧
    (c.state = .active → c.node = none → chan t r ch = c.decided 0x12 0x48) ∧
    ∀ n, c.state = .active → c.node = some n →
      chan t r ch = { c with state := .idle, running := false, fetchAt := none, node := none } ∧ n ∈ (region t r).requeued)

theorem ChanStopped.of_eq {l : List Culprit} {s₀ : State} (h : ChanStopped r l ch s t) (hs : chan s r ch = chan s₀ r ch)
    (ht : chan u r ch = chan t r ch) (hq : ∀ n ∈ (region t r).requeued, n ∈ (region u r).requeued) : ChanStopped r l ch s₀ u := by
  unfold ChanStopped at h ⊢
  rw [hs] at h
  rw [ht]
  refine ⟨h.1, fun hx => ?_⟩
  obtain ⟨hidle, hdirect, hnode⟩ := h.2 hx
  exact ⟨hidle, hdirect, fun n hact hn => ⟨(hnode n hact hn).1, hq n (hnode n hact hn).2⟩⟩

/-- One channel is stopped, and nothing else of the engine changes. -/
theorem stopChan_spec (hr : r < s.regions.length) (l : List Culprit) (ch : Nat) :
    EngineKept r s (stopChan r l ch s) ∧ (∀ e, e ≠ ch → chan (stopChan r l ch s) r e = chan s r e) ∧
      (ch < (region s r).dma.chans.length → ChanStopped r l ch s (stopChan r l ch s)) := by
  have hlen (f : Chan → Chan) : r < (modChan r ch f s).regions.length := by rwa [modChan_regions_length]
  have hsame (f : Chan → Chan) (hch : ch < (region s r).dma.chans.length) := chan_modChan_same hr hch f
  cases hx : l.find? (fun y => y.chan == ch) with
  | some x =>
    by_cases h : (chan s r ch).state = .idle ∨ (chan s r ch).outcome = some (0x11, 0x21)
    · rw [stopChan_culprit_ended hx h]
      refine ⟨.refl r s, fun _ _ => rfl, fun _ => ⟨fun y _ => ⟨fun _ => rfl, fun hbusy hout => ?_⟩, fun hnone => ?_⟩⟩
      · exact absurd h (by simp [hbusy, hout])
      · simp [hx] at hnone
    · obtain ⟨hbusy, hout⟩ := not_or.1 h
      rw [stopChan_culprit hx hbusy hout]
      refine ⟨modChan_engineKept hr _, fun _ he => chan_modChan_other he _, fun hch => ⟨fun y hy => ⟨fun k => absurd k h, fun _ _ => ?_⟩, fun hnone => ?_⟩⟩
      · obtain rfl : x = y := Option.some.inj (hx.symm.trans hy)
        exact hsame _ hch
      · simp [hx] at hnone
  | none =>
    by_cases hact : (chan s r ch).state = .active
    · cases hnode : (chan s r ch).node with
      | none =>
        rw [stopChan_direct hx hact hnode]
        refine ⟨modChan_engineKept hr _, fun _ he => chan_modChan_other he _, fun hch => ⟨fun y hy => ?_, fun _ => ⟨fun h => absurd hact h, fun _ _ => hsame _ hch, fun n _ hn => ?_⟩⟩⟩
        · simp [hx] at hy
        · simp [hnode] at hn
      | some n =>
        rw [stopChan_node hx hact hnode]
        refine ⟨(modChan_engineKept hr _).trans (requeue_engineKept (hlen _) n),
          fun _ he => (chan_requeue (hlen _) n _).trans (chan_modChan_other he _),
          fun hch => ⟨fun y hy => ?_, fun _ => ⟨fun h => absurd hact h, fun _ hn => ?_, fun m _ hm => ⟨?_, ?_⟩⟩⟩⟩
        · simp [hx] at hy
        · simp [hnode] at hn
        · exact (chan_requeue (hlen _) n _).trans (hsame _ hch)
        · obtain rfl : n = m := Option.some.inj (hnode.symm.trans hm)
          rw [region_requeue (hlen _)]
          exact List.mem_append_right _ (List.mem_singleton_self _)
    · rw [stopChan_inactive hx hact]
      refine ⟨.refl r s, fun _ _ => rfl, fun _ => ⟨fun y hy => ?_, fun _ => ⟨fun _ => rfl, fun h => absurd h hact, fun n h => absurd h hact⟩⟩⟩
      simp [hx] at hy

/-- A stop goes over the channels one by one. -/
theorem foldl_stopChan (cs : List Culprit) (l : List Nat) : ∀ {s : State}, r < s.regions.length → l.Nodup →
    let t := l.foldl (fun s ch => stopChan r cs ch s) s
    EngineKept r s t ∧ (∀ e ∉ l, chan t r e = chan s r e) ∧
      ∀ ch ∈ l, ch < (region s r).dma.chans.length → ChanStopped r cs ch s t := by
  induction l with
  | nil => exact fun _ _ => ⟨.refl r _, fun _ _ => rfl, fun _ h => absurd h List.not_mem_nil⟩
  | cons a l ih =>
    intro s hr hl
    obtain ⟨ha, hl⟩ := List.nodup_cons.1 hl
    obtain ⟨hkept, hother, hstopped⟩ := stopChan_spec hr cs a
    obtain ⟨hkept', hother', hstopped'⟩ := ih (s := stopChan r cs a s) (by rwa [hkept.built]) hl
    refine ⟨hkept.trans hkept', fun e he => ?_, fun ch hch hlt => ?_⟩
    · obtain ⟨hea, hel⟩ := not_or.1 (mt List.mem_cons.2 he)
      exact (hother' e hel).trans (hother e hea)
    · rcases List.mem_cons.1 hch with rfl | hmem
      · exact (hstopped hlt).of_eq rfl (hother' ch ha) hkept'.requeued
      · exact (hstopped' ch hmem (by rwa [hkept.chans])).of_eq (hother ch fun h => ha (h ▸ hmem)) rfl fun _ h => h

/-! ## The stop of an engine -/

/-- The engine that has stopped, with its first culprit as the error it shows. -/
def Dma.halted (d : Dma) : Dma :=
  let d := match d.culprits with
    | [] => d
    | x :: _ => { d with errCh := x.chan, errCause := x.cause, errAddr := x.addr }
  { d with stops := cntSat d.stops 1, draining := false, stopped := true, culprits := [] }

theorem Dma.halted_chans (d : Dma) : d.halted.chans = d.chans := by
  unfold Dma.halted
  split <;> rfl

theorem Dma.halted_stops (d : Dma) : d.halted.stops = cntSat d.stops 1 := by
  unfold Dma.halted
  split <;> rfl

theorem Dma.halted_own (d : Dma) : d.halted.own = d.own := by
  unfold Dma.halted
  split <;> rfl

theorem Dma.halted_error {d : Dma} {x : Culprit} {xs : List Culprit} (h : d.culprits = x :: xs) :
    d.halted.errCh = x.chan ∧ d.halted.errCause = x.cause ∧ d.halted.errAddr = x.addr := by
  simp [Dma.halted, h]

/-- The stop is logged, once for each culprit. -/
def logCulprits (r : Nat) (l : List Culprit) (s : State) : State :=
  l.foldl (fun s x => logEvent 0x20 1 r (0x100 + x.chan) noCtx x.cause x.addr s) s

theorem logCulprits_quiet (r : Nat) (l : List Culprit) : ∀ s : State, s.Quiet (logCulprits r l s) := by
  induction l with
  | nil => exact State.Quiet.refl
  | cons x l ih => exact fun s => (logEvent_quiet (.refl s)).trans (ih _)

/-- The engine once it has stopped, before what the stop does to its channels: the stop is logged, once for each culprit. -/
def engineHalted (r : Nat) (s : State) : State := logCulprits r (region s r).dma.culprits (modDma r Dma.halted s)

theorem engineHalted_quiet (r : Nat) (s : State) : (modDma r Dma.halted s).Quiet (engineHalted r s) := logCulprits_quiet _ _ _

theorem exec_dmaEngineStopped (hrun : s.rst = .run) (hr : r < s.regions.length) (hdrain : (region s r).dma.draining = true)
    (hflights : ∀ c ∈ (region s r).dma.chans, c.flights = []) : exec (.dmaEngineStopped r) s = .next (
      (List.range 32).foldl (fun u ch => stopChan r (region s r).dma.culprits ch u) (engineHalted r s)) :=
  (inRun_of_run hrun).trans (if_neg (by simpa [hr, hdrain] using hflights))

theorem exec_dmaAutoResume (hrun : s.rst = .run) (hstop : (region s r).dma.stopped = true)
    (hauto : (region s r).dma.autoResume = true) (hidle : allIdle (region s r).dma = true) :
    exec (.dmaAutoResume r) s = .next (modRegion r (fun x => { x with dma := { (region s r).dma with stopped := false } }) s) :=
  ((inRun_of_run hrun).trans (if_pos (by simp [hstop, hauto, hidle]))).trans
    (congrArg Host.Outcome.next (modDma_const r (fun d => { d with stopped := false }) s))

/-- What changes a region's parts before and after some traffic changes that region and the traffic. -/
theorem State.Quiet.regions_frame (hs : t = { s with regions := t.regions }) (hq : t.Quiet u) {v : State}
    (hv : v = { u with regions := v.regions }) : v = { s.withTraffic v with regions := v.regions } := by
  generalize t.regions = R at hs
  generalize v.regions = R' at hv
  obtain ⟨ports, ctlWait, jobs, nextJob, health, outs, hu⟩ := hq.exists
  subst hv hu hs
  rfl

end Sys2Proof.Machine

namespace Sys2Proof.Proofs
open Sys2Proof.Machine

/-- Settles O50: a stop logs its culprits, which is traffic, and then goes over the channels one by one (`foldl_stopChan`). -/
theorem dmaEngine : Obligations.DmaEngine := by
  intro s r hrun hr
  refine ⟨fun ch hch hlt hstop hdrain hact hfetch hdone hnext hbar => ?_, fun hdrain hflights => ?_, exec_dmaAutoResume hrun⟩
  · have hexec := exec_dmaHop hrun hr hlt hstop hdrain hact hfetch hdone hnext hbar
    have hsame (f : Chan → Chan) : chan (modChan r ch f s) r ch = f (chan s r ch) := chan_modChan_same hr hch f
    by_cases hlim : max (region s r).dma.hoplim.toNat 1 < (chan s r ch).hops + 1
    · rw [if_pos hlim] at hexec
      refine ⟨_, hexec, rfl, fun _ he => region_modChan_other he, fun _ he => chan_modChan_other he _,
        fun h => absurd h (Nat.not_le.2 hlim), fun _ => (hsame _).trans ?_⟩
      rw [Chan.decided, Chan.blockOver, hfetch]
    · rw [if_neg hlim] at hexec
      exact ⟨_, hexec, rfl, fun _ he => region_modChan_other he, fun _ he => chan_modChan_other he _,
        fun _ => hsame _, fun h => absurd h hlim⟩
  · have hq := engineHalted_quiet r s
    have hregions : (engineHalted r s).regions = (modDma r Dma.halted s).regions := hq.regions_eq
    have hregion (e : Nat) : region (engineHalted r s) e = region (modDma r Dma.halted s) e := region_congr hregions e
    have hdma : (region (engineHalted r s) r).dma = (region s r).dma.halted := by rw [hregion, dma_modDma hr]
    have hlen : r < (engineHalted r s).regions.length := by rwa [hregions, modDma_regions_length]
    have hchan (ch : Nat) : chan (engineHalted r s) r ch = chan s r ch :=
      chan_congr_region (by rw [hdma, Dma.halted_chans]) ch
    obtain ⟨hkept, -, hstopped⟩ := foldl_stopChan (region s r).dma.culprits (List.range 32) hlen List.nodup_range
    have hexec := exec_dmaEngineStopped hrun hr hdrain hflights
    generalize (List.range 32).foldl (fun u ch => stopChan r (region s r).dma.culprits ch u) (engineHalted r s) = t at hkept hstopped hexec
    have hfields := hkept.dma
    rw [hdma] at hfields
    refine ⟨t, hexec, State.Quiet.regions_frame rfl hq hkept.frame, fun e he => ?_, ?_, ?_, ?_, ?_, ?_, fun x xs hx => ?_, fun ch hch hlt => ?_⟩
    · rw [hkept.other e he, hregion, region_modDma_other he]
    · rw [hfields]
      rfl
    · rw [hfields]
      rfl
    · rw [hfields]
      rfl
    · rw [hfields]
      exact Dma.halted_stops _
    · rw [hfields]
      exact Dma.halted_own _
    · rw [hfields]
      exact Dma.halted_error hx
    · have h := hstopped ch (List.mem_range.2 hlt) (by rwa [hdma, Dma.halted_chans])
      exact h.of_eq (hchan ch) rfl fun _ hn => hn

end Sys2Proof.Proofs
end

section
/-! PROOFS. DMA bursts, and the end of a run (R285 to R294). -/

namespace Sys2Proof.Machine

variable {s t u : State} {r ch p : Nat}

/-! ## What a grant can change -/

/-- From `s` to `t` nothing but region `r` and the traffic has changed. -/
structure RegionOnly (r : Nat) (s t : State) : Prop where
  frame : t = { s.withTraffic t with regions := t.regions }
  other : ∀ e, e ≠ r → region t e = region s e

theorem RegionOnly.trans (h : RegionOnly r s t) (k : RegionOnly r t u) : RegionOnly r s u where
  frame := by
    have hu := k.frame
    rw [h.frame] at hu
    exact hu
  other := fun e he => (k.other e he).trans (h.other e he)

theorem RegionOnly.of_quiet (h : s.Quiet t) : RegionOnly r s t where
  frame := by
    obtain ⟨ports, ctlWait, jobs, nextJob, health, outs, ht⟩ := h.exists
    rw [ht]
    rfl
  other := fun e _ => region_congr h.regions_eq e

theorem modRegion_only (f : Region → Region) : RegionOnly r s (modRegion r f s) := ⟨rfl, fun _ he => region_modRegion_other he⟩

theorem chan_modDma (hr : r < s.regions.length) {f : Dma → Dma} (hf : ∀ d, (f d).chans = d.chans) (ch : Nat) :
    chan (modDma r f s) r ch = chan s r ch :=
  chan_congr_region (by rw [dma_modDma hr, hf]) ch

theorem built_of_active (h : (chan s r ch).state = .active) : ch < (region s r).dma.chans.length := by
  by_contra hlen
  rw [chan, List.getD_eq_getElem?_getD, List.getElem?_eq_none (Nat.le_of_not_lt hlen)] at h
  cases h

/-! ## Requests that are presented -/

/-- Every request that is outstanding in `s` is outstanding in `t`. -/
def OutKept (s t : State) : Prop := ∀ a, ∀ q ∈ (port s a).out, q ∈ (port t a).out

theorem OutKept.refl (s : State) : OutKept s s := fun _ _ h => h

theorem OutKept.trans (h : OutKept s t) (k : OutKept t u) : OutKept s u := fun a q hq => k a q (h a q hq)

theorem OutKept.of_ports (h : t.ports = s.ports) : OutKept s t := fun a q hq => by
  rw [port, h]
  exact hq

theorem modPort_outKept (f : Port → Port) (hf : ∀ x, ∀ q ∈ x.out, q ∈ (f x).out) : OutKept s (modPort p f s) := fun a q hq => by
  rw [port_modPort]
  split
  · exact hf _ q hq
  · exact hq

theorem emit_outKept (o : Out) (s : State) : OutKept s (emit o s) := .of_ports rfl

theorem grant_out (x : Port) (wr dma : Bool) : (x.grant wr dma).out = x.out := by
  unfold Port.grant
  split <;> rfl

theorem grant_freeTag (x : Port) (wr dma : Bool) : freeTag (x.grant wr dma) wr = freeTag x wr := by
  unfold Port.grant
  split <;> rfl

theorem present_outKept (c : Nat) (b : Burst) (s : State) : OutKept s (present c b s) := by
  unfold present
  split
  · exact .refl s
  · exact (modPort_outKept _ fun x q hq => List.mem_append_left _ hq).trans (.of_ports rfl)

theorem drainCore_outKept (k c : Nat) : ∀ s : State, OutKept s (drainCore k c s) := by
  induction k with
  | zero => exact OutKept.refl
  | succ k ih =>
    intro s
    rw [drainCore]
    split
    · refine OutKept.trans (OutKept.trans (OutKept.trans (modPort_outKept _ ?_) (present_outKept _ _ _)) (modPort_outKept _ ?_)) (ih _)
      · exact fun _ _ hq => hq
      · exact fun x q hq => by rwa [grant_out]
    · split
      · refine OutKept.trans (OutKept.trans ?_ (modPort_outKept _ ?_)) (ih _)
        · exact fun a q hq => present_outKept _ _ _ a q hq
        · exact fun x q hq => by rwa [grant_out]
      · exact .refl s

theorem drainBeats_outKept (k c : Nat) : ∀ s : State, OutKept s (drainBeats k c s) := by
  induction k with
  | zero => exact OutKept.refl
  | succ k ih =>
    intro s
    rw [drainBeats]
    split
    · exact .refl s
    · split
      · refine OutKept.trans (OutKept.trans ?_ (emit_outKept _ _)) (ih _)
        exact modPort_outKept _ fun _ _ hq => hq
      · exact .refl s

theorem drainRegion_outKept (r : Nat) (s : State) : OutKept s (drainRegion r s) := by
  unfold drainRegion
  generalize regionPorts s r = l
  induction l generalizing s with
  | nil => exact .refl s
  | cons c l ih => exact OutKept.trans (OutKept.trans (drainCore_outKept _ _ _) (drainBeats_outKept _ _ _)) (ih _)

theorem present_request {b : Burst} {tag : Nat} (hp : p < s.ports.length) (h : freeTag (port s p) b.wr = some tag) :
    (⟨tag, b⟩ : Req) ∈ (port (present p b s) p).out := by
  simp only [present, h]
  refine (OutKept.of_ports rfl : OutKept (modPort p _ s) _) p _ ?_
  rw [port_modPort_same hp]
  exact List.mem_append_right _ (List.mem_singleton_self _)

/-! ## The port that is taken -/

theorem bestPort_canPresent {cs : List Nat} {wr : Bool} (h : bestPort s cs wr = some p) : canPresent s p wr = true := by
  have hmem : ∀ (l : List Nat) (best : Option Nat), l.foldl (fun best c =>
      match best with
      | none => some c
      | some d => if credits (port s d) wr < credits (port s c) wr then some c else some d) best = some p → p ∈ l ∨ best = some p := by
    intro l
    induction l with
    | nil => exact fun _ h => .inr h
    | cons c l ih =>
      intro best h
      rcases ih _ h with h | h
      · exact .inl (List.mem_cons_of_mem _ h)
      · cases best with
        | none => exact .inl (Option.some.inj h ▸ List.mem_cons_self)
        | some d =>
          dsimp only at h
          split at h
          · exact .inl (Option.some.inj h ▸ List.mem_cons_self)
          · exact .inr h
  rcases hmem _ _ h with h | h
  · exact (List.mem_filter.1 h).2
  · cases h

theorem canPresent_spec {wr : Bool} (h : canPresent s p wr = true) : p < s.ports.length ∧ ∃ tag, freeTag (port s p) wr = some tag := by
  simp only [canPresent, Bool.and_eq_true, decide_eq_true_eq, Option.isSome_iff_exists] at h
  obtain ⟨⟨-, hcredit⟩, htag⟩ := h
  refine ⟨?_, htag⟩
  by_contra hlen
  rw [port, List.getD_eq_getElem?_getD, List.getElem?_eq_none (Nat.le_of_not_lt hlen)] at hcredit
  cases wr <;> exact absurd hcredit (Nat.lt_irrefl 0)

/-! ## A burst of a channel -/

/-- The channel with one more burst under way. -/
def Chan.flying (k : FlightKind) (sp : Span) (len pos width : Nat) (c : Chan) : Chan :=
  { c with flights := c.flights ++ [⟨c.nextFlight, k, c.block, pos, len, width, sp.desc⟩], nextFlight := c.nextFlight + 1 }

theorem dmaPresent_only (k : FlightKind) (sp : Span) (len pos width : Nat) (data : List Byte) :
    RegionOnly r s (dmaPresent r ch p k sp len pos width data s) :=
  (modRegion_only _).trans (.of_quiet (present_quiet (modPort_quiet (.refl _))))

theorem dmaPresent_regions (k : FlightKind) (sp : Span) (len pos width : Nat) (data : List Byte) :
    (dmaPresent r ch p k sp len pos width data s).regions = (modChan r ch (Chan.flying k sp len pos width) s).regions :=
  (present_quiet (modPort_quiet (.refl _))).regions_eq

/-- The burst that is presented is outstanding on its port. -/
theorem dmaPresent_request {k : FlightKind} {tag : Nat} (hp : p < s.ports.length) (htag : freeTag (port s p) (k == .write) = some tag) (sp : Span) (len pos width : Nat)
    (data : List Byte) : ∃ q ∈ (port (dmaPresent r ch p k sp len pos width data s) p).out,
      q.burst = ⟨.dma r ch (chan s r ch).nextFlight, k == .write, sp.addr, len, 0, 0, data⟩ := by
  refine ⟨_, present_request (s := modPort p (fun x => x.grant (k == .write) true) (modChan r ch (Chan.flying k sp len pos width) s))
    (tag := tag) ?_ ?_, rfl⟩
  · exact (List.length_modify ..).trans_gt hp
  · rw [port_modPort_same (by exact hp), grant_freeTag]
    exact htag

/-- The arbiter remembers the channel that it has granted. -/
def Dma.granted (wr : Bool) (prio ch : Nat) (d : Dma) : Dma :=
  if wr then { d with lastWrite := modAt d.lastWrite prio (fun _ => ch) }
  else { d with lastRead := modAt d.lastRead prio (fun _ => ch) }

theorem Dma.granted_chans (wr : Bool) (prio ch : Nat) (d : Dma) : (d.granted wr prio ch).chans = d.chans := by
  unfold Dma.granted
  split <;> rfl

/-- The state in which the arbiter has granted a channel a burst. -/
def grantedTo (r ch : Nat) (wr : Bool) (s : State) : State := modDma r (Dma.granted wr (chan s r ch).prio ch) s

/-- A grant: the burst of a channel is presented, then the channel goes on by `f`, and then the ports of the region present what they
can. -/
theorem grant_spec (hr : r < s.regions.length) (hact : (chan s r ch).state = .active) {k : FlightKind} {wr : Bool} (hwr : (k == .write) = wr)
    (hport : canPresent s p wr = true) (sp : Span) (len pos width : Nat) (data : List Byte) (f : Chan → Chan) :
    let t := drainRegion r (modChan r ch f (dmaPresent r ch p k sp len pos width data (grantedTo r ch wr s)))
    RegionOnly r s t ∧ (∀ e, e ≠ ch → chan t r e = chan s r e) ∧ chan t r ch = f ((chan s r ch).flying k sp len pos width) ∧
      ∃ q ∈ (port t p).out, q.burst = ⟨.dma r ch (chan s r ch).nextFlight, wr, sp.addr, len, 0, 0, data⟩ := by
  subst hwr
  obtain ⟨hp, tag, htag⟩ := canPresent_spec hport
  have hsame (e : Nat) : chan (grantedTo r ch (k == .write) s) r e = chan s r e := chan_modDma hr (Dma.granted_chans _ _ _) e
  have hlen : r < (grantedTo r ch (k == .write) s).regions.length := by rwa [grantedTo, modDma_regions_length]
  have hregions := dmaPresent_regions (s := grantedTo r ch (k == .write) s) (r := r) (ch := ch) (p := p) k sp len pos width data
  have hch : ch < (region (grantedTo r ch (k == .write) s) r).dma.chans.length := built_of_active (by rwa [hsame])
  obtain ⟨q, hq, hburst⟩ := dmaPresent_request (s := grantedTo r ch (k == .write) s) (r := r) (ch := ch) (by exact hp) (by exact htag) sp len pos width data
  refine ⟨?_, fun e he => ?_, ?_, q, drainRegion_outKept _ _ _ _ ((OutKept.of_ports rfl) _ _ hq), by rw [hburst, hsame]⟩
  · exact (((modRegion_only _).trans (dmaPresent_only ..)).trans (modRegion_only _)).trans (.of_quiet (drainRegion_quiet (.refl _)))
  · rw [chan_congr drainRegion_regions, chan_modChan_other he, chan_congr hregions, chan_modChan_other he, hsame]
  · rw [chan_congr drainRegion_regions, chan_modChan_same, chan_congr hregions, chan_modChan_same hlen hch, hsame]
    · rwa [hregions, modChan_regions_length]
    · rwa [region_congr hregions, modChan_chans_length hlen]

/-! ## DMA_BURST_GRANT -/

theorem readReady_kind {c : Chan} {k : FlightKind} {sp : Span} {len : Nat} (h : readReady c = some (k, sp, len)) :
    (k == .write) = false ∧ c.state = .active := by
  unfold readReady at h
  split at h
  · cases h
  · next hact =>
    have hstate : c.state = .active := by simpa using hact
    split at h
    · cases h
      exact ⟨rfl, hstate⟩
    · dsimp only at h
      split at h
      · cases h
      · split at h
        · cases h
          exact ⟨rfl, hstate⟩
        · cases h

theorem writeReady_active {c : Chan} {x : Span × List Byte} (h : writeReady c = some x) : c.state = .active := by
  unfold writeReady at h
  split at h
  · cases h
  · next hact =>
    simp only [Bool.or_eq_true, not_or, bne_iff_ne, ne_eq, Decidable.not_not] at hact
    exact hact.1

/-- The channel once a write burst of it has been presented. -/
def Chan.wrote (units : Nat) (b : Block) (c : Chan) : Chan :=
  { c with
    dstIdx := c.dstIdx + units
    buf := c.buf.filter (fun x => (c.dstIdx + units) * b.dw < x.1 + x.2.length) }

/-- The channel once a read burst of it has been presented. -/
def Chan.asked (k : FlightKind) (units : Nat) (c : Chan) : Chan :=
  if k == .fetch then { c with fetchAt := none } else { c with srcIdx := c.srcIdx + units }

section
variable (hrun : s.rst = .run) (hr : r < s.regions.length) (hstop : (region s r).dma.stopped = false)
  (hdrain : (region s r).dma.draining = false)
include hrun hr hstop hdrain

theorem exec_dmaBurstGrant_write {sp : Span} {bytes : List Byte} (harb : arbiter (region s r).dma true = some ch)
    (hport : bestPort s (regionPorts s r) true = some p) (hready : writeReady (chan s r ch) = some (sp, bytes)) :
    exec (.dmaBurstGrant r true) s = .next (drainRegion r (modChan r ch (Chan.wrote sp.units (blockOf (chan s r ch).regs))
      (dmaPresent r ch p .write sp bytes.length ((chan s r ch).dstIdx * (blockOf (chan s r ch).regs).dw) (blockOf (chan s r ch).regs).dw
        bytes (grantedTo r ch true s)))) := by
  refine (inRun_of_run hrun).trans ?_
  dsimp only
  rw [if_neg (by simp [hr, hstop, hdrain]), harb, hport]
  dsimp only
  rw [hready]
  rfl

theorem exec_dmaBurstGrant_read {k : FlightKind} {sp : Span} {len : Nat} (harb : arbiter (region s r).dma false = some ch)
    (hport : bestPort s (regionPorts s r) false = some p) (hready : readReady (chan s r ch) = some (k, sp, len)) :
    exec (.dmaBurstGrant r false) s = .next (drainRegion r (modChan r ch (Chan.asked k sp.units)
      (dmaPresent r ch p k sp len (if k == .fetch then 0 else (chan s r ch).srcIdx * (blockOf (chan s r ch).regs).sw)
        (blockOf (chan s r ch).regs).sw [] (grantedTo r ch false s)))) := by
  refine (inRun_of_run hrun).trans ?_
  dsimp only
  rw [if_neg (by simp [hr, hstop, hdrain]), harb, hport]
  dsimp only
  rw [hready]
  cases k <;> rfl

end

/-! ## The end of a run -/

/-- The channel whose run has ended with a status and a cause. -/
def Chan.ended (status cause : Nat) (c : Chan) : Chan :=
  { c with
    state := .ending, status := status, cause := cause, blkf := if status = 0x16 then c.fault else 0
    outcome := some (status, cause) }

/-- The channel that has nothing more to do. -/
def Chan.rested (c : Chan) : Chan :=
  { c with state := .idle, running := false, fetchAt := none, node := none, recPh := .none, outcome := none }

/-- What the end of a run does: a node completes, a direct run writes its record or leaves the channel idle. -/
def runOver (r ch status cause : Nat) (s : State) : State :=
  let c := chan s r ch
  let s' := modChan r ch (Chan.ended status cause) s
  match c.node with
  | some n => completeNode n status cause (dmaIdle r ch s')
  | none =>
    if bit c.cfg.toNat 0 then
      drainRegion r (startWrite (.dmaRec r ch) (word64 c.cplLo c.cplHi + 4)
        ((dmaRecord r ch status cause ((region s' r).time % 2 ^ 32) c).drop 4) (modChan r ch (fun c => { c with recPh := .body }) s'))
    else dmaIdle r ch s'

theorem exec_dmaRunEnd {st ca : Nat} (hrun : s.rst = .run) (hr : r < s.regions.length) (hch : ch < 32)
    (hbusy : (chan s r ch).state ≠ .idle) (hflights : (chan s r ch).flights = []) (hrec : (chan s r ch).recPh = .none)
    (hculprit : ∀ x ∈ (region s r).dma.culprits, x.chan ≠ ch)
    (hout : (chan s r ch).outcome = some (st, ca) ∨ ((chan s r ch).outcome = none ∧ st = 0 ∧ ca = 0 ∧ blockDone (chan s r ch) = true ∧
      (blockOf (chan s r ch).regs).next = 0 ∧ (region s r).dma.draining = false ∧ (region s r).dma.stopped = false)) :
    exec (.dmaRunEnd r ch) s = .next (runOver r ch st ca s) := by
  have hopen : ¬ ((decide (s.regions.length ≤ r) || decide (32 ≤ ch) || (chan s r ch).state == .idle || !(chan s r ch).flights.isEmpty ||
      (chan s r ch).recPh != .none || (region s r).dma.culprits.any (fun x => x.chan == ch)) = true) := by
    have hidle : ((chan s r ch).state == .idle) = false := beq_eq_false_iff_ne.2 hbusy
    simpa [hr, hch, hidle, hflights, hrec] using hculprit
  refine (inRun_of_run hrun).trans ((if_neg hopen).trans ?_)
  rcases hout with h | ⟨h, rfl, rfl, hdone, hnext, hdrain, hstop⟩
  · rw [h]
    dsimp only [runOver]
    cases hnode : (chan s r ch).node with
    | some n => rfl
    | none => exact (apply_ite Host.Outcome.next _ _ _).symm
  · rw [h]
    dsimp only
    rw [if_pos (by simp [hdone, hnext, hdrain, hstop])]
    dsimp only [runOver]
    cases hnode : (chan s r ch).node with
    | some n => rfl
    | none => exact (apply_ite Host.Outcome.next _ _ _).symm

/-! ### The channel is idle again -/

theorem dmaIdle_eq (r ch : Nat) (s : State) : dmaIdle r ch s =
    if (chan s r ch).cfg.getLsbD 1 then modDma r (fun d => { d with event := setBit d.event ch }) (modChan r ch Chan.rested s)
    else modChan r ch Chan.rested s := rfl

theorem dmaIdle_frame (r ch : Nat) (s : State) : dmaIdle r ch s = { s with regions := (dmaIdle r ch s).regions } := by
  rw [dmaIdle_eq]
  split <;> rfl

theorem chan_dmaIdle (hr : r < s.regions.length) (hch : ch < (region s r).dma.chans.length) :
    chan (dmaIdle r ch s) r ch = (chan s r ch).rested := by
  have hlen : r < (modChan r ch Chan.rested s).regions.length := by rwa [modChan_regions_length]
  rw [dmaIdle_eq]
  split
  · refine (chan_modDma hlen ?_ ch).trans (chan_modChan_same hr hch _)
    exact fun _ => rfl
  · exact chan_modChan_same hr hch _

theorem event_dmaIdle (hr : r < s.regions.length) : (region (dmaIdle r ch s) r).dma.event =
    if (chan s r ch).cfg.getLsbD 1 then setBit (region s r).dma.event ch else (region s r).dma.event := by
  have hlen : r < (modChan r ch Chan.rested s).regions.length := by rwa [modChan_regions_length]
  rw [dmaIdle_eq]
  split
  · rw [dma_modDma hlen, dma_modChan hr]
  · rw [dma_modChan hr]

/-! ### What the run was for -/

theorem runOver_node {n : NodeRef} (st ca : Nat) (hnode : (chan s r ch).node = some n) :
    runOver r ch st ca s = completeNode n st ca (dmaIdle r ch (modChan r ch (Chan.ended st ca) s)) := by
  simp only [runOver, hnode]

theorem runOver_quiet (st ca : Nat) (hnode : (chan s r ch).node = none) (hcfg : (chan s r ch).cfg.getLsbD 0 = false) :
    runOver r ch st ca s = dmaIdle r ch (modChan r ch (Chan.ended st ca) s) := by
  have hbit : bit (chan s r ch).cfg.toNat 0 = false := hcfg
  simp only [runOver, hnode, hbit]
  rfl

theorem runOver_record (hr : r < s.regions.length) (st ca : Nat) (hnode : (chan s r ch).node = none)
    (hcfg : (chan s r ch).cfg.getLsbD 0 = true) : runOver r ch st ca s =
    drainRegion r (startWrite (.dmaRec r ch) (word64 (chan s r ch).cplLo (chan s r ch).cplHi + 4)
      ((dmaRecord r ch st ca ((region s r).time % 2 ^ 32) (chan s r ch)).drop 4)
      (modChan r ch (fun c => { c with
        state := .ending, status := st, cause := ca, blkf := if st = 0x16 then c.fault else 0, outcome := some (st, ca)
        recPh := .body }) s)) := by
  have hbit : bit (chan s r ch).cfg.toNat 0 = true := hcfg
  have htime : (region (modChan r ch (Chan.ended st ca) s) r).time = (region s r).time := by
    rw [modChan, modDma, region_modRegion_same hr]
  simp only [runOver, hnode, hbit, htime, modChan_modChan]
  rfl

theorem exec_recordSeqWrite_dma (hrun : s.rst = .run) (hrec : (chan s r ch).recPh = .bodyDone) :
    exec (.recordSeqWrite (.dma r ch)) s = .next (drainRegion r (startWrite (.dmaSeq r ch)
      (word64 (chan s r ch).cplLo (chan s r ch).cplHi) (leBytes 4 (chan s r ch).run.toNat)
      (modChan r ch (fun c => { c with recPh := .seq }) s))) :=
  (inRun_of_run hrun).trans (congrArg Host.Outcome.next (if_pos (by simp [hrec])))

end Sys2Proof.Machine

namespace Sys2Proof.Proofs
open Sys2Proof.Machine

/-- Settles O51: a grant presents the burst on the port that it takes (`grant_spec`), and the end of a run is one of three (`runOver`). -/
theorem dmaBursts : Obligations.DmaBursts := by
  intro s r hrun hr
  refine ⟨fun ch p sp bytes hstop hdrain harb hport hready => ?_, fun ch p k sp len hstop hdrain harb hport hready => ?_,
    fun ch st ca hch hlt hbusy hflights hrec hculprit hout => ?_, fun ch _ hrec => exec_recordSeqWrite_dma hrun hrec⟩
  · obtain ⟨honly, hother, hchan, hreq⟩ := grant_spec (k := .write) (wr := true) hr (writeReady_active hready) rfl (bestPort_canPresent hport) sp
      bytes.length ((chan s r ch).dstIdx * (blockOf (chan s r ch).regs).dw) (blockOf (chan s r ch).regs).dw bytes
      (Chan.wrote sp.units (blockOf (chan s r ch).regs))
    refine ⟨_, exec_dmaBurstGrant_write hrun hr hstop hdrain harb hport hready, honly.frame, honly.other, hother, ?_, ?_, hreq⟩
    · rw [hchan]
      rfl
    · rw [hchan]
      exact List.length_append
  · obtain ⟨hkind, hact⟩ := readReady_kind hready
    obtain ⟨honly, hother, hchan, hreq⟩ := grant_spec hr hact hkind (bestPort_canPresent hport) sp len
      (if k == .fetch then 0 else (chan s r ch).srcIdx * (blockOf (chan s r ch).regs).sw) (blockOf (chan s r ch).regs).sw []
      (Chan.asked k sp.units)
    refine ⟨_, exec_dmaBurstGrant_read hrun hr hstop hdrain harb hport hready, honly.frame, honly.other, hother, ?_, fun hfetch => ?_, hreq⟩
    · rw [hchan]
      by_cases hfetch : k = .fetch
      · subst hfetch
        rfl
      · rw [if_neg hfetch, Chan.asked, if_neg (by simpa using hfetch)]
        rfl
    · subst hfetch
      rw [hchan]
      rfl
  · have hexec := exec_dmaRunEnd hrun hr hlt hbusy hflights hrec hculprit hout
    have hlen : r < (modChan r ch (Chan.ended st ca) s).regions.length := by rwa [modChan_regions_length]
    have hlen' : ch < (region (modChan r ch (Chan.ended st ca) s) r).dma.chans.length := by rwa [modChan_chans_length hr]
    have hchan : chan (dmaIdle r ch (modChan r ch (Chan.ended st ca) s)) r ch = ((chan s r ch).ended st ca).rested := by
      rw [chan_dmaIdle hlen hlen', chan_modChan_same hr hch]
    refine ⟨fun hnode hcfg => hexec.trans (congrArg _ (runOver_record hr st ca hnode hcfg)), fun hnode hcfg => ?_, fun n m hnode hm hstat => ?_⟩
    · refine ⟨_, hexec.trans (congrArg _ (runOver_quiet st ca hnode hcfg)), dmaIdle_frame _ _ _, ?_⟩
      rw [hchan, event_dmaIdle hlen, chan_modChan_same hr hch, dma_modChan hr]
      exact ⟨rfl, rfl, rfl, rfl, rfl, rfl⟩
    · rw [runOver_node st ca hnode] at hexec
      have hframe := completeNode_frame n st ca (dmaIdle r ch (modChan r ch (Chan.ended st ca) s))
      have hidle := dmaIdle_frame r ch (modChan r ch (Chan.ended st ca) s)
      have hnodes : nodeOf (dmaIdle r ch (modChan r ch (Chan.ended st ca) s)) n = some m :=
        (nodeOf_congr (by rw [hidle]; rfl) n).trans hm
      obtain ⟨m', hm', hended⟩ := completeNode_ended (status := st) (cause := ca) hnodes hstat
      refine ⟨_, m', hexec, ?_, ?_, hm', hended⟩
      · rw [hframe, hidle]
        rfl
      · rw [hframe]
        exact congrArg Chan.state hchan

end Sys2Proof.Proofs
end

section
/-! PROOFS. Link ports and sessions: what an update of one changes, what the work of a session leaves alone, and the commands of ports and
sessions (11_link_codec.md). -/

namespace Sys2Proof.Machine

variable {s s₀ t u : State} {p i : Nat}

/-! ## Updates of a port and of a session -/

theorem linkPort_modLnk_same (hp : p < s.lnk.length) (f : LinkPort → LinkPort) : linkPort (modLnk p f s) p = f (linkPort s p) :=
  (linkPort_modLnk p p f).trans (if_pos ⟨rfl, hp⟩)

theorem linkPort_modLnk_other {q : Nat} (h : q ≠ p) (f : LinkPort → LinkPort) : linkPort (modLnk p f s) q = linkPort s q :=
  (linkPort_modLnk p q f).trans (if_neg fun hpq => h hpq.1.symm)

theorem modLnk_modLnk (p : Nat) (f g : LinkPort → LinkPort) (s : State) : modLnk p g (modLnk p f s) = modLnk p (fun l => g (f l)) s := by
  simp only [modLnk, modAt_modAt]

theorem modSess_modSess (p i : Nat) (f g : Session → Session) (s : State) :
    modSess p i g (modSess p i f s) = modSess p i (fun x => g (f x)) s := by
  simp only [modSess, modLnk_modLnk, modAt_modAt]

theorem linkPort_congr (h : t.lnk = s.lnk) (q : Nat) : linkPort t q = linkPort s q := by rw [linkPort, linkPort, h]

theorem session_congr (h : t.lnk = s.lnk) (q j : Nat) : session t q j = session s q j := by rw [session, session, linkPort_congr h]

theorem session_modLnk {f : LinkPort → LinkPort} (hf : ∀ l, (f l).sessions = l.sessions) (q j : Nat) :
    session (modLnk p f s) q j = session s q j := by
  rw [session, linkPort_modLnk]
  split
  · rw [hf]
    rfl
  · rfl

theorem session_modSess (f : Session → Session) (q j : Nat) : session (modSess p i f s) q j =
    if (p = q ∧ q < s.lnk.length) ∧ i = j ∧ j < (linkPort s q).sessions.length then f (session s q j) else session s q j := by
  rw [session, modSess, linkPort_modLnk]
  by_cases hq : p = q ∧ q < s.lnk.length
  · rw [if_pos hq, getD_modAt]
    simp only [hq, true_and]
    rfl
  · rw [if_neg hq, if_neg fun h => hq h.1]
    rfl

theorem session_modSess_same (hp : p < s.lnk.length) (hi : i < (linkPort s p).sessions.length) (f : Session → Session) :
    session (modSess p i f s) p i = f (session s p i) :=
  (session_modSess f p i).trans (if_pos ⟨⟨rfl, hp⟩, rfl, hi⟩)

theorem session_modSess_other {q j : Nat} (h : q ≠ p ∨ j ≠ i) (f : Session → Session) : session (modSess p i f s) q j = session s q j := by
  refine (session_modSess f q j).trans (if_neg ?_)
  rintro ⟨⟨rfl, -⟩, rfl, -⟩
  simp at h

theorem modSess_sessions_length (f : Session → Session) (q : Nat) :
    (linkPort (modSess p i f s) q).sessions.length = (linkPort s q).sessions.length := by
  rw [modSess, linkPort_modLnk]
  split
  · exact List.length_modify ..
  · rfl

@[simp] theorem modLnk_lnk_length (f : LinkPort → LinkPort) : (modLnk p f s).lnk.length = s.lnk.length := List.length_modify ..

@[simp] theorem modSess_lnk_length (f : Session → Session) : (modSess p i f s).lnk.length = s.lnk.length := List.length_modify ..

theorem modLnk_eq_self {f : LinkPort → LinkPort} (h : f (linkPort s p) = linkPort s p) : modLnk p f s = s := by
  have hl : modAt s.lnk p f = s.lnk := modAt_eq_self fun l hl => by
    rwa [linkPort, List.getD_eq_getElem?_getD, hl] at h
  rw [modLnk, hl]

/-- An update that gives a session what it holds changes nothing. -/
theorem modSess_eq_self {f : Session → Session} (h : f (session s p i) = session s p i) : modSess p i f s = s := by
  refine modLnk_eq_self ?_
  have hl : modAt (linkPort s p).sessions i f = (linkPort s p).sessions := modAt_eq_self fun x hx => by
    rwa [session, List.getD_eq_getElem?_getD, hx] at h
  rw [hl]

/-- An update of a session may look at the session that it finds. -/
theorem modSess_const (f : Session → Session) : modSess p i f s = modSess p i (fun _ => f (session s p i)) s := by
  rw [modSess, modSess, modLnk, modLnk, modAt_const _ _ _ LinkPort.reset, modAt_const s.lnk p (fun l => { l with
    sessions := modAt l.sessions i (fun _ => f (session s p i)) }) LinkPort.reset, modAt_const _ i f Session.reset]
  rfl

theorem cntSat_zero (w : Word) : cntSat w 0 = w := by
  have hw := w.isLt
  rw [cntSat, satAdd32, Nat.add_zero, Nat.min_eq_left (by omega), BitVec.ofNat_toNat, BitVec.setWidth_eq]

/-! ## What the work of a session leaves alone -/

/-- From `s` to `t` session `i` of port `p` has changed, and what ports have to send; nothing else. -/
structure SessOnly (p i : Nat) (s t : State) : Prop where
  frame : t = { s with lnk := t.lnk }
  built : t.lnk.length = s.lnk.length
  ports : ∀ q, linkPort t q =
    { linkPort s q with sessions := (linkPort t q).sessions, txq := (linkPort t q).txq, txDrop := (linkPort t q).txDrop }
  count : ∀ q, (linkPort t q).sessions.length = (linkPort s q).sessions.length
  other : ∀ q j, q ≠ p ∨ j ≠ i → session t q j = session s q j

namespace SessOnly

theorem refl (p i : Nat) (s : State) : SessOnly p i s s := ⟨rfl, rfl, fun _ => rfl, fun _ => rfl, fun _ _ _ => rfl⟩

theorem trans (h : SessOnly p i s t) (k : SessOnly p i t u) : SessOnly p i s u where
  frame := by
    have hu := k.frame
    rw [h.frame] at hu
    exact hu
  built := k.built.trans h.built
  ports := fun q => by
    have hu := k.ports q
    rw [h.ports q] at hu
    exact hu
  count := fun q => (k.count q).trans (h.count q)
  other := fun q j hj => (k.other q j hj).trans (h.other q j hj)

theorem modSess (h : SessOnly p i s₀ s) (f : Session → Session) : SessOnly p i s₀ (modSess p i f s) := by
  refine h.trans ⟨rfl, modSess_lnk_length f, fun q => ?_, modSess_sessions_length f, fun q j hj => session_modSess_other hj f⟩
  rw [Machine.modSess, linkPort_modLnk]
  split <;> rfl

theorem modLnk (h : SessOnly p i s₀ s) {q : Nat} {f : LinkPort → LinkPort}
    (hf : ∀ l, f l = { l with txq := (f l).txq, txDrop := (f l).txDrop }) : SessOnly p i s₀ (modLnk q f s) := by
  have hsessions (l : LinkPort) : (f l).sessions = l.sessions := by rw [hf]
  refine h.trans ⟨rfl, modLnk_lnk_length f, fun a => ?_, fun a => ?_, fun a j _ => session_modLnk hsessions a j⟩
  · rw [linkPort_modLnk]
    split
    · rw [hf]
    · rfl
  · rw [linkPort_modLnk]
    split
    · rw [hsessions]
    · rfl

theorem sendFrame (h : SessOnly p i s₀ s) (q : Nat) (f : TxFrame) : SessOnly p i s₀ (sendFrame q f s) := by
  unfold Machine.sendFrame
  dsimp only
  split
  · exact h
  · split
    · exact h.modLnk fun _ => rfl
    · exact h.modLnk fun _ => rfl

theorem encodeFrame (h : SessOnly p i s₀ s) (last : Bool) : SessOnly p i s₀ (encodeFrame p i last s) := by
  unfold Machine.encodeFrame
  dsimp only
  split
  · exact (h.modSess _).sendFrame _ _
  · exact (h.modSess _).sendFrame _ _

theorem gatherFurrow (h : SessOnly p i s₀ s) (vals : List Val) (counted last : Bool) :
    SessOnly p i s₀ (gatherFurrow p i vals counted last s) := by
  unfold Machine.gatherFurrow
  dsimp only
  split
  · exact (h.modSess _).encodeFrame _
  · exact h.modSess _

theorem furrowDone (h : SessOnly p i s₀ s) : SessOnly p i s₀ (furrowDone p i s) := h.modSess _

theorem deliver (h : SessOnly p i s₀ s) (vals : List (Option Q)) : SessOnly p i s₀ (deliver p i vals s) := h.modSess _

theorem reduceFurrow (h : SessOnly p i s₀ s) (vs : List (Option Q)) (ps : List Val) (counted : Bool) :
    SessOnly p i s₀ (reduceFurrow p i vs ps counted s) := by
  unfold Machine.reduceFurrow
  dsimp only
  split
  · exact ((h.gatherFurrow _ _ _).deliver _).furrowDone
  · exact (h.deliver _).furrowDone

theorem reduceWork (force : Bool) (fuel : Nat) : ∀ {s : State}, SessOnly p i s₀ s → SessOnly p i s₀ (reduceWork p i force fuel s) := by
  induction fuel with
  | zero => exact fun h => h
  | succ fuel ih =>
    intro s h
    have huse (f : Session → Session) (vs : List (Option Q)) (ps : List Val) (counted : Bool) :
        SessOnly p i s₀ (Machine.reduceWork p i force fuel (Machine.reduceFurrow p i vs ps counted (Machine.modSess p i f s))) :=
      ih ((h.modSess f).reduceFurrow vs ps counted)
    rw [Machine.reduceWork]
    dsimp only
    split
    · exact h
    · exact ih (h.modSess _)
    · split
      · exact h
      · exact huse _ _ _ _
    · split
      · exact h
      · split
        · exact huse _ _ _ _
        · exact huse _ _ _ _

theorem reduceAll (h : SessOnly p i s₀ s) : SessOnly p i s₀ (reduceAll p i s) := reduceWork false _ h

theorem relayLost (n : Nat) : ∀ {s : State}, SessOnly p i s₀ s → SessOnly p i s₀ (relayLost p i n s) := by
  induction n with
  | zero => exact fun h => h
  | succ n ih =>
    intro s h
    rw [Machine.relayLost]
    dsimp only
    refine ih (SessOnly.furrowDone (SessOnly.deliver ?_ _))
    split
    · split
      · exact ((h.modSess _).modSess _).sendFrame _ _
      · exact (h.modSess _).modSess _
    · exact h.modSess _

theorem loseFurrows (h : SessOnly p i s₀ s) (n : Nat) : SessOnly p i s₀ (loseFurrows p i n s) := by
  unfold Machine.loseFurrows
  dsimp only
  split
  · exact h
  · split
    · exact relayLost n (h.modSess _)
    · exact ((h.modSess _).modSess _).reduceAll

theorem loseTile (h : SessOnly p i s₀ s) : SessOnly p i s₀ (loseTile p i s) := h.loseFurrows _

theorem disarmSession (h : SessOnly p i s₀ s) : SessOnly p i s₀ (disarmSession p i s) := by
  unfold Machine.disarmSession
  dsimp only
  refine SessOnly.modSess ?_ _
  split
  · exact h.modSess _
  · refine SessOnly.modSess (reduceWork true _ ?_) _
    split
    · exact h.loseTile
    · exact h

end SessOnly

end Sys2Proof.Machine
end

section
/-! PROOFS. The commands of link ports and of their sessions, and the exchange's configuration (11_link_codec.md). -/

namespace Sys2Proof.Machine

variable {s s₀ t u : State} {p i : Nat}

theorem lnkBuilt_lt (h : lnkBuilt s p = true) : p < s.lnk.length := of_decide_eq_true h

/-! ## Ports -/

section
variable (hrun : s.rst = .run) (hp : lnkBuilt s p = true)
include hrun hp

theorem exec_lnkAliveToggle (h : (linkPort s p).inReset = false) : exec (.lnkAliveToggle p) s = .next (
    emit (.lnkAlive p (!(linkPort s p).alive)) (modLnk p (fun l => { l with alive := !l.alive }) s)) :=
  (inRun_of_run hrun).trans (if_neg (by simp [hp, h]))

theorem exec_lnkPartnerLost_idle (h : (linkPort s p).inReset = true ∨ (linkPort s p).lost = true) :
    exec (.lnkPartnerLost p) s = .next s :=
  (inRun_of_run hrun).trans (if_pos (by simpa [hp] using h))

theorem exec_lnkPartnerReturn : exec (.lnkPartnerReturn p) s = .next (modLnk p (fun l => { l with lost := false }) s) :=
  (inRun_of_run hrun).trans (if_pos hp)

theorem exec_lnkPortResetAssert (h : (linkPort s p).inReset = false) : exec (.lnkPortResetAssert p) s = .next (lnkReset p s) :=
  (inRun_of_run hrun).trans (if_neg (by simp [hp, h]))

theorem exec_lnkPortResetRelease (h : (linkPort s p).inReset = true) (fails : List Nat) : exec (.lnkPortResetRelease p fails) s = .next (
    fails.foldl (fun u row => logEvent 0x75 3 0 p noCtx (p * 2 ^ 16 + 3) row u)
      (modLnk p (fun l => { l with inReset := false, failed := l.failed || !fails.isEmpty }) s)) :=
  (inRun_of_run hrun).trans (if_neg (by simp [hp, h]))

theorem exec_lnkPClrCounters : exec (.lnkPClrCounters p) s = .next (
    modLnk p (fun l => { l with txFrames := 0, rxFrames := 0, bad := 0, unk := 0, stale := 0, txDrop := 0 }) (emit (.cpAck false) s)) :=
  (inRun_of_run hrun).trans (congrArg Host.Outcome.next (if_pos hp))

end

/-- A session that holds nothing and whose tile is not open. -/
def Session.Empty (x : Session) : Prop := x.rxq = [] ∧ x.loc = [] ∧ x.rxNext = 0

/-- A session that holds nothing loses nothing with its partner. -/
theorem dropHeld_empty (h : (session s p i).Empty) : dropHeld p i s = s := by
  refine modSess_eq_self ?_
  rw [loseHeld, h.1]
  simp [strikeHeld, heldFurrows, heldPoisoned, cntSat_zero, ← h.1]

theorem tileOpen_empty {x : Session} (h : x.Empty) : tileOpen x = false := by simp [tileOpen, h.2.1, h.2.2]

theorem loseOpen_empty (h : (session s p i).Empty) (fuel : Nat) : loseOpen p i fuel s = s := by
  cases fuel with
  | zero => rfl
  | succ fuel => exact if_neg (by simp [tileOpen_empty h])

theorem session_mem_or_reset (s : State) (p i : Nat) : session s p i ∈ (linkPort s p).sessions ∨ session s p i = Session.reset := by
  by_cases h : i < (linkPort s p).sessions.length
  · left
    rw [session, List.getD_eq_getElem?_getD, List.getElem?_eq_getElem h]
    exact List.getElem_mem h
  · right
    rw [session, List.getD_eq_getElem?_getD, List.getElem?_eq_none (Nat.le_of_not_lt h)]
    rfl

/-- What the loss of a partner does to a session. -/
def sessionLost (p : Nat) (s : State) (i : Nat) : State :=
  let s := dropHeld p i s
  let x := session s p i
  if x.receives then loseOpen p i (x.loc.length + 2) s else s

theorem sessionLost_empty (h : (session s p i).Empty) : sessionLost p s i = s := by
  simp only [sessionLost, dropHeld_empty h, loseOpen_empty h, ite_self]

theorem foldl_sessionLost_empty (h : ∀ i, (session s p i).Empty) (l : List Nat) : l.foldl (sessionLost p) s = s := by
  induction l with
  | nil => rfl
  | cons i l ih => rw [List.foldl_cons, sessionLost_empty (h i), ih]

/-- The port whose partner is lost. -/
def LinkPort.forsaken (l : LinkPort) : LinkPort :=
  { l with lost := true, lostSeen := true, txq := [], txDrop := cntSat l.txDrop l.txq.length }

theorem exec_lnkPartnerLost (hrun : s.rst = .run) (hp : lnkBuilt s p = true) (hreset : (linkPort s p).inReset = false)
    (hlost : (linkPort s p).lost = false) (hempty : ∀ x ∈ (linkPort s p).sessions, x.Empty) :
    exec (.lnkPartnerLost p) s = .next (logEvent 0x30 3 0 p noCtx 0 0 (modLnk p LinkPort.forsaken s)) := by
  have hlnk : (logEvent 0x30 3 0 p noCtx 0 0 (modLnk p LinkPort.forsaken s)).lnk = (modLnk p LinkPort.forsaken s).lnk :=
    (logEvent_quiet (.refl _)).lnk_eq
  have hall (i : Nat) : (session (logEvent 0x30 3 0 p noCtx 0 0 (modLnk p LinkPort.forsaken s)) p i).Empty := by
    rw [session_congr hlnk, session_modLnk (f := LinkPort.forsaken) fun _ => rfl]
    rcases session_mem_or_reset s p i with h | h
    · exact hempty _ h
    · rw [h]
      exact ⟨rfl, rfl, rfl⟩
  refine (inRun_of_run hrun).trans ((if_neg (by simp [hp, hreset, hlost])).trans ?_)
  exact congrArg Host.Outcome.next (foldl_sessionLost_empty hall _)

/-! ### Reset -/

/-- What a reset does to a session. -/
def sessionReset (p : Nat) (s : State) (i : Nat) : State :=
  if (session s p i).state == .idle then s
  else modSess p i (fun x => { x with loss := true }) (if (session s p i).state == .armed then disarmSession p i s else s)

/-- The port in reset. -/
def LinkPort.resetNow (l : LinkPort) : LinkPort := { l with inReset := true, txq := [], alive := false }

theorem lnkReset_eq (p : Nat) (s : State) : lnkReset p s =
    let u := (List.range 16).foldl (sessionReset p) s
    if (linkPort u p).alive then emit (.lnkAlive p false) (modLnk p LinkPort.resetNow u) else modLnk p LinkPort.resetNow u := rfl

theorem sessionReset_idle (h : (session s p i).state = .idle) : sessionReset p s i = s := if_pos (by simp [h])

theorem foldl_sessionReset_idle (h : ∀ i, (session s p i).state = .idle) (l : List Nat) : l.foldl (sessionReset p) s = s := by
  induction l with
  | nil => rfl
  | cons i l ih => rw [List.foldl_cons, sessionReset_idle (h i), ih]

theorem sessionReset_only (p i : Nat) (s : State) : SessOnly p i s (sessionReset p s i) := by
  unfold sessionReset
  split
  · exact .refl p i s
  · split
    · exact (SessOnly.refl p i s).disarmSession.modSess _
    · exact (SessOnly.refl p i s).modSess _

/-- The resets of some sessions: what the port and its other sessions keep. -/
theorem foldl_sessionReset (p : Nat) (l : List Nat) : ∀ s : State,
    let t := l.foldl (sessionReset p) s
    t.lnk.length = s.lnk.length ∧ (linkPort t p).inReset = (linkPort s p).inReset ∧ (linkPort t p).lost = (linkPort s p).lost ∧
      (linkPort t p).sessions.length = (linkPort s p).sessions.length ∧ ∀ j ∉ l, session t p j = session s p j := by
  induction l with
  | nil => exact fun _ => ⟨rfl, rfl, rfl, rfl, fun _ _ => rfl⟩
  | cons i l ih =>
    intro s
    have honly := sessionReset_only p i s
    obtain ⟨hbuilt, hreset, hlost, hcount, hother⟩ := ih (sessionReset p s i)
    have hport := honly.ports p
    refine ⟨hbuilt.trans honly.built, hreset.trans (by rw [hport]), hlost.trans (by rw [hport]), hcount.trans (honly.count p), fun j hj => ?_⟩
    obtain ⟨hji, hjl⟩ := not_or.1 (mt List.mem_cons.2 hj)
    exact (hother j hjl).trans (honly.other p j (.inr hji))

/-- The session that sends, once it is disarmed (R306). -/
def Session.disarmed (x : Session) : Session :=
  { x with
    state := .ending, loc := [], locLost := [], enc := []
    loss := x.loss || !x.loc.isEmpty || !x.enc.isEmpty || decide (0 < x.doneF) }

theorem disarmSession_send (h : (session s p i).mode = 0) : disarmSession p i s = modSess p i Session.disarmed s := by
  unfold disarmSession
  dsimp only
  rw [if_pos h, modSess_modSess]
  rfl

theorem disarmSession_empty (h : (session s p i).mode ≠ 0) (hempty : (session s p i).Empty) : disarmSession p i s =
    modSess p i (fun x => { x with loc := [], locLost := [], rxq := [], enc := [], state := .ending }) s := by
  unfold disarmSession
  dsimp only
  rw [if_neg h, if_neg (by simp [tileOpen_empty hempty]), hempty.1]
  exact modSess_modSess ..

theorem sessionReset_send (hp : p < s.lnk.length) (hi : i < (linkPort s p).sessions.length) (harmed : (session s p i).state = .armed)
    (hmode : (session s p i).mode = 0) :
    session (sessionReset p s i) p i = { (session s p i).disarmed with loss := true } := by
  rw [sessionReset, if_neg (by simp [harmed]), if_pos (by simp [harmed]), disarmSession_send hmode, modSess_modSess,
    session_modSess_same hp hi]

theorem foldl_sessionReset_send (hi : i < (linkPort s p).sessions.length) (harmed : (session s p i).state = .armed)
    (hmode : (session s p i).mode = 0) (l : List Nat) : ∀ {u : State}, p < u.lnk.length →
    (linkPort u p).sessions.length = (linkPort s p).sessions.length → session u p i = session s p i → i ∈ l → l.Nodup →
    session (l.foldl (sessionReset p) u) p i = { (session s p i).disarmed with loss := true } := by
  induction l with
  | nil => exact fun _ _ _ h => absurd h List.not_mem_nil
  | cons a l ih =>
    intro u hp hcount hsame hmem hl
    obtain ⟨ha, hl⟩ := List.nodup_cons.1 hl
    have honly := sessionReset_only p a u
    rw [List.foldl_cons]
    by_cases hai : i = a
    · subst hai
      obtain ⟨-, -, -, -, hother⟩ := foldl_sessionReset p l (sessionReset p u i)
      rw [hother i ha, sessionReset_send hp (by rwa [hcount]) (by rwa [hsame]) (by rwa [hsame]), hsame]
    · exact ih (by rwa [honly.built]) ((honly.count p).trans hcount) ((honly.other p i (.inr hai)).trans hsame)
        ((List.mem_cons.1 hmem).resolve_left hai) hl

/-- A session that sends is disarmed by the reset of its port, with LOSS set. -/
theorem lnkReset_send (hp : p < s.lnk.length) (hi : i < (linkPort s p).sessions.length) (hi16 : i < 16)
    (harmed : (session s p i).state = .armed) (hmode : (session s p i).mode = 0) :
    session (lnkReset p s) p i = { (session s p i).disarmed with loss := true } ∧ i < (linkPort (lnkReset p s) p).sessions.length ∧
      (linkPort (lnkReset p s) p).inReset = true ∧ (linkPort (lnkReset p s) p).lost = (linkPort s p).lost := by
  obtain ⟨hbuilt, -, hlost, hcount, -⟩ := foldl_sessionReset p (List.range 16) s
  have hsess := foldl_sessionReset_send hi harmed hmode (List.range 16) hp rfl rfl (List.mem_range.2 hi16) List.nodup_range
  rw [lnkReset_eq]
  generalize (List.range 16).foldl (sessionReset p) s = v at hbuilt hlost hcount hsess
  have hport : linkPort (modLnk p LinkPort.resetNow v) p = (linkPort v p).resetNow := linkPort_modLnk_same (by rwa [hbuilt]) _
  have hdone : session (modLnk p LinkPort.resetNow v) p i = { (session s p i).disarmed with loss := true } ∧
      i < (linkPort (modLnk p LinkPort.resetNow v) p).sessions.length ∧ (linkPort (modLnk p LinkPort.resetNow v) p).inReset = true ∧
      (linkPort (modLnk p LinkPort.resetNow v) p).lost = (linkPort s p).lost := by
    rw [session_modLnk (f := LinkPort.resetNow) fun _ => rfl, hport]
    exact ⟨hsess, hcount.symm ▸ hi, rfl, hlost⟩
  dsimp only
  split
  · exact hdone
  · exact hdone

/-! ## The configuration of the exchange -/

theorem exec_lnkAgrCfgWrite_misaligned (hrun : s.rst = .run) {off : BitVec 12} (h : off.toNat % 4 ≠ 0) (v : Word) :
    exec (.lnkAgrCfgWrite off v) s = .next (emit (.cpAck true) s) :=
  (inRun_of_run hrun).trans (if_pos (by simpa using h))

theorem exec_lnkAgrCfgWrite (hrun : s.rst = .run) {off : BitVec 12} (h : off.toNat % 4 = 0) (v : Word) :
    exec (.lnkAgrCfgWrite off v) s = .next (agrCfgWrite off.toNat v (emit (.cpAck false) s)) :=
  (inRun_of_run hrun).trans (if_neg (by simp [h]))

theorem agrCfgWrite_held {off : Nat} (hoff : off ∈ ([0x100, 0x104, 0x108, 0x10C] : List Nat)) (h : s.exch.buf ≠ []) (v : Word) :
    agrCfgWrite off v s = agrDrop s := by
  have hc : ([0x100, 0x104, 0x108, 0x10C] : List Nat).contains off = true := List.contains_iff_mem.2 hoff
  unfold agrCfgWrite
  rw [if_neg (by rw [hc]; decide), if_pos (by simpa using h)]

theorem agrCfgWrite_cfg0 (h : s.exch.buf = []) (v : Word) : agrCfgWrite 0x100 v s =
    let first := bit v.toNat 31 && agrRefused s && !s.exch.refLogged
    let u := modExch (fun e => { e with cfg0 := v &&& 0x80001F1F, refLogged := e.refLogged || first }) s
    if first then logEvent 0x31 0 0 0 noCtx (s.dieIndex.toNat * 16 + s.dieCountM1.toNat) 0 u else u := by
  rw [agrCfgWrite, if_neg (by decide), if_neg (by simp [h])]
  rfl

theorem agrCfgWrite_cfg1 (h : s.exch.buf = []) (v : Word) : agrCfgWrite 0x104 v s = modExch (fun e => { e with cfg1 := v &&& 0x8FFF1F1F }) s :=
  (if_neg (by decide)).trans (if_neg (by simp [h]))

theorem agrCfgWrite_pos1 (h : s.exch.buf = []) (v : Word) : agrCfgWrite 0x108 v s = modExch (fun e => { e with pos1 := v &&& 0xFFF }) s :=
  (if_neg (by decide)).trans (if_neg (by simp [h]))

theorem agrCfgWrite_tag (h : s.exch.buf = []) (v : Word) : agrCfgWrite 0x10C v s = modExch (fun e => { e with tag := v }) s :=
  (if_neg (by decide)).trans (if_neg (by simp [h]))

/-! ## The commands of a session -/

theorem sessBuilt_lt (h : sessBuilt s p i = true) : p < s.lnk.length := lnkBuilt_lt (Bool.and_eq_true_iff.1 h).1

section
variable (hrun : s.rst = .run) (hb : sessBuilt s p i = true)
include hrun hb

theorem exec_lnkArm : exec (.lnkArm p i) s = .next (sessCtrl p i true false (emit (.cpAck false) s)) :=
  (inRun_of_run hrun).trans (congrArg Host.Outcome.next (if_pos hb))

theorem exec_lnkDisarm : exec (.lnkDisarm p i) s = .next (sessCtrl p i false true (emit (.cpAck false) s)) :=
  (inRun_of_run hrun).trans (congrArg Host.Outcome.next (if_pos hb))

theorem exec_lnkSessionIdle (hstate : (session s p i).state = .ending) (hdq : (session s p i).dq = [])
    (htx : ∀ l ∈ s.lnk, ∀ f ∈ l.txq, ¬ (f.port = p ∧ f.session = i)) :
    exec (.lnkSessionIdle p i) s = .next (modSess p i (fun x => { x with state := .idle }) s) := by
  refine (inRun_of_run hrun).trans (if_pos ?_)
  have hnone : s.lnk.any (fun l => l.txq.any (fun f => f.port == p && f.session == i)) = false := by
    rw [List.any_eq_false]
    exact fun l hl => by simpa using htx l hl
  simp [hb, hstate, hdq, hnone]

omit hb in
theorem exec_lnkSessionIdle_busy (h : (session s p i).state ≠ .ending ∨ (session s p i).dq ≠ []) :
    exec (.lnkSessionIdle p i) s = .next s := by
  refine (inRun_of_run hrun).trans (if_neg ?_)
  rcases h with h | h <;> simp [h]

end

theorem sessCtrl_arm (hidle : (session s p i).state = .idle) (h : armError s p i = 0) :
    sessCtrl p i true false s = modSess p i (armSession s) s := by
  simp only [sessCtrl, hidle, h]
  rfl

theorem sessCtrl_arm_refused (hidle : (session s p i).state = .idle) (h : armError s p i ≠ 0) :
    sessCtrl p i true false s = modSess p i (fun x => { x with armErr := armError s p i }) s := by
  simp only [sessCtrl, hidle, h]
  rfl

theorem sessCtrl_arm_busy (h : (session s p i).state ≠ .idle) :
    sessCtrl p i true false s = modSess p i (fun x => { x with seqErr := true }) s := if_pos (by simpa using h)

theorem sessCtrl_disarm_idle (h : (session s p i).state = .idle) :
    sessCtrl p i false true s = modSess p i (fun x => { x with seqErr := true }) s := if_pos (by simpa using h)

theorem sessCtrl_disarm (h : (session s p i).state = .armed) : sessCtrl p i false true s = disarmSession p i s := by
  simp only [sessCtrl, h]
  rfl

theorem sessCtrl_disarm_ending (h : (session s p i).state = .ending) : sessCtrl p i false true s = s := by
  simp only [sessCtrl, h]
  rfl

/-- A reserved mode or a reserved bit refuses an ARM before anything else does. -/
theorem armError_reserved (h : (session s p i).mode = 3 ∨ (session s p i).cfg &&& 0x7E0FCFC ≠ 0 ∨ (session s p i).fmt &&& 0xF0000000 ≠ 0) :
    armError s p i = 1 := by
  have hcfg : ~~~ sessCfgBits = (0x7E0FCFC : Word) := by decide
  have hfmt : ~~~ sessFmtBits = (0xF0000000 : Word) := by decide
  refine if_pos ?_
  rw [hcfg, hfmt]
  simpa [or_assoc] using h

end Sys2Proof.Machine

namespace Sys2Proof.Proofs
open Sys2Proof.Machine

/-- Settles O57: a session that holds nothing loses nothing with its partner (`sessionLost_empty`), and a reset goes over the sessions one by
one and leaves the others alone (`foldl_sessionReset`). -/
theorem linkPorts : Obligations.LinkPorts := by
  refine ⟨fun s p hrun hp => ⟨exec_lnkAliveToggle hrun hp, exec_lnkPartnerLost hrun hp, exec_lnkPartnerLost_idle hrun hp,
    exec_lnkPartnerReturn hrun hp, fun hreset hidle => ?_, fun hreset i x hx hi harmed hmode => ?_, exec_lnkPortResetRelease hrun hp,
    exec_lnkPClrCounters hrun hp⟩, fun s off v hrun => ⟨fun h => exec_lnkAgrCfgWrite_misaligned hrun h v, fun hoff hbuf => ?_, fun hbuf => ?_⟩⟩
  · have hall (i : Nat) : (session s p i).state = .idle := by
      rcases session_mem_or_reset s p i with h | h
      · exact hidle _ h
      · rw [h]
        rfl
    refine (exec_lnkPortResetAssert hrun hp hreset).trans (congrArg Host.Outcome.next ?_)
    rw [lnkReset_eq, foldl_sessionReset_idle hall]
    dsimp only
    split
    · rfl
    · exact congrArg (fun o => { modLnk p LinkPort.resetNow s with outs := o }) (List.append_nil _).symm
  · have hlt : i < (linkPort s p).sessions.length := (List.getElem?_eq_some_iff.1 hx).1
    have hsess : session s p i = x := by rw [session, List.getD_eq_getElem?_getD, hx]; rfl
    obtain ⟨hend, hlen, hin, hlost⟩ := lnkReset_send (lnkBuilt_lt hp) hlt hi (by rwa [hsess]) (by rwa [hsess])
    refine ⟨_, session (lnkReset p s) p i, exec_lnkPortResetAssert hrun hp hreset, ?_, ?_, ?_, hin, hlost⟩
    · rw [session, List.getD_eq_getElem?_getD, List.getElem?_eq_getElem hlen]
      rfl
    · rw [hend]
      rfl
    · rw [hend]
  · have hmem : off.toNat ∈ ([0x100, 0x104, 0x108, 0x10C] : List Nat) ∧ off.toNat % 4 = 0 := by
      rcases hoff with rfl | rfl | rfl | rfl <;> exact ⟨by decide, rfl⟩
    exact (exec_lnkAgrCfgWrite hrun hmem.2 v).trans (congrArg _ (agrCfgWrite_held (s := emit (.cpAck false) s) hmem.1 hbuf v))
  · have hcfg0 := (exec_lnkAgrCfgWrite (off := 0x100) hrun rfl v).trans (congrArg _ (agrCfgWrite_cfg0 (s := emit (.cpAck false) s) hbuf v))
    have hown : agrRefused (emit (.cpAck false) s) = agrRefused s := rfl
    have hlogged : (emit (.cpAck false) s).exch.refLogged = s.exch.refLogged := rfl
    rw [hown, hlogged] at hcfg0
    refine ⟨fun h => ?_, fun hen href hlog => ?_, ?_, ?_, ?_⟩
    · have hfirst : (bit v.toNat 31 && agrRefused s && !s.exch.refLogged) = false := by
        rcases h with h | h | h
        · have hbit : bit v.toNat 31 = false := h
          simp [hbit]
        · simp [agrRefused, Nat.not_lt.2 h]
        · simp [h]
      simp only [hfirst, Bool.or_false] at hcfg0
      exact hcfg0
    · have hbit : bit v.toNat 31 = true := hen
      have hfirst : (bit v.toNat 31 && agrRefused s && !s.exch.refLogged) = true := by simp [hbit, agrRefused, href, hlog]
      simp only [hfirst, Bool.or_true] at hcfg0
      exact hcfg0
    · exact (exec_lnkAgrCfgWrite (off := 0x104) hrun rfl v).trans (congrArg _ (agrCfgWrite_cfg1 (s := emit (.cpAck false) s) hbuf v))
    · exact (exec_lnkAgrCfgWrite (off := 0x108) hrun rfl v).trans (congrArg _ (agrCfgWrite_pos1 (s := emit (.cpAck false) s) hbuf v))
    · exact (exec_lnkAgrCfgWrite (off := 0x10C) hrun rfl v).trans (congrArg _ (agrCfgWrite_tag (s := emit (.cpAck false) s) hbuf v))

/-- Settles O55: each command updates its session alone, and a session that holds nothing ends nothing (`disarmSession_empty`). -/
theorem linkSessions : Obligations.LinkSessions := by
  intro s p i hrun hb hi
  have hsame (f : Session → Session) : session (modSess p i f (emit (.cpAck false) s)) p i = f (session s p i) :=
    session_modSess_same (by exact sessBuilt_lt hb) (by exact hi) f
  have hacked (f : Session → Session) : let t := modSess p i f (emit (.cpAck false) s)
      t = { s with outs := s.outs ++ [.cpAck false], lnk := t.lnk } ∧ session t p i = f (session s p i) ∧
      (∀ j, j ≠ i → session t p j = session s p j) ∧ ∀ q, q ≠ p → linkPort t q = linkPort s q :=
    ⟨rfl, hsame f, fun _ hj => session_modSess_other (.inr hj) f, fun _ hq => linkPort_modLnk_other hq _⟩
  refine ⟨fun hidle h => ?_, armError_reserved, fun hidle h => ?_, fun h => ?_, fun h => ?_, fun h hmode => ?_, fun h hmode hnext hloc hrxq => ?_,
    fun h => ?_, exec_lnkSessionIdle hrun hb, exec_lnkSessionIdle_busy hrun⟩
  · refine ⟨_, _, (exec_lnkArm hrun hb).trans (congrArg _ (sessCtrl_arm hidle h)), hacked _, rfl, rfl, rfl, rfl, rfl, rfl, rfl, rfl, rfl, rfl,
      rfl, rfl, rfl, fun hwide => ⟨?_, ?_⟩, fun hwide => ?_⟩
    · simp only [armSession, hwide]
      rfl
    · simp only [armSession, hwide]
      rfl
    · simp only [armSession, hwide]
      rfl
  · exact ⟨_, (exec_lnkArm hrun hb).trans (congrArg _ (sessCtrl_arm_refused hidle h)), hacked _⟩
  · exact ⟨_, (exec_lnkArm hrun hb).trans (congrArg _ (sessCtrl_arm_busy h)), hacked _⟩
  · exact ⟨_, (exec_lnkDisarm hrun hb).trans (congrArg _ (sessCtrl_disarm_idle h)), hacked _⟩
  · exact ⟨_, (exec_lnkDisarm hrun hb).trans (congrArg _ ((sessCtrl_disarm (s := emit (.cpAck false) s) h).trans
      (disarmSession_send (by exact hmode)))), hacked _⟩
  · refine ⟨_, (exec_lnkDisarm hrun hb).trans (congrArg _ ((sessCtrl_disarm (s := emit (.cpAck false) s) h).trans
      (disarmSession_empty (by exact hmode) (by exact ⟨hrxq, hloc, hnext⟩)))), ?_⟩
    have hend := hacked (fun x => { x with loc := [], locLost := [], rxq := [], enc := [], state := .ending })
    rw [show ({ session s p i with loc := [], locLost := [], rxq := [], enc := [], state := .ending } : Session) =
      { session s p i with state := .ending, locLost := [], enc := [] } by rw [← hrxq, ← hloc]] at hend
    exact hend
  · exact (exec_lnkDisarm hrun hb).trans (congrArg _ (sessCtrl_disarm_ending h))

end Sys2Proof.Proofs
end

section
/-! PROOFS. Frames of a link port: local elements, what is sent, the checks of an arriving frame, and its place among the furrows of its
session (R303, R309 to R315). -/

namespace Sys2Proof.Machine

variable {s u : State} {p i : Nat}

/-! ## Local elements -/

theorem sendWork_few (h : (session s p i).loc.length < (session s p i).furElems (session s p i).doneF) (fuel : Nat) :
    sendWork p i fuel s = s := by
  cases fuel with
  | zero => rfl
  | succ fuel => exact if_pos (by simp [h])

/-- The port with its oldest chunk taken. -/
def LinkPort.chunkTaken (rest : List TileChunk) (l : LinkPort) : LinkPort := { l with tileIn := rest }

/-- The state with the oldest chunk of a port taken. -/
def chunkTaken (p : Nat) (rest : List TileChunk) (s : State) : State := modLnk p (LinkPort.chunkTaken rest) s

theorem session_chunkTaken (rest : List TileChunk) (q j : Nat) : session (chunkTaken p rest s) q j = session s q j :=
  session_modLnk (f := LinkPort.chunkTaken rest) (fun _ => rfl) q j

/-- The session with the elements of a chunk. -/
def Session.withChunk (bs : List Byte) (x : Session) : Session := { x with loc := x.loc ++ chunkVals x bs }

section
variable (hrun : s.rst = .run) {c : TileChunk} {rest : List TileChunk}
include hrun

theorem exec_lnkLocalElements_none (h : (linkPort s p).tileIn = []) : exec (.lnkLocalElements p) s = .next s := by
  refine (inRun_of_run hrun).trans ?_
  rw [h]

theorem exec_lnkLocalElements_discard (h : (linkPort s p).tileIn = c :: rest)
    (hno : (session s p c.session).state ≠ .armed ∨ (session s p c.session).mode = 2) :
    exec (.lnkLocalElements p) s = .next (modLnk p (fun l => { l with tileIn := rest, noSess := true }) s) := by
  refine (inRun_of_run hrun).trans ?_
  rw [h]
  refine (if_pos ?_).trans (congrArg Host.Outcome.next (modLnk_modLnk ..))
  change ((session (chunkTaken p rest s) p c.session).state != .armed || decide ((session (chunkTaken p rest s) p c.session).mode = 2)) = true
  rw [session_chunkTaken]
  simpa using hno

theorem exec_lnkLocalElements_send (h : (linkPort s p).tileIn = c :: rest) (harmed : (session s p c.session).state = .armed)
    (hmode : (session s p c.session).mode = 0) : exec (.lnkLocalElements p) s = .next (
      let u := modSess p c.session (Session.withChunk c.bytes) (chunkTaken p rest s)
      sendWork p c.session ((session u p c.session).loc.length + 1) u) := by
  refine (inRun_of_run hrun).trans ?_
  rw [h]
  refine (if_neg ?_).trans (if_pos ?_)
  · change ¬ ((session (chunkTaken p rest s) p c.session).state != .armed ||
      decide ((session (chunkTaken p rest s) p c.session).mode = 2)) = true
    rw [session_chunkTaken]
    simp [harmed, hmode]
  · change (session (chunkTaken p rest s) p c.session).mode = 0
    rw [session_chunkTaken, hmode]

end

/-! ## What is sent -/

section
variable (hrun : s.rst = .run) (hp : lnkBuilt s p = true)
include hrun hp

theorem exec_lnkFrameTransmit_none (h : (linkPort s p).inReset = true ∨ (linkPort s p).lost = true ∨
    nextPlace (linkPort s p).lastServed (txPlaces s p) = none) : exec (.lnkFrameTransmit p) s = .next s := by
  refine (inRun_of_run hrun).trans ?_
  dsimp only
  split
  · rfl
  · next hopen =>
    have hplace : nextPlace (linkPort s p).lastServed (txPlaces s p) = none := by
      rcases h with h | h | h
      · simp [hp, h] at hopen
      · simp [hp, h] at hopen
      · exact h
    rw [hplace]

/-- The port that serves a place in the rotation. -/
def LinkPort.serving (pl : Nat) (l : LinkPort) : LinkPort := { l with lastServed := pl, txFrames := cntMod l.txFrames 1 }

theorem exec_lnkFrameTransmit_session {pl : Nat} {f : TxFrame} (hreset : (linkPort s p).inReset = false)
    (hlost : (linkPort s p).lost = false) (hplace : nextPlace (linkPort s p).lastServed (txPlaces s p) = some pl) (hpl : pl < 512)
    (hf : (linkPort s p).txq.find? (fun f => txPlace f == pl) = some f) : exec (.lnkFrameTransmit p) s = .next (
      emit (.lnkFrame p (frameBytes f (session s f.port f.session).seq)) (modSess f.port f.session (fun x => { x with seq := cntMod x.seq 1 })
        (modLnk p (fun l => { (l.serving pl) with txq := l.txq.erase f }) s))) := by
  have hsess : session (modLnk p (LinkPort.serving pl) s) f.port f.session = session s f.port f.session :=
    session_modLnk (f := LinkPort.serving pl) (fun _ => rfl) _ _
  refine (inRun_of_run hrun).trans ((if_neg (by simp [hp, hreset, hlost])).trans ?_)
  rw [hplace]
  refine (if_neg (Nat.not_le.2 hpl)).trans ?_
  rw [hf]
  change Host.Outcome.next (emit (.lnkFrame p (frameBytes f (session (modLnk p (LinkPort.serving pl) s) f.port f.session).seq)) _) = _
  rw [hsess, modLnk_modLnk]
  rfl

theorem exec_lnkFrameTransmit_exchange {pl : Nat} (hreset : (linkPort s p).inReset = false)
    (hlost : (linkPort s p).lost = false) (hplace : nextPlace (linkPort s p).lastServed (txPlaces s p) = some pl) (hpl : 512 ≤ pl) :
    let of' := s.exch.tx.filter (fun e => e.key.level == pl - 512)
    let es := of'.take 512
    exec (.lnkFrameTransmit p) s = .next { s with
      lnk := modAt s.lnk p (LinkPort.serving pl)
      outs := s.outs ++ [.lnkFrame p (frameBytes ⟨p, 0, 1, (level s (pl - 512)).tag, 0, 0, es.length, 0, false, false, 0, 0,
        es.flatMap agrBytes⟩ s.exch.seq)]
      exch := { s.exch with
        tx := s.exch.tx.filter (fun e => e.key.level != pl - 512) ++ of'.drop 512
        sentCount := cntMod s.exch.sentCount es.length, seq := cntMod s.exch.seq 1 } } := by
  refine (inRun_of_run hrun).trans ((if_neg (by simp [hp, hreset, hlost])).trans ?_)
  rw [hplace]
  exact if_pos hpl

end

/-! ## The checks of an arriving frame -/

/-- The port that has received one frame more. -/
def LinkPort.receiving (l : LinkPort) : LinkPort := { l with rxFrames := cntMod l.rxFrames 1 }

section
variable (hrun : s.rst = .run) (hp : lnkBuilt s p = true) (hreset : (linkPort s p).inReset = false) (b : List Byte) (err : Bool)
include hrun hp hreset

omit hp hreset in
theorem exec_lnkFrameReceive_held (hheld : rxHeld s p = true) (hlost : (linkPort s p).lost = false) :
    exec (.lnkFrameReceive p b err none) s = .next s :=
  (inRun_of_run hrun).trans (if_pos (by simp [hheld, hlost]))

theorem exec_lnkFrameReceive_lost (hlost : (linkPort s p).lost = true) :
    exec (.lnkFrameReceive p b err none) s = .next (modLnk p LinkPort.receiving s) :=
  (inRun_of_run hrun).trans ((if_neg (by simp [hp, hreset, hlost])).trans (if_pos hlost))

theorem exec_lnkFrameReceive (hheld : rxHeld s p = false) (hlost : (linkPort s p).lost = false) :
    exec (.lnkFrameReceive p b err none) s = .next (takeFrame p b err (fun _ => false) (modLnk p LinkPort.receiving s)) :=
  (inRun_of_run hrun).trans ((if_neg (by simp [hp, hreset, hheld])).trans (if_neg (by simp [hlost])))

end

theorem session_receiving (q j : Nat) : session (modLnk p LinkPort.receiving s) q j = session s q j :=
  session_modLnk (f := LinkPort.receiving) (fun _ => rfl) q j

theorem frameBad_receiving (unknown : Bool) : frameBad p unknown (modLnk p LinkPort.receiving s) = modLnk p (fun l =>
    if unknown then { l.receiving with badFrame := true, unk := cntSat l.unk 1 }
    else { l.receiving with badFrame := true, bad := cntSat l.bad 1 }) s := modLnk_modLnk ..

/-- A frame of a form that R312 takes: its length, its version, its kind, its flags and its CRC. -/
structure FormOk (b : List Byte) : Prop where
  length : 32 ≤ b.length
  version : byteAt b 0 = 5
  kind : byteAt b 1 ≤ 1
  flags : byteAt b 19 ≤ 3
  crc : fld b 28 4 = crc32c (b.take 28 ++ b.drop 32)

section
variable {b : List Byte} {err : Bool} {struck : Nat → Bool}

theorem takeFrame_form (h : err = true ∨ b.length < 32 ∨ byteAt b 0 ≠ 5 ∨ 1 < byteAt b 1 ∨ 3 < byteAt b 19 ∨
    fld b 28 4 ≠ crc32c (b.take 28 ++ b.drop 32)) : takeFrame p b err struck s = frameBad p false s := by
  refine ite_eq_left_iff.2 fun hform => ite_eq_left_iff.2 fun _ => if_pos ?_
  simp only [Bool.or_eq_true, decide_eq_true_eq, bne_iff_ne, ne_eq, not_or] at hform
  obtain ⟨⟨⟨⟨herr, hlen⟩, hver⟩, hkind⟩, hflags⟩ := hform
  simpa [herr, hlen, hver, hkind, hflags] using h

variable (hform : FormOk b)
include hform

theorem takeFrame_unknown (hkind : byteAt b 1 = 0) (hnone : sessOf (linkPort s p) (parseFrame b).tag = none) :
    takeFrame p b false struck s = frameBad p true s := by
  obtain ⟨hlen, hver, -, hflags, hcrc⟩ := hform
  refine (if_neg (by simp [hlen, hver, hkind, hflags])).trans ((if_neg ?_).trans ((if_neg (by simp [hcrc])).trans ((if_neg ?_).trans ?_)))
  · simp [hnone, hkind]
  · simp [hkind]
  · rw [hnone]

/-- A DATA frame of a session that has its length, its elements and its tile is placed. -/
theorem takeFrame_data (hkind : byteAt b 1 = 0) (hi : sessOf (linkPort s p) (parseFrame b).tag = some i)
    (hlength : b.length = 32 + payloadLen (parseFrame b).wide (session s p i).fl (session s p i).snap.width (parseFrame b).nfur)
    (hwide : (parseFrame b).wide = (session s p i).wide)
    (htile : (parseFrame b).first + (parseFrame b).nfur ≤ (session s p i).tileFurrows) :
    takeFrame p b false struck s = placeFrame p i (parseFrame b) struck s := by
  obtain ⟨hlen, hver, -, hflags, hcrc⟩ := hform
  refine (if_neg (by simp [hlen, hver, hkind, hflags])).trans ((if_neg ?_).trans ((if_neg (by simp [hcrc])).trans ((if_neg ?_).trans ?_)))
  · simp only [hi]
    simp [hkind, hlength]
  · simp [hkind]
  · rw [hi]
    exact if_neg (by simp [hwide, htile])

theorem takeFrame_misfit (hkind : byteAt b 1 = 0) (hi : sessOf (linkPort s p) (parseFrame b).tag = some i)
    (h : b.length ≠ 32 + payloadLen (parseFrame b).wide (session s p i).fl (session s p i).snap.width (parseFrame b).nfur ∨
      (parseFrame b).wide ≠ (session s p i).wide ∨ (session s p i).tileFurrows < (parseFrame b).first + (parseFrame b).nfur) :
    takeFrame p b false struck s = frameBad p false s := by
  obtain ⟨hlen, hver, -, hflags, hcrc⟩ := hform
  refine (if_neg (by simp [hlen, hver, hkind, hflags])).trans (ite_eq_left_iff.2 fun hlength => ?_)
  refine (if_neg (by simp [hcrc])).trans ((if_neg (by simp [hkind])).trans ?_)
  simp only [hi] at hlength
  have hfits : b.length = 32 + payloadLen (parseFrame b).wide (session s p i).fl (session s p i).snap.width (parseFrame b).nfur := by
    simpa [hkind] using hlength
  rw [hi]
  refine if_pos ?_
  simpa using h.resolve_left (not_not_intro hfits)

theorem takeFrame_amax_unknown (hkind : byteAt b 1 = 1) (hlength : b.length = 32 + 16 * (parseFrame b).nfur)
    (h : ¬ ∃ v < 2, (level s v).en = true ∧ (level s v).recvPort = p ∧ (level s v).tag = (parseFrame b).tag) :
    takeFrame p b false struck s = frameBad p true s := by
  obtain ⟨hlen, hver, -, hflags, hcrc⟩ := hform
  refine (if_neg (by simp [hlen, hver, hkind, hflags])).trans ((if_neg ?_).trans ((if_neg (by simp [hcrc])).trans ((if_pos hkind).trans
    (if_neg ?_))))
  · cases hi : sessOf (linkPort s p) (parseFrame b).tag <;> simp [hkind, hlength]
  · simpa [and_assoc] using h

theorem takeFrame_amax (hkind : byteAt b 1 = 1) (hlength : b.length = 32 + 16 * (parseFrame b).nfur)
    (h : ∃ v < 2, (level s v).en = true ∧ (level s v).recvPort = p ∧ (level s v).tag = (parseFrame b).tag) :
    takeFrame p b false struck s =
      agrGo (modExch (fun e => { e with rest := e.rest ++ (chunks 16 (parseFrame b).payload).map agrParse }) s) := by
  obtain ⟨hlen, hver, -, hflags, hcrc⟩ := hform
  refine (if_neg (by simp [hlen, hver, hkind, hflags])).trans ((if_neg ?_).trans ((if_neg (by simp [hcrc])).trans ((if_pos hkind).trans
    (if_pos ?_))))
  · cases hi : sessOf (linkPort s p) (parseFrame b).tag <;> simp [hkind, hlength]
  · simpa [and_assoc] using h

end

/-! ## The place of a frame -/

theorem frameRuns_none (a n : Nat) : frameRuns (fun _ => false) a (a + n) = if n = 0 then [] else [(false, a, a + n)] := by
  induction n with
  | zero =>
    have hdrop : (List.range a).drop a = [] := List.drop_eq_nil_of_le (by simp)
    unfold frameRuns
    rw [Nat.add_zero, hdrop]
    rfl
  | succ n ih =>
    have hdrop : (List.range (a + (n + 1))).drop a = (List.range (a + n)).drop a ++ [a + n] := by
      rw [← Nat.add_assoc, List.range_succ, List.drop_append_of_le_length (by simp)]
    unfold frameRuns at ih ⊢
    rw [hdrop, List.foldl_append, ih]
    by_cases hn : n = 0
    · subst hn
      rfl
    · rw [if_neg hn]
      simp [Nat.add_assoc]

theorem useRuns_none {f : RxFrame} {a : Nat} (h : a < f.nfur) : useRuns p i f a (fun _ => false) s = useFrame p i f a f.nfur s := by
  obtain ⟨n, hn⟩ := Nat.exists_eq_add_of_lt h
  rw [useRuns, hn, Nat.add_assoc, frameRuns_none, if_neg (Nat.succ_ne_zero n)]
  rfl

/-- The furrows that are lost before a frame's first. -/
def skipOf (x : Session) (f : RxFrame) : Nat :=
  if f.tile = x.rxTile then f.first - x.rxNext
  else (x.tileFurrows - x.rxNext) + x.tileFurrows * (f.tile.toNat - x.rxTile.toNat - 1) + f.first

/-- The furrows of a frame that have been used already. -/
def repeatOf (x : Session) (f : RxFrame) : Nat := if f.tile = x.rxTile then x.rxNext - f.first else 0

/-- Whether all furrows of a frame have been passed. -/
def staleFor (x : Session) (f : RxFrame) : Prop :=
  f.tile.toNat < x.rxTile.toNat ∨ (f.tile = x.rxTile ∧ f.first + f.nfur ≤ x.rxNext)

theorem placeFrame_stale {f : RxFrame} (struck : Nat → Bool) (h : staleFor (session s p i) f) :
    placeFrame p i f struck s = modLnk p (fun l => { l with stale := cntSat l.stale 1 }) s := if_pos (by simpa [staleFor] using h)

theorem loseFurrows_zero : loseFurrows p i 0 s = s := if_pos rfl

/-- A frame that is not stale: the furrows before its first are lost, those it repeats are left out, and the others are used. -/
theorem placeFrame_fresh {f : RxFrame} (h : ¬ staleFor (session s p i) f) (hn : 0 < f.nfur) : placeFrame p i f (fun _ => false) s =
    useFrame p i f (repeatOf (session s p i) f) f.nfur (loseFurrows p i (skipOf (session s p i) f) s) := by
  refine (if_neg (by simpa [staleFor] using h)).trans ?_
  by_cases htile : f.tile = (session s p i).rxTile
  · have hfin : (session s p i).rxNext < f.first + f.nfur := Nat.not_le.1 fun hle => h (.inr ⟨htile, hle⟩)
    refine (if_pos (by simpa using htile)).trans ?_
    rw [skipOf, repeatOf, if_pos htile, if_pos htile]
    by_cases hfirst : f.first ≤ (session s p i).rxNext
    · rw [if_pos hfirst, Nat.sub_eq_zero_of_le hfirst, loseFurrows_zero, useRuns_none (by omega)]
    · rw [if_neg hfirst, Nat.sub_eq_zero_of_le (Nat.le_of_not_le hfirst), useRuns_none hn]
  · refine (if_neg (by simpa using htile)).trans ?_
    rw [skipOf, repeatOf, if_neg htile, if_neg htile]
    exact useRuns_none hn

end Sys2Proof.Machine
end

section
/-! PROOFS. What the furrows of a frame do in their session: they wait for local elements, are added to them and delivered, or are sent on
(R313 to R315). -/

namespace Sys2Proof.Machine

variable {s u : State} {p i : Nat} {x : Session} {f : RxFrame}

/-! ## Furrows that wait -/

/-- The session whose next furrows are lost, and wait. -/
def Session.losing (n : Nat) (x : Session) : Session :=
  { x with
    loss := true
    lostfur := cntSat x.lostfur n
    poisfur := cntSat x.poisfur n
    rxTile := cntMod x.rxTile ((x.rxNext + n) / x.tileFurrows)
    rxNext := (x.rxNext + n) % x.tileFurrows
    rxq := x.rxq ++ [.lost n] }

/-- The furrows of a frame from furrow `a` of it up to but not including furrow `b`. -/
def frameFurs (x : Session) (f : RxFrame) (a b : Nat) : List (List (Option Q) × Bool) :=
  ((List.range b).drop a).map (fun k => frameFurrow x f k (x.furElems (f.first + k)))

/-- The session that moves past the furrows of a frame up to furrow `b`. -/
def Session.passing (f : RxFrame) (b : Nat) (furs : List (List (Option Q) × Bool)) (x : Session) : Session :=
  { x with
    cbsumBad := x.cbsumBad || f.cbsum != x.cbsum
    poisfur := cntSat x.poisfur (furs.filter (·.2)).length
    encHops := if x.mode = 2 then f.hops else x.encHops
    rxTile := cntMod x.rxTile ((f.first + b) / x.tileFurrows)
    rxNext := (f.first + b) % x.tileFurrows }

/-- The session that moves past the furrows of a frame, which wait. -/
def Session.taking (f : RxFrame) (b : Nat) (furs : List (List (Option Q) × Bool)) (x : Session) : Session :=
  { x.passing f b furs with rxq := x.rxq ++ furs.map (fun v => .fur v.1 v.2 f.hops) }

/-- A session without local elements whose next furrow has some takes nothing. -/
def Session.Waits (x : Session) : Prop := x.loc = [] ∧ 0 < x.furElems x.doneF ∧ ∀ y ∈ x.rxq, y ≠ .lost 0

theorem reduceAll_waits (h : (session s p i).Waits) : reduceAll p i s = s := by
  obtain ⟨hloc, hfur, hq⟩ := h
  rw [reduceAll, reduceWork]
  cases hrxq : (session s p i).rxq with
  | nil => simp
  | cons y ys =>
    have hy := hq y (hrxq ▸ List.mem_cons_self)
    cases y with
    | lost n =>
      cases n with
      | zero => exact absurd rfl hy
      | succ n => simp [hloc, hfur]
    | fur vs bad hops => simp [hloc, hfur]

theorem Session.Waits.losing {n : Nat} (h : x.Waits) (hn : n ≠ 0) : (x.losing n).Waits := by
  obtain ⟨hloc, hfur, hq⟩ := h
  refine ⟨hloc, hfur, fun y hy => ?_⟩
  rcases List.mem_append.1 hy with hy | hy
  · exact hq y hy
  · rw [List.mem_singleton.1 hy]
    simpa using hn

theorem Session.Waits.taking (h : x.Waits) (f : RxFrame) (b : Nat) (furs : List (List (Option Q) × Bool)) : (x.taking f b furs).Waits := by
  obtain ⟨hloc, hfur, hq⟩ := h
  refine ⟨hloc, hfur, fun y hy => ?_⟩
  rcases List.mem_append.1 hy with hy | hy
  · exact hq y hy
  · obtain ⟨v, -, rfl⟩ := List.mem_map.1 hy
    exact RxItem.noConfusion

section
variable (hp : p < s.lnk.length) (hi : i < (linkPort s p).sessions.length)
include hp hi

theorem loseFurrows_waits (hmode : (session s p i).mode ≠ 2) (h : (session s p i).Waits) {n : Nat} (hn : n ≠ 0) :
    loseFurrows p i n s = modSess p i (Session.losing n) s := by
  unfold loseFurrows
  dsimp only
  rw [if_neg hn, session_modSess_same hp hi, if_neg (by exact hmode), modSess_modSess]
  refine reduceAll_waits ?_
  rw [session_modSess_same hp hi]
  exact h.losing hn

theorem useFrame_waits (hmode : (session s p i).mode ≠ 2) (h : (session s p i).Waits) (a b : Nat) :
    useFrame p i f a b s = modSess p i (Session.taking f b (frameFurs (session s p i) f a b)) s := by
  refine (if_neg hmode).trans ?_
  rw [modSess_modSess]
  refine reduceAll_waits ?_
  rw [session_modSess_same hp hi]
  exact h.taking f b _

end

/-! ## A frame whose furrows wait -/

/-- The session that has moved to the furrow after a frame's last. -/
def Session.moved (f : RxFrame) (x : Session) : Session :=
  { x with
    loss := x.loss || decide (0 < skipOf x f)
    lostfur := cntSat x.lostfur (skipOf x f)
    cbsumBad := x.cbsumBad || f.cbsum != x.cbsum
    poisfur := cntSat (cntSat x.poisfur (skipOf x f)) ((frameFurs x f (repeatOf x f) f.nfur).filter (·.2)).length
    rxTile := cntMod f.tile ((f.first + f.nfur) / x.tileFurrows)
    rxNext := (f.first + f.nfur) % x.tileFurrows }

/-- The session that has moved past a frame, whose furrows wait. -/
def Session.holding (f : RxFrame) (x : Session) : Session :=
  { x.moved f with
    rxq := x.rxq ++ (if skipOf x f = 0 then [] else [.lost (skipOf x f)]) ++
      (frameFurs x f (repeatOf x f) f.nfur).map (fun v => .fur v.1 v.2 f.hops) }

theorem cntMod_zero (w : Word) : cntMod w 0 = w := by simp [cntMod]

theorem cntMod_sub {v w : Word} (h : w.toNat ≤ v.toNat) : cntMod w (v.toNat - w.toNat) = v := by
  rw [cntMod, Nat.add_sub_cancel' h, BitVec.ofNat_toNat, BitVec.setWidth_eq]

/-- Where no furrow is lost before a frame, it is of the session's tile. -/
theorem tile_of_skipOf (hnext : x.rxNext < x.tileFurrows) (h : skipOf x f = 0) : f.tile = x.rxTile := by
  by_contra htile
  rw [skipOf, if_neg htile] at h
  omega

/-- The furrows that are lost before a frame lead to its tile. -/
theorem tile_of_losing (hnext : x.rxNext < x.tileFurrows) (hfit : f.first + f.nfur ≤ x.tileFurrows) (hn : 0 < f.nfur)
    (hfresh : ¬ staleFor x f) (h : skipOf x f ≠ 0) : cntMod x.rxTile ((x.rxNext + skipOf x f) / x.tileFurrows) = f.tile := by
  have hlt : f.first < x.tileFurrows := by omega
  by_cases htile : f.tile = x.rxTile
  · rw [skipOf, if_pos htile] at h ⊢
    rw [show x.rxNext + (f.first - x.rxNext) = f.first by omega, Nat.div_eq_of_lt hlt, cntMod_zero, htile]
  · have hle : x.rxTile.toNat ≤ f.tile.toNat := Nat.not_lt.1 fun hlt => hfresh (.inl hlt)
    have hne : x.rxTile.toNat ≠ f.tile.toNat := fun h => htile (BitVec.eq_of_toNat_eq h.symm)
    have hsum : x.rxNext + skipOf x f = f.first + x.tileFurrows * (f.tile.toNat - x.rxTile.toNat) := by
      rw [skipOf, if_neg htile]
      obtain ⟨d, hd⟩ := Nat.exists_eq_add_of_lt (Nat.lt_of_le_of_ne hle hne)
      rw [show f.tile.toNat - x.rxTile.toNat = d + 1 by omega, Nat.add_sub_cancel, Nat.mul_succ]
      omega
    rw [hsum, Nat.add_mul_div_left _ _ (by omega), Nat.div_eq_of_lt hlt, Nat.zero_add, cntMod_sub hle]

theorem frameFurs_losing (n a b : Nat) : frameFurs (x.losing n) f a b = frameFurs x f a b := rfl

theorem taking_eq_holding (hmode : x.mode ≠ 2) (hnext : x.rxNext < x.tileFurrows) (h : skipOf x f = 0) :
    x.taking f f.nfur (frameFurs x f (repeatOf x f) f.nfur) = x.holding f := by
  have htile := tile_of_skipOf hnext h
  simp [Session.taking, Session.passing, Session.holding, Session.moved, h, hmode, htile, cntSat_zero]

theorem losing_taking_eq_holding (hmode : x.mode ≠ 2) (hnext : x.rxNext < x.tileFurrows) (hfit : f.first + f.nfur ≤ x.tileFurrows)
    (hn : 0 < f.nfur) (hfresh : ¬ staleFor x f) (h : skipOf x f ≠ 0) :
    (x.losing (skipOf x f)).taking f f.nfur (frameFurs x f (repeatOf x f) f.nfur) = x.holding f := by
  have htile := tile_of_losing hnext hfit hn hfresh h
  have hmode' : (x.losing (skipOf x f)).mode ≠ 2 := hmode
  have hfurrows : (x.losing (skipOf x f)).tileFurrows = x.tileFurrows := rfl
  have htile' : (x.losing (skipOf x f)).rxTile = f.tile := htile
  simp only [Session.taking, Session.passing, hmode', if_false, hfurrows, htile']
  simp [Session.holding, Session.moved, Session.losing, h, Nat.pos_of_ne_zero h]

theorem placeFrame_waits (hp : p < s.lnk.length) (hi : i < (linkPort s p).sessions.length) (hmode : (session s p i).mode ≠ 2)
    (h : (session s p i).Waits) (hnext : (session s p i).rxNext < (session s p i).tileFurrows)
    (hfit : f.first + f.nfur ≤ (session s p i).tileFurrows) (hn : 0 < f.nfur) (hfresh : ¬ staleFor (session s p i) f) :
    placeFrame p i f (fun _ => false) s = modSess p i (Session.holding f) s := by
  rw [placeFrame_fresh hfresh hn, modSess_const (Session.holding f)]
  by_cases hskip : skipOf (session s p i) f = 0
  · rw [hskip, loseFurrows_zero, useFrame_waits hp hi hmode h, modSess_const, taking_eq_holding hmode hnext hskip]
  · have hsess := session_modSess_same hp hi (Session.losing (skipOf (session s p i) f))
    rw [loseFurrows_waits hp hi hmode h hskip, useFrame_waits (by simpa using hp) (by rwa [modSess_sessions_length])
      (by rw [hsess]; exact hmode) (by rw [hsess]; exact h.losing hskip), hsess, modSess_modSess, modSess_const, frameFurs_losing,
      losing_taking_eq_holding hmode hnext hfit hn hfresh hskip]

/-! ## A furrow that is delivered at once -/

/-- The session with values on its tile-out channel. -/
def Session.delivered (vals : List (Option Q)) (x : Session) : Session :=
  if x.deliv then { x with dq := x.dq ++ vals.map (fun v => match v with
    | none => poison
    | some q => (roundVal x.delivType q).1) } else x

/-- The session with one more furrow of its tile complete. -/
def Session.furrowOver (x : Session) : Session :=
  if x.tileFurrows ≤ x.doneF + 1 then { x with doneF := 0, encFirst := 0, tile := cntMod x.tile 1, tiles := cntMod x.tiles 1 }
  else { x with doneF := x.doneF + 1 }

theorem furrowDone_deliver (vals : List (Option Q)) :
    furrowDone p i (deliver p i vals s) = modSess p i (fun x => (x.delivered vals).furrowOver) s := modSess_modSess ..

/-- The sum of a furrow with local elements. -/
def furrowSum (vs : List (Option Q)) (loc : List Val) : List Val :=
  List.zipWith (fun v l => match v, Val.q l with
    | some v, some l => fp32P (v.add l)
    | _, _ => poison) vs loc

theorem reduceFurrow_deliver (h : (session s p i).fwd = false) (vs : List (Option Q)) (ps : List Val) (counted : Bool) :
    reduceFurrow p i vs ps counted s = modSess p i (fun x => (x.delivered ((furrowSum vs ps).map Val.q)).furrowOver) s := by
  refine Eq.trans ?_ (furrowDone_deliver _)
  unfold reduceFurrow
  dsimp only
  rw [if_neg (by simp [h])]
  rfl

/-- The session that has added a furrow to its local elements and delivered the sum. -/
def Session.summed (vs : List (Option Q)) (hops : Nat) (x : Session) : Session :=
  (({ x.passLocal (x.furElems x.doneF) with rxq := [], encHops := hops } : Session).delivered
    ((furrowSum vs (x.loc.take (x.furElems x.doneF))).map Val.q)).furrowOver

theorem Session.delivered_rxq (vals : List (Option Q)) (x : Session) : (x.delivered vals).rxq = x.rxq := by
  unfold Session.delivered
  split <;> rfl

theorem Session.furrowOver_rxq (x : Session) : x.furrowOver.rxq = x.rxq := by
  unfold Session.furrowOver
  split <;> rfl

theorem Session.summed_rxq (vs : List (Option Q)) (hops : Nat) (x : Session) : (x.summed vs hops).rxq = [] := by
  rw [summed, furrowOver_rxq, delivered_rxq]

theorem reduceWork_empty (h : (session s p i).rxq = []) (force : Bool) (fuel : Nat) : reduceWork p i force fuel s = s := by
  cases fuel with
  | zero => rfl
  | succ fuel => rw [reduceWork, h]

theorem reduceWork_one (hp : p < s.lnk.length) (hi : i < (linkPort s p).sessions.length) {vs : List (Option Q)} {bad : Bool} {hops : Nat}
    (hrxq : (session s p i).rxq = [.fur vs bad hops]) (hloc : (session s p i).loc.length = (session s p i).furElems (session s p i).doneF)
    (hlost : 0 ∉ (session s p i).locLost) (hfwd : (session s p i).fwd = false) (fuel : Nat) :
    reduceWork p i false (fuel + 1) s = modSess p i (Session.summed vs hops) s := by
  rw [reduceWork]
  dsimp only
  rw [hrxq]
  dsimp only
  rw [if_neg (by simp [hloc]), if_neg (by simpa using hlost),
    reduceFurrow_deliver (by rw [session_modSess_same hp hi]; exact hfwd), modSess_modSess, reduceWork_empty]
  · rw [modSess_const, modSess_const (Session.summed vs hops), hloc, Nat.sub_self, List.replicate_zero, List.append_nil]
    rfl
  · rw [session_modSess_same hp hi, Session.furrowOver_rxq, Session.delivered_rxq]

/-- A furrow whose local elements have arrived is added to them and delivered. -/
theorem placeFrame_summed (hp : p < s.lnk.length) (hi : i < (linkPort s p).sessions.length) (hmode : (session s p i).mode ≠ 2)
    (hfwd : (session s p i).fwd = false) (hrxq : (session s p i).rxq = []) (hskip : skipOf (session s p i) f = 0)
    (hrep : repeatOf (session s p i) f = 0) (hn : f.nfur = 1) (hfresh : ¬ staleFor (session s p i) f)
    (hloc : (session s p i).loc.length = (session s p i).furElems (session s p i).doneF) (hlost : 0 ∉ (session s p i).locLost) :
    placeFrame p i f (fun _ => false) s = modSess p i (fun x => (x.taking f 1 (frameFurs (session s p i) f 0 1)).summed
      (frameFurrow (session s p i) f 0 ((session s p i).furElems f.first)).1 f.hops) s := by
  have hsess := session_modSess_same hp hi (Session.taking f 1 (frameFurs (session s p i) f 0 1))
  rw [placeFrame_fresh hfresh (by omega), hskip, loseFurrows_zero, hrep, hn, ← modSess_modSess]
  refine (if_neg hmode).trans ?_
  rw [modSess_modSess]
  refine Eq.trans ?_ (reduceWork_one (s := modSess p i (Session.taking f 1 (frameFurs (session s p i) f 0 1)) s) (by simpa using hp)
    (by rwa [modSess_sessions_length]) (bad := (frameFurrow (session s p i) f 0 ((session s p i).furElems f.first)).2)
    (hops := f.hops) ?_ ?_ ?_ ?_ ((session s p i).loc.length + 2))
  · have hlen : ((session s p i).taking f 1 (frameFurs (session s p i) f 0 1)).rxq.length = 1 := by
      rw [Session.taking, hrxq]
      rfl
    change reduceWork p i false ((session (modSess p i (Session.taking f 1 (frameFurs (session s p i) f 0 1)) s) p i).loc.length +
      (session (modSess p i (Session.taking f 1 (frameFurs (session s p i) f 0 1)) s) p i).rxq.length + 2) _ = _
    rw [hsess, hlen]
    rfl
  · rw [hsess]
    exact congrArg (· ++ _) hrxq
  · rw [hsess]
    exact hloc
  · rw [hsess]
    exact hlost
  · rw [hsess]
    exact hfwd

/-! ## A frame that is sent on -/

theorem foldl_modSess {α : Type} (g : α → Session → Session) (l : List α) : ∀ s : State,
    l.foldl (fun s v => modSess p i (g v) s) s = modSess p i (fun x => l.foldl (fun x v => g v x) x) s := by
  induction l with
  | nil => exact fun s => (modSess_eq_self rfl).symm
  | cons v l ih =>
    intro s
    rw [List.foldl_cons, ih, modSess_modSess]
    rfl

/-- The session that has delivered some furrows. -/
def Session.relayed (furs : List (List (Option Q) × Bool)) (x : Session) : Session :=
  furs.foldl (fun x v => (x.delivered v.1).furrowOver) x

/-- What the delivery of furrows leaves alone. -/
theorem Session.relayed_frame (furs : List (List (Option Q) × Bool)) : ∀ x : Session, x.relayed furs =
    { x with
      dq := (x.relayed furs).dq, doneF := (x.relayed furs).doneF, encFirst := (x.relayed furs).encFirst, tile := (x.relayed furs).tile
      tiles := (x.relayed furs).tiles } := by
  induction furs with
  | nil => exact fun _ => rfl
  | cons v furs ih =>
    intro x
    have hstep : (x.delivered v.1).furrowOver = { x with
        dq := (x.delivered v.1).furrowOver.dq, doneF := (x.delivered v.1).furrowOver.doneF
        encFirst := (x.delivered v.1).furrowOver.encFirst, tile := (x.delivered v.1).furrowOver.tile
        tiles := (x.delivered v.1).furrowOver.tiles } := by
      unfold Session.furrowOver Session.delivered
      split <;> split <;> rfl
    have hrest := ih (x.delivered v.1).furrowOver
    rw [show x.relayed (v :: furs) = (x.delivered v.1).furrowOver.relayed furs from rfl, hrest, hstep]

/-- The frame that a session sends on, bytes kept. -/
def relayFrame (p i : Nat) (x : Session) (f : RxFrame) : TxFrame :=
  ⟨p, i, 0, x.txTag, f.first, f.tile.toNat, f.nfur, min (f.hops + 1) 255, f.wide, f.last, f.t, f.cbsum, f.payload⟩

theorem placeFrame_relayed (hmode : (session s p i).mode = 2) (hfwd : (session s p i).fwd = true)
    (hskip : skipOf (session s p i) f = 0) (hrep : repeatOf (session s p i) f = 0) (hn : 0 < f.nfur)
    (hfresh : ¬ staleFor (session s p i) f) : placeFrame p i f (fun _ => false) s =
    modSess p i (Session.relayed (frameFurs (session s p i) f 0 f.nfur)) (sendFrame (session s p i).fwdPort (relayFrame p i (session s p i) f)
      (modSess p i (Session.passing f f.nfur (frameFurs (session s p i) f 0 f.nfur)) s)) := by
  have hport : txPort p (session s p i) = (session s p i).fwdPort := if_neg (by simp [hmode])
  rw [placeFrame_fresh hfresh hn, hskip, loseFurrows_zero, hrep]
  refine (if_pos hmode).trans ?_
  simp only [furrowDone_deliver, hfwd, if_true, hport]
  rw [foldl_modSess (fun (v : List (Option Q) × Bool) x => (x.delivered v.1).furrowOver)]
  simp [relayFrame, cutPayload]
  rfl

theorem sendFrame_open {q : Nat} (hreset : (linkPort s q).inReset = false) (hlost : (linkPort s q).lost = false) (f : TxFrame) :
    sendFrame q f s = modLnk q (fun l => { l with txq := l.txq ++ [f] }) s :=
  (if_neg (by simp [hreset])).trans (if_neg (by simp [hlost]))

end Sys2Proof.Machine
end

section
/-! PROOFS. The amax exchange: what an entry of a frame does (R319 to R321); and the frames of a link port, settled. -/

namespace Sys2Proof.Machine

variable {s u : State} {p i : Nat} {e : AgrEntry}

/-! ## One entry -/

theorem modExch_modExch (f g : Exchange → Exchange) (s : State) : modExch g (modExch f s) = modExch (fun x => g (f x)) s := rfl

theorem modExch_eq_self {f : Exchange → Exchange} (h : f s.exch = s.exch) : modExch f s = s := by rw [modExch, h]

theorem agrGo_one (hrest : s.exch.rest = []) (hfull : agrFull s = false) (e : AgrEntry) :
    agrGo (modExch (fun x => { x with rest := x.rest ++ [e] }) s) = agrEntry e s := by
  have hback : modExch (fun x => { x with rest := [] }) (modExch (fun x => { x with rest := x.rest ++ [e] }) s) = s := by
    rw [modExch_modExch, modExch_eq_self]
    rw [← hrest]
  have hnow : (modExch (fun x => { x with rest := x.rest ++ [e] }) s).exch.rest = [e] := congrArg (· ++ [e]) hrest
  have hfull' : agrFull (modExch (fun x => { x with rest := x.rest ++ [e] }) s) = false := hfull
  rw [agrGo, hnow]
  rw [List.length_singleton, agrPump, hnow]
  dsimp only
  rw [if_neg (by simp [hfull']), hback]
  rfl

theorem chunks_one {n : Nat} {l : List α} (hn : 0 < n) (h : l.length = n) : chunks n l = [l] := by
  obtain ⟨m, rfl⟩ := Nat.exists_eq_add_of_lt hn
  rw [chunks, h, Nat.zero_add]
  cases l with
  | nil => simp at h
  | cons a l =>
    rw [chunksAux, List.take_of_length_le (by omega), List.drop_of_length_le (by omega)]
    · cases m <;> rfl
    · exact fun h => by cases h

/-- Whether no level, domain or key takes an entry. -/
def entryRefused (s : State) (e : AgrEntry) : Prop :=
  1 < e.phase ∨ 1 < e.key.level ∨ (level s e.key.level).en = false ∨ domainCtx s e.key.domain = none

theorem agrEntry_bad (h : entryRefused s e) : agrEntry e s = agrDrop s := if_pos (by simpa [entryRefused, or_assoc] using h)

theorem agrEntry_collect (h : ¬ entryRefused s e) (hphase : e.phase = 0) : agrEntry e s = agrCollect e s :=
  (if_neg (by simpa [entryRefused, or_assoc] using h)).trans (if_pos hphase)

theorem agrEntry_last (h : ¬ entryRefused s e) (hphase : e.phase = 1) (hlast : (level s e.key.level).pos + 1 = (level s e.key.level).size) :
    agrEntry e s = agrDrop s :=
  (if_neg (by simpa [entryRefused, or_assoc] using h)).trans ((if_neg (by simp [hphase])).trans (if_pos hlast))

theorem agrEntry_distribute (h : ¬ entryRefused s e) (hphase : e.phase = 1)
    (hlast : (level s e.key.level).pos + 1 ≠ (level s e.key.level).size) : agrEntry e s =
    let u := if (level s e.key.level).pos + 2 = (level s e.key.level).size then s else agrSend e.key e.value 1 s
    if e.key.level = 0 then agrHand e.key e.value (agrClose e.key u) else distribute0 e.key e.value (agrClose e.key u) :=
  (if_neg (by simpa [entryRefused, or_assoc] using h)).trans ((if_neg (by simp [hphase])).trans (if_neg hlast))

/-! ## Collect entries -/

theorem agrCollect_closed (hnone : agrOpenOf s e.key = none) (h : (level s e.key.level).pos = 0 ∨ e.key ∈ s.exch.collected) :
    agrCollect e s = agrDrop s := by
  unfold agrCollect
  dsimp only
  rw [hnone]
  exact if_pos (by simpa using h)

theorem agrCollect_waits (hnone : agrOpenOf s e.key = none) (hpos : (level s e.key.level).pos ≠ 0) (hnew : e.key ∉ s.exch.collected) :
    agrCollect e s = modExch (fun x => { x with buf := x.buf ++ [e], collected := x.collected ++ [e.key] }) s := by
  unfold agrCollect
  dsimp only
  rw [hnone]
  exact if_neg (by simp [hpos, hnew])

theorem agrCollect_sent {o : AgrOpen} (ho : agrOpenOf s e.key = some o) (hsent : o.sent = true) : agrCollect e s = agrDrop s := by
  unfold agrCollect
  dsimp only
  rw [ho]
  exact if_pos hsent

theorem agrCollect_folded {o : AgrOpen} (ho : agrOpenOf s e.key = some o) (hsent : o.sent = false)
    (hlast : (level s e.key.level).pos + 1 ≠ (level s e.key.level).size) : agrCollect e s = modExch (fun x => { x with
      opn := x.opn.map (fun z => if z.key = e.key then ⟨e.key, max o.x e.value, true⟩ else z), collected := x.collected ++ [e.key]
      tx := x.tx ++ [⟨e.key, max o.x e.value, 0⟩] }) s := by
  unfold agrCollect
  dsimp only
  rw [ho]
  exact (if_neg (by simp [hsent])).trans (if_neg hlast)

/-- The state in which a collect entry has been taken for a key. -/
def keyTaken (k : AgrKey) (s : State) : State := modExch (fun x => { x with collected := x.collected ++ [k] }) s

theorem agrCollect_leader {o : AgrOpen} (ho : agrOpenOf s e.key = some o) (hsent : o.sent = false)
    (hlast : (level s e.key.level).pos + 1 = (level s e.key.level).size) (hlevel : e.key.level = 0) (hone : (level s 1).en = false) :
    agrCollect e s = distribute0 e.key (max o.x e.value) (agrClose e.key (keyTaken e.key s)) := by
  unfold agrCollect
  dsimp only
  rw [ho]
  refine (if_neg (by simp [hsent])).trans ((if_pos hlast).trans ((if_pos hlevel).trans ?_))
  exact if_neg (by change ¬ (level s 1).en = true; simp [hone])

/-! ## Distribute entries -/

theorem agrHand_known {k : AgrKey} {c : Nat} (h : domainCtx s k.domain = some c) (v : Nat) : agrHand k v s = modExch (fun x => { x with
    arrivals := x.arrivals ++ [⟨c, k.stream, k.step, v⟩], doneCount := cntMod x.doneCount 1 }) s := by
  unfold agrHand
  rw [h]

theorem distribute0_known {k : AgrKey} {c : Nat} (h : domainCtx s k.domain = some c) (v : Nat) : distribute0 k v s =
    modExch (fun x => { x with
      opn := x.opn.filter (fun o => o.key != { k with level := 0 })
      arrivals := x.arrivals ++ [⟨c, k.stream, k.step, v⟩], doneCount := cntMod x.doneCount 1
      tx := x.tx ++ (if (level s 0).size = 1 then [] else [⟨{ k with level := 0 }, v, 1⟩]) }) s := by
  have hc : domainCtx (agrClose { k with level := 0 } s) ({ k with level := 0 } : AgrKey).domain = some c := h
  unfold distribute0
  dsimp only
  rw [agrHand_known hc]
  by_cases hone : (level s 0).size = 1
  · simp only [if_pos hone, List.append_nil]
    exact if_pos (by exact hone)
  · simp only [if_neg hone]
    exact if_neg (by exact hone)

theorem level_zero {k : AgrKey} (h : k.level = 0) : ({ k with level := 0 } : AgrKey) = k := by rw [← h]

/-- The leader of level 0 closes its key and begins the distribute. -/
theorem distribute0_leader {k : AgrKey} {c : Nat} (hlevel : k.level = 0) (h : domainCtx s k.domain = some c) (v : Nat) :
    distribute0 k v (agrClose k s) = modExch (fun x => { x with
      opn := x.opn.filter (fun o => o.key != k), arrivals := x.arrivals ++ [⟨c, k.stream, k.step, v⟩]
      doneCount := cntMod x.doneCount 1, tx := x.tx ++ (if (level s 0).size = 1 then [] else [⟨k, v, 1⟩]) }) s := by
  rw [distribute0_known (by exact h), level_zero hlevel, agrClose, modExch_modExch]
  simp only [List.filter_filter, Bool.and_self]
  rfl

/-- A distribute entry goes on to the next member, unless it has come to the last but one. -/
theorem distribute_passed (e : AgrEntry) (s : State) :
    (if (level s e.key.level).pos + 2 = (level s e.key.level).size then s else agrSend e.key e.value 1 s) = modExch (fun x => { x with
      tx := x.tx ++ (if (level s e.key.level).pos + 2 = (level s e.key.level).size then [] else [⟨e.key, e.value, 1⟩]) }) s := by
  split
  · exact (modExch_eq_self (by rw [List.append_nil])).symm
  · rfl

theorem agrEntry_distributed {c : Nat} (h : ¬ entryRefused s e) (hphase : e.phase = 1)
    (hlast : (level s e.key.level).pos + 1 ≠ (level s e.key.level).size) (hc : domainCtx s e.key.domain = some c) : agrEntry e s =
    modExch (fun x => { x with
      opn := (x.opn.filter (fun o => o.key != e.key)).filter (fun o => o.key != { e.key with level := 0 })
      arrivals := x.arrivals ++ [⟨c, e.key.stream, e.key.step, e.value⟩], doneCount := cntMod x.doneCount 1
      tx := x.tx ++ (if (level s e.key.level).pos + 2 = (level s e.key.level).size then [] else [⟨e.key, e.value, 1⟩]) ++
        (if e.key.level = 0 ∨ (level s 0).size = 1 then [] else [⟨{ e.key with level := 0 }, e.value, 1⟩]) }) s := by
  rw [agrEntry_distribute h hphase hlast]
  dsimp only
  rw [distribute_passed]
  by_cases hlevel : e.key.level = 0
  · rw [if_pos hlevel, agrHand_known (by exact hc), level_zero hlevel]
    simp only [agrClose, modExch_modExch, List.filter_filter, Bool.and_self, hlevel, true_or, if_true, List.append_nil]
  · rw [if_neg hlevel, distribute0_known (by exact hc)]
    simp only [agrClose, modExch_modExch, hlevel, false_or]
    rfl

/-- What an entry of a frame does: `answer` is that of the command that brings it, and `counted` the state in which the frame is counted. -/
theorem agrEntry_spec {answer : Answer} {e : AgrEntry} {g : LinkPort → LinkPort} (h : answer = .next (agrEntry e (modLnk p g s))) :
    let k := e.key
    let lv := level s k.level
    let becomes := fun (x : Exchange) => answer = .next { modLnk p g s with exch := x }
    let x := s.exch
    let closed := x.opn.filter (fun o => o.key != k)
    let took := x.collected ++ [k]
    let bad := 1 < e.phase ∨ 1 < k.level ∨ lv.en = false ∨ domainCtx s k.domain = none
    (bad → becomes { x with drop := true }) ∧
    (¬ bad → e.phase = 0 → agrOpenOf s k = none →
      (lv.pos = 0 ∨ k ∈ x.collected → becomes { x with drop := true }) ∧
      (lv.pos ≠ 0 → k ∉ x.collected → becomes { x with buf := x.buf ++ [e], collected := took })) ∧
    (¬ bad → e.phase = 0 → ∀ o, agrOpenOf s k = some o →
      (o.sent = true → becomes { x with drop := true }) ∧
      (o.sent = false → lv.pos + 1 ≠ lv.size → becomes { x with
        opn := x.opn.map (fun z => if z.key = k then ⟨k, max o.x e.value, true⟩ else z), collected := took
        tx := x.tx ++ [⟨k, max o.x e.value, 0⟩] }) ∧
      (o.sent = false → lv.pos + 1 = lv.size → k.level = 0 → (level s 1).en = false → ∀ c, domainCtx s k.domain = some c →
        becomes { x with
          opn := closed, arrivals := x.arrivals ++ [⟨c, k.stream, k.step, max o.x e.value⟩], collected := took
          doneCount := cntMod x.doneCount 1
          tx := x.tx ++ (if lv.size = 1 then [] else [⟨k, max o.x e.value, 1⟩]) })) ∧
    (¬ bad → e.phase = 1 →
      (lv.pos + 1 = lv.size → becomes { x with drop := true }) ∧
      (lv.pos + 1 ≠ lv.size → ∀ c, domainCtx s k.domain = some c →
        let k0 : AgrKey := { k with level := 0 }
        becomes { x with
          opn := closed.filter (fun o => o.key != k0), arrivals := x.arrivals ++ [⟨c, k.stream, k.step, e.value⟩]
          doneCount := cntMod x.doneCount 1
          tx := x.tx ++ (if lv.pos + 2 = lv.size then [] else [⟨k, e.value, 1⟩]) ++
            (if k.level = 0 ∨ (level s 0).size = 1 then [] else [⟨k0, e.value, 1⟩]) })) := by
  have hto {u : State} (hu : agrEntry e (modLnk p g s) = u) : answer = .next u := h.trans (congrArg _ hu)
  refine ⟨fun hbad => ?_, fun hok hphase hnone => ⟨fun h => ?_, fun hpos hnew => ?_⟩,
    fun hok hphase o ho => ⟨fun hsent => ?_, fun hsent hlast => ?_, fun hsent hlast hlevel hlevel1 c hc => ?_⟩,
    fun hok hphase => ⟨fun hlast => ?_, fun hlast c hc => ?_⟩⟩
  · exact hto (agrEntry_bad hbad)
  · exact hto ((agrEntry_collect (s := modLnk p g s) hok hphase).trans (agrCollect_closed hnone h))
  · exact hto ((agrEntry_collect (s := modLnk p g s) hok hphase).trans (agrCollect_waits hnone hpos hnew))
  · exact hto ((agrEntry_collect (s := modLnk p g s) hok hphase).trans (agrCollect_sent ho hsent))
  · exact hto ((agrEntry_collect (s := modLnk p g s) hok hphase).trans (agrCollect_folded ho hsent hlast))
  · have hlead := distribute0_leader (s := keyTaken e.key (modLnk p g s)) (k := e.key) (c := c) hlevel hc (max o.x e.value)
    rw [hlevel]
    exact hto ((agrEntry_collect (s := modLnk p g s) hok hphase).trans ((agrCollect_leader (s := modLnk p g s) ho hsent hlast hlevel hlevel1).trans hlead))
  · exact hto (agrEntry_last (s := modLnk p g s) hok hphase hlast)
  · exact hto (agrEntry_distributed (s := modLnk p g s) hok hphase hlast hc)

/-! ## A received frame in its session -/

theorem sessOf_lt {l : LinkPort} {tag : Nat} (h : sessOf l tag = some i) : i < l.sessions.length :=
  (List.findIdx?_eq_some_iff_getElem.1 h).1

theorem linkPort_modSess (f : Session → Session) (q : Nat) :
    linkPort (modSess p i f s) q = { linkPort s q with sessions := (linkPort (modSess p i f s) q).sessions } := by
  rw [modSess, linkPort_modLnk]
  split <;> rfl

/-- From `s` to `t`, port `p` has received a frame, and session `i` of it alone has taken it. -/
theorem received_by_session (hp : p < s.lnk.length) (hi : i < (linkPort s p).sessions.length) (f : Session → Session) :
    let t := modSess p i f (modLnk p LinkPort.receiving s)
    t = { s with lnk := t.lnk } ∧ (linkPort t p).rxFrames = cntMod (linkPort s p).rxFrames 1 ∧
      (∀ j, j ≠ i → session t p j = session s p j) ∧ (∀ q, q ≠ p → linkPort t q = linkPort s q) ∧
      session t p i = f (session s p i) := by
  have hport : linkPort (modLnk p LinkPort.receiving s) p = (linkPort s p).receiving := linkPort_modLnk_same hp _
  refine ⟨rfl, ?_, fun j hj => ?_, fun q hq => ?_, ?_⟩
  · rw [linkPort_modSess, hport]
    rfl
  · rw [session_modSess_other (.inr hj), session_receiving]
  · rw [modSess, linkPort_modLnk_other hq, linkPort_modLnk_other hq]
  · rw [session_modSess_same (by simpa using hp) (by rw [hport]; exact hi), session_receiving]

/-- From `s` to `t`, port `p` has received a frame, session `i` of it has taken it, and port `q` has one more frame to send. -/
theorem relayed_by_session {q : Nat} (hp : p < s.lnk.length) (hi : i < (linkPort s p).sessions.length)
    (hq : (linkPort s q).inReset = false) (f : Session → Session) (fr : TxFrame) (g : Session → Session) :
    let t := modSess p i g (modLnk q (fun l => { l with txq := l.txq ++ [fr] }) (modSess p i f (modLnk p LinkPort.receiving s)))
    t = { s with lnk := t.lnk } ∧ (linkPort t p).rxFrames = cntMod (linkPort s p).rxFrames 1 ∧
      (∀ j, j ≠ i → session t p j = session s p j) ∧ (∀ a, a ≠ p → a ≠ q → linkPort t a = linkPort s a) ∧
      session t p i = g (f (session s p i)) ∧ (linkPort t q).txq = (linkPort s q).txq ++ [fr] := by
  have hqlt : q < s.lnk.length := by
    by_contra hlt
    rw [linkPort, List.getD_eq_getElem?_getD, List.getElem?_eq_none (Nat.le_of_not_lt hlt)] at hq
    cases hq
  obtain ⟨-, hcount, hother, honly, htaken⟩ := received_by_session hp hi f
  generalize hu : modSess p i f (modLnk p LinkPort.receiving s) = u at hcount hother honly htaken
  have hbuilt : u.lnk.length = s.lnk.length := by rw [← hu, modSess_lnk_length, modLnk_lnk_length]
  have hsessions : (linkPort u p).sessions.length = (linkPort s p).sessions.length := by
    rw [← hu, modSess_sessions_length, linkPort_modLnk_same hp]
    rfl
  have hqueue : (linkPort u q).txq = (linkPort s q).txq := by
    by_cases hqp : q = p
    · rw [← hu, hqp, linkPort_modSess, linkPort_modLnk_same hp]
      rfl
    · rw [honly q hqp]
  have hkeep (a j : Nat) : session (modLnk q (fun l => { l with txq := l.txq ++ [fr] }) u) a j = session u a j := by
    rw [session, linkPort_modLnk]
    split <;> rfl
  have hcount' : (linkPort (modLnk q (fun l => { l with txq := l.txq ++ [fr] }) u) p).sessions.length =
      (linkPort u p).sessions.length := by
    rw [linkPort_modLnk]
    split <;> rfl
  refine ⟨by rw [← hu]; rfl, ?_, fun j hj => ?_, fun a hap haq => ?_, ?_, ?_⟩
  · rw [linkPort_modSess, ← hcount, linkPort_modLnk]
    split <;> rfl
  · rw [session_modSess_other (.inr hj), hkeep, hother j hj]
  · rw [modSess, linkPort_modLnk_other hap, linkPort_modLnk_other haq, honly a hap]
  · rw [session_modSess_same (by rwa [modLnk_lnk_length, hbuilt]) (by rwa [hcount', hsessions]), hkeep, htaken]
  · rw [linkPort_modSess, linkPort_modLnk_same (by rwa [hbuilt]), ← hqueue]

theorem Session.moved_poisfur {x : Session} {f : RxFrame} (hskip : skipOf x f = 0) (hrep : repeatOf x f = 0) :
    (x.moved f).poisfur = cntSat x.poisfur ((frameFurs x f 0 f.nfur).filter (·.2)).length := by
  simp only [moved, hskip, hrep, cntSat_zero]

theorem Session.furrowOver_spec (x : Session) : x.furrowOver.loc = x.loc ∧ x.furrowOver.rxNext = x.rxNext ∧
    x.furrowOver.encHops = x.encHops ∧ x.furrowOver.dq = x.dq ∧
    x.furrowOver.doneF = if x.tileFurrows ≤ x.doneF + 1 then 0 else x.doneF + 1 := by
  unfold Session.furrowOver
  split
  · exact ⟨rfl, rfl, rfl, rfl, rfl⟩
  · exact ⟨rfl, rfl, rfl, rfl, rfl⟩

theorem Session.delivered_on {vals : List (Option Q)} {x : Session} (h : x.deliv = true) : x.delivered vals =
    { x with dq := x.dq ++ vals.map (fun v => match v with
      | none => poison
      | some q => (roundVal x.delivType q).1) } := (if_pos h).trans rfl

theorem Session.summed_spec {vs : List (Option Q)} {hops : Nat} {x : Session} (hdeliv : x.deliv = true)
    (hloc : x.loc.length = x.furElems x.doneF) : (x.summed vs hops).rxq = [] ∧ (x.summed vs hops).loc = [] ∧
    (x.summed vs hops).rxNext = x.rxNext ∧ (x.summed vs hops).encHops = hops ∧
    (x.summed vs hops).doneF = (if x.tileFurrows ≤ x.doneF + 1 then 0 else x.doneF + 1) ∧
    (x.summed vs hops).dq = x.dq ++ ((furrowSum vs x.loc).map Val.q).map (fun v => match v with
      | none => poison
      | some q => (roundVal x.delivType q).1) := by
  have htake : x.loc.take (x.furElems x.doneF) = x.loc := List.take_of_length_le (Nat.le_of_eq hloc)
  have hdrop : x.loc.drop (x.furElems x.doneF) = [] := List.drop_of_length_le (Nat.le_of_eq hloc)
  refine ⟨x.summed_rxq vs hops, ?_⟩
  rw [summed, htake, delivered_on (by exact hdeliv), passLocal, hdrop]
  obtain ⟨hloc', hnext, hhops, hdq, hdone⟩ := furrowOver_spec (({ x with
    loc := [], locLost := (x.locLost.filter (0 < ·)).map (· - 1), rxq := [], encHops := hops
    dq := x.dq ++ ((furrowSum vs x.loc).map Val.q).map (fun v => match v with
      | none => poison
      | some q => (roundVal x.delivType q).1) } : Session))
  exact ⟨hloc', hnext, hhops, hdone, hdq⟩

/-! ## Time-outs -/

theorem exec_lnkFrameTimeout_idle (hrun : s.rst = .run) (h : (session s p i).receives = false ∨ tileOpen (session s p i) = false) :
    exec (.lnkFrameTimeout p i) s = .next s := by
  refine (inRun_of_run hrun).trans (if_neg ?_)
  rcases h with h | h <;> simp [h]

theorem exec_lnkFrameTimeout (hrun : s.rst = .run) (hb : sessBuilt s p i = true) (hi : i < (linkPort s p).sessions.length)
    (hrecv : (session s p i).receives = true) (hmode : (session s p i).mode = 1) (hwaits : (session s p i).Waits)
    (hrxq : (session s p i).rxq = []) (hopen : 0 < (session s p i).rxNext) (hnext : (session s p i).rxNext < (session s p i).tileFurrows) :
    exec (.lnkFrameTimeout p i) s = .next
      (modSess p i (Session.losing ((session s p i).tileFurrows - (session s p i).rxNext)) s) := by
  refine (inRun_of_run hrun).trans ((if_pos ?_).trans (congrArg Host.Outcome.next ?_))
  · simp [hb, hrecv, tileOpen, hopen, hrxq]
  · exact loseFurrows_waits (sessBuilt_lt hb) hi (by simp [hmode]) hwaits (by omega)

/-! ## A frame that passes its checks -/

/-- From `s` to `t` the receipt of a frame on port `p` has changed link ports alone, and of port `p` no session but `i`. -/
def FrameTaken (p i : Nat) (b : List Byte) (s t : State) : Prop :=
  exec (.lnkFrameReceive p b false none) s = .next t ∧ t = { s with lnk := t.lnk } ∧
    (linkPort t p).rxFrames = cntMod (linkPort s p).rxFrames 1 ∧ ∀ j, j ≠ i → session t p j = session s p j

section
variable (hrun : s.rst = .run) (hb : lnkBuilt s p = true) (hreset : (linkPort s p).inReset = false) (hlost : (linkPort s p).lost = false)
  (hheld : rxHeld s p = false) {b : List Byte} (hform : FormOk b)
include hrun hb hreset hlost hheld hform

/-- The only entry of an AMAX frame that a level takes. -/
theorem exec_frame_entry (hkind : byteAt b 1 = 1) (hlength : b.length = 32 + 16 * (parseFrame b).nfur)
    (htaken : ∃ v < 2, (level s v).en = true ∧ (level s v).recvPort = p ∧ (level s v).tag = (parseFrame b).tag)
    (hone : (parseFrame b).nfur = 1) (hrest : s.exch.rest = []) : exec (.lnkFrameReceive p b false none) s =
    .next (agrEntry (agrParse (parseFrame b).payload) (modLnk p LinkPort.receiving s)) := by
  have hfull : agrFull s = false := by
    obtain ⟨v, hv, hen, hrp, -⟩ := htaken
    have hany : (List.range 2).any (fun l => (level s l).en && (level s l).recvPort == p) = true :=
      List.any_eq_true.2 ⟨v, List.mem_range.2 hv, by simp [hen, hrp]⟩
    have hno := (Bool.or_eq_false_iff.1 hheld).2
    rw [hany, Bool.and_true] at hno
    exact hno
  have hpay : chunks 16 (parseFrame b).payload = [(parseFrame b).payload] := by
    refine chunks_one (by decide) ?_
    rw [parseFrame, List.length_drop, hlength, hone]
  have hgo := agrGo_one (s := modLnk p LinkPort.receiving s) hrest hfull (agrParse (parseFrame b).payload)
  rw [exec_lnkFrameReceive hrun hb hreset b false hheld hlost, takeFrame_amax hform hkind hlength (by exact htaken), hpay]
  exact congrArg _ hgo

variable (hkind : byteAt b 1 = 0) (hi : sessOf (linkPort s p) (parseFrame b).tag = some i)
  (hlength : b.length = 32 + payloadLen (parseFrame b).wide (session s p i).fl (session s p i).snap.width (parseFrame b).nfur)
  (hwide : (parseFrame b).wide = (session s p i).wide) (htile : (parseFrame b).first + (parseFrame b).nfur ≤ (session s p i).tileFurrows)
include hkind hi hlength hwide htile

theorem exec_frame_data : exec (.lnkFrameReceive p b false none) s =
    .next (placeFrame p i (parseFrame b) (fun _ => false) (modLnk p LinkPort.receiving s)) := by
  have hport : linkPort (modLnk p LinkPort.receiving s) p = (linkPort s p).receiving := linkPort_modLnk_same (lnkBuilt_lt hb) _
  have hsess : session (modLnk p LinkPort.receiving s) p i = session s p i := session_receiving p i
  rw [exec_lnkFrameReceive hrun hb hreset b false hheld hlost, takeFrame_data hform hkind (i := i) (by rw [hport]; exact hi)
    (by rw [hsess]; exact hlength) (by rw [hsess]; exact hwide) (by rw [hsess]; exact htile)]

variable (hfresh : ¬ staleFor (session s p i) (parseFrame b)) (hnext : (session s p i).rxNext < (session s p i).tileFurrows)
include hfresh hnext

theorem exec_frame_waits (hn : 0 < (parseFrame b).nfur) (hmode : (session s p i).mode ≠ 2) (hwaits : (session s p i).Waits) :
    ∃ t, FrameTaken p i b s t ∧ (∀ q, q ≠ p → linkPort t q = linkPort s q) ∧
      session t p i = (session s p i).holding (parseFrame b) := by
  have hp := lnkBuilt_lt hb
  have hport : linkPort (modLnk p LinkPort.receiving s) p = (linkPort s p).receiving := linkPort_modLnk_same hp _
  have hsess : session (modLnk p LinkPort.receiving s) p i = session s p i := session_receiving p i
  have hrecv := exec_frame_data hrun hb hreset hlost hheld hform hkind hi hlength hwide htile
  rw [placeFrame_waits (by simpa using hp) (by rw [hport]; exact sessOf_lt hi) (by rw [hsess]; exact hmode)
    (by rw [hsess]; exact hwaits) (by rw [hsess]; exact hnext) (by rw [hsess]; exact htile) hn (by rw [hsess]; exact hfresh)] at hrecv
  obtain ⟨hframe, hcount, hother, honly, htaken⟩ := received_by_session hp (sessOf_lt hi) (Session.holding (parseFrame b))
  exact ⟨_, ⟨hrecv, hframe, hcount, hother⟩, honly, htaken⟩

variable (hskip : skipOf (session s p i) (parseFrame b) = 0) (hrep : repeatOf (session s p i) (parseFrame b) = 0)
include hskip hrep

omit hnext in
theorem exec_frame_summed (hone : (parseFrame b).nfur = 1) (hmode : (session s p i).mode ≠ 2) (hfwd : (session s p i).fwd = false)
    (hrxq : (session s p i).rxq = [])
    (hloc : (session s p i).loc.length = (session s p i).furElems (session s p i).doneF) (hclean : 0 ∉ (session s p i).locLost) :
    ∃ t, FrameTaken p i b s t ∧ (∀ q, q ≠ p → linkPort t q = linkPort s q) ∧ session t p i =
      ((session s p i).taking (parseFrame b) 1 (frameFurs (session s p i) (parseFrame b) 0 1)).summed
        (frameFurrow (session s p i) (parseFrame b) 0 ((session s p i).furElems (parseFrame b).first)).1 (parseFrame b).hops := by
  have hp := lnkBuilt_lt hb
  have hport : linkPort (modLnk p LinkPort.receiving s) p = (linkPort s p).receiving := linkPort_modLnk_same hp _
  have hsess : session (modLnk p LinkPort.receiving s) p i = session s p i := session_receiving p i
  have hrecv := exec_frame_data hrun hb hreset hlost hheld hform hkind hi hlength hwide htile
  rw [placeFrame_summed (by simpa using hp) (by rw [hport]; exact sessOf_lt hi) (by rw [hsess]; exact hmode) (by rw [hsess]; exact hfwd)
    (by rw [hsess]; exact hrxq) (by rw [hsess]; exact hskip) (by rw [hsess]; exact hrep) hone (by rw [hsess]; exact hfresh)
    (by rw [hsess]; exact hloc) (by rw [hsess]; exact hclean), hsess] at hrecv
  obtain ⟨hframe, hcount, hother, honly, htaken⟩ := received_by_session hp (sessOf_lt hi) (fun x =>
    (x.taking (parseFrame b) 1 (frameFurs (session s p i) (parseFrame b) 0 1)).summed
      (frameFurrow (session s p i) (parseFrame b) 0 ((session s p i).furElems (parseFrame b).first)).1 (parseFrame b).hops)
  exact ⟨_, ⟨hrecv, hframe, hcount, hother⟩, honly, htaken⟩

theorem exec_frame_relayed (hn : 0 < (parseFrame b).nfur) (hmode : (session s p i).mode = 2) (hfwd : (session s p i).fwd = true)
    (hreset' : (linkPort s (session s p i).fwdPort).inReset = false) (hlost' : (linkPort s (session s p i).fwdPort).lost = false) :
    ∃ t, FrameTaken p i b s t ∧ (∀ q, q ≠ p → q ≠ (session s p i).fwdPort → linkPort t q = linkPort s q) ∧
      (session t p i).rxTile = ((session s p i).moved (parseFrame b)).rxTile ∧
      (session t p i).rxNext = ((session s p i).moved (parseFrame b)).rxNext ∧
      (session t p i).poisfur = ((session s p i).moved (parseFrame b)).poisfur ∧
      (session t p i).cbsumBad = ((session s p i).moved (parseFrame b)).cbsumBad ∧
      (linkPort t (session s p i).fwdPort).txq = (linkPort s (session s p i).fwdPort).txq ++ [relayFrame p i (session s p i) (parseFrame b)] := by
  have hp := lnkBuilt_lt hb
  have hsess : session (modLnk p LinkPort.receiving s) p i = session s p i := session_receiving p i
  have hrecv := exec_frame_data hrun hb hreset hlost hheld hform hkind hi hlength hwide htile
  have hopen (f : Session → Session) (q : Nat) : (linkPort (modSess p i f (modLnk p LinkPort.receiving s)) q).inReset =
      (linkPort s q).inReset ∧ (linkPort (modSess p i f (modLnk p LinkPort.receiving s)) q).lost = (linkPort s q).lost := by
    rw [linkPort_modSess, linkPort_modLnk]
    split <;> exact ⟨rfl, rfl⟩
  rw [placeFrame_relayed (by rw [hsess]; exact hmode) (by rw [hsess]; exact hfwd) (by rw [hsess]; exact hskip)
    (by rw [hsess]; exact hrep) hn (by rw [hsess]; exact hfresh), hsess,
    sendFrame_open ((hopen _ _).1.trans hreset') ((hopen _ _).2.trans hlost')] at hrecv
  obtain ⟨hframe, hcount, hother, honly, htaken, hsent⟩ := relayed_by_session hp (sessOf_lt hi) (q := (session s p i).fwdPort) hreset'
    (Session.passing (parseFrame b) (parseFrame b).nfur (frameFurs (session s p i) (parseFrame b) 0 (parseFrame b).nfur))
    (relayFrame p i (session s p i) (parseFrame b))
    (Session.relayed (frameFurs (session s p i) (parseFrame b) 0 (parseFrame b).nfur))
  have hsame := tile_of_skipOf hnext hskip
  refine ⟨_, ⟨hrecv, hframe, hcount, hother⟩, honly, ?_, ?_, ?_, ?_, hsent⟩
  · rw [htaken, Session.relayed_frame, Session.passing, ← hsame]
    rfl
  · rw [htaken, Session.relayed_frame]
    rfl
  · rw [htaken, Session.relayed_frame]
    exact (Session.moved_poisfur hskip hrep).symm
  · rw [htaken, Session.relayed_frame]
    rfl

end

end Sys2Proof.Machine

namespace Sys2Proof.Proofs
open Sys2Proof.Machine

/-- Settles O56: an arriving frame passes its checks (`takeFrame_data`, `takeFrame_amax`), is placed (`placeFrame_fresh`), and its furrows wait
(`placeFrame_waits`), are added and delivered (`placeFrame_summed`) or sent on (`placeFrame_relayed`); the entry of an AMAX frame is taken by
itself (`agrGo_one`). -/
theorem linkFrames : Obligations.LinkFrames := by
  intro s p hrun hb
  have hp := lnkBuilt_lt hb
  refine ⟨fun c rest htile => ⟨exec_lnkLocalElements_discard hrun htile, fun harmed hmode hfew => ?_⟩, exec_lnkLocalElements_none hrun,
    exec_lnkFrameTransmit_none hrun hb, fun pl f hreset hlost hplace hpl hf => ?_,
    fun pl hreset hlost hplace hpl => exec_lnkFrameTransmit_exchange hrun hb hreset hlost hplace hpl, fun b err hreset => ?_,
    fun b hreset hlost hheld hlen hver hflags hcrc => ?_, fun i hi16 hi => ?_⟩
  · have hi : c.session < (linkPort s p).sessions.length := by
      by_contra hlt
      rw [session, List.getD_eq_getElem?_getD, List.getElem?_eq_none (Nat.le_of_not_lt hlt)] at harmed
      cases harmed
    have hexec := exec_lnkLocalElements_send hrun htile harmed hmode
    have hport : linkPort (chunkTaken p rest s) p = (linkPort s p).chunkTaken rest := linkPort_modLnk_same hp _
    have hsess := session_modSess_same (s := chunkTaken p rest s) (p := p) (i := c.session) (by simpa [chunkTaken] using hp)
      (by rw [hport]; exact hi) (Session.withChunk c.bytes)
    rw [session_chunkTaken] at hsess
    rw [sendWork_few (by rw [hsess]; exact List.length_append.trans_lt hfew)] at hexec
    refine ⟨_, hexec, rfl, fun q hq => ?_, ?_, hsess⟩
    · rw [modSess, linkPort_modLnk_other hq, chunkTaken, linkPort_modLnk_other hq]
    · rw [linkPort_modSess, hport]
      rfl
  · have hport (g : LinkPort → LinkPort) : linkPort (modLnk p g s) p = g (linkPort s p) := linkPort_modLnk_same hp g
    refine ⟨_, exec_lnkFrameTransmit_session hrun hb hreset hlost hplace hpl hf, rfl, ?_, ?_, ?_, fun hfp hfs => ?_⟩
    · exact (congrArg LinkPort.txq (linkPort_modSess _ p)).trans (congrArg LinkPort.txq (hport _))
    · exact (congrArg LinkPort.lastServed (linkPort_modSess _ p)).trans (congrArg LinkPort.lastServed (hport _))
    · exact (congrArg LinkPort.txFrames (linkPort_modSess _ p)).trans (congrArg LinkPort.txFrames (hport _))
    · have hkeep (q : Nat) : (linkPort (modLnk p (fun l => { (l.serving pl) with txq := l.txq.erase f }) s) q).sessions =
          (linkPort s q).sessions := by
        rw [linkPort_modLnk]
        split <;> rfl
      have hsess := session_modSess_same (s := modLnk p (fun l => { (l.serving pl) with txq := l.txq.erase f }) s) (p := f.port)
        (i := f.session) (by simpa using hfp) (by rwa [hkeep]) (fun x => { x with seq := cntMod x.seq 1 })
      refine (congrArg Session.seq hsess).trans ?_
      rw [session, hkeep]
      rfl
  · refine ⟨exec_lnkFrameReceive_held hrun b err, exec_lnkFrameReceive_lost hrun hb hreset b err, fun hheld hlost h => ?_,
      fun hheld hlost herr hlen hver hkind hflags hcrc hnone => ?_⟩
    · rw [exec_lnkFrameReceive hrun hb hreset b err hheld hlost, takeFrame_form h, frameBad_receiving]
      rfl
    · have hport : linkPort (modLnk p LinkPort.receiving s) p = (linkPort s p).receiving := linkPort_modLnk_same hp _
      subst herr
      rw [exec_lnkFrameReceive hrun hb hreset b false hheld hlost,
        takeFrame_unknown ⟨hlen, hver, by omega, hflags, hcrc⟩ hkind (by rw [hport]; exact hnone), frameBad_receiving]
      rfl
  · have hport : linkPort (modLnk p LinkPort.receiving s) p = (linkPort s p).receiving := linkPort_modLnk_same hp _
    have hrecv := exec_lnkFrameReceive hrun hb hreset b false hheld hlost
    refine ⟨fun hkind i hi => ?_, fun hkind hlength => ?_⟩
    · have hform : FormOk b := ⟨hlen, hver, by omega, hflags, hcrc⟩
      have hsess : session (modLnk p LinkPort.receiving s) p i = session s p i := session_receiving p i
      refine ⟨fun h => ?_, fun hlength hwide htile => ?_⟩
      · rw [takeFrame_misfit hform hkind (i := i) (by rw [hport]; exact hi) (by rw [hsess]; exact h), frameBad_receiving] at hrecv
        exact hrecv
      · refine ⟨fun hstale => ?_, fun hfresh hn hnext => ⟨fun hmode hloc hfur hq => ?_,
          fun hmode hfwd hdeliv hrxq hskip hrep hone hfur hloc hlost' => ?_, fun hmode hfwd hdeliv hskip hrep hreset' hlost' => ?_⟩⟩
        · have hdata := exec_frame_data hrun hb hreset hlost hheld hform hkind hi hlength hwide htile
          rw [placeFrame_stale _ (by rw [hsess]; exact hstale), modLnk_modLnk] at hdata
          exact hdata
        · exact exec_frame_waits hrun hb hreset hlost hheld hform hkind hi hlength hwide htile hfresh hnext hn (by simp [hmode])
            ⟨hloc, hfur, hq⟩
        · obtain ⟨t, htaken, honly, hsum⟩ := exec_frame_summed hrun hb hreset hlost hheld hform hkind hi hlength hwide htile hfresh
            hskip hrep hone (by simp [hmode]) hfwd hrxq hloc hlost'
          obtain ⟨hq, hl, hnx, hh, hd, hdq⟩ := Session.summed_spec
            (vs := (frameFurrow (session s p i) (parseFrame b) 0 ((session s p i).furElems (parseFrame b).first)).1)
            (hops := (parseFrame b).hops)
            (x := (session s p i).taking (parseFrame b) 1 (frameFurs (session s p i) (parseFrame b) 0 1)) hdeliv hloc
          rw [← hsum] at hq hl hnx hh hd hdq
          refine ⟨t, htaken, honly, hq, hl, hnx.trans ?_, hh, hd, hdq.trans ?_⟩
          · rw [hone]
            rfl
          · rw [List.map_map]
            rfl
        · exact exec_frame_relayed hrun hb hreset hlost hheld hform hkind hi hlength hwide htile hfresh hnext hskip hrep hn hmode hfwd
            hreset' hlost'
    · have hform : FormOk b := ⟨hlen, hver, by omega, hflags, hcrc⟩
      refine ⟨fun htaken => ?_, fun htaken hone hrest => ?_⟩
      · rw [takeFrame_amax_unknown hform hkind hlength (by exact htaken), frameBad_receiving] at hrecv
        exact hrecv
      · exact agrEntry_spec (exec_frame_entry hrun hb hreset hlost hheld hform hkind hlength htaken hone hrest)
  · refine ⟨exec_lnkFrameTimeout_idle hrun, fun hrecv hmode hloc hrxq hopen hnext hfur => ?_⟩
    have hbuilt : sessBuilt s p i = true := by simp [sessBuilt, hb, hi16]
    have hexec := exec_lnkFrameTimeout hrun hbuilt hi hrecv hmode ⟨hloc, hfur, by simp [hrxq]⟩ hrxq hopen hnext
    have hsess := session_modSess_same hp hi (Session.losing ((session s p i).tileFurrows - (session s p i).rxNext))
    refine ⟨_, hexec, rfl, fun q hq => linkPort_modLnk_other hq _, hsess.trans ?_⟩
    have hsum : (session s p i).rxNext + ((session s p i).tileFurrows - (session s p i).rxNext) = (session s p i).tileFurrows := by omega
    rw [Session.losing, hsum, Nat.div_self (by omega), Nat.mod_self, hrxq]
    rfl

end Sys2Proof.Proofs
end

section
/-! PROOFS. Writes through the control port: the address of each register, and what a write of it does (R403 to R415). -/

namespace Sys2Proof.Machine

variable {s : State} {a : BitVec 22} {v : Word} {c off : Nat}

/-! ## Addresses -/

theorem cpFails_low {n : Nat} (halign : n % 4 = 0) (h : n < 0x100000 ∨ 0x300000 ≤ n) : cpFails s n = false := by
  simp only [cpFails, Bool.or_eq_false_iff, Bool.and_eq_false_iff, decide_eq_false_iff_not, bne_eq_false_iff_eq]
  omega

theorem cpFails_region {n r : Nat} (halign : n % 4 = 0) (hr : r < s.regions.length) (hpark : (region s r).parkAck = false)
    (hlo : 0x100000 + 0x40000 * r ≤ n) (hhi : n < 0x100000 + 0x40000 * (r + 1)) : cpFails s n = false := by
  have hindex : (n - 0x100000) / 0x40000 = r := by omega
  simp [cpFails, halign, hindex, regionAck_eq hr, hpark]

theorem cpFails_parked {n r : Nat} (hr : r < s.regions.length) (hpark : (region s r).parkAck = true)
    (hlo : 0x100000 + 0x40000 * r ≤ n) (hhi : n < 0x100000 + 0x40000 * (r + 1)) (htop : n < 0x300000) : cpFails s n = true := by
  have hindex : (n - 0x100000) / 0x40000 = r := by omega
  have hbase : 0x100000 ≤ n := by omega
  simp [cpFails, hindex, regionAck_eq hr, hpark, hbase, htop]

theorem regAt_ring (hc : c < s.build.contexts) (h64 : c < 64) (hoff : off < 0x40) : regAt s (0x4000 + 0x40 * c + off) = .ring c off := by
  simp only [regAt, ctxReg, Bool.and_eq_true, decide_eq_true_eq]
  rw [if_neg (by omega), if_pos (by omega), show (0x4000 + 0x40 * c + off - 0x4000) / 0x40 = c by omega, if_pos hc,
    show (0x4000 + 0x40 * c + off - 0x4000) % 0x40 = off by omega]

theorem regAt_ctx (hc : c < s.build.contexts) (h64 : c < 64) (hoff : off < 0x40) : regAt s (0x11000 + 0x40 * c + off) = .ctx c off := by
  simp only [regAt, ctxReg, Bool.and_eq_true, decide_eq_true_eq]
  rw [if_neg (by omega), if_neg (by omega), if_neg (by omega), if_pos (by omega),
    show (0x11000 + 0x40 * c + off - 0x11000) / 0x40 = c by omega, if_pos hc,
    show (0x11000 + 0x40 * c + off - 0x11000) % 0x40 = off by omega]

theorem regAt_gln (hc : c < s.build.contexts) (h64 : c < 64) (hoff : off < 0x40) : regAt s (0x31000 + 0x40 * c + off) = .gln c off := by
  simp only [regAt, ctxReg, Bool.and_eq_true, decide_eq_true_eq]
  rw [if_neg (by omega), if_neg (by omega), if_neg (by omega), if_neg (by omega), if_neg (by omega), if_neg (by omega), if_pos (by omega),
    show (0x31000 + 0x40 * c + off - 0x31000) / 0x40 = c by omega, if_pos hc,
    show (0x31000 + 0x40 * c + off - 0x31000) % 0x40 = off by omega]

theorem regAt_outl (hc : c < s.build.contexts) (h64 : c < 64) (hoff : off < 0x40) : regAt s (0x32000 + 0x40 * c + off) = .outl c off := by
  simp only [regAt, ctxReg, Bool.and_eq_true, decide_eq_true_eq]
  rw [if_neg (by omega), if_neg (by omega), if_neg (by omega), if_neg (by omega), if_neg (by omega), if_neg (by omega), if_neg (by omega),
    if_pos (by omega), show (0x32000 + 0x40 * c + off - 0x32000) / 0x40 = c by omega, if_pos hc,
    show (0x32000 + 0x40 * c + off - 0x32000) % 0x40 = off by omega]

theorem regAt_rcp {n k : Nat} (hn : n < 256) (hk : k < 8) : regAt s (0x38000 + 0x20 * n + 4 * k) = .rcp n k := by
  simp only [regAt, Bool.and_eq_true, decide_eq_true_eq]
  rw [if_neg (by omega), if_neg (by omega), if_neg (by omega), if_neg (by omega), if_neg (by omega), if_neg (by omega), if_neg (by omega),
    if_neg (by omega), if_pos (by omega), show (0x38000 + 0x20 * n + 4 * k - 0x38000) / 0x20 = n by omega,
    show (0x38000 + 0x20 * n + 4 * k) % 0x20 / 4 = k by omega]

theorem regAt_rng (hoff : off < 0x1000) : regAt s (0x40000 + off) = .rng off := by
  simp only [regAt, Bool.and_eq_true, decide_eq_true_eq]
  rw [if_neg (by omega), if_neg (by omega), if_neg (by omega), if_neg (by omega), if_neg (by omega), if_neg (by omega), if_neg (by omega),
    if_neg (by omega), if_neg (by omega), if_pos (by omega), show 0x40000 + off - 0x40000 = off by omega]

theorem regAt_lnk {n : Nat} (hlo : 0x50000 ≤ n) (hhi : n < 0x60000) : regAt s n = lnkReg s (n - 0x50000) := by
  simp only [regAt, Bool.and_eq_true, decide_eq_true_eq]
  rw [if_neg (by omega), if_neg (by omega), if_neg (by omega), if_neg (by omega), if_neg (by omega), if_neg (by omega), if_neg (by omega),
    if_neg (by omega), if_neg (by omega), if_neg (by omega), if_neg (by omega), if_pos (by omega)]

theorem regAt_region {n : Nat} (hlo : 0x100000 ≤ n) (hhi : n < 0x300000) :
    regAt s n = regionReg s ((n - 0x100000) / 0x40000) ((n - 0x100000) % 0x40000) := by
  simp only [regAt, Bool.and_eq_true, decide_eq_true_eq]
  rw [if_neg (by omega), if_neg (by omega), if_neg (by omega), if_neg (by omega), if_neg (by omega), if_neg (by omega), if_neg (by omega),
    if_neg (by omega), if_neg (by omega), if_neg (by omega), if_neg (by omega), if_neg (by omega), if_neg (by omega), if_pos (by omega)]

theorem regAt_dma {r : Nat} (hr : r < s.build.regions) (hoff : off < 0x1000) (htop : 0x100000 + 0x40000 * r + (0xF000 + off) < 0x300000) :
    regAt s (0x100000 + 0x40000 * r + (0xF000 + off)) = .dma r off := by
  rw [regAt_region (by omega) htop]
  simp only [regionReg, Bool.and_eq_true, decide_eq_true_eq]
  rw [show (0x100000 + 0x40000 * r + (0xF000 + off) - 0x100000) / 0x40000 = r by omega,
    show (0x100000 + 0x40000 * r + (0xF000 + off) - 0x100000) % 0x40000 = 0xF000 + off by omega, if_neg (by omega), if_pos (by omega),
    Nat.add_sub_cancel_left]

theorem regAt_chan {r ch : Nat} (hr : r < s.build.regions) (hch : ch < 32) (hoff : off < 0x100)
    (htop : 0x100000 + 0x40000 * r + 0x10000 + 0x100 * ch + off < 0x300000) :
    regAt s (0x100000 + 0x40000 * r + 0x10000 + 0x100 * ch + off) = .chan r ch off := by
  rw [regAt_region (by omega) htop]
  simp only [regionReg, Bool.and_eq_true, decide_eq_true_eq]
  rw [show (0x100000 + 0x40000 * r + 0x10000 + 0x100 * ch + off - 0x100000) / 0x40000 = r by omega,
    show (0x100000 + 0x40000 * r + 0x10000 + 0x100 * ch + off - 0x100000) % 0x40000 = 0x10000 + 0x100 * ch + off by omega,
    if_neg (by omega), if_neg (by omega), if_pos (by omega), show (0x10000 + 0x100 * ch + off - 0x10000) / 0x100 = ch by omega,
    show (0x10000 + 0x100 * ch + off) % 0x100 = off by omega]

theorem regAt_portReg {p : Nat} (hp : p < 15) (hoff : off < 0x1000) :
    regAt s (0x50000 + 0x1000 * (p + 1) + off) = portReg s p off := by
  rw [regAt_lnk (by omega) (by omega)]
  simp only [lnkReg, Bool.and_eq_true, decide_eq_true_eq]
  rw [if_neg (by omega), if_neg (by omega), if_neg (by omega), if_pos (by omega),
    show (0x50000 + 0x1000 * (p + 1) + off - 0x50000) / 0x1000 - 1 = p by omega,
    show (0x50000 + 0x1000 * (p + 1) + off - 0x50000) % 0x1000 = off by omega]

theorem regAt_port {p : Nat} (hp : p < 15) (hb : p < s.build.linkPorts) (hoff : off < 0x100) :
    regAt s (0x50000 + 0x1000 * (p + 1) + off) = .port p off := by
  rw [regAt_portReg hp (by omega), portReg, if_neg (by omega), if_pos hoff]

theorem regAt_sess {p i : Nat} (hp : p < 15) (hb : p < s.build.linkPorts) (hi : i < 16) (hoff : off < 0x40) :
    regAt s (0x50000 + 0x1000 * (p + 1) + (0x100 + 0x40 * i + off)) = .sess p i off := by
  rw [regAt_portReg hp (by omega), portReg, if_neg (by omega), if_neg (by omega), if_pos (by omega),
    show (0x100 + 0x40 * i + off - 0x100) / 0x40 = i by omega, show (0x100 + 0x40 * i + off) % 0x40 = off by omega]

/-! ## Writes -/

/-- The state in which a write has been answered well. -/
def written (s : State) : State := emit (.cpAck false) s

section
variable (hrun : s.rst = .run)
include hrun

theorem exec_registerWrite_fails (h : cpFails s a.toNat = true) (v : Word) : exec (.registerWrite a v) s = .next (emit (.cpAck true) s) :=
  (inRun_of_run hrun).trans (congrArg Host.Outcome.next (if_pos h))

theorem exec_registerWrite (h : cpFails s a.toNat = false) (hreset : a.toNat ≠ 0x1004) (v : Word) :
    exec (.registerWrite a v) s = .next (writeReg (regAt s a.toNat) v (written s)) :=
  (inRun_of_run hrun).trans (congrArg Host.Outcome.next ((if_neg (by simp [h])).trans (if_neg hreset)))

/-- A write of a register outside the regions' blocks. -/
theorem exec_registerWrite_low {n : Nat} {x : Reg} (ha : a.toNat = n) (halign : n % 4 = 0) (h : n < 0x100000 ∨ 0x300000 ≤ n)
    (hreset : n ≠ 0x1004) (hx : regAt s n = x) (v : Word) : exec (.registerWrite a v) s = .next (writeReg x v (written s)) := by
  subst ha
  rw [exec_registerWrite hrun (cpFails_low halign h) hreset, hx]

theorem exec_registerWrite_region {r n : Nat} {x : Reg} (ha : a.toNat = n) (halign : n % 4 = 0) (hr : r < s.regions.length)
    (hpark : (region s r).parkAck = false) (hlo : 0x100000 + 0x40000 * r ≤ n) (hhi : n < 0x100000 + 0x40000 * (r + 1))
    (hx : regAt s n = x) (v : Word) : exec (.registerWrite a v) s = .next (writeReg x v (written s)) := by
  subst ha
  rw [exec_registerWrite hrun (cpFails_region halign hr hpark hlo hhi) (by omega), hx]

end

/-- A field of a context that is written only in DISABLED. -/
theorem held_ctx {answer : Answer} {x : Reg} {f : Ctx → Ctx} (h : answer = .next (writeReg x v (written s)))
    (hw : writeReg x v (written s) = rwCtx c f (written s)) :
    ((ctxOf s c).state = .disabled → answer = .next (modCtx c f (written s))) ∧
    ((ctxOf s c).state ≠ .disabled → answer = .next (written s)) := by
  rw [h, hw]
  refine ⟨fun hd => congrArg _ (if_pos ?_), fun hd => congrArg _ (if_neg ?_)⟩
  · exact beq_iff_eq.2 hd
  · exact fun hb => hd (beq_iff_eq.1 hb)

/-- A field of a session that is written only while it is idle. -/
theorem held_sess {answer : Answer} {x : Reg} {p i : Nat} {f : Session → Session} (h : answer = .next (writeReg x v (written s)))
    (hw : writeReg x v (written s) = rwSess p i f (written s)) :
    ((session s p i).state = .idle → answer = .next (modSess p i f (written s))) ∧
    ((session s p i).state ≠ .idle → answer = .next (modLnk p (fun l => { l with wrDrop := true }) (written s))) := by
  rw [h, hw]
  refine ⟨fun hd => congrArg _ (if_pos ?_), fun hd => congrArg _ (if_neg ?_)⟩
  · exact beq_iff_eq.2 hd
  · exact fun hb => hd (beq_iff_eq.1 hb)

/-- A field of a channel that is written only while it is idle and direct. -/
theorem held_chan {answer : Answer} {x : Reg} {r ch : Nat} {f : Chan → Chan} (h : answer = .next (writeReg x v (written s)))
    (hw : writeReg x v (written s) = rwChan r ch f (written s)) :
    ((chan s r ch).state = .idle → (region s r).dma.own.getLsbD ch = true → answer = .next (modChan r ch f (written s))) ∧
    ((chan s r ch).state ≠ .idle ∨ (region s r).dma.own.getLsbD ch = false →
      answer = .next (modChan r ch (fun c => { c with wrDrop := true }) (written s))) := by
  have hbit : bit (region s r).dma.own.toNat ch = (region s r).dma.own.getLsbD ch := rfl
  have hcond : ((chan (written s) r ch).state == .idle && bit (region (written s) r).dma.own.toNat ch) =
      ((chan s r ch).state == .idle && (region s r).dma.own.getLsbD ch) := rfl
  rw [h, hw, rwChan, hcond]
  refine ⟨fun hd hown => ?_, fun hd => ?_⟩
  · rw [if_pos (by simp [hd, hown])]
  · rw [if_neg (by rcases hd with hd | hd <;> simp [hd])]

end Sys2Proof.Machine
end

section
/-! PROOFS. Writes through the control port, settled. -/

namespace Sys2Proof.Machine

variable {s : State} {a : BitVec 22} {v : Word}

/-- The registers of a context that are written only in DISABLED, and those beside them. -/
theorem contextWrites (hrun : s.rst = .run) {c : Nat} (hc : c < s.build.contexts) (h64 : c < 64) :
    let gives := fun (t : State) => exec (.registerWrite a v) s = .next t
    let bit' := fun (old : Bool) (i : Nat) => old && !v.getLsbD i
    let held := fun (base off : Nat) (f : Ctx → Ctx) => a.toNat = base + 0x40 * c + off →
      ((ctxOf s c).state = .disabled → gives (modCtx c f (written s))) ∧ ((ctxOf s c).state ≠ .disabled → gives (written s))
    held 0x011000 0x04 (fun x => { x with cfg := v &&& 0x8700FFFF }) ∧
    held 0x011000 0x10 (fun x => { x with scoreLo := v &&& 0xFFFFFFC0 }) ∧
    held 0x004000 0x00 (fun x => { x with subBaseLo := v &&& 0xFFFFFFC0 }) ∧ held 0x004000 0x04 (fun x => { x with subBaseHi := v }) ∧
    held 0x004000 0x08 (fun x => { x with subSize := v &&& 0x1F }) ∧ held 0x004000 0x10 (fun x => { x with subCons := v }) ∧
    held 0x004000 0x14 (fun x => { x with cplBaseLo := v &&& 0xFFFFFFC0 }) ∧ held 0x004000 0x18 (fun x => { x with cplBaseHi := v }) ∧
    held 0x004000 0x1C (fun x => { x with cplSize := v &&& 0x1F }) ∧ held 0x004000 0x20 (fun x => { x with cplWrite := v }) ∧
    held 0x031000 0x00 (fun x => { x with glnBaseLo := v &&& 0xFFFFFF80 }) ∧ held 0x031000 0x04 (fun x => { x with glnBaseHi := v }) ∧
    held 0x031000 0x08 (fun x => { x with glnSize := v &&& 0x1F }) ∧ held 0x031000 0x0C (fun x => { x with glnWrite := v }) ∧
    held 0x031000 0x18 (fun x => { x with granLo := v &&& 0xFFFFFFC0 }) ∧ held 0x031000 0x1C (fun x => { x with granHi := v }) ∧
    held 0x032000 0x00 (fun x => { x with oplanLo := v &&& 0xFFFFFFC0 }) ∧ held 0x032000 0x04 (fun x => { x with oplanHi := v }) ∧
    (a.toNat = 0x004000 + 0x40 * c + 0x28 → gives (modCtx c (fun x => { x with subErr := bit' x.subErr 1 }) (written s))) ∧
    (a.toNat = 0x031000 + 0x40 * c + 0x10 → gives (written s)) ∧
    (a.toNat = 0x031000 + 0x40 * c + 0x24 → gives (modCtx c (fun x => { x with
      granBad := bit' x.granBad 2, histLost := bit' x.histLost 1, rcpRej := bit' x.rcpRej 0 }) (written s))) := by
  have hctx {off : Nat} (hoff : off < 0x40) (h4 : off % 4 = 0) (ha : a.toNat = 0x011000 + 0x40 * c + off) :
      exec (.registerWrite a v) s = .next (writeReg (.ctx c off) v (written s)) :=
    exec_registerWrite_low hrun ha (by omega) (.inl (by omega)) (by omega) (regAt_ctx hc h64 hoff) v
  have hring {off : Nat} (hoff : off < 0x40) (h4 : off % 4 = 0) (ha : a.toNat = 0x004000 + 0x40 * c + off) :
      exec (.registerWrite a v) s = .next (writeReg (.ring c off) v (written s)) :=
    exec_registerWrite_low hrun ha (by omega) (.inl (by omega)) (by omega) (regAt_ring hc h64 hoff) v
  have hgln {off : Nat} (hoff : off < 0x40) (h4 : off % 4 = 0) (ha : a.toNat = 0x031000 + 0x40 * c + off) :
      exec (.registerWrite a v) s = .next (writeReg (.gln c off) v (written s)) :=
    exec_registerWrite_low hrun ha (by omega) (.inl (by omega)) (by omega) (regAt_gln hc h64 hoff) v
  have houtl {off : Nat} (hoff : off < 0x40) (h4 : off % 4 = 0) (ha : a.toNat = 0x032000 + 0x40 * c + off) :
      exec (.registerWrite a v) s = .next (writeReg (.outl c off) v (written s)) :=
    exec_registerWrite_low hrun ha (by omega) (.inl (by omega)) (by omega) (regAt_outl hc h64 hoff) v
  exact ⟨fun ha => held_ctx (hctx (by decide) rfl ha) rfl, fun ha => held_ctx (hctx (by decide) rfl ha) rfl,
    fun ha => held_ctx (hring (by decide) rfl ha) rfl, fun ha => held_ctx (hring (by decide) rfl ha) rfl,
    fun ha => held_ctx (hring (by decide) rfl ha) rfl, fun ha => held_ctx (hring (by decide) rfl ha) rfl,
    fun ha => held_ctx (hring (by decide) rfl ha) rfl, fun ha => held_ctx (hring (by decide) rfl ha) rfl,
    fun ha => held_ctx (hring (by decide) rfl ha) rfl, fun ha => held_ctx (hring (by decide) rfl ha) rfl,
    fun ha => held_ctx (hgln (by decide) rfl ha) rfl, fun ha => held_ctx (hgln (by decide) rfl ha) rfl,
    fun ha => held_ctx (hgln (by decide) rfl ha) rfl, fun ha => held_ctx (hgln (by decide) rfl ha) rfl,
    fun ha => held_ctx (hgln (by decide) rfl ha) rfl, fun ha => held_ctx (hgln (by decide) rfl ha) rfl,
    fun ha => held_ctx (houtl (by decide) rfl ha) rfl, fun ha => held_ctx (houtl (by decide) rfl ha) rfl,
    fun ha => hring (by decide) rfl ha, fun ha => hgln (by decide) rfl ha, fun ha => hgln (by decide) rfl ha⟩

/-! ## Recipes and the random-bit generator -/

theorem recipeWrites (hrun : s.rst = .run) {n k : Nat} (hn : n < 256) (hk : k < 8) (ha : a.toNat = 0x038000 + 0x20 * n + 4 * k) :
    (s.health.wedgedRecipes = false → ldrHolds s 0x11 n = false → exec (.registerWrite a v) s = .next { written s with
      recipes := modAt s.recipes n (fun r => modAt r k (fun _ => if k = 0 then v &&& 0xFFFF7FFF else v)) }) ∧
    (s.health.wedgedRecipes = true → exec (.registerWrite a v) s = .next (written s)) := by
  have hexec := exec_registerWrite_low hrun ha (by omega) (.inl (by omega)) (by omega) (regAt_rcp hn hk) v
  rw [hexec]
  refine ⟨fun hw hl => congrArg _ (if_neg ?_), fun hw => congrArg _ (if_pos ?_)⟩
  · have hl' : ldrHolds (written s) 0x11 n = false := hl
    have hw' : (written s).health.wedgedRecipes = false := hw
    simp [hw', hl']
  · have hw' : (written s).health.wedgedRecipes = true := hw
    simp [hw']

/-- A test register is written while no draw is under way. -/
theorem rngWrites (hrun : s.rst = .run) {off : Nat} {f : RngTest → RngTest} (hoff : off < 0x1000) (h4 : off % 4 = 0)
    (ha : a.toNat = 0x040000 + off) (hw : writeRng off v (written s) =
      modRng (fun r => if r.busy then { r with wrDrop := true } else f r) (written s)) :
    (s.rng.busy = false → exec (.registerWrite a v) s = .next { written s with rng := f s.rng }) ∧
    (s.rng.busy = true → exec (.registerWrite a v) s = .next { written s with rng := { s.rng with wrDrop := true } }) := by
  have hexec := exec_registerWrite_low hrun ha (by omega) (.inl (by omega)) (by omega) (regAt_rng hoff) v
  rw [hexec]
  refine ⟨fun hb => congrArg _ ?_, fun hb => congrArg _ ?_⟩
  · exact hw.trans (congrArg (fun r => ({ written s with rng := r } : State)) (if_neg (Bool.eq_false_iff.1 hb)))
  · exact hw.trans (congrArg (fun r => ({ written s with rng := r } : State)) (if_pos hb))

/-! ## DMA channels -/

theorem writeChan_reg {r ch off : Nat} (hoff : off < 0x3C) (u : State) : writeChan r ch off v u =
    rwChan r ch (fun c => { c with regs := modAt c.regs (off / 4) (fun _ => v &&& chanMask off) }) u := by
  unfold writeChan
  split
  · omega
  · omega
  · omega
  · omega
  · omega
  · exact if_pos hoff

theorem chanMask_and {off : Nat} : v &&& chanMask off =
    if off = 0x30 then v &&& 0xF33 else if off = 0x34 then v &&& 0xFFFFFFC0 else v := by
  unfold chanMask
  split
  · rfl
  · rfl
  · next h30 h34 =>
    rw [if_neg h30, if_neg h34]
    exact BitVec.and_allOnes

theorem chanWrites (hrun : s.rst = .run) {r ch off : Nat} (hr : r < s.build.regions) (hlen : r < s.regions.length)
    (hpark : (region s r).parkAck = false) (hch : ch < 32) (ha : a.toNat = 0x100000 + 0x40000 * r + 0x10000 + 0x100 * ch + off)
    (htop : a.toNat < 0x300000) :
    let bit' := fun (old : Bool) (i : Nat) => old && !v.getLsbD i
    let put := fun (f : Chan → Chan) => exec (.registerWrite a v) s = .next (modChan r ch f (written s))
    let held := fun (f : Chan → Chan) => ((chan s r ch).state = .idle → (region s r).dma.own.getLsbD ch = true → put f) ∧
      ((chan s r ch).state ≠ .idle ∨ (region s r).dma.own.getLsbD ch = false → put (fun c => { c with wrDrop := true }))
    (off < 0x3C → off % 4 = 0 → held (fun c => { c with regs := modAt c.regs (off / 4) (fun _ =>
      if off = 0x30 then v &&& 0xF33 else if off = 0x34 then v &&& 0xFFFFFFC0 else v) })) ∧
    (off = 0x50 → held (fun c => { c with cfg := v &&& 0x703 })) ∧
    (off = 0x54 → held (fun c => { c with cplLo := v &&& 0xFFFFFFE0 })) ∧ (off = 0x58 → held (fun c => { c with cplHi := v })) ∧
    (off = 0x40 → put (fun c => { c with wrDrop := bit' c.wrDrop 1, seqErr := bit' c.seqErr 0 })) := by
  have hexec (hoff : off < 0x100) (h4 : off % 4 = 0) :
      exec (.registerWrite a v) s = .next (writeReg (.chan r ch off) v (written s)) :=
    exec_registerWrite_region hrun ha (by omega) hlen hpark (by omega) (by omega) (regAt_chan hr hch hoff (by omega)) v
  have hreg : writeReg (.chan r ch off) v (written s) = writeChan r ch off v (written s) := if_pos hch
  refine ⟨fun hoff h4 => ?_, fun hoff => ?_, fun hoff => ?_, fun hoff => ?_, fun hoff => ?_⟩
  · refine held_chan (hexec (by omega) h4) (hreg.trans ((writeChan_reg hoff _).trans ?_))
    rw [chanMask_and]
  · subst hoff
    exact held_chan (hexec (by omega) rfl) hreg
  · subst hoff
    exact held_chan (hexec (by omega) rfl) hreg
  · subst hoff
    exact held_chan (hexec (by omega) rfl) hreg
  · subst hoff
    exact (hexec (by omega) rfl).trans (congrArg _ hreg)

/-! ## Sessions of a link port -/

theorem sessionWrites (hrun : s.rst = .run) {p i off : Nat} (hp : p < 15) (hb : p < s.build.linkPorts) (hi : i < 16)
    (ha : a.toNat = 0x050000 + 0x1000 * (p + 1) + 0x100 + 0x40 * i + off) :
    let bit' := fun (old : Bool) (i : Nat) => old && !v.getLsbD i
    let gives := fun (t : State) => exec (.registerWrite a v) s = .next t
    let held := fun (f : Session → Session) =>
      ((session s p i).state = .idle → gives (modSess p i f (written s))) ∧
      ((session s p i).state ≠ .idle → gives (modLnk p (fun l => { l with wrDrop := true }) (written s)))
    (off = 0x00 → held (fun x => { x with cfg := v })) ∧ (off = 0x04 → held (fun x => { x with fmt := v })) ∧
    (off = 0x08 → held (fun x => { x with tag := v })) ∧ (off = 0x0C → held (fun x => { x with elems := v })) ∧
    (off = 0x10 → held (fun x => { x with dcols := v })) ∧ (off = 0x14 → held (fun x => { x with route := v &&& 0xFFFF })) ∧
    (off = 0x18 → held (fun x => { x with tile := v })) ∧
    (off = 0x20 → gives (modSess p i (fun x => { x with
      loss := bit' x.loss 3, cbsumBad := bit' x.cbsumBad 2, sat := bit' x.sat 1, seqErr := bit' x.seqErr 0 }) (written s))) := by
  have hexec {o : Nat} (hoff : off = o) (hlt : o < 0x40) (h4 : o % 4 = 0) :
      exec (.registerWrite a v) s = .next (writeReg (.sess p i o) v (written s)) := by
    subst hoff
    exact exec_registerWrite_low hrun (n := 0x50000 + 0x1000 * (p + 1) + (0x100 + 0x40 * i + off))
      (ha.trans (by simp only [Nat.add_assoc])) (by omega) (.inl (by omega)) (by omega) (regAt_sess hp hb hi hlt) v
  exact ⟨fun h => held_sess (hexec h (by decide) rfl) rfl, fun h => held_sess (hexec h (by decide) rfl) rfl,
    fun h => held_sess (hexec h (by decide) rfl) rfl, fun h => held_sess (hexec h (by decide) rfl) rfl,
    fun h => held_sess (hexec h (by decide) rfl) rfl, fun h => held_sess (hexec h (by decide) rfl) rfl,
    fun h => held_sess (hexec h (by decide) rfl) rfl, fun h => hexec h (by decide) rfl⟩

end Sys2Proof.Machine

namespace Sys2Proof.Proofs
open Sys2Proof.Machine

/-- Settles O58: each address is that of its register (`regAt_ctx` and the others), and each register is written as its block says. -/
theorem registerWrites : Obligations.RegisterWrites := by
  intro s a v hrun
  have low {n : Nat} {x : Reg} {a : BitVec 22} (ha : a.toNat = n) (halign : n % 4 = 0) (h : n < 0x100000 ∨ 0x300000 ≤ n)
      (hreset : n ≠ 0x1004) (hx : regAt s n = x) : exec (.registerWrite a v) s = .next (writeReg x v (written s)) :=
    exec_registerWrite_low hrun ha halign h hreset hx v
  refine ⟨fun h => exec_registerWrite_fails hrun ?_ v, fun r hr hpark hlo hhi htop =>
    exec_registerWrite_fails hrun (cpFails_parked hr hpark hlo hhi htop) v, fun h4 hlow hres => ?_,
    low (n := 0x010004) rfl rfl (.inl (by decide)) (by decide) rfl, low (n := 0x010010) rfl rfl (.inl (by decide)) (by decide) rfl,
    low (n := 0x010018) rfl rfl (.inl (by decide)) (by decide) rfl, low (n := 0x030000) rfl rfl (.inl (by decide)) (by decide) rfl,
    low (n := 0x030004) rfl rfl (.inl (by decide)) (by decide) rfl, low (n := 0x030010) rfl rfl (.inl (by decide)) (by decide) rfl,
    low (n := 0x030024) rfl rfl (.inl (by decide)) (by decide) rfl, low (n := 0x030028) rfl rfl (.inl (by decide)) (by decide) rfl,
    low (n := 0x030034) rfl rfl (.inl (by decide)) (by decide) rfl, low (n := 0x060004) rfl rfl (.inl (by decide)) (by decide) rfl,
    low (n := 0x300000) rfl rfl (.inr (by decide)) (by decide) rfl, low (n := 0x002008) rfl rfl (.inl (by decide)) (by decide) rfl,
    fun c hc h64 _ => contextWrites hrun hc h64, fun n k hn hk ha => recipeWrites hrun hn hk ha, fun off f hf ha => ?_,
    fun r hr hlen hpark => ⟨fun ha htop => ?_, fun ha htop => ?_, fun ha htop => ?_, fun ch off hch ha htop => ?_⟩,
    fun p i off hp hb hi ha => sessionWrites hrun hp hb hi ha, fun p hp hb ha => ?_⟩
  · simp [cpFails, h]
  · rw [low rfl h4 hlow ?_ hres]
    · rfl
    · intro hreset
      rw [hreset] at hres
      cases hres
  · rcases hf with ⟨rfl, rfl⟩ | ⟨rfl, rfl⟩ | ⟨rfl, rfl⟩ | ⟨rfl, rfl⟩
    · exact rngWrites (v := v) (f := fun r => { r with seedLo := v }) hrun (by decide) rfl ha rfl
    · exact rngWrites (v := v) (f := fun r => { r with sid := v &&& 0xFFFFFF }) hrun (by decide) rfl ha rfl
    · exact rngWrites (v := v) (f := fun r => { r with subHi := v &&& 0xFF }) hrun (by decide) rfl ha rfl
    · exact rngWrites (v := v) (f := id) hrun (by decide) rfl ha rfl
  · exact exec_registerWrite_region hrun (n := 0x100000 + 0x40000 * r + (0xF000 + 0)) (by omega) (by omega) hlen hpark (by omega) (by omega)
      (regAt_dma hr (by decide) (by omega)) v
  · exact exec_registerWrite_region hrun (n := 0x100000 + 0x40000 * r + (0xF000 + 0x10)) (by omega) (by omega) hlen hpark (by omega)
      (by omega) (regAt_dma hr (by decide) (by omega)) v
  · exact exec_registerWrite_region hrun (n := 0x100000 + 0x40000 * r + (0xF000 + 0x1C)) (by omega) (by omega) hlen hpark (by omega)
      (by omega) (regAt_dma hr (by decide) (by omega)) v
  · exact chanWrites hrun hr hlen hpark hch ha htop
  · exact low (n := 0x050000 + 0x1000 * (p + 1) + 8) (by omega) (by omega) (.inl (by omega)) (by omega) (regAt_port hp hb (by decide))

end Sys2Proof.Proofs
end

section
/-! PROOFS. What the completion of nodes leaves of tasks and contexts; a swath that leaves its core (R78, R264, R265). -/

namespace Sys2Proof.Machine

variable {s t u : State} {P : NodeRef → Prop} {r q : NodeRef} {n : Node} {k : Task} {c : Consumer}

/-! ## Tasks of nodes -/

theorem taskOf_of_node (h : nodeOf s r = some n) : taskOf s r = n.task := by
  rw [taskOf, h]
  rfl

theorem taskOf_congr (h : t.ctxs = s.ctxs) (r : NodeRef) : taskOf t r = taskOf s r := by
  rw [taskOf, nodeOf_congr h, taskOf]

theorem taskOf_modTask (f : Task → Task) (h : taskOf s r = some k) : taskOf (modTask r f s) r = some (f k) := by
  obtain ⟨n, hn, hk⟩ := Option.bind_eq_some_iff.1 h
  rw [modTask, taskOf, nodeOf_modNode_same hn]
  exact congrArg (Option.map f) hk

theorem ctxOf_modTask_other {f : Task → Task} {d : Nat} (h : d ≠ r.ctx) : ctxOf (modTask r f s) d = ctxOf s d := ctxOf_modNode_other h

/-- A change of a task leaves every node with its status. -/
theorem nodeOf_modTask (f : Task → Task) (h : nodeOf s r = some n) :
    ∃ m, nodeOf (modTask q f s) r = some m ∧ m.stat = n.stat ∧ m.status = n.status ∧ m.cause = n.cause := by
  by_cases hrq : r = q
  · subst hrq
    exact ⟨_, nodeOf_modNode_same h, rfl, rfl, rfl⟩
  · exact ⟨n, (nodeOf_modNode_other hrq).trans h, rfl, rfl, rfl⟩

theorem NodeEnded.modTask {status cause : Nat} (h : NodeEnded s r status cause) (q : NodeRef) (f : Task → Task) :
    NodeEnded (modTask q f s) r status cause := by
  obtain ⟨m, hm, hstat, hstatus, hcause⟩ := h
  obtain ⟨m', hm', hstat', hstatus', hcause'⟩ := nodeOf_modTask (q := q) f hm
  exact ⟨m', hm', hstat'.trans hstat, hstatus'.trans hstatus, hcause'.trans hcause⟩

/-- A graph whose nodes all keep their tasks. -/
def Graph.TasksKept (g h : Graph) : Prop := ∀ (j : Nat) (n : Node), g.nodes[j]? = some n → ∃ m, h.nodes[j]? = some m ∧ m.task = n.task

theorem Graph.TasksKept.trans {g h i : Graph} (h₁ : g.TasksKept h) (h₂ : h.TasksKept i) : g.TasksKept i := by
  intro j n hn
  obtain ⟨m, hm, hmn⟩ := h₁ j n hn
  obtain ⟨m', hm', hm'm⟩ := h₂ j m hm
  exact ⟨m', hm', hm'm.trans hmn⟩

theorem applySucc_tasks (a : Nat) (g : Graph) : g.TasksKept (applySucc a g) := by
  intro j n hn
  obtain ⟨m, hm, hsame⟩ := applySucc_same a g j n hn
  exact ⟨m, hm, hsame.task_eq⟩

theorem doomedCancel_tasks (g : Graph) (a : Nat) : g.TasksKept (doomedCancel g a) := by
  unfold doomedCancel
  split
  · refine Graph.TasksKept.trans (fun j n hn => ?_) (applySucc_tasks a _)
    rw [modAt, List.getElem?_modify, hn]
    exact ⟨_, rfl, by dsimp only; split <;> rfl⟩
  · exact fun j n hn => ⟨n, hn, rfl⟩

theorem cascade_tasks (g : Graph) : g.TasksKept (cascade g) := by
  unfold cascade
  generalize List.range g.nodes.length = l
  induction l generalizing g with
  | nil => exact fun j n hn => ⟨n, hn, rfl⟩
  | cons a l ih => exact (doomedCancel_tasks g a).trans (ih _)

/-- The completion of a node leaves the task of every other. -/
theorem taskOf_completeNode_other {status cause : Nat} (hrq : r ≠ q) (h : taskOf s r = some k) :
    taskOf (completeNode q status cause s) r = some k := by
  obtain ⟨n, hn, hk⟩ := Option.bind_eq_some_iff.1 h
  cases hq : nodeOf s q with
  | none => rw [completeNode_absent hq, h]
  | some m =>
    by_cases hstat : m.stat = .completed
    · rw [completeNode_completed hq hstat, h]
    · obtain ⟨g, hg, hgn⟩ := graph_of_nodeOf hn
      rw [completeNode_eq hq hstat, taskOf, nodeOf_modGraph (completeIn_slot _ _ _)]
      split
      · rename_i hsame
        have hnode : r.node ≠ q.node := by
          intro hnode
          cases r; cases q
          simp only at hsame hnode
          exact hrq (by simp [hsame.1, hsame.2, hnode])
        obtain ⟨m', hm', htask⟩ := (applySucc_tasks q.node
          { g with nodes := modAt g.nodes q.node (Node.ended status cause) }).trans (cascade_tasks _) r.node n
            (by simp only [modAt, List.getElem?_modify, hgn, if_neg hnode.symm]; rfl)
        rw [← hsame.1, ← hsame.2, hg]
        show ((completeIn q.node status cause g).nodes[r.node]?).bind (·.task) = some k
        rw [show (completeIn q.node status cause g).nodes[r.node]? = some m' from hm']
        exact htask.trans hk
      · rw [hn]
        exact hk

/-! ## Some nodes complete, and banks change -/

/-- `t` is `s` after the completion of nodes that meet `P`, with other banks. -/
inductive Completions (P : NodeRef → Prop) (s : State) : State → Prop
  | refl : Completions P s s
  | banks {t : State} (h : Completions P s t) (l : List Bank) : Completions P s { t with banks := l }
  | node {t : State} (h : Completions P s t) {r : NodeRef} (hr : P r) (status cause : Nat) : Completions P s (completeNode r status cause t)

theorem Completions.frame (h : Completions P s t) : t = { s with banks := t.banks, ctxs := t.ctxs } := by
  induction h with
  | refl => rfl
  | banks h l ih =>
    rw [ih]
  | node h hr status cause ih =>
    rw [completeNode_frame, ih]

theorem Completions.task (h : Completions P s t) (hr : ¬ P r) (hk : taskOf s r = some k) : taskOf t r = some k := by
  induction h with
  | refl => exact hk
  | banks h l ih => exact ih
  | node h hq status cause ih => exact taskOf_completeNode_other (fun hrq => hr (hrq ▸ hq)) ih

theorem Completions.ctx_other {d : Nat} (h : Completions P s t) (hd : ∀ r, P r → r.ctx ≠ d) : ctxOf t d = ctxOf s d := by
  induction h with
  | refl => rfl
  | banks h l ih => exact ih
  | node h hq status cause ih => exact (ctxOf_completeNode_other (hd _ hq).symm).trans ih

theorem Completions.ctx_graphs (h : Completions P s t) (d : Nat) : ctxOf t d = { ctxOf s d with graphs := (ctxOf t d).graphs } := by
  induction h with
  | refl => rfl
  | banks h l ih => exact ih
  | node h hq status cause ih =>
    rw [ctxOf_completeNode_graphs, ih]

theorem foldl_completeNode_completions {status cause : Nat} (l : List NodeRef) (h : Completions P s t) (hl : ∀ q ∈ l, P q) :
    Completions P s (l.foldl (fun s q => completeNode q status cause s) t) := by
  induction l generalizing t with
  | nil => exact h
  | cons q l ih => exact ih (h.node (hl q List.mem_cons_self) status cause) fun p hp => hl p (List.mem_cons_of_mem _ hp)

theorem nodeDone_completions {o : Option NodeRef} (h : Completions P s t) (ho : ∀ q, o = some q → P q) : Completions P s (nodeDone o t) := by
  cases o with
  | none => exact h
  | some q => exact h.node (ho q rfl) 0 0

theorem switchDone_completions {a : Nat} (h : Completions P s t) (ha : ∀ q, ((bank t a).node = some q ∨ q ∈ (bank t a).waits) → P q) :
    Completions P s (switchDone a t) := by
  rw [switchDone_eq]
  exact foldl_completeNode_completions _ (.banks (nodeDone_completions (h.banks _) fun q hq => ha q (.inl hq)) _) fun q hq => ha q (.inr hq)

theorem cbFlip_completions {a : Nat} (h : Completions P s t) (ha : ∀ q, ((bank t a).node = some q ∨ q ∈ (bank t a).waits) → P q) :
    Completions P s (cbFlip a c t) := by
  by_cases hlast : (bank t a).Last c
  · rw [cbFlip_last hlast]
    exact switchDone_completions (h.banks _) (by rw [bank_unflipped hlast.1]; exact ha)
  · by_cases hon : (bank t a).state = .switching ∧ c ∈ (bank t a).flip
    · rw [cbFlip_on hon.1 hon.2, if_neg fun hrest => hlast ⟨hon.1, hon.2, hrest⟩]
      exact h.banks _
    · rw [cbFlip_off (by tauto)]
      exact h

/-- A node that a bank names: the one that started its switch, or one that waits for it. -/
def State.BankNames (s : State) (r : NodeRef) : Prop := ∃ b ∈ s.banks, b.node = some r ∨ r ∈ b.waits

theorem bankNames_of_bank {a : Nat} (h : (bank s a).node = some r ∨ r ∈ (bank s a).waits) : s.BankNames r := by
  rcases bank_mem_or_reset s a with hb | hb
  · exact ⟨_, hb, h⟩
  · rw [hb] at h
    rcases h with h | h <;> cases h

/-- Counting a consumer off completes nodes that banks name, and no other. -/
theorem cbFlips_completions (c : Consumer) (l : List Nat) (s : State) : Completions s.BankNames s (cbFlips c l s) := by
  induction l using List.reverseRecOn with
  | nil => exact .refl
  | append_singleton l a ih =>
    rw [cbFlips_concat]
    by_cases ha : a ∈ l
    · rw [cbFlip_off (by rw [bank_cbFlips, if_pos ha]; exact Bank.counted_off c _)]
      exact ih
    · exact cbFlip_completions ih (by rw [bank_cbFlips, if_neg ha]; exact fun q hq => bankNames_of_bank hq)

theorem cbFlipAll_completions (c : Consumer) (s : State) : Completions s.BankNames s (cbFlipAll c s) := cbFlips_completions c _ s

/-- Banks that do not switch stay as they are. -/
theorem banks_cbFlipAll (h : ∀ b ∈ s.banks, b.state ≠ .switching) : (cbFlipAll c s).banks = s.banks := by
  rw [cbFlipAll_off fun b hb hs => absurd hs (h b hb)]

end Sys2Proof.Machine
end

section
/-! PROOFS. A swath reports and leaves its core. -/

namespace Sys2Proof.Machine

variable {s t u : State} {r q : NodeRef} {n : Node} {k : Task} {w : Swath} {id : Nat}

theorem swathOf_id (h : swathOf s id = some w) : w.id = id := by
  simpa using List.find?_some h

theorem swathTask_spec (h : swathTask s w = some (n, k)) : nodeOf s w.node = some n ∧ n.task = some k := by
  unfold swathTask at h
  split at h
  · rename_i m hm
    split at h
    · rename_i tk htk
      split at h
      · obtain ⟨rfl, rfl⟩ := Prod.mk.inj (Option.some.inj h)
        exact ⟨hm, htk⟩
      · cases h
    · cases h
  · cases h

theorem swathTask_task (h : swathTask s w = some (n, k)) : taskOf s w.node = some k :=
  (taskOf_of_node (swathTask_spec h).1).trans (swathTask_spec h).2

/-! ## Leaving the core (R78, R265) -/

theorem coreIdle_busy (h : coreBusy s w.region w.pos = true) : coreIdle w s = s := if_pos h

theorem coreIdle_free (h : coreBusy s w.region w.pos = false) : coreIdle w s = cbFlipAll (.core w.region w.phys) s :=
  if_neg (by rw [h]; exact Bool.false_ne_true)

theorem coreIdle_completions (w : Swath) (s : State) : Completions s.BankNames s (coreIdle w s) := by
  unfold coreIdle
  split
  · exact .refl
  · exact cbFlipAll_completions _ s

theorem coreBusy_eq_false {a b : Nat} : coreBusy s a b = false ↔ ∀ y ∈ s.swaths, ¬ (y.region = a ∧ y.pos = b) := by
  simp [coreBusy]

theorem coreBusy_eq_true {a b : Nat} : coreBusy s a b = true ↔ ∃ y ∈ s.swaths, y.region = a ∧ y.pos = b := by
  simp [coreBusy]

theorem mem_dropSwath {y : Swath} : y ∈ (dropSwath id s).swaths ↔ y ∈ s.swaths ∧ y.id ≠ id := by
  simp [dropSwath]

/-- Whether a swath of a slice of the context is still under way. -/
def sliceRuns (s : State) (c slice : Nat) : Bool := s.swaths.any (fun w => w.node.ctx == c && w.slice == some slice)

/-- A context to whose debt the overruns of slices that no swath runs in have been added. -/
def Ctx.overrunPaid (s : State) (c : Nat) (x : Ctx) : Ctx :=
  { x with
    debt := cntSat x.debt (sumNat ((x.overrun.filter (fun o => !sliceRuns s c o.1)).map (fun o => s.ctlTime - o.2)))
    overrun := x.overrun.filter (fun o => !!sliceRuns s c o.1) }

theorem overrunEnd_eq (c : Nat) (s : State) : overrunEnd c s = modCtx c (Ctx.overrunPaid s c) s := rfl

theorem overrunEnd_frame (c : Nat) (s : State) : overrunEnd c s = { s with ctxs := (overrunEnd c s).ctxs } := rfl

theorem nodeOf_overrunEnd (c : Nat) (s : State) (r : NodeRef) : nodeOf (overrunEnd c s) r = nodeOf s r := by
  rw [nodeOf, nodeOf, overrunEnd_eq, graphOf_modCtx_graphs c (Ctx.overrunPaid s c) (fun _ => rfl)]

theorem taskOf_overrunEnd (c : Nat) (s : State) (r : NodeRef) : taskOf (overrunEnd c s) r = taskOf s r := by
  rw [taskOf, taskOf, nodeOf_overrunEnd]

theorem ctxOf_overrunEnd_other {c d : Nat} (h : d ≠ c) : ctxOf (overrunEnd c s) d = ctxOf s d := ctxOf_modCtx_other h

theorem swathLeave_frame (w : Swath) (s : State) : swathLeave w s =
    { s with banks := (swathLeave w s).banks, ctxs := (swathLeave w s).ctxs, swaths := s.swaths.filter (fun y => y.id != w.id) } := by
  unfold swathLeave
  rw [overrunEnd_frame, (coreIdle_completions w _).frame]
  rfl

theorem taskOf_swathLeave (h : taskOf s r = some k) (hbanks : ¬ s.BankNames r) : taskOf (swathLeave w s) r = some k := by
  unfold swathLeave
  rw [taskOf_overrunEnd]
  exact (coreIdle_completions w _).task hbanks h

theorem ctxOf_swathLeave_other {d : Nat} (hd : d ≠ w.node.ctx) (hbanks : ∀ r, s.BankNames r → r.ctx ≠ d) :
    ctxOf (swathLeave w s) d = ctxOf s d := by
  unfold swathLeave
  rw [ctxOf_overrunEnd_other hd]
  exact (coreIdle_completions w _).ctx_other hbanks

theorem banks_swathLeave (h : coreBusy (dropSwath w.id s) w.region w.pos = true ∨ ∀ b ∈ s.banks, b.state ≠ .switching) :
    (swathLeave w s).banks = s.banks := by
  show (coreIdle w (dropSwath w.id s)).banks = s.banks
  by_cases hbusy : coreBusy (dropSwath w.id s) w.region w.pos = true
  · rw [coreIdle_busy hbusy]
    rfl
  · rw [coreIdle_free (Bool.eq_false_iff.2 hbusy)]
    exact banks_cbFlipAll (h.resolve_left hbusy)

theorem NodeEnded.overrunEnd {status cause : Nat} (h : NodeEnded s r status cause) (c : Nat) : NodeEnded (overrunEnd c s) r status cause := by
  obtain ⟨m, hm, hends⟩ := h
  exact ⟨m, (nodeOf_overrunEnd c s r).trans hm, hends⟩

/-- The last swath of a core leaves it idle, counted off every switch. -/
theorem swathLeave_countedOff (h : coreBusy (dropSwath w.id s) w.region w.pos = false) :
    s.CountedOff (.core w.region w.phys) (swathLeave w s) := by
  refine State.CountedOff.of_eq (cbFlipAll_countedOff _ (dropSwath w.id s)) rfl ?_
    (fun r m hm hstat => ⟨m, hm, hstat⟩) (fun r status cause hends => ?_)
  · show (coreIdle w (dropSwath w.id s)).banks = _
    rw [coreIdle_free h]
  · refine NodeEnded.overrunEnd ?_ _
    rw [coreIdle_free h]
    exact hends

/-! ## The report of a swath -/

/-- Nothing but banks, contexts and swaths has changed. -/
def SwathsOnly (s t : State) : Prop := t = { s with banks := t.banks, ctxs := t.ctxs, swaths := t.swaths }

theorem SwathsOnly.trans (h : SwathsOnly s t) (h' : SwathsOnly t u) : SwathsOnly s u := by
  rw [SwathsOnly, h', h]

theorem modTask_swathsOnly (r : NodeRef) (f : Task → Task) (s : State) : SwathsOnly s (modTask r f s) := rfl

/-- What a swath counted has been handed to its task, and the swath has left its core. -/
def swathGone (w : Swath) (s : State) : State := swathLeave w (modTask w.node (fun t => t.take w) s)

/-- What the report of a swath shows of the state after it, as far as cores, banks and other contexts go. -/
def SwathLeft (s : State) (w : Swath) (t : State) : Prop :=
  t.swaths = s.swaths.filter (fun y => y.id != w.id) ∧
  (∀ d, d ≠ w.node.ctx → (∀ b ∈ s.banks, ∀ y, (b.node = some y ∨ y ∈ b.waits) → y.ctx ≠ d) → ctxOf t d = ctxOf s d) ∧
  ((∃ y ∈ s.swaths, y.id ≠ w.id ∧ y.region = w.region ∧ y.pos = w.pos) ∨ (∀ b ∈ s.banks, b.state ≠ .switching) → t.banks = s.banks) ∧
  ((∀ y ∈ s.swaths, y.id ≠ w.id → ¬ (y.region = w.region ∧ y.pos = w.pos)) → s.CountedOff (.core w.region w.phys) t)

theorem swathGone_frame (w : Swath) (s : State) : swathGone w s =
    { s with banks := (swathGone w s).banks, ctxs := (swathGone w s).ctxs, swaths := s.swaths.filter (fun y => y.id != w.id) } :=
  swathLeave_frame w _

theorem swathGone_only (w : Swath) (s : State) : SwathsOnly s (swathGone w s) := by
  rw [SwathsOnly, swathGone_frame]

theorem taskOf_swathGone (h : taskOf s w.node = some k) (hbanks : ¬ s.BankNames w.node) : taskOf (swathGone w s) w.node = some (k.take w) :=
  taskOf_swathLeave (taskOf_modTask _ h) hbanks

theorem swathGone_left (w : Swath) (s : State) : SwathLeft s w (swathGone w s) := by
  refine ⟨by rw [swathGone_frame], fun d hd hbanks => ?_, fun h => ?_, fun h => ?_⟩
  · refine (ctxOf_swathLeave_other hd fun r hr => ?_).trans (ctxOf_modTask_other hd)
    obtain ⟨b, hb, hnames⟩ := hr
    exact hbanks b hb r hnames
  · refine banks_swathLeave (s := modTask w.node (fun t => t.take w) s) (h.imp_left ?_)
    rintro ⟨y, hy, hid, hplace⟩
    exact coreBusy_eq_true.2 ⟨y, mem_dropSwath.2 ⟨hy, hid⟩, hplace⟩
  · refine State.CountedOff.of_eq (swathLeave_countedOff (s := modTask w.node (fun t => t.take w) s)
      (coreBusy_eq_false.2 fun y hy => ?_)) rfl rfl (fun r m hm hstat => ?_) (fun _ _ _ hends => hends)
    · exact h y (mem_dropSwath.1 hy).1 (mem_dropSwath.1 hy).2
    · obtain ⟨m', hm', hstat', -⟩ := nodeOf_modTask (q := w.node) (fun t => t.take w) hm
      exact ⟨m', hm', hstat'.trans hstat⟩

/-- A change of the swath's own task afterwards shows the same. -/
theorem SwathLeft.modTask (h : SwathLeft s w t) (f : Task → Task) : SwathLeft s w (modTask w.node f t) := by
  obtain ⟨hswaths, hctx, hbanks, hoff⟩ := h
  exact ⟨hswaths, fun d hd hb => (ctxOf_modTask_other hd).trans (hctx d hd hb), hbanks,
    fun hlast => (hoff hlast).of_eq rfl rfl (fun _ m hm hstat => ⟨m, hm, hstat⟩) fun _ _ _ hends => hends.modTask _ _⟩

theorem SwathLeft.quiet (h : SwathLeft s w t) (hq : t.Quiet u) : SwathLeft s w u := by
  obtain ⟨hswaths, hctx, hbanks, hoff⟩ := h
  have hctxs : u.ctxs = t.ctxs := by rw [hq]; rfl
  have hbank : u.banks = t.banks := by rw [hq]; rfl
  refine ⟨by rw [← hswaths, hq]; rfl, fun d hd hb => (ctxOf_congr hctxs d).trans (hctx d hd hb), fun h => hbank.trans (hbanks h),
    fun hlast => (hoff hlast).of_eq rfl hbank (fun _ m hm hstat => ⟨m, hm, hstat⟩) fun _ _ _ hends => hends.congr hctxs⟩

end Sys2Proof.Machine
end

section
/-! PROOFS. The reports of swaths, and sliced mode, settled. -/

namespace Sys2Proof.Machine

variable {s t u : State} {r q : NodeRef} {n : Node} {k : Task} {w : Swath}

/-! ## The tail of a task -/

theorem mergeNext_quiet (r : NodeRef) (s : State) : s.Quiet (mergeNext r s) := by
  unfold mergeNext
  split
  · rfl
  · dsimp only
    split
    · rfl
    · split
      · rfl
      · split
        · rfl
        · exact startRead_quiet rfl

/-- A task that has entered its tail, with the merges and the scale words that are to be written. -/
def Task.tailed (merges : List Nat) (left : Nat) (t : Task) : Task := { t with ph := .tail, merges := merges, tailLeft := left }

theorem taskTail_quiet (h : taskOf s r = some k) : ∃ merges left, (modTask r (Task.tailed merges left) s).Quiet (taskTail r n s) := by
  have hgo (merges : List Nat) (left : Nat) (now : Bool) (writes : List (Nat × List Byte)) :
      (modTask r (Task.tailed merges left) s).Quiet (mergeNext r (if now then modTask r (Task.tailed merges left) s
        else startWrites (.tail r k.id) writes (modTask r (Task.tailed merges left) s))) := by
    refine State.Quiet.trans ?_ (mergeNext_quiet r _)
    split
    · rfl
    · exact startWrites_quiet rfl
  unfold taskTail
  simp only [h]
  exact ⟨_, _, hgo _ _ _ _⟩

/-! ## The report -/

theorem exec_swathComplete_stale {p id : Nat} {r : Nat} (hrun : s.rst = .run) (hw : swathOf s id = some w)
    (hepoch : w.epoch ≠ (posOf s r p).epoch) : exec (.swathComplete r p id) s = .next s := by
  refine (inRun_of_run hrun).trans ?_
  simp only [hw]
  exact if_pos (by simp [hepoch])

/-- A swath that may report: its work is done, its epoch is its position's, and no send stream of it is open. -/
structure State.Reports (s : State) (w : Swath) (n : Node) (k : Task) : Prop where
  run : s.rst = .run
  known : swathOf s w.id = some w
  epoch : w.epoch = (posOf s w.region w.pos).epoch
  occupied : (posOf s w.region w.pos).vacant = false
  done : w.ph = .done
  silent : sending s w = false
  task : swathTask s w = some (n, k)

theorem State.Reports.exec (h : s.Reports w n k) : exec (.swathComplete w.region w.pos w.id) s =
    if lastSwath w n k && !w.treed && segLen (treeSegs (envOf s w n k)) != 0 then
      .next (coreRead w (treeSegs (envOf s w n k)) (modSwath w.id (fun w => { w with ph := .tree }) s))
    else .next (slotsUnpin (if k.done + w.rows == n.rows then
      if k.final then taskTail w.node n (swathGone w s) else modTask w.node (fun t => { t with ph := .folded }) (swathGone w s)
      else swathGone w s)) := by
  refine (inRun_of_run h.run).trans ?_
  simp only [h.known]
  refine (if_neg (by simp [h.epoch, h.occupied, h.done, h.silent])).trans ?_
  simp only [h.task]
  rfl

theorem not_lastSwath (h : k.done + w.rows ≠ n.rows) : lastSwath w n k = false := by simp [lastSwath, h]

theorem State.Reports.exec_more (h : s.Reports w n k) (hmore : k.done + w.rows ≠ n.rows) :
    Machine.exec (.swathComplete w.region w.pos w.id) s = .next (slotsUnpin (swathGone w s)) := by
  rw [h.exec, if_neg (by simp [not_lastSwath hmore]), if_neg (by simpa using hmore)]

theorem State.Reports.exec_last (h : s.Reports w n k) (hrows : k.done + w.rows = n.rows)
    (htree : w.treed = true ∨ segLen (treeSegs (envOf s w n k)) = 0) : Machine.exec (.swathComplete w.region w.pos w.id) s =
    .next (slotsUnpin (if k.final then taskTail w.node n (swathGone w s) else
      modTask w.node (fun t => { t with ph := .folded }) (swathGone w s))) := by
  rw [h.exec, if_neg (by rcases htree with h | h <;> simp [h]), if_pos (by simpa using hrows)]

theorem exec_swathComplete_tree (h : s.Reports w n k) (hlast : lastSwath w n k = true) (htreed : w.treed = false)
    (hsegs : segLen (treeSegs (envOf s w n k)) ≠ 0) : exec (.swathComplete w.region w.pos w.id) s =
    .next (coreRead w (treeSegs (envOf s w n k)) (modSwath w.id (fun w => { w with ph := .tree }) s)) := by
  rw [h.exec, if_pos (by simp [hlast, htreed, hsegs])]

/-- The last rows of the final pass. -/
theorem swathComplete_tail (h : s.Reports w n k) (hbanks : ¬ s.BankNames w.node) : ∃ t u, taskTail w.node n (swathGone w s) = t ∧
    SwathLeft s w t ∧ t = { s.withTraffic t with banks := t.banks, ctxs := t.ctxs, swaths := t.swaths } ∧ taskOf t w.node = some u ∧
    u.ph = .tail ∧ u.done = k.done + w.rows ∧ u.poisoned = (k.poisoned || w.poisoned) := by
  have htask := taskOf_swathGone (swathTask_task h.task) hbanks
  obtain ⟨merges, left, hq⟩ := taskTail_quiet (n := n) htask
  have honly := (swathGone_only w s).trans (modTask_swathsOnly w.node (Task.tailed merges left) _)
  refine ⟨_, _, rfl, ((swathGone_left w s).modTask _).quiet hq, ?_,
    (taskOf_congr (by rw [hq]; rfl) _).trans (taskOf_modTask (Task.tailed merges left) htask), rfl, rfl, rfl⟩
  rw [hq, honly]
  rfl

/-! ## The debt of a context (R265) -/

theorem Completions.built {P : NodeRef → Prop} (h : Completions P s t) : t.ctxs.length = s.ctxs.length := by
  induction h with
  | refl => rfl
  | banks h l ih => exact ih
  | node h hr status cause ih =>
    rw [← ih]
    unfold completeNode
    split
    · rfl
    · split
      · rfl
      · exact List.length_modify _ _ _

/-- Two contexts that differ in their graphs alone. -/
def Ctx.GraphsOnly (x y : Ctx) : Prop := y = { x with graphs := y.graphs }

theorem Ctx.GraphsOnly.trans {x y z : Ctx} (h : x.GraphsOnly y) (h' : y.GraphsOnly z) : x.GraphsOnly z := by
  rw [Ctx.GraphsOnly, h', h]

theorem ctxOf_modTask_graphs (f : Task → Task) (d : Nat) : (ctxOf s d).GraphsOnly (ctxOf (modTask r f s) d) := by
  rw [modTask, modNode, modGraph, ctxOf_modCtx]
  split
  · rfl
  · rfl

/-- The debt that a swath leaves to its context, and the overruns that go on. -/
theorem swathGone_debt (h : w.node.ctx < s.ctxs.length) :
    ∃ y, (ctxOf s w.node.ctx).GraphsOnly y ∧ ctxOf (swathGone w s) w.node.ctx = y.overrunPaid (dropSwath w.id s) w.node.ctx := by
  have hc := coreIdle_completions w (dropSwath w.id (modTask w.node (fun t => t.take w) s))
  have hlen : (modTask w.node (fun t => t.take w) s).ctxs.length = s.ctxs.length := List.length_modify _ _ _
  refine ⟨_, (ctxOf_modTask_graphs (fun t => t.take w) w.node.ctx).trans (hc.ctx_graphs w.node.ctx), ?_⟩
  show ctxOf (overrunEnd w.node.ctx _) w.node.ctx = _
  rw [overrunEnd_eq, ctxOf_modCtx_same (by rw [hc.built]; exact hlen ▸ h), hc.frame]
  rfl

end Sys2Proof.Machine

namespace Sys2Proof.Proofs

open Sys2Proof.Machine

/-- Settles O39: the report hands what was counted to the task, and the swath leaves its core. -/
theorem swathReports : Obligations.SwathReports := by
  unfold Obligations.SwathReports
  intro s r p id w n tk hrun hw hr hp
  obtain rfl := swathOf_id hw
  subst hr hp
  refine ⟨fun hepoch => exec_swathComplete_stale hrun hw hepoch, fun hepoch hvacant hph hsend htask hbanks => ?_⟩
  have hreports : s.Reports w n tk := ⟨hrun, hw, hepoch, hvacant, hph, hsend, htask⟩
  have hnames : ¬ s.BankNames w.node := by
    rintro ⟨b, hb, hnode | hwaits⟩
    · exact (hbanks b hb).1 hnode
    · exact (hbanks b hb).2 hwaits
  have hgone := taskOf_swathGone (swathTask_task htask) hnames
  refine ⟨fun hmore => ⟨_, hreports.exec_more hmore, swathGone_left w s, swathGone_only w s, hgone⟩,
    fun hlast htreed hsegs => exec_swathComplete_tree hreports hlast htreed hsegs, fun hrows htree hfinal => ?_, fun hrows htree hfinal => ?_⟩
  · exact ⟨_, (hreports.exec_last hrows htree).trans (by rw [hfinal]; rfl), (swathGone_left w s).modTask _,
      (swathGone_only w s).trans (modTask_swathsOnly _ _ _), taskOf_modTask _ hgone⟩
  · obtain ⟨t, u, ht, hleft, hframe, hrest⟩ := swathComplete_tail hreports hnames
    exact ⟨t, u, (hreports.exec_last hrows htree).trans (by rw [hfinal, ← ht]; rfl), hleft, hframe, hrest⟩

end Sys2Proof.Proofs
end

section
/-! PROOFS. Sliced mode, slices and debt (R263 to R265). -/

namespace Sys2Proof.Machine

variable {s t u : State} {c h : Nat}

/-! ## The end of a slice -/

/-- Whether a swath of the context's slice is under way, as the end of a slice asks it. -/
def sliceOpen (s : State) (c slice : Nat) : Bool := s.swaths.any (fun w => decide (w.node.ctx = c) && decide (w.slice = some slice))

/-- The overrun that begins to count where a slice ends while swaths of it run. -/
def newOverrun (s : State) (c : Nat) : List (Nat × Nat) := if sliceOpen s c s.sched.sliceNo then [(s.sched.sliceNo, s.ctlTime)] else []

theorem sliceOpen_eq (s : State) (c slice : Nat) : sliceOpen s c slice = sliceRuns s c slice := by
  refine congrArg s.swaths.any (funext fun w => ?_)
  simp only [← beq_eq_decide]

/-- The state in which the holder's slice has ended. -/
def sliceEnded (h : Nat) (s : State) : State :=
  { s with
    sched := { s.sched with holder := none, lastHolder := h }
    ctxs := modAt s.ctxs h (fun y => { y with overrun := y.overrun ++ newOverrun s h }) }

theorem endSlice_eq (hh : s.sched.holder = some h) : endSlice s = sliceEnded h s := by
  unfold endSlice sliceEnded
  simp only [hh, newOverrun, sliceOpen_eq]
  cases hruns : sliceRuns s h s.sched.sliceNo with
  | true => exact if_pos hruns
  | false =>
    refine (if_neg (Bool.eq_false_iff.1 hruns)).trans ?_
    simp only [List.append_nil, Bool.false_eq_true, if_false]
    rw [modAt_eq_self fun _ _ => rfl]

theorem endSlice_no_holder (hh : s.sched.holder = none) : endSlice s = s := by
  unfold endSlice
  simp only [hh]

theorem overrun_sliceEnded (hh : h < s.ctxs.length) :
    (ctxOf (sliceEnded h s) h).overrun = (ctxOf s h).overrun ++ newOverrun s h := by
  exact congrArg Ctx.overrun (ctxOf_modCtx_same (s := { s with sched := { s.sched with holder := none, lastHolder := h } }) hh)

/-! ## The next holder -/

theorem chooseHolder_none (hh : s.sched.holder = none) (hnext : nextHolder s = none) : chooseHolder s = s := by
  unfold chooseHolder
  simp only [hh, hnext]

theorem chooseHolder_some (hh : s.sched.holder = none) (hnext : nextHolder s = some c) : chooseHolder s = takeSlice c s := by
  unfold chooseHolder
  simp only [hh, hnext]

theorem modAt_congr_at {α : Type} {l : List α} {i : Nat} {f g : α → α} (d : α) (hfg : f (l.getD i d) = g (l.getD i d)) :
    modAt l i f = modAt l i g := by
  rw [modAt_const l i f d, modAt_const l i g d, hfg]

/-- The slice that a context takes, in a state where contexts have the debts and quanta of `s`. -/
theorem takeSlice_eq (hno : u.sched.sliceNo = s.sched.sliceNo) (hctx : (ctxOf u c).cfg = (ctxOf s c).cfg ∧ (ctxOf u c).debt = (ctxOf s c).debt) :
    let q := max (bits (ctxOf s c).cfg.toNat 0 16) 1 * 1024
    let pay := min (ctxOf s c).debt.toNat (q - q / 4)
    takeSlice c u = { u with
      sched := { u.sched with holder := some c, sliceLen := q - pay, sliceNo := s.sched.sliceNo + 1 }
      ctxs := modAt u.ctxs c (fun y => { y with debt := BitVec.ofNat 32 ((ctxOf s c).debt.toNat - pay) }) } := by
  intro q pay
  obtain ⟨hcfg, hdebt⟩ := hctx
  have hq : (ctxOf u c).quantum = q := by rw [Ctx.quantum, hcfg]
  unfold takeSlice
  simp only [hq, hdebt, hno, modCtx]
  have hdebt' : (u.ctxs.getD c Ctx.reset).debt = (ctxOf s c).debt := hdebt
  have hmod : modAt u.ctxs c (fun x => { x with debt := BitVec.ofNat 32 (x.debt.toNat - pay) }) =
      modAt u.ctxs c (fun x => { x with debt := BitVec.ofNat 32 ((ctxOf s c).debt.toNat - pay) }) :=
    modAt_congr_at Ctx.reset (by rw [hdebt'])
  rw [show min (ctxOf s c).debt.toNat (q - q / 4) = pay from rfl, hmod]

theorem overrun_chooseHolder (s : State) (d : Nat) : (ctxOf (chooseHolder s) d).overrun = (ctxOf s d).overrun := by
  unfold chooseHolder
  split
  · rfl
  · split
    · unfold takeSlice
      dsimp only
      rw [ctxOf_modCtx]
      split
      · rfl
      · rfl
    · rfl

theorem lastHolder_chooseHolder (s : State) : (chooseHolder s).sched.lastHolder = s.sched.lastHolder := by
  unfold chooseHolder
  split
  · rfl
  · split
    · rfl
    · rfl

theorem sliced_chooseHolder (s : State) : (chooseHolder s).sched.sliced = s.sched.sliced := by
  unfold chooseHolder
  split
  · rfl
  · split
    · rfl
    · rfl

theorem cfg_debt_sliceEnded (h : Nat) (s : State) (c : Nat) :
    (ctxOf (sliceEnded h s) c).cfg = (ctxOf s c).cfg ∧ (ctxOf (sliceEnded h s) c).debt = (ctxOf s c).debt := by
  show (ctxOf (modCtx h _ s) c).cfg = _ ∧ (ctxOf (modCtx h _ s) c).debt = _
  rw [ctxOf_modCtx]
  split
  · exact ⟨rfl, rfl⟩
  · exact ⟨rfl, rfl⟩

/-! ## The commands -/

theorem exec_slicedModeEnter (hrun : s.rst = .run) (hsliced : s.sched.sliced = false) (hwaits : ∃ c < s.ctxs.length, waitsResource s c = true) :
    exec .slicedModeEnter s = .next (slotsUnpin (chooseHolder { s with sched := { s.sched with sliced := true } })) :=
  (inRun_of_run hrun).trans (if_neg (by simpa [hsliced] using hwaits))

theorem exec_slicedModeExit (hrun : s.rst = .run) (hsliced : s.sched.sliced = true) (hwaits : ∀ c < s.ctxs.length, waitsResource s c = false) :
    exec .slicedModeExit s = .next { endSlice s with sched := { (endSlice s).sched with sliced := false } } :=
  (inRun_of_run hrun).trans (if_neg (by simpa [hsliced] using hwaits))

theorem exec_sliceEnd (hrun : s.rst = .run) (hsliced : s.sched.sliced = true) :
    exec .sliceEnd s = .next (slotsUnpin (chooseHolder (endSlice s))) :=
  (inRun_of_run hrun).trans (if_pos hsliced)

end Sys2Proof.Machine

namespace Sys2Proof.Proofs

open Sys2Proof.Machine

/-- The debt and the overruns that a swath leaves to its context. -/
theorem swathComplete_debt {s : State} {w : Swath} {n : Node} {tk : Task} (h : s.Reports w n tk) (hmore : tk.done + w.rows ≠ n.rows) :
    let runs := fun (k : Nat) => s.swaths.any (fun y => decide (y.id ≠ w.id) && decide (y.node.ctx = w.node.ctx) && decide (y.slice = some k))
    let x := ctxOf s w.node.ctx
    ∃ t, exec (.swathComplete w.region w.pos w.id) s = .next (slotsUnpin t) ∧ t = { s with banks := t.banks, ctxs := t.ctxs, swaths := t.swaths } ∧
      ((∀ b ∈ s.banks, b.state ≠ .switching) → t.banks = s.banks) ∧
      (ctxOf t w.node.ctx).debt = cntSat x.debt (sumNat ((x.overrun.filter (fun o => !runs o.1)).map (fun o => s.ctlTime - o.2))) ∧
      (ctxOf t w.node.ctx).overrun = x.overrun.filter (fun o => runs o.1) := by
  intro runs x
  have hruns (k : Nat) : sliceRuns (dropSwath w.id s) w.node.ctx k = runs k := by
    show (s.swaths.filter (fun y => y.id != w.id)).any _ = _
    rw [List.any_filter]
    refine congrArg s.swaths.any (funext fun y => ?_)
    simp only [bne, ← beq_eq_decide, ne_eq, decide_not, Bool.and_assoc]
  obtain ⟨y, hy, hctx⟩ := swathGone_debt (w := w) (built_of_node (swathTask_spec h.task).1)
  refine ⟨_, h.exec_more hmore, swathGone_only w s, fun hbanks => (swathGone_left w s).2.2.1 (.inr hbanks), ?_, ?_⟩
  · rw [hctx, hy]
    simp only [Ctx.overrunPaid, hruns]
    rfl
  · rw [hctx, hy]
    simp only [Ctx.overrunPaid, hruns, Bool.not_not]
    rfl

/-- Settles O33. -/
theorem slicedMode : Obligations.SlicedMode := by
  unfold Obligations.SlicedMode
  refine ⟨fun s r p id w n tk hrun hw hr hp hepoch hvacant hph hsend htask hmore => ?_, fun s hrun => ?_⟩
  · obtain rfl := swathOf_id hw
    subst hr hp
    exact swathComplete_debt ⟨hrun, hw, hepoch, hvacant, hph, hsend, htask⟩ hmore
  intro given swathsOf' ended
  have hgiven (u : State) (hholder : u.sched.holder = none) (hno : u.sched.sliceNo = s.sched.sliceNo)
      (hctx : ∀ c, (ctxOf u c).cfg = (ctxOf s c).cfg ∧ (ctxOf u c).debt = (ctxOf s c).debt) :
      given u (.next (slotsUnpin (chooseHolder u))) :=
    ⟨fun hnext => by rw [chooseHolder_none hholder hnext],
      fun c hnext => by rw [chooseHolder_some hholder hnext, takeSlice_eq hno (hctx c)]⟩
  have hended (t : State) (ht : ∀ h, s.sched.holder = some h → (ctxOf t h).overrun = (ctxOf (sliceEnded h s) h).overrun) : ended t :=
    fun h hh hbuilt => (ht h hh).trans (overrun_sliceEnded hbuilt)
  refine ⟨fun hsliced hwaits => ⟨⟨_, exec_slicedModeEnter hrun hsliced hwaits, sliced_chooseHolder _, ?_⟩, fun hholder => ?_⟩,
    fun hsliced hwaits => ⟨_, exec_slicedModeExit hrun hsliced hwaits, ?_, hended _ ?_, ?_⟩,
    fun hsliced h hholder => ⟨_, (exec_sliceEnd hrun hsliced).trans (by rw [endSlice_eq hholder]), ?_, lastHolder_chooseHolder _, hended _ ?_, ?_⟩,
    fun hsliced hholder => ?_⟩
  · rw [chooseHolder_frame]
  · rw [exec_slicedModeEnter hrun hsliced hwaits]
    exact hgiven _ hholder rfl fun _ => ⟨rfl, rfl⟩
  · rw [endSlice_frame]
  · intro h hh
    rw [endSlice_eq hh]
    rfl
  · cases hh : s.sched.holder with
    | none =>
      rw [endSlice_no_holder hh]
      show _ = { s.sched with sliced := false, holder := none, lastHolder := s.sched.lastHolder }
      rw [← hh]
    | some h => rw [endSlice_eq hh]; rfl
  · rw [chooseHolder_frame]
    rfl
  · intro h' hh
    obtain rfl : h = h' := Option.some.inj (hholder.symm.trans hh)
    exact overrun_chooseHolder _ h
  · rw [exec_sliceEnd hrun hsliced, endSlice_eq hholder]
    exact hgiven (sliceEnded h s) rfl rfl (cfg_debt_sliceEnded h s)
  · rw [exec_sliceEnd hrun hsliced, endSlice_no_holder hholder]
    exact hgiven s hholder rfl fun _ => ⟨rfl, rfl⟩

end Sys2Proof.Proofs
end

section
/-! PROOFS. Fencing and retiring a core (R334 to R336). -/

namespace Sys2Proof.Machine

variable {s t u : State} {r p cause : Nat}

theorem posBuilt_spec (h : posBuilt s r p = true) : r < s.regions.length ∧ p < (region s r).pos.length := by
  simpa [posBuilt] using h

theorem region_modAt_same {f : Region → Region} (h : r < s.regions.length) (ht : t.regions = modAt s.regions r f) :
    region t r = f (region s r) := by
  rw [region, ht, getD_modAt, if_pos ⟨rfl, h⟩]
  rfl

theorem region_modAt_other {f : Region → Region} {e : Nat} (he : e ≠ r) (ht : t.regions = modAt s.regions r f) : region t e = region s e := by
  rw [region, ht, getD_modAt, if_neg fun h => he h.1.symm]
  rfl

/-! ## The fence -/

/-- A region in which the core of a position has been fenced. -/
def Region.fencing (p cause : Nat) (x : Pos) (y : Region) : Region :=
  { y with
    pos := modAt y.pos p (fun y => { y with vacant := true, epoch := y.epoch + 1 })
    phys := modAt y.phys x.phys (fun y => { y with fenced := true, logged := false, held := false })
    fences := y.fences ++ [⟨p, x.phys, x.epoch, cause⟩] }

theorem declareDead_vacant (h : (posOf s r p).vacant = true) : declareDead r p cause s = s := if_pos h

theorem declareDead_regions (h : (posOf s r p).vacant = false) :
    (declareDead r p cause s).regions = modAt s.regions r (Region.fencing p cause (posOf s r p)) := by
  unfold declareDead
  simp only [h]
  show modAt (modAt (modAt s.regions r _) r _) r _ = _
  rw [modAt_modAt, modAt_modAt]
  rfl

/-- Nothing but the health registers, the regions and the ports has changed. -/
def FenceOnly (s t : State) : Prop := t = { s with health := t.health, regions := t.regions, ports := t.ports }

theorem FenceOnly.trans (h : FenceOnly s t) (h' : FenceOnly t u) : FenceOnly s u := by
  rw [FenceOnly, h', h]

theorem modRegion_fenceOnly (f : Region → Region) (s : State) : FenceOnly s (modRegion r f s) := rfl

theorem modPort_fenceOnly (k : Nat) (g : Port → Port) (s : State) : FenceOnly s (modPort k g s) := rfl

theorem declareDead_only (r p cause : Nat) (s : State) : FenceOnly s (declareDead r p cause s) := by
  by_cases hvacant : (posOf s r p).vacant = true
  · rw [declareDead_vacant hvacant]
    rfl
  · rw [declareDead, if_neg hvacant]
    have hhealth : FenceOnly s (modHealth (fun h => { h with coreLost := true }) s) := rfl
    exact hhealth.trans ((modRegion_fenceOnly _ _).trans ((modRegion_fenceOnly _ _).trans
      ((modPort_fenceOnly _ _ _).trans (modRegion_fenceOnly _ _))))

theorem declareDead_health (h : (posOf s r p).vacant = false) : (declareDead r p cause s).health = { s.health with coreLost := true } := by
  unfold declareDead
  rw [if_neg (by simp [h])]
  rfl

theorem declareDead_frame (h : (posOf s r p).vacant = false) : declareDead r p cause s =
    { s with
      health := { s.health with coreLost := true }
      regions := (declareDead r p cause s).regions
      ports := (declareDead r p cause s).ports } := by
  rw [← declareDead_health h]
  exact declareDead_only r p cause s

/-- A core has been fenced. -/
def CoreDead (s : State) (r p cause : Nat) (t : State) : Prop :=
  let x := posOf s r p
  posOf t r p = { x with vacant := true, epoch := x.epoch + 1 } ∧
  (∀ q, q ≠ p → posOf t r q = posOf s r q) ∧ (∀ e, e ≠ r → region t e = region s e) ∧ t.health.coreLost = true ∧
  (region t r).fences = (region s r).fences ++ [⟨p, x.phys, x.epoch, cause⟩] ∧
  (∀ y, (region s r).phys[x.phys]? = some y →
    (region t r).phys[x.phys]? = some { y with fenced := true, logged := false, held := false })

theorem declareDead_dead (hp : posBuilt s r p = true) (h : (posOf s r p).vacant = false) : CoreDead s r p cause (declareDead r p cause s) := by
  obtain ⟨hr, hp⟩ := posBuilt_spec hp
  have hregions := declareDead_regions (cause := cause) h
  have hregion := region_modAt_same hr hregions
  refine ⟨?_, fun q hq => ?_, fun e he => region_modAt_other he hregions, by rw [declareDead_frame h], ?_, fun y hy => ?_⟩
  · rw [posOf, hregion, Region.fencing, getD_modAt, if_pos ⟨rfl, hp⟩]
    rfl
  · rw [posOf, hregion, Region.fencing, getD_modAt, if_neg fun h => hq h.1.symm]
    rfl
  · rw [hregion]
    rfl
  · rw [hregion]
    show (modAt _ _ _)[_]? = _
    rw [modAt, List.getElem?_modify, hy]
    simp

theorem exec_coreAliveTimeout (hrun : s.rst = .run) (hp : posBuilt s r p = true) : exec (.coreAliveTimeout r p) s =
    if (region s r).ready = false ∨ (region s r).parkAck = true then .next s else .next (declareDead r p 1 s) := by
  refine (inRun_of_run hrun).trans ?_
  simp [hp]

/-- A write of HLT_CORE_CTRL as it is stored. -/
def coreCtrlStored (data : Word) (s : State) : State :=
  { s with outs := s.outs ++ [.cpAck false], health := { s.health with coreCtrl := data &&& 0x73F } }

theorem bit31_iff (data : Word) : bit data.toNat 31 = true ↔ data.toNat / 2 ^ 31 = 1 := by
  have := data.isLt
  rw [bit, Nat.testBit_eq_decide_div_mod_eq, decide_eq_true_iff]
  omega

theorem exec_hltRetire (hrun : s.rst = .run) (data : Word) : exec (.hltRetire data) s = .next
    (if bit data.toNat 31 && posBuilt s (bits data.toNat 8 3) (bits data.toNat 0 6) then
      declareDead (bits data.toNat 8 3) (bits data.toNat 0 6) 3 (coreCtrlStored data s) else coreCtrlStored data s) :=
  inRun_of_run hrun

end Sys2Proof.Machine
end

section
/-! PROOFS. Abandoned swaths, and a fence that settles (R78, R336, R337). -/

namespace Sys2Proof.Machine

variable {s t u : State} {r p : Nat} {c : Consumer} {w : Swath}

/-! ## Counting a consumer off once -/

/-- Every node that is dispatched, or has ended, is still so. -/
def NodesHeld (s t : State) : Prop :=
  (∀ q m, nodeOf s q = some m → m.stat = .dispatched → ∃ k, nodeOf t q = some k ∧ k.stat = .dispatched) ∧
  ∀ q status cause, NodeEnded s q status cause → NodeEnded t q status cause

theorem NodesHeld.refl (s : State) : NodesHeld s s := ⟨fun _ m hm hstat => ⟨m, hm, hstat⟩, fun _ _ _ h => h⟩

theorem NodesHeld.of_ctxs (h : t.ctxs = s.ctxs) : NodesHeld s t :=
  ⟨fun q m hm hstat => ⟨m, (nodeOf_congr h q).trans hm, hstat⟩, fun _ _ _ hends => hends.congr h⟩

theorem modTask_nodesHeld (q : NodeRef) (f : Task → Task) (s : State) : NodesHeld s (modTask q f s) := by
  refine ⟨fun r m hm hstat => ?_, fun _ _ _ h => h.modTask q f⟩
  obtain ⟨m', hm', hstat', -⟩ := nodeOf_modTask (q := q) f hm
  exact ⟨m', hm', hstat'.trans hstat⟩

theorem overrunEnd_nodesHeld (d : Nat) (s : State) : NodesHeld s (overrunEnd d s) :=
  ⟨fun q m hm hstat => ⟨m, (nodeOf_overrunEnd d s q).trans hm, hstat⟩, fun _ _ _ h => h.overrunEnd d⟩

theorem State.CountedOff.off (h : s.CountedOff c t) {a : Nat} (ha : a < 16) : (bank t a).state = .switching → c ∉ (bank t a).flip := by
  obtain ⟨hnot, hmore, hlast⟩ := h a ha
  by_cases hon : (bank s a).state = .switching ∧ c ∈ (bank s a).flip
  · by_cases hrest : (bank s a).flip.filter (· != c) = []
    · rw [(hlast hon.1 hon.2 hrest).1]
      simp
    · rw [hmore hon.1 hon.2 hrest]
      simp
  · rw [hnot (by tauto)]
    exact fun hs hc => hon ⟨hs, hc⟩

/-- The consumer is still to be counted off, or it has been. -/
def State.OffOnce (s : State) (c : Consumer) (t : State) : Prop := (t.banks = s.banks ∧ NodesHeld s t) ∨ s.CountedOff c t

theorem State.OffOnce.refl (s : State) (c : Consumer) : s.OffOnce c s := .inl ⟨rfl, .refl s⟩

theorem State.OffOnce.held (h : s.OffOnce c t) (hbanks : u.banks = t.banks) (hnodes : NodesHeld t u) : s.OffOnce c u := by
  rcases h with ⟨hb, hheld⟩ | hoff
  · refine .inl ⟨hbanks.trans hb, fun q m hm hstat => ?_, fun q st ca hends => hnodes.2 q st ca (hheld.2 q st ca hends)⟩
    obtain ⟨k, hk, hkstat⟩ := hheld.1 q m hm hstat
    exact hnodes.1 q k hk hkstat
  · exact .inr (hoff.of_eq rfl hbanks (fun q m hm hstat => ⟨m, hm, hstat⟩) hnodes.2)

theorem State.OffOnce.flip (h : s.OffOnce c t) : s.CountedOff c (cbFlipAll c t) := by
  rcases h with ⟨hb, hheld⟩ | hoff
  · exact (cbFlipAll_countedOff c t).of_eq hb.symm rfl hheld.1 fun _ _ _ h => h
  · rw [cbFlipAll_eq, cbFlips_off fun a ha => hoff.off (List.mem_range.1 ha)]
    exact hoff

/-! ## Abandoning swaths -/

/-- Nothing but banks, contexts, swaths and the traffic of the block has changed. -/
def SwathsGone (s t : State) : Prop := t = { s.withTraffic t with banks := t.banks, ctxs := t.ctxs, swaths := t.swaths }

theorem SwathsGone.trans (h : SwathsGone s t) (h' : SwathsGone t u) : SwathsGone s u := by
  rw [SwathsGone, h', h]
  rfl

theorem SwathsOnly.gone (h : SwathsOnly s t) : SwathsGone s t := by
  rw [SwathsGone, h]
  rfl

theorem swathLeave_only (w : Swath) (s : State) : SwathsOnly s (swathLeave w s) := by
  rw [SwathsOnly, swathLeave_frame]

theorem swathOff_gone (w : Swath) (s : State) : SwathsGone s (swathOff w s) := rfl

theorem swathLeave_offOnce (h : s.OffOnce c t) (hc : c = .core w.region w.phys) : s.OffOnce c (swathLeave w t) := by
  have hdrop : s.OffOnce c (dropSwath w.id t) := h.held rfl (.of_ctxs rfl)
  have hidle : s.OffOnce c (coreIdle w (dropSwath w.id t)) := by
    by_cases hbusy : coreBusy (dropSwath w.id t) w.region w.pos = true
    · rw [coreIdle_busy hbusy]
      exact hdrop
    · rw [coreIdle_free (Bool.eq_false_iff.2 hbusy), ← hc]
      exact .inr hdrop.flip
  exact hidle.held rfl (overrunEnd_nodesHeld _ _)

/-- An abandoned swath leaves its core, and its task may be told of it. -/
theorem abandon_cases (w : Swath) (s : State) : abandon w s = swathLeave w (swathOff w s) ∨
    ∃ f, abandon w s = modTask w.node f (swathLeave w (swathOff w s)) := by
  unfold abandon
  cases swathTask s w with
  | none => exact .inl rfl
  | some y => exact .inr ⟨_, rfl⟩

theorem abandon_gone (w : Swath) (s : State) : SwathsGone s (abandon w s) := by
  have hleave := (swathOff_gone w s).trans (swathLeave_only w (swathOff w s)).gone
  rcases abandon_cases w s with h | ⟨f, h⟩
  · rw [h]
    exact hleave
  · rw [h]
    exact hleave.trans (modTask_swathsOnly _ _ _).gone

theorem abandon_swaths (w : Swath) (s : State) : (abandon w s).swaths = s.swaths.filter (fun y => y.id != w.id) := by
  have hleave : (swathLeave w (swathOff w s)).swaths = s.swaths.filter (fun y => y.id != w.id) := by
    rw [swathLeave_frame]
    rfl
  rcases abandon_cases w s with h | ⟨f, h⟩
  · rw [h, hleave]
  · rw [h]
    exact hleave

theorem abandon_banks (w : Swath) (h : ∀ b ∈ s.banks, b.state ≠ .switching) : (abandon w s).banks = s.banks := by
  have hleave : (swathLeave w (swathOff w s)).banks = s.banks := banks_swathLeave (s := swathOff w s) (.inr h)
  rcases abandon_cases w s with h | ⟨f, h⟩
  · rw [h, hleave]
  · rw [h]
    exact hleave

theorem abandon_offOnce (h : s.OffOnce c t) (hc : c = .core w.region w.phys) : s.OffOnce c (abandon w t) := by
  have hoff : s.OffOnce c (swathOff w t) := h.held rfl (.of_ctxs rfl)
  have hleave := swathLeave_offOnce hoff hc
  rcases abandon_cases w t with h | ⟨f, h⟩
  · rw [h]
    exact hleave
  · rw [h]
    exact hleave.held rfl (modTask_nodesHeld _ _ _)

/-- Swaths are abandoned one after another. -/
def abandonAll (ws : List Swath) (s : State) : State := ws.foldl (fun s w => abandon w s) s

theorem abandonAll_gone (ws : List Swath) (s : State) : SwathsGone s (abandonAll ws s) := by
  induction ws generalizing s with
  | nil => rfl
  | cons w ws ih => exact (abandon_gone w s).trans (ih _)

theorem mem_abandonAll {ws : List Swath} {y : Swath} (h : y ∈ (abandonAll ws s).swaths) : y ∈ s.swaths ∧ y ∉ ws := by
  induction ws generalizing s with
  | nil => exact ⟨h, List.not_mem_nil⟩
  | cons w ws ih =>
    obtain ⟨hy, hws⟩ := ih (s := abandon w s) h
    rw [abandon_swaths, List.mem_filter] at hy
    refine ⟨hy.1, fun hmem => ?_⟩
    rcases List.mem_cons.1 hmem with rfl | hmem
    · simp at hy
    · exact hws hmem

theorem abandonAll_banks (ws : List Swath) (h : ∀ b ∈ s.banks, b.state ≠ .switching) : (abandonAll ws s).banks = s.banks := by
  induction ws generalizing s with
  | nil => rfl
  | cons w ws ih =>
    have hw := abandon_banks w h
    exact (ih (s := abandon w s) (by rw [hw]; exact h)).trans hw

theorem abandonAll_offOnce {ws : List Swath} (h : s.OffOnce c t) (hc : ∀ w ∈ ws, c = .core w.region w.phys) :
    s.OffOnce c (abandonAll ws t) := by
  induction ws generalizing t with
  | nil => exact h
  | cons w ws ih => exact ih (abandon_offOnce h (hc w List.mem_cons_self)) fun y hy => hc y (List.mem_cons_of_mem _ hy)

end Sys2Proof.Machine
end

section
/-! PROOFS. Fencing and retiring a core, settled. -/

namespace Sys2Proof.Machine

variable {s t u : State} {r p : Nat} {f : Fence}

/-! ## The fence settles -/

/-- The swaths of a fenced core. -/
def fencedSwaths (r p : Nat) (f : Fence) (s : State) : List Swath := s.swaths.filter (fun w => w.region == r && w.pos == p && w.epoch == f.epoch)

/-- The swaths of a fenced core are abandoned, and it is counted off every switch. -/
def fenceLeft (r p : Nat) (f : Fence) (s : State) : State := cbFlipAll (.core r f.phys) (abandonAll (fencedSwaths r p f s) s)

/-- A region whose core has been retired. -/
def Region.retire (p : Nat) (f : Fence) (y : Region) : Region :=
  { y with phys := modAt y.phys f.phys (fun y => { y with retired := true }), fences := y.fences.filter (fun g => g.pos != p) }

/-- A region whose spare core has taken a position. -/
def Region.promote (p : Nat) (y : Region) : Region :=
  { y with pos := modAt y.pos p (fun y => { y with vacant := false, phys := 64 }), spareFree := false }

/-- The core is retired and that is logged. -/
def coreRetired (r p : Nat) (f : Fence) (s : State) : State :=
  logEvent 0x08 1 r f.phys noCtx (p * 2 ^ 16 + f.cause) 0 (modRegion r (Region.retire p f) s)

/-- The spare core takes the position where it is free. -/
def sparePromoted (r p : Nat) (s : State) : State :=
  if (region s r).spareFree then
    logEvent 0x09 1 r 64 noCtx (p * 2 ^ 16 + (posOf (modRegion r (Region.promote p) s) r p).epoch.toNat) 0 (modRegion r (Region.promote p) s)
  else s

theorem exec_coreFenceSettled (hrun : s.rst = .run) (hp : posBuilt s r p = true)
    (hf : (region s r).fences.find? (fun f => f.pos == p) = some f) : exec (.coreFenceSettled r p) s =
    if fenceOpen s r f = true then .next s else .next (slotsUnpin (sparePromoted r p (coreRetired r p f (fenceLeft r p f s)))) := by
  refine (inRun_of_run hrun).trans ?_
  simp only [hf]
  by_cases hopen : fenceOpen s r f = true
  · rw [if_pos hopen]
    exact if_pos (by simp [hopen])
  · rw [if_neg hopen]
    refine (if_neg (by simp [hopen, (posBuilt_spec hp).1])).trans ?_
    have hretired (s : State) : logEvent 0x08 1 r f.phys noCtx (p * 2 ^ 16 + f.cause) 0
        (modRegion r (fun y => { y with fences := y.fences.filter (fun g => g.pos != p) })
          (modPhys r f.phys (fun y => { y with retired := true }) s)) = coreRetired r p f s := by
      rw [modPhys, modRegion_modRegion]
      rfl
    have hpromoted (s : State) : modRegion r (fun y => { y with spareFree := false }) (modPos r p (fun y => { y with vacant := false, phys := 64 }) s) =
        modRegion r (Region.promote p) s := by
      rw [modPos, modRegion_modRegion]
      rfl
    rw [sparePromoted, ← hretired, apply_ite (fun s : State => (.next (slotsUnpin s) : Answer)), ← hpromoted]
    rfl

/-! ## What has become of the block -/

/-- Nothing but banks, contexts, swaths, regions and the traffic of the block has changed. -/
def CoresOnly (s t : State) : Prop := t = { s.withTraffic t with banks := t.banks, ctxs := t.ctxs, swaths := t.swaths, regions := t.regions }

theorem CoresOnly.trans (h : CoresOnly s t) (h' : CoresOnly t u) : CoresOnly s u := by
  rw [CoresOnly, h', h]
  rfl

theorem SwathsGone.cores (h : SwathsGone s t) : CoresOnly s t := by
  rw [CoresOnly, h]
  rfl

theorem State.Quiet.cores (h : s.Quiet t) : CoresOnly s t := by
  rw [CoresOnly, h]
  rfl

theorem modRegion_cores (g : Region → Region) (s : State) : CoresOnly s (modRegion r g s) := rfl

theorem fenceLeft_gone (r p : Nat) (f : Fence) (s : State) : SwathsGone s (fenceLeft r p f s) := by
  refine SwathsGone.trans (abandonAll_gone (fencedSwaths r p f s) s) (SwathsOnly.gone ?_)
  show SwathsOnly _ (cbFlipAll _ _)
  rw [SwathsOnly, (cbFlipAll_completions _ _).frame]

theorem coreRetired_cores (r p : Nat) (f : Fence) (s : State) : CoresOnly s (coreRetired r p f s) :=
  (modRegion_cores _ _).trans (State.Quiet.cores (logEvent_quiet rfl))

theorem sparePromoted_cores (r p : Nat) (s : State) : CoresOnly s (sparePromoted r p s) := by
  unfold sparePromoted
  split
  · exact (modRegion_cores _ _).trans (State.Quiet.cores (logEvent_quiet rfl))
  · rfl

/-- A region whose fence has settled. -/
def Region.settle (p : Nat) (f : Fence) (y : Region) : Region := if y.spareFree then (y.retire p f).promote p else y.retire p f

theorem region_coreRetired (hr : r < s.regions.length) : region (coreRetired r p f s) r = (region s r).retire p f :=
  region_modAt_same (f := Region.retire p f) hr (by rw [coreRetired, logEvent_regions]; rfl)

theorem region_settled (hr : r < s.regions.length) : region (sparePromoted r p (coreRetired r p f s)) r = (region s r).settle p f := by
  have hretired := region_coreRetired (p := p) (f := f) hr
  have hlen : r < (coreRetired r p f s).regions.length := by
    rw [coreRetired, logEvent_regions]
    show r < (modAt s.regions r _).length
    rw [modAt, List.length_modify]
    exact hr
  have hspare : (region (coreRetired r p f s) r).spareFree = (region s r).spareFree := by rw [hretired]; rfl
  unfold sparePromoted Region.settle
  rw [hspare]
  split
  · rw [← hretired]
    exact region_modAt_same (f := Region.promote p) hlen (by rw [logEvent_regions]; rfl)
  · exact hretired

/-- The spare and the log leave banks, contexts and swaths as they were. -/
theorem settled_kept (r p : Nat) (f : Fence) (s : State) :
    (sparePromoted r p (coreRetired r p f s)).banks = s.banks ∧ (sparePromoted r p (coreRetired r p f s)).ctxs = s.ctxs ∧
    (sparePromoted r p (coreRetired r p f s)).swaths = s.swaths := by
  have hretired : (coreRetired r p f s).banks = s.banks ∧ (coreRetired r p f s).ctxs = s.ctxs ∧ (coreRetired r p f s).swaths = s.swaths :=
    ⟨logEvent_banks .., logEvent_ctxs .., logEvent_swaths ..⟩
  unfold sparePromoted
  split
  · exact ⟨(logEvent_banks ..).trans hretired.1, (logEvent_ctxs ..).trans hretired.2.1, (logEvent_swaths ..).trans hretired.2.2⟩
  · exact hretired

theorem fenceLeft_countedOff (h : ∀ w ∈ s.swaths, w.region = r → w.pos = p → w.epoch = f.epoch → w.phys = f.phys) :
    s.CountedOff (.core r f.phys) (fenceLeft r p f s) := by
  refine State.OffOnce.flip (abandonAll_offOnce (.refl s _) fun w hw => ?_)
  simp only [fencedSwaths, List.mem_filter, Bool.and_eq_true, beq_iff_eq] at hw
  obtain ⟨hmem, ⟨hr, hp⟩, hepoch⟩ := hw
  rw [h w hmem hr hp hepoch, hr]

theorem fenceLeft_banks (h : ∀ b ∈ s.banks, b.state ≠ .switching) : (fenceLeft r p f s).banks = s.banks := by
  have hall := abandonAll_banks (fencedSwaths r p f s) h
  exact (banks_cbFlipAll (by rw [hall]; exact h)).trans hall

theorem mem_fenceLeft {w : Swath} (hw : w ∈ (fenceLeft r p f s).swaths) :
    w ∈ s.swaths ∧ ¬ (w.region = r ∧ w.pos = p ∧ w.epoch = f.epoch) := by
  have hall : w ∈ (abandonAll (fencedSwaths r p f s) s).swaths := by
    have hflip := (cbFlipAll_completions (.core r f.phys) (abandonAll (fencedSwaths r p f s) s)).frame
    exact (congrArg State.swaths hflip) ▸ hw
  obtain ⟨hmem, hnot⟩ := mem_abandonAll hall
  refine ⟨hmem, fun h => hnot ?_⟩
  simp [fencedSwaths, hmem, h]

theorem phys_settle {y : Phys} {z : Region} (hy : z.phys[f.phys]? = some y) : (z.settle p f).phys[f.phys]? = some { y with retired := true } := by
  have hretire : (z.retire p f).phys[f.phys]? = some { y with retired := true } := by
    show (modAt z.phys f.phys _)[f.phys]? = _
    rw [modAt, List.getElem?_modify, hy]
    simp
  unfold Region.settle
  split
  · exact hretire
  · exact hretire

theorem settle_fences (p : Nat) (f : Fence) (z : Region) : (z.settle p f).fences = z.fences.filter (fun g => g.pos != p) := by
  unfold Region.settle
  split <;> rfl

theorem settle_spareFree (p : Nat) (f : Fence) (z : Region) : (z.settle p f).spareFree = false := by
  unfold Region.settle
  split
  · rfl
  · rename_i h
    exact Bool.eq_false_iff.2 h

theorem settle_pos (f : Fence) {z : Region} (hp : p < z.pos.length) : (z.settle p f).pos.getD p ⟨true, 0, 0⟩ =
    if z.spareFree then { z.pos.getD p ⟨true, 0, 0⟩ with vacant := false, phys := 64 } else z.pos.getD p ⟨true, 0, 0⟩ := by
  unfold Region.settle
  split
  · show (modAt z.pos p _).getD p _ = _
    rw [getD_modAt, if_pos ⟨rfl, hp⟩]
  · rfl

end Sys2Proof.Machine

namespace Sys2Proof.Proofs

open Sys2Proof.Machine

theorem coreFenceSettled_settles {s : State} {r p : Nat} {f : Fence} (hp : posBuilt s r p = true) :
    let x := posOf s r p
    let t := sparePromoted r p (coreRetired r p f (fenceLeft r p f s))
    t = { s.withTraffic t with banks := t.banks, ctxs := t.ctxs, swaths := t.swaths, regions := t.regions } ∧
      ((∀ w ∈ s.swaths, w.region = r → w.pos = p → w.epoch = f.epoch → w.phys = f.phys) → s.CountedOff (.core r f.phys) t) ∧
      ((∀ b ∈ s.banks, b.state ≠ .switching) → t.banks = s.banks) ∧
      (∀ w ∈ t.swaths, w ∈ s.swaths ∧ ¬ (w.region = r ∧ w.pos = p ∧ w.epoch = f.epoch)) ∧
      (∀ y, (region s r).phys[f.phys]? = some y → (region t r).phys[f.phys]? = some { y with retired := true }) ∧
      (region t r).fences = (region s r).fences.filter (fun g => g.pos != p) ∧ (region t r).spareFree = false ∧
      posOf t r p = if (region s r).spareFree then { x with vacant := false, phys := 64 } else x := by
  intro x t
  obtain ⟨hr, hpos⟩ := posBuilt_spec hp
  have hgone := fenceLeft_gone r p f s
  have hoff := fenceLeft_countedOff (s := s) (r := r) (p := p) (f := f)
  have hbanks' := fenceLeft_banks (s := s) (r := r) (p := p) (f := f)
  have hmem := fun w => mem_fenceLeft (s := s) (r := r) (p := p) (f := f) (w := w)
  simp only [t]
  generalize fenceLeft r p f s = v at hgone hoff hbanks' hmem
  have hregions : v.regions = s.regions := by
    rw [hgone]
    rfl
  have hregion : region (sparePromoted r p (coreRetired r p f v)) r = (region s r).settle p f := by
    rw [region_settled (by rw [hregions]; exact hr), region, hregions]
    rfl
  obtain ⟨hbanks, hctxs, hswaths⟩ := settled_kept r p f v
  refine ⟨hgone.cores.trans ((coreRetired_cores r p f v).trans (sparePromoted_cores r p _)), fun hphys => ?_, fun h => hbanks.trans (hbanks' h),
    fun w hw => hmem w (hswaths ▸ hw), fun y hy => by rw [hregion]; exact phys_settle hy, by rw [hregion, settle_fences],
    by rw [hregion, settle_spareFree], by rw [posOf, hregion]; exact settle_pos f hpos⟩
  exact (hoff hphys).of_eq rfl hbanks (fun _ m hm hstat => ⟨m, hm, hstat⟩) fun _ _ _ h => h.congr hctxs

theorem hltRetire_dead {s : State} {r p : Nat} (hrun : s.rst = .run) (hp : posBuilt s r p = true) {data : Word} (hbit : data.toNat / 2 ^ 31 = 1)
    (hr : bits data.toNat 8 3 = r) (hpos : bits data.toNat 0 6 = p) (hvacant : (posOf s r p).vacant = false) :
    ∃ t, exec (.hltRetire data) s = .next t ∧ CoreDead s r p 3 t ∧ t = { s with
        outs := s.outs ++ [.cpAck false], health := { s.health with coreLost := true, coreCtrl := data &&& 0x73F }
        regions := t.regions, ports := t.ports } := by
  refine ⟨_, (exec_hltRetire hrun data).trans (by rw [hr, hpos, if_pos (by simp [(bit31_iff data).2 hbit, hp])]),
    declareDead_dead (s := coreCtrlStored data s) hp hvacant, ?_⟩
  have hframe := declareDead_frame (s := coreCtrlStored data s) (cause := 3) hvacant
  exact hframe

/-- Settles O47. -/
theorem coreFencing : Obligations.CoreFencing := by
  unfold Obligations.CoreFencing
  intro s r p hrun hp x dead
  refine ⟨fun hvacant hready hpark => ⟨_, (exec_coreAliveTimeout hrun hp).trans (if_neg (by simp [hready, hpark])),
      declareDead_dead hp hvacant, declareDead_frame hvacant⟩,
    fun data hbit hr hpos hvacant => hltRetire_dead hrun hp hbit hr hpos hvacant, fun h => ?_, fun data h => ?_, fun f hf => ⟨fun hopen => ?_, fun hopen => ?_⟩⟩
  · rw [exec_coreAliveTimeout hrun hp]
    rcases h with h | h
    · rw [declareDead_vacant h, ite_self]
    · rw [if_pos h]
  · refine (exec_hltRetire hrun data).trans ?_
    rcases h with h | ⟨hr, hpos, hvacant⟩
    · rw [if_neg (by simp [show bit data.toNat 31 = false by rw [← Bool.not_eq_true, bit31_iff]; omega])]
      rfl
    · rw [hr, hpos, declareDead_vacant (s := coreCtrlStored data s) hvacant, ite_self]
      rfl
  · rw [exec_coreFenceSettled hrun hp hf, if_pos hopen]
  · exact ⟨_, (exec_coreFenceSettled hrun hp hf).trans (if_neg (by simp [hopen])), coreFenceSettled_settles hp⟩

end Sys2Proof.Proofs
end

section
/-! PROOFS. The second pass of a task, and the end of a task (R118, R129, R251). -/

namespace Sys2Proof.Machine

variable {s : State} {r : NodeRef} {n : Node} {k : Task}

/-! ## The scale after the first pass (R129) -/

theorem secondScale_warm {d : Nat} (h : (k.scales.getD d default).cold ≠ .twoPass) : secondScale k d = k.scales.getD d default :=
  if_pos (by simpa using h)

theorem secondScale_cold {d : Nat} (h : (k.scales.getD d default).cold = .twoPass) : secondScale k d =
    let old := k.scales.getD d default
    let rcp : Recipe := ⟨old.rcp⟩
    let st := k.stats.getD d Stats.none
    let span := if rcp.zpMode = 0 then wordQ (BitVec.ofNat 32 st.amax)
      else match st.xmax, st.xmin with
        | some a, some b => spanAbout a b old.z
        | _, _ => Q.zero
    { old with t := tensorScale (bf16Up span) rcp 0 rcp.tSeed } :=
  if_neg (by rw [h]; decide)

/-- A task whose rows are dispatched again, under the scales of its first pass. -/
def Task.secondPass (t : Task) : Task :=
  { t with
    scales := (List.range 4).map (secondScale t), ph := .run, final := true, next := 0, done := 0
    stats := List.replicate 4 Stats.none, chv := List.replicate 4 [] }

theorem secondPass_scale (t : Task) {d : Nat} (hd : d < 4) : t.secondPass.scales[d]? = some (secondScale t d) := by
  simp [Task.secondPass, hd]

theorem exec_twoPassSecondPass {c g i : Nat} (hrun : s.rst = .run) (hk : taskOf s ⟨c, g, i⟩ = some k) (hph : k.ph = .folded) :
    exec (.twoPassSecondPass c g i) s = .next (modTask ⟨c, g, i⟩ Task.secondPass s) := by
  show execTwoPassSecondPass c g i s = _
  rw [execTwoPassSecondPass, inRun_of_run hrun]
  dsimp only
  rw [hk]
  dsimp only
  rw [if_neg (by rw [hph]; decide)]
  rfl

/-! ## The end of a task (R251) -/

/-- A task that is over: its tail is written, and no write of its swaths is open. -/
def Task.Over (s : State) (r : NodeRef) (t : Task) : Prop :=
  t.ph = .tail ∧ t.tailLeft = 0 ∧ t.merges = [] ∧ ∀ j ∈ s.jobs, j.kind.writesFor r t.id = false

/-- A node with the records and the information of its task. -/
def Node.recorded (r : NodeRef) (t : Task) (a : Applied) (n : Node) : Node :=
  { n with info := a.info, recs := (recDests n t).map (fun x => destRecord r n t x.1 x.2) }

theorem exec_taskComplete {c g i : Nat} (hrun : s.rst = .run) (hn : nodeOf s ⟨c, g, i⟩ = some n) (hk : n.task = some k) :
    (k.Over s ⟨c, g, i⟩ → exec (.taskComplete c g i) s = .next (completeNode ⟨c, g, i⟩ (taskApplied n k).status (taskApplied n k).cause
      (modNode ⟨c, g, i⟩ (Node.recorded ⟨c, g, i⟩ k (taskApplied n k)) s))) ∧
    (¬ k.Over s ⟨c, g, i⟩ → exec (.taskComplete c g i) s = .next s) := by
  have hexec : exec (.taskComplete c g i) s = if k.ph != .tail || k.tailLeft != 0 || !k.merges.isEmpty ||
      s.jobs.any (fun j => j.kind.writesFor ⟨c, g, i⟩ k.id) then .next s
    else .next (completeNode ⟨c, g, i⟩ (taskApplied n k).status (taskApplied n k).cause (modNode ⟨c, g, i⟩ (Node.recorded ⟨c, g, i⟩ k (taskApplied n k)) s)) := by
    refine (inRun_of_run hrun).trans ?_
    simp only [hn, hk]
    rfl
  rw [hexec]
  refine ⟨fun ⟨hph, hleft, hmerges, hjobs⟩ => if_neg ?_, fun h => if_pos ?_⟩
  · simpa [hph, hleft, hmerges] using hjobs
  · simp only [Task.Over] at h
    by_contra hnot
    simp only [Bool.or_eq_true, bne_iff_ne, ne_eq, Bool.not_eq_true', List.isEmpty_eq_false_iff, List.any_eq_true, not_or, not_exists,
      not_and, not_not, Bool.not_eq_true] at hnot
    exact h ⟨hnot.1.1.1, hnot.1.1.2, hnot.1.2, hnot.2⟩

/-- What the completion of a dispatched node shows of it. -/
theorem completeNode_shows {status cause : Nat} (hn : nodeOf s r = some n) (hstat : n.stat ≠ .completed) :
    ∃ m, nodeOf (completeNode r status cause s) r = some m ∧ m.stat = .completed ∧ m.status = status ∧ m.cause = cause ∧
      m.info = n.info ∧ m.recs = n.recs ∧ m.desc = n.desc := by
  obtain ⟨m, hm, hsame⟩ := nodeOf_completeNode_same (status := status) (cause := cause) hn hstat
  rw [Node.Same] at hsame
  exact ⟨m, hm, by rw [hsame]; rfl, by rw [hsame]; rfl, by rw [hsame]; rfl, by rw [hsame]; rfl, by rw [hsame]; rfl, by rw [hsame]; rfl⟩

end Sys2Proof.Machine

namespace Sys2Proof.Proofs

open Sys2Proof.Machine

/-- The task of a first pass is dispatched again. -/
theorem secondPassBegins {s : State} {c g k : Nat} {tk : Task} (hrun : s.rst = .run) (hk : taskOf s ⟨c, g, k⟩ = some tk) (hph : tk.ph = .folded) :
    let old := fun (d : Nat) => tk.scales.getD d default
    let rcp := fun (d : Nat) => (⟨(old d).rcp⟩ : Recipe)
    let st := fun (d : Nat) => tk.stats.getD d Stats.none
    ∃ t u, exec (.twoPassSecondPass c g k) s = .next t ∧ t = { s with ctxs := t.ctxs } ∧ taskOf t ⟨c, g, k⟩ = some u ∧
      u.ph = .run ∧ u.final = true ∧ u.next = 0 ∧ u.done = 0 ∧ u.ops = tk.ops ∧ u.prog = tk.prog ∧
      (∀ d, d < 4 → (old d).cold ≠ .twoPass → u.scales[d]? = some (old d)) ∧
      (∀ d, d < 4 → (old d).cold = .twoPass →
        let sets := fun (span : Q) => u.scales[d]? = some { old d with t := tensorScale (bf16Up span) (rcp d) 0 (rcp d).tSeed }
        ((rcp d).zpMode = 0 → sets (wordQ (BitVec.ofNat 32 (st d).amax))) ∧
        ((rcp d).zpMode ≠ 0 → ∀ a b, (st d).xmax = some a → (st d).xmin = some b → sets (spanAbout a b (old d).z)) ∧
        ((rcp d).zpMode ≠ 0 → (st d).xmax = none ∨ (st d).xmin = none → sets Q.zero)) ∧
      ∀ e, e ≠ c → ctxOf t e = ctxOf s e := by
  intro old rcp st
  refine ⟨_, tk.secondPass, exec_twoPassSecondPass hrun hk hph, rfl, taskOf_modTask _ hk, rfl, rfl, rfl, rfl, rfl, rfl,
    fun d hd hcold => (secondPass_scale tk hd).trans (congrArg some (secondScale_warm hcold)), fun d hd hcold => ?_,
    fun e he => ctxOf_modTask_other he⟩
  intro sets
  have hsets (span : Q) (h : secondScale tk d = { old d with t := tensorScale (bf16Up span) (rcp d) 0 (rcp d).tSeed }) : sets span :=
    (secondPass_scale tk hd).trans (congrArg some h)
  refine ⟨fun hzero => hsets _ ?_, fun hspan a b ha hb => hsets _ ?_, fun hspan hnone => hsets _ ?_⟩
  · rw [secondScale_cold hcold]
    dsimp only
    rw [if_pos hzero]
  · rw [secondScale_cold hcold]
    dsimp only
    rw [if_neg hspan, ha, hb]
  · rw [secondScale_cold hcold]
    dsimp only
    rw [if_neg hspan]
    rcases hnone with h | h
    · rw [h]
    · rw [h]
      cases (tk.stats.getD d Stats.none).xmax <;> rfl

/-- Settles O40. -/
theorem taskEnds : Obligations.TaskEnds := by
  unfold Obligations.TaskEnds
  refine ⟨fun s c g k tk hrun hk hph => secondPassBegins hrun hk hph, fun s c g k n tk hrun hn hstat hk => ⟨fun hph hleft hmerges hjobs => ?_, fun h => ?_⟩⟩
  · obtain ⟨m, hm, hmstat, hstatus, hcause, hinfo, hrecs, hdesc⟩ := completeNode_shows (status := (taskApplied n tk).status)
      (cause := (taskApplied n tk).cause) (nodeOf_modNode_same (f := Node.recorded ⟨c, g, k⟩ tk (taskApplied n tk)) hn) (by show n.stat ≠ .completed; simp [hstat])
    refine ⟨_, m, (exec_taskComplete hrun hn hk).1 ⟨hph, hleft, hmerges, hjobs⟩, ?_, hm, hmstat, hstatus, hcause, hinfo, ?_, hdesc, fun e he => ?_⟩
    · rw [completeNode_frame]
      rfl
    · rw [hrecs]
      exact List.length_map _
    · exact (ctxOf_completeNode_other he).trans (ctxOf_modNode_other he)
  · refine (exec_taskComplete hrun hn hk).2 fun ⟨hph, hleft, hmerges, hjobs⟩ => ?_
    rcases h with h | h | h | ⟨j, hj, hwrites⟩
    · exact h hph
    · exact h hleft
    · exact h hmerges
    · rw [hjobs j hj] at hwrites
      cases hwrites

end Sys2Proof.Proofs
end

section
/-! PROOFS. A swath is placed while the slice passes on: the statement fails where the CHECK that the unpinned slots let go on ends before
the switch does for which its node waits. -/

namespace Sys2Proof.Machine

/-- A descriptor of a node of a type, with its step and blocks and 100 rows. -/
def heldDesc (type : Nat) : List Byte :=
  [BitVec.ofNat 8 type] ++ zeros 11 ++ leBytes 4 1 ++ leBytes 8 64 ++ leBytes 8 128 ++ leBytes 4 100 ++ leBytes 4 0 ++ leBytes 4 32 ++
    leBytes 2 0 ++ leBytes 2 0 ++ leBytes 2 0xFFFF ++ leBytes 2 0xFFFF ++ leBytes 4 0 ++ leBytes 8 0

/-- A task whose next swath is ready. -/
def offeredTask : Task :=
  { newTask 1 with ph := .ready, ops := zeros 256, prog := zeros 384, started := true, scales := List.replicate 4 default }

def offeredNode : Node := ⟨heldDesc 1, [], 0, false, .dispatched, 0, 0, 0, [], some offeredTask, []⟩

/-- The node of a CHECK that is under way. -/
def checkNode : Node := ⟨heldDesc 5, [], 0, false, .dispatched, 0, 0, 0, [], none, []⟩

def oneNode (n : Node) : Graph := { (default : Graph) with count := 1, loaded := true, nodes := [n] }

/-- Context 0 holds the slice and context 1 of higher PRIO has a swath, so the slice passes on with the command. Region 1 is asked to park,
so the slots that unpin let the CHECK of context 2 end, whose node also waits for the switch of bank 5. Core 3 is the last consumer of it. -/
def checkEndsFirst : State :=
  let r := region State.reset 0
  { State.reset with
    regions := [{ r with ready := true }, { r with parkReq := true }]
    ports := [{ port State.reset 0 with rd := 8, wr := 8, st := 8 }]
    loader := { State.reset.loader with state := .done, bootDone := true, selftestDone := true }
    banks := modAt State.reset.banks 5 (fun b => { b with state := .switching, flip := [.core 0 3], waits := [⟨2, 0, 0⟩] })
    sched := { State.reset.sched with sliced := true, holder := some 0 }
    ctxs := modAt (modAt State.reset.ctxs 1 (fun x => { x with cfg := 0x01000000, state := .enabled, graphs := [oneNode offeredNode] })) 2
      (fun x => { x with graphs := [oneNode checkNode], fold := some { (default : Fold) with node := ⟨2, 0, 0⟩, check := true, streams := [] } }) }

theorem checkEndsFirst_offers : checkEndsFirst.rst = .run ∧ nodeOf (yieldSlice checkEndsFirst) ⟨1, 0, 0⟩ = some offeredNode ∧
    offered (yieldSlice checkEndsFirst) 0 3 = some ⟨1, 0, 0⟩ ∧ offeredTask.known offeredNode = true ∧
    rowsOk offeredNode offeredTask offeredTask.next 10 = true ∧ (posOf (yieldSlice checkEndsFirst) 0 3).phys = 3 := by decide +kernel

theorem checkEndsFirst_banks : (∀ b ∈ checkEndsFirst.banks, b.node ≠ some ⟨1, 0, 0⟩ ∧ ⟨1, 0, 0⟩ ∉ b.waits) ∧
    (bank checkEndsFirst 5).state = .switching ∧ (bank checkEndsFirst 5).flip = [.core 0 3] ∧ ⟨2, 0, 0⟩ ∈ (bank checkEndsFirst 5).waits ∧
    (∀ m, m < 16 → (bank checkEndsFirst m).node ≠ some ⟨2, 0, 0⟩) ∧ nodeOf checkEndsFirst ⟨2, 0, 0⟩ = some checkNode := by decide +kernel

/-- The status of the CHECK's node after an outcome. -/
def checkStatus (a : Answer) : Option Nat := match a with
  | .next t => (nodeOf t ⟨2, 0, 0⟩).map (·.status)
  | _ => none

/-- The CHECK has ended with status OK, so the end of the switch does not turn its node away. -/
theorem checkEndsFirst_ok : checkStatus (exec (.swathDispatch 1 0 0 0 3 10 none) checkEndsFirst) = some 0 := by decide +kernel

end Sys2Proof.Machine

namespace Sys2Proof.Proofs

open Sys2Proof.Machine

/-- Refutes O38: with the slice that passes on a CHECK can end whose node waits for a bank; the switch that the swath's core ends then
finds the node completed with status 0, and not REJECTED with cause 0x0B as `CountedOff` asks. -/
theorem not_swathPlaced : ¬ Obligations.SwathPlaced := by
  unfold Obligations.SwathPlaced
  intro h
  obtain ⟨hrun, hnode, hoffered, hknown, hrows, hphys⟩ := checkEndsFirst_offers
  obtain ⟨hclear, hswitching, hflip, hwaits, hstarter, hcheck⟩ := checkEndsFirst_banks
  obtain ⟨-, -, -, -, hplaced⟩ := h checkEndsFirst _ 1 0 0 0 3 10 offeredNode offeredTask hrun rfl hnode rfl
  obtain ⟨-, hsound⟩ := hplaced hoffered hknown (fun hs => absurd hs (by decide)) hclear
  obtain ⟨t, ⟨-, -, -, -, hoff, -⟩, hcmd, -⟩ := (hsound rfl).1 rfl hrows rfl
  have hcmd : exec (.swathDispatch 1 0 0 0 3 10 none) checkEndsFirst = .next t := hcmd
  rw [hphys] at hoff
  have hlast := (hoff 5 (by decide)).2.2 hswitching (by rw [hflip]; decide) (by rw [hflip]; decide)
  obtain ⟨k, hk, -, hstatus, -⟩ := (hlast.2 ⟨2, 0, 0⟩ checkNode hcheck rfl).2 hwaits hstarter
  have hok := checkEndsFirst_ok
  rw [hcmd, checkStatus, hk] at hok
  simp [hstatus] at hok

end Sys2Proof.Proofs
end

section
/-! PROOFS. A beat outside an emission that an uncorrectable word struck: the statement about the beats of a lift slice fails there. -/

namespace Sys2Proof.Machine

/-- Lift slice 0 out of reset with no window enabled, outside an emission, its stray beats logged. -/
def strayBeats : State := { State.reset with slices := [{ Slice.reset with inReset := false, strayLogged := true }] }

/-- A beat that does not open an emission, struck by an uncorrectable word in the code buffer (R329). -/
def struckBeat : CodeBeat := ⟨[], 0, 1, false, ⟨0⟩, 0, false, true⟩

theorem strayBeats_rested : strayBeats.rst = .run ∧ sliceBuilt strayBeats 0 = true ∧ (liftSlice strayBeats 0).ready = true ∧
    (∀ y ∈ (liftSlice strayBeats 0).wins, y.next = none) ∧ (liftSlice strayBeats 0).beats = [] ∧
    (liftSlice strayBeats 0).part = { Partial.empty with waitFrom := none, prev := (liftSlice strayBeats 0).part.prev } ∧
    (liftSlice strayBeats 0).em = none ∧ (liftSlice strayBeats 0).strayLogged = true ∧ strayBeats.health.ueCount = 0 := by decide +kernel

/-- The uncorrectable words counted after an outcome. -/
def ueCounted (a : Answer) : Word := match a with
  | .next t => t.health.ueCount
  | _ => 0

theorem strayBeats_counts : ueCounted (exec (.liftCodeBeat 0 struckBeat) strayBeats) = 1 := by decide +kernel

end Sys2Proof.Machine

namespace Sys2Proof.Proofs

open Sys2Proof.Machine

/-- Refutes O54: a beat outside an emission is a MISMATCH also where an uncorrectable word struck it; then the word is counted and logged
besides, and the statement leaves that out. -/
theorem not_liftBeats : ¬ Obligations.LiftBeats := by
  unfold Obligations.LiftBeats
  intro h
  obtain ⟨hrun, hbuilt, hready, hnext, hbeats, hpart, hem, hlogged, hnone⟩ := strayBeats_rested
  obtain ⟨-, -, -, hbeat, -⟩ := h strayBeats 0 hrun hbuilt
  obtain ⟨-, hstray, -⟩ := hbeat struckBeat ⟨hready, hnext⟩ hbeats hpart
  obtain ⟨t, hexec, ⟨-, -, -, -, -, -, ht⟩, -⟩ := hstray hem rfl
  rw [if_pos hlogged] at ht
  have hcounts := strayBeats_counts
  rw [hexec, ueCounted, ht, hnone] at hcounts
  exact absurd hcounts (by decide)

end Sys2Proof.Proofs
end

section
/-! PROOFS. The start of a switch (R78), and the dispatch of a node of each type (R244, R250). -/

namespace Sys2Proof.Machine

variable {s : State} {r : NodeRef} {n : Node} {a : Nat}

/-! ## The start of a switch -/

/-- What each slice makes of a switch of a bank, and whether it is still to be counted off. -/
def slicesMet (a : Nat) (s : State) : List (Slice × Bool) :=
  s.slices.map (fun sl => sliceMeets sl a ((bank s a).side (!(bank s a).live)) (!(bank s a).live))

/-- The slices that a switch of a bank waits for. -/
def lateSlices (a : Nat) (s : State) : List Consumer := ((slicesMet a s).zipIdx.filter (fun m => m.1.2)).map (fun m => Consumer.slice m.2)

/-- A switch that has begun. -/
def switchBegun (a : Nat) (node : Option NodeRef) (s : State) : State :=
  modBank a (fun b => { b with state := .switching, flip := busyCores s ++ lateSlices a s, node := node, waits := [] })
    { s with slices := (slicesMet a s).map (·.1) }

theorem switchStart_eq (a : Nat) (node : Option NodeRef) (s : State) : switchStart a node s =
    if busyCores s ++ lateSlices a s = [] then switchDone a (switchBegun a node s) else switchBegun a node s := by
  simp only [← List.isEmpty_iff]
  rfl

theorem bank_switchDone (ha : a < s.banks.length) : bank (switchDone a s) a = (bank s a).switched := by
  rw [switchDone_frame]
  exact bank_modBank_same ha

theorem bank_switchBegun (ha : a < s.banks.length) (node : Option NodeRef) : bank (switchBegun a node s) a =
    { bank s a with state := .switching, flip := busyCores s ++ lateSlices a s, node := node, waits := [] } := bank_modBank_same ha

/-- Where no slice holds the bank none of them changes, and the switch waits for cores alone. -/
theorem slicesMet_away (h : ∀ sl ∈ s.slices, sl.winOf a = none) : slicesMet a s = s.slices.map (fun sl => (sl, false)) := by
  refine List.map_congr_left fun sl hsl => ?_
  unfold sliceMeets
  simp only [h sl hsl]

theorem lateSlices_away (h : ∀ sl ∈ s.slices, sl.winOf a = none) : lateSlices a s = [] := by
  unfold lateSlices
  rw [slicesMet_away h, List.map_eq_nil_iff, List.filter_eq_nil_iff]
  intro m hm
  obtain ⟨sl, -, hsl⟩ := List.mem_map.1 (List.fst_mem_of_mem_zipIdx hm)
  rw [← hsl]
  exact Bool.false_ne_true

theorem switchBegun_away (h : ∀ sl ∈ s.slices, sl.winOf a = none) (node : Option NodeRef) : switchBegun a node s =
    modBank a (fun b => { b with state := .switching, flip := busyCores s, node := node, waits := [] }) s := by
  rw [switchBegun, lateSlices_away h, slicesMet_away h, List.append_nil, List.map_map]
  have hid : s.slices.map ((·.1) ∘ fun sl : Slice => (sl, false)) = s.slices := List.map_id' _
  rw [hid]

/-! ## The dispatch of a node -/

/-- A node that is under way. -/
def nodeBegun (r : NodeRef) (s : State) : State := modNode r (fun n => { n with stat := .dispatched }) s

theorem nodeOf_nodeBegun (h : nodeOf s r = some n) : nodeOf (nodeBegun r s) r = some { n with stat := .dispatched } := nodeOf_modNode_same h

theorem exec_nodeDispatch {c g k : Nat} (hrun : s.rst = .run) (hn : nodeOf s ⟨c, g, k⟩ = some n) (hrequeued : requeuedIn s ⟨c, g, k⟩ = none)
    (hnext : nextNode s c = some ⟨c, g, k⟩) : exec (.nodeDispatch c g k none) s =
    match lowest (dispatchCauses (ctxOf s c) n) with
    | some cause => .next (completeNode ⟨c, g, k⟩ stRejected cause s)
    | none => .next (nodeRun ⟨c, g, k⟩ n s) := by
  show execNodeDispatch c g k none s = _
  rw [execNodeDispatch, inRun_of_run hrun]
  dsimp only [applyUpsets]
  rw [hn]
  dsimp only
  rw [hrequeued]
  dsimp only
  exact if_neg (by rw [hnext]; simp)

theorem nodeRun_task (h : n.type = 1 ∨ n.type = 2) : nodeRun r n s = taskStart r n s := by
  unfold nodeRun
  rcases h with h | h <;> simp only [h]

theorem nodeRun_done (h : n.type = 0 ∨ (n.type = 4 ∧ n.step ≠ (ctxOf s r.ctx).openStep)) : nodeRun r n s = completeNode r stOk 0 s := by
  unfold nodeRun
  rcases h with h | ⟨h, hstep⟩
  · simp only [h]
  · simp only [h]
    exact if_neg (by simpa using hstep)

theorem nodeRun_dma {reg ch : Nat} (h : n.type = 3) (hplace : dmaPlace s n = some (reg, ch)) : nodeRun r n s =
    modChan reg ch (fun c => { (runStart c (some r) n.dmaPrio) with hops := 1, fetchAt := some n.chain }) (nodeBegun r s) := by
  unfold nodeRun
  simp only [h, hplace]
  rfl

theorem nodeRun_fold (h : (n.type = 4 ∧ n.step = (ctxOf s r.ctx).openStep) ∨ n.type = 5) :
    nodeRun r n s = foldStart r (decide (n.type = 5)) n.step (if n.type = 5 then n.stream else 0xFFFF) (nodeBegun r s) := by
  unfold nodeRun
  rcases h with ⟨h, hstep⟩ | h
  · simp only [h]
    exact if_pos (by simpa using hstep)
  · simp only [h]
    rfl

theorem nodeRun_bank (h : n.type = 6) : nodeRun r n s = bankNode r n s := by
  unfold nodeRun
  simp only [h]

/-- A node that has completed OK, or has been REJECTED, and nothing else but contexts has changed. -/
theorem completeNode_alone {status cause : Nat} (hn : nodeOf s r = some n) (hstat : n.stat ≠ .completed) :
    completeNode r status cause s = { s with ctxs := (completeNode r status cause s).ctxs } ∧
    ∃ m, nodeOf (completeNode r status cause s) r = some m ∧ m.stat = .completed ∧ m.status = status ∧ m.cause = cause := by
  obtain ⟨m, hm, hmstat, hstatus, hcause, -⟩ := completeNode_shows (status := status) (cause := cause) hn hstat
  exact ⟨completeNode_frame r status cause s, m, hm, hmstat, hstatus, hcause⟩

/-! ## Tasks -/

theorem taskStart_reads (hn : nodeOf s r = some n) (hops : n.opsAt % 64 = 0) : ∃ u tk m,
    taskStart r n s = startRead (.taskOps r s.nextTask) [(n.opsAt, 256)] u ∧
    u = { s with ctxs := u.ctxs, nextTask := s.nextTask + 1 } ∧ nodeOf u r = some m ∧ m.stat = .dispatched ∧
    m.desc = n.desc ∧ m.task = some tk ∧ tk.id = s.nextTask ∧ tk.ph = .ops ∧ tk.started = false ∧
    ∀ d, d ≠ r.ctx → ctxOf u d = ctxOf s d := by
  refine ⟨modNode r (fun n => { n with stat := .dispatched, task := some (newTask s.nextTask) }) { s with nextTask := s.nextTask + 1 },
    newTask s.nextTask, _, ?_, rfl, nodeOf_modNode_same hn, rfl, rfl, rfl, rfl, rfl, rfl, fun d hd => ctxOf_modNode_other hd⟩
  exact if_neg (by simp [hops])

/-! ## Folds -/

theorem foldStart_reads {check : Bool} {step stream : Nat} (hall : check = false ∨ stream = 0xFFFF)
    (hsegs : (ctxOf s r.ctx).ringSegs ≠ []) : ∃ f : Fold, f.node = r ∧ f.check = check ∧ f.step = step ∧ f.reading = true ∧
    foldStart r check step stream s = startRead (.foldRecs r.ctx) (ctxOf s r.ctx).ringSegs (modCtx r.ctx (fun x => { x with fold := some f }) s) := by
  have hreads : ((!check || stream == 0xFFFF) && !(ctxOf s r.ctx).ringSegs.isEmpty) = true := by
    rcases hall with h | h <;> simp [h, hsegs]
  unfold foldStart
  simp only [hreads, if_true]
  exact ⟨_, rfl, rfl, rfl, rfl, rfl⟩

/-! ## Banks -/

theorem bankNode_rejected (h : (bank s n.bank).wedged = true ∨ ((bank s n.bank).state ≠ .valid ∧
    ((bank s n.bank).state ≠ .switching ∨ (bank s n.bank).node ≠ none))) : bankNode r n s = completeNode r stRejected 0x0B s := by
  unfold bankNode
  dsimp only
  rcases h with h | ⟨hvalid, h | h⟩
  · rw [if_neg (by simp [h]), if_neg (by simp [bankHolds, h])]
  · rw [if_neg (by simp [hvalid]), if_neg (by simp [bankHolds, h])]
  · rw [if_neg (by simp [hvalid]), if_neg (by simp [bankHolds, h])]

theorem bankNode_waits (hwedged : (bank s n.bank).wedged = false) (hstate : (bank s n.bank).state = .switching)
    (hnode : (bank s n.bank).node = none) :
    bankNode r n s = modBank n.bank (fun b => { b with waits := b.waits ++ [r] }) (nodeBegun r s) := by
  unfold bankNode
  dsimp only
  rw [if_neg (by simp [hstate]), if_pos (by simp [bankHolds, hwedged, hstate, hnode])]
  rfl

theorem bankNode_switches (hwedged : (bank s n.bank).wedged = false) (hstate : (bank s n.bank).state = .valid) :
    bankNode r n s = switchStart n.bank (some r) (nodeBegun r s) := if_pos (by simp [hstate, hwedged])

/-- A bank that no slice holds switches, for a node. -/
def bankBegun (r : NodeRef) (n : Node) (s : State) : State :=
  modBank n.bank (fun b => { b with state := .switching, flip := busyCores s, node := some r, waits := [] }) (nodeBegun r s)

theorem bankNode_away (hwedged : (bank s n.bank).wedged = false) (hstate : (bank s n.bank).state = .valid)
    (hslices : ∀ sl ∈ s.slices, sl.winOf n.bank = none) :
    bankNode r n s = if busyCores s = [] then switchDone n.bank (bankBegun r n s) else bankBegun r n s := by
  have hbusy : busyCores (nodeBegun r s) = busyCores s := rfl
  rw [bankNode_switches hwedged hstate, switchStart_eq, switchBegun_away (s := nodeBegun r s) hslices, lateSlices_away (s := nodeBegun r s) hslices,
    List.append_nil, hbusy]
  rfl

end Sys2Proof.Machine
end

section
/-! PROOFS. The dispatch of a node of each type, settled. -/

namespace Sys2Proof.Machine

variable {s : State} {r : NodeRef} {n : Node}

theorem dmaPlace_built {reg ch : Nat} (hplace : dmaPlace s n = some (reg, ch)) : reg < s.regions.length := by
  obtain ⟨q, -, hq⟩ := List.exists_of_findSome?_eq_some hplace
  split at hq
  · obtain ⟨c, hc, hpair⟩ := Option.map_eq_some_iff.1 hq
    obtain ⟨rfl, -⟩ := Prod.mk.inj hpair
    unfold idleSchedChan at hc
    by_contra hbuilt
    dsimp only at hc
    rw [if_pos (by simp [Nat.not_lt.1 hbuilt])] at hc
    cases hc
  · cases hq

theorem bank_bankBegun (h : n.bank < s.banks.length) : bank (bankBegun r n s) n.bank =
    { bank s n.bank with state := .switching, flip := busyCores s, node := some r, waits := [] } :=
  bank_modBank_same (s := nodeBegun r s) h

theorem bankBegun_ended (hn : nodeOf s r = some n) (hbank : n.bank < s.banks.length) :
    NodeEnded (switchDone n.bank (bankBegun r n s)) r 0 0 := by
  have hkept : NodeKept (bankBegun r n s) r { n with stat := .dispatched } := .refl (nodeOf_nodeBegun hn)
  exact switchDone_starter (by rw [bank_bankBegun hbank]) hkept rfl

theorem ctxOf_nodeBegun_graphs (h : r.ctx < s.ctxs.length) : (ctxOf s r.ctx).GraphsOnly (ctxOf (nodeBegun r s) r.ctx) := by
  rw [nodeBegun, modNode, modGraph, ctxOf_modCtx_same h]
  rfl

/-- A COMMIT of the open step, or a CHECK of every stream, with records in the ring. -/
theorem nodeRun_fold_reads (hn : nodeOf s r = some n)
    (htype : (n.type = 4 ∧ n.step = (ctxOf s r.ctx).openStep) ∨ (n.type = 5 ∧ n.stream = 0xFFFF)) (hsegs : (ctxOf s r.ctx).ringSegs ≠ []) :
    ∃ u f m, nodeRun r n s = startRead (.foldRecs r.ctx) (ctxOf s r.ctx).ringSegs u ∧
      u = { s with ctxs := u.ctxs } ∧ nodeOf u r = some m ∧ m.stat = .dispatched ∧ m.desc = n.desc ∧
      (ctxOf u r.ctx).fold = some f ∧ f.node = r ∧ f.check = decide (n.type = 5) ∧ f.step = n.step ∧ f.reading = true ∧
      ∀ d, d ≠ r.ctx → ctxOf u d = ctxOf s d := by
  have hbuilt := built_of_node hn
  have hall : decide (n.type = 5) = false ∨ (if n.type = 5 then n.stream else 0xFFFF) = 0xFFFF := by
    rcases htype with ⟨h, -⟩ | ⟨h, hstream⟩
    · exact .inl (by rw [h]; rfl)
    · exact .inr (by rw [if_pos h, hstream])
  have hring : (ctxOf (nodeBegun r s) r.ctx).ringSegs = (ctxOf s r.ctx).ringSegs := by
    rw [ctxOf_nodeBegun_graphs hbuilt]
    rfl
  have hlen : r.ctx < (nodeBegun r s).ctxs.length := by
    show r.ctx < (modAt s.ctxs r.ctx _).length
    rw [modAt, List.length_modify]
    exact hbuilt
  obtain ⟨f, hnode, hcheck, hstep, hreading, hstart⟩ := foldStart_reads (s := nodeBegun r s) (step := n.step) hall (by rw [hring]; exact hsegs)
  refine ⟨modCtx r.ctx (fun x => { x with fold := some f }) (nodeBegun r s), f, { n with stat := .dispatched },
    (nodeRun_fold (htype.imp_right And.left)).trans (hstart.trans (by rw [hring])), rfl, ?_, rfl, rfl, ?_, hnode, hcheck, hstep, hreading,
    fun d hd => (ctxOf_modCtx_other hd).trans (ctxOf_modNode_other hd)⟩
  · rw [nodeOf, graphOf_modCtx_graphs r.ctx (fun x => { x with fold := some f }) (fun _ => rfl)]
    exact nodeOf_nodeBegun hn
  · rw [ctxOf_modCtx_same hlen]

end Sys2Proof.Machine

namespace Sys2Proof.Proofs

open Sys2Proof.Machine

variable {s : State} {r : NodeRef} {n : Node}

/-- A bank that no slice holds, under a BANKSWITCH node. -/
theorem bankNode_settles (hn : nodeOf s r = some n) (hstat : n.stat ≠ .completed) (hbank : n.bank < s.banks.length) :
    let completes := fun (status cause : Nat) => bankNode r n s = { s with ctxs := (bankNode r n s).ctxs } ∧
      ∃ m, nodeOf (bankNode r n s) r = some m ∧ m.stat = .completed ∧ m.status = status ∧ m.cause = cause
    let runs := fun (t : State) => ∃ m, nodeOf t r = some m ∧ m.stat = .dispatched ∧ m.desc = n.desc
    ((bank s n.bank).wedged = true ∨ ((bank s n.bank).state ≠ .valid ∧
      ((bank s n.bank).state ≠ .switching ∨ (bank s n.bank).node ≠ none)) → completes 0x16 0x0B) ∧
    ((bank s n.bank).wedged = false → (bank s n.bank).state = .switching → (bank s n.bank).node = none → runs (bankNode r n s) ∧
      bankNode r n s = { s with
        ctxs := (bankNode r n s).ctxs, banks := modAt s.banks n.bank (fun b => { b with waits := b.waits ++ [r] }) }) ∧
    ((bank s n.bank).state = .valid → (bank s n.bank).wedged = false → (∀ sl ∈ s.slices, sl.winOf n.bank = none) →
      let t := bankNode r n s
      (busyCores s ≠ [] → runs t ∧ t = { s with ctxs := t.ctxs, banks := t.banks } ∧
        (bank t n.bank).state = .switching ∧ (bank t n.bank).node = some r ∧
        (bank t n.bank).live = (bank s n.bank).live ∧ (bank t n.bank).flip = busyCores s) ∧
      (busyCores s = [] → t = { s with ctxs := t.ctxs, banks := t.banks } ∧
        (∃ m, nodeOf t r = some m ∧ m.stat = .completed ∧ m.status = 0 ∧ m.cause = 0) ∧
        (bank t n.bank).state = .opn ∧ (bank t n.bank).live = !(bank s n.bank).live)) := by
  intro completes runs
  refine ⟨fun h => ?_, fun hwedged hstate hnode => ?_, fun hstate hwedged hslices => ⟨fun hbusy => ?_, fun hidle => ?_⟩⟩
  · simp only [completes, bankNode_rejected h]
    exact completeNode_alone hn hstat
  · rw [bankNode_waits hwedged hstate hnode]
    exact ⟨⟨_, nodeOf_nodeBegun hn, rfl, rfl⟩, rfl⟩
  · rw [bankNode_away hwedged hstate hslices, if_neg hbusy, bank_bankBegun hbank]
    exact ⟨⟨_, nodeOf_nodeBegun hn, rfl, rfl⟩, rfl, rfl, rfl, rfl, rfl⟩
  · rw [bankNode_away hwedged hstate hslices, if_pos hidle, bank_switchDone (s := bankBegun r n s) (by
      show n.bank < (modAt s.banks n.bank _).length
      rw [modAt, List.length_modify]
      exact hbank), bank_bankBegun hbank]
    refine ⟨?_, bankBegun_ended hn hbank, rfl, rfl⟩
    rw [switchDone_frame]
    rfl

/-- Settles O26. -/
theorem nodeDispatch : Obligations.NodeDispatch := by
  unfold Obligations.NodeDispatch
  intro s c g k n hrun hn hrequeued hnext hstat completes runs
  have hexec := exec_nodeDispatch hrun hn hrequeued hnext
  have hbuilt : c < s.ctxs.length := built_of_node hn
  refine ⟨fun cause hcause => ?_, fun hnone => ?_⟩
  · rw [hcause] at hexec
    exact ⟨_, hexec, completeNode_alone hn hstat⟩
  have hexec : exec (.nodeDispatch c g k none) s = .next (nodeRun ⟨c, g, k⟩ n s) := by
    rw [hexec, hnone]
    rfl
  refine ⟨fun htype hops => ?_, fun htype => ?_, fun htype reg ch hplace hch => ?_, fun htype hsegs => ?_, fun htype hbank => ?_⟩
  · obtain ⟨u, tk, m, hstart, hrest⟩ := taskStart_reads hn hops
    exact ⟨u, tk, m, hexec.trans (by rw [nodeRun_task htype, hstart]), hrest⟩
  · rw [nodeRun_done htype] at hexec
    exact ⟨_, hexec, completeNode_alone hn hstat⟩
  · rw [nodeRun_dma htype hplace] at hexec
    exact ⟨_, ⟨hexec, _, nodeOf_nodeBegun hn, rfl, rfl⟩, rfl, chan_modChan_same (s := nodeBegun ⟨c, g, k⟩ s) (dmaPlace_built hplace) hch _⟩
  · obtain ⟨u, f, m, hstart, hrest⟩ := nodeRun_fold_reads hn htype hsegs
    exact ⟨u, f, m, hexec.trans (congrArg Host.Outcome.next hstart), hrest⟩
  · rw [nodeRun_bank htype] at hexec
    obtain ⟨hrejected, hwaits, hswitches⟩ := bankNode_settles hn hstat hbank
    refine ⟨fun h => ⟨_, hexec, hrejected h⟩, fun hwedged hstate hnode => ⟨_, ⟨hexec, (hwaits hwedged hstate hnode).1⟩,
      (hwaits hwedged hstate hnode).2⟩, fun hstate hwedged hslices => ⟨fun hbusy => ?_, fun hidle => ?_⟩⟩
    · obtain ⟨hruns, hrest⟩ := (hswitches hstate hwedged hslices).1 hbusy
      exact ⟨_, ⟨hexec, hruns⟩, hrest⟩
    · exact ⟨_, hexec, (hswitches hstate hwedged hslices).2 hidle⟩

end Sys2Proof.Proofs
end

section
/-! PROOFS. Half of an inbound stream that is not open, while the burst of a completion record waits: the statement about inbound streams
fails there. -/

namespace Sys2Proof.Machine

/-- The write of the completion record of channel 0 of region 0, its sixteen bytes at address 0. -/
def recordWrite : Burst := ⟨.ctl 9, true, 0, 16, 0, 0, zeros 16⟩

/-- No core burst and no beat waits at port 0, but the burst of a completion record, which the region's engine presents there. -/
def recordWaits : State :=
  { State.reset with
    ports := [{ port State.reset 0 with rd := 8, wr := 8, st := 8 }]
    jobs := [⟨9, .dmaRec 0 0, true, [], 1, none⟩]
    ctlWait := [recordWrite] }

theorem recordWaits_unwaited : recordWaits.rst = .run ∧ 0 < recordWaits.ports.length ∧ (port recordWaits 0).lost = false ∧
    (port recordWaits 0).wait = [] ∧ (port recordWaits 0).beats = [] ∧ recvOf recordWaits 0 5 = none := by decide +kernel

/-- The bursts of the control island that wait after an outcome. -/
def burstsWaiting (a : Answer) : Nat := match a with
  | .next t => t.ctlWait.length
  | _ => 0

theorem recordWaits_presented : burstsWaiting (exec (.cpiSdata (.cluster 0 5) 1 []) recordWaits) = 0 := by decide +kernel

end Sys2Proof.Machine

namespace Sys2Proof.Proofs

open Sys2Proof.Machine

/-- Refutes O44: the half of a stream that is not open is discarded, but the port is then drained, and a burst of a completion record that
waits for it is presented; the statement has only the credit returned. -/
theorem not_inboundStreams : ¬ Obligations.InboundStreams := by
  unfold Obligations.InboundStreams
  intro h
  obtain ⟨hrun, hport, hlost, hwait, hbeats, hrecv⟩ := recordWaits_unwaited
  obtain ⟨hstreams, -⟩ := h recordWaits 0 5 1 [] hrun
  obtain ⟨hdiscarded, -⟩ := hstreams hport hlost hwait hbeats
  have hpresented := recordWaits_presented
  rw [(hdiscarded hrecv).1] at hpresented
  exact absurd hpresented (by decide)

end Sys2Proof.Proofs
end

section
/-! PROOFS. The amax exchange changes nothing but itself (R319 to R321). -/

namespace Sys2Proof.Machine

variable {s t u : State}

/-- From `s` to `t` nothing but the exchange has changed. -/
def ExchOnly (s t : State) : Prop := t = { s with exch := t.exch }

theorem ExchOnly.refl (s : State) : ExchOnly s s := rfl

theorem ExchOnly.trans (h : ExchOnly s t) (k : ExchOnly t u) : ExchOnly s u := by
  unfold ExchOnly at *
  rw [k, h]

theorem modExch_only (f : Exchange → Exchange) (h : ExchOnly s t) : ExchOnly s (modExch f t) := h.trans rfl

theorem agrSend_only (k : AgrKey) (v phase : Nat) (h : ExchOnly s t) : ExchOnly s (agrSend k v phase t) := modExch_only _ h

theorem agrClose_only (k : AgrKey) (h : ExchOnly s t) : ExchOnly s (agrClose k t) := modExch_only _ h

theorem agrDrop_only (h : ExchOnly s t) : ExchOnly s (agrDrop t) := modExch_only _ h

theorem agrOpenNew_only (k : AgrKey) (x : Nat) (h : ExchOnly s t) : ExchOnly s (agrOpenNew k x t) := modExch_only _ h

theorem agrHand_only (k : AgrKey) (v : Nat) (h : ExchOnly s t) : ExchOnly s (agrHand k v t) := by
  unfold agrHand
  split
  · exact h
  · exact modExch_only _ h

theorem distribute0_only (k : AgrKey) (v : Nat) (h : ExchOnly s t) : ExchOnly s (distribute0 k v t) := by
  have hhand := agrHand_only { k with level := 0 } v (agrClose_only { k with level := 0 } h)
  unfold distribute0
  dsimp only
  split
  · exact hhand
  · exact agrSend_only _ v 1 hhand

theorem distribute1_only (k : AgrKey) (v : Nat) (h : ExchOnly s t) : ExchOnly s (distribute1 k v t) := by
  unfold distribute1
  dsimp only
  split
  · exact distribute0_only k v (agrClose_only k h)
  · exact distribute0_only k v (agrSend_only k v 1 (agrClose_only k h))

theorem collect1_only (k : AgrKey) (x : Nat) (h : ExchOnly s t) : ExchOnly s (collect1 k x t) := by
  unfold collect1
  dsimp only
  split
  · exact distribute1_only k x h
  · split
    · exact agrSend_only k x 0 (modExch_only _ h)
    · split
      · exact agrOpenNew_only k x h
      · split
        · exact distribute1_only k _ (modExch_only _ h)
        · exact agrSend_only k _ 0 (modExch_only _ (modExch_only _ h))

theorem leader0_only (k : AgrKey) (m : Nat) (h : ExchOnly s t) : ExchOnly s (leader0 k m t) := by
  unfold leader0
  split
  · exact collect1_only _ m (modExch_only _ h)
  · exact distribute0_only k m h

theorem agrCollect_only (e : AgrEntry) (h : ExchOnly s t) : ExchOnly s (agrCollect e t) := by
  unfold agrCollect
  dsimp only
  split
  · split
    · exact agrDrop_only h
    · split
      · split
        · exact leader0_only e.key _ (agrClose_only e.key (modExch_only _ h))
        · exact distribute1_only e.key _ (modExch_only _ h)
      · exact agrSend_only e.key _ 0 (modExch_only _ (modExch_only _ h))
  · split
    · exact agrDrop_only h
    · exact modExch_only _ (modExch_only _ h)

/-- A distribute entry is sent on, but not by the last but one of its level. -/
theorem passed_only (k : AgrKey) (v : Nat) (last : Prop) [Decidable last] (h : ExchOnly s t) :
    ExchOnly s (if last then t else agrSend k v 1 t) := by
  split
  · exact h
  · exact agrSend_only k v 1 h

theorem agrEntry_only (e : AgrEntry) (h : ExchOnly s t) : ExchOnly s (agrEntry e t) := by
  unfold agrEntry
  dsimp only
  split
  · exact agrDrop_only h
  · split
    · exact agrCollect_only e h
    · split
      · exact agrDrop_only h
      · have hpassed := passed_only e.key e.value ((level t e.key.level).pos + 2 = (level t e.key.level).size) h
        split
        · exact agrHand_only e.key e.value (agrClose_only e.key hpassed)
        · exact distribute0_only e.key e.value (agrClose_only e.key hpassed)

theorem agrPump_only (fuel : Nat) : ∀ t : State, ExchOnly s t → ExchOnly s (agrPump fuel t) := by
  induction fuel with
  | zero => exact fun _ h => h
  | succ fuel ih =>
    intro t h
    rw [agrPump]
    split
    · exact h
    · split
      · exact h
      · exact ih _ (agrEntry_only _ (modExch_only _ h))

theorem agrLocalIn_only (c stream : Nat) (step : Word) (x : Nat) (h : ExchOnly s t) : ExchOnly s (agrLocalIn c stream step x t) := by
  unfold agrLocalIn
  dsimp only
  split
  · exact h
  · split
    · exact leader0_only _ x h
    · split
      · exact agrSend_only _ x 0 (modExch_only _ h)
      · split
        · exact agrOpenNew_only _ x h
        · split
          · exact leader0_only _ _ (modExch_only _ h)
          · exact agrSend_only _ _ 0 (modExch_only _ (modExch_only _ h))

/-- A local entry changes nothing but the exchange. -/
theorem agrLocal_only (c stream : Nat) (step : Word) (x : Nat) (s : State) : ExchOnly s (agrLocal c stream step x s) :=
  agrPump_only _ _ (agrLocalIn_only c stream step x (.refl s))

end Sys2Proof.Machine
end

section
/-! PROOFS. The fold of a commit: a stream's new entry, its plan, and the header (R124, R139, R140, R147, R162). -/

namespace Sys2Proof.Machine

variable {s t u : State} {c tag id x st : Nat} {q : Req} {j : Job} {f : Fold} {y : CommitStream}

/-! ## Answers to the control island -/

theorem exec_cpiRdata {err : Bool} {words : List GWord} (hrun : s.rst = .run) (h : reqOf s c tag false = some q) :
    exec (.cpiRdata c tag err words none) s = .next (reply c q.burst
      (if err then .err else .data (takeBeat words (q.burst.addr % 256) q.burst.len)) (dropReq c q s)) := by
  refine (inRun_of_run hrun).trans ?_
  dsimp only [applyUpsets]
  rw [h]

/-- Where no word was corrected, nothing is counted. -/
theorem noteCorrected_nil (store : Nat) (src : Src) (s : State) : noteCorrected store src [] s = s := by
  have hhealth : modHealth (fun h => { h with ceCount := cntSat h.ceCount ([] : List Nat).length }) s = s := by
    simp only [modHealth, List.length_nil, cntSat_zero]
  have hregion (r : Nat) : modRegion r (fun x => { x with ce := cntSat x.ce ([] : List Nat).length }) s = s := by
    simp only [modRegion, List.length_nil, cntSat_zero]
    rw [modAt_eq_self (fun a _ => rfl)]
  unfold noteCorrected
  rw [hhealth]
  dsimp only
  cases srcRegion src with
  | none => simp
  | some r => simp only [hregion]; simp

/-- An update of an access does not matter to what is left when the access is gone. -/
theorem filter_modJob {g : Job → Job} (hg : ∀ j, (g j).id = j.id) :
    (modJob id g s).jobs.filter (fun k => k.id != id) = s.jobs.filter (fun k => k.id != id) := by
  show (s.jobs.map (fun j => if j.id = id then g j else j)).filter _ = _
  induction s.jobs with
  | nil => rfl
  | cons a l ih =>
    rw [List.map_cons]
    by_cases ha : a.id = id
    · rw [if_pos ha, List.filter_cons_of_neg (by simp [hg, ha]), List.filter_cons_of_neg (by simp [ha]), ih]
    · rw [if_neg ha, List.filter_cons_of_pos (by simp [ha]), List.filter_cons_of_pos (by simp [ha]), ih]

/-- The accesses once that of an id is gone. -/
def jobGone (id : Nat) (s : State) : State := { s with jobs := s.jobs.filter (fun k => k.id != id) }

/-- An access once a burst of it has been answered well. -/
def Job.answered (b : Burst) (bytes : List OByte) (j : Job) : Job := { j with buf := if b.wr then j.buf else patch j.buf b.off bytes }

/-- The good answer to the last burst of an access, got at the first try or a write's, hands the access back. -/
theorem ctlGood_last {b : Burst} (bytes : List OByte) (htries : b.tries = 0 ∨ b.wr = true) (hj : jobOf s id = some j) (hleft : j.left ≤ 1) :
    ctlGood b id bytes s = (jobGone id s, some { j.answered b bytes with left := 0 }) := by
  have hgood : ctlGood b id bytes s = settle id (modJob id (Job.answered b bytes) s) := by
    unfold ctlGood
    rw [if_neg (by rcases htries with h | h <;> simp [h])]
    rfl
  rw [hgood, settle_last (jobOf_modJob (f := Job.answered b bytes) (fun _ => rfl) hj) hleft, filter_modJob (g := Job.answered b bytes) fun _ => rfl]
  rfl

/-- The last acknowledgement of a write hands its end on. -/
theorem ctlReply_writeLast {b : Burst} (hwr : b.wr = true) (hj : jobOf s id = some j) (hleft : j.left ≤ 1) (hjwr : j.wr = true) :
    ctlReply c id b .ack s = writeEnd j.kind j.fail (jobGone id s) := by
  show jobEnd (ctlGood b id [] s) = _
  rw [ctlGood_last [] (.inr hwr) hj hleft]
  exact if_pos hjwr

/-- The last data of a read, sound and got at the first try, hand its bytes on. -/
theorem ctlReply_readLast {b : Burst} {k : Taken} (hwr : b.wr = false) (htries : b.tries = 0) (hj : jobOf s id = some j) (hleft : j.left ≤ 1)
    (hjwr : j.wr = false) (hcorr : k.corrected = []) (hbad : k.bad = []) :
    ctlReply c id b (.data k) s = readDone j.kind (j.fail.map (·.1)) (patch j.buf b.off k.bytes) (jobGone id s) := by
  unfold ctlReply
  dsimp only
  rw [hcorr, List.map_nil, noteCorrected_nil, if_pos (by simp [hbad]), ctlGood_last _ (.inl htries) hj hleft]
  unfold jobEnd
  simp only [Job.answered, hjwr, hwr]
  rfl

/-- An answer to the control island, and what the ports present then. -/
theorem reply_ctl_presents {b : Burst} {r : Reply} (h : b.owner = .ctl id) (hu : ctlReply c id b r s = u) (hbuild : u.build = s.build) :
    reply c b r s = drainCtl (drainRegion (s.build.regionOf c) u) := by
  unfold reply
  simp only [h]
  rw [hu, hbuild]

/-! ## The stream of a commit -/

theorem zeroVector_eq (hy : foldStream s x st = some y) : zeroVector x st s = startWrite (.cmZero x st) (y.plan.area + 512)
    (zeros (vecBytes y.plan)) (modStream x st (fun z => { z with ph := .zeroWr }) s) := by
  unfold zeroVector
  rw [hy]

/-- The stream whose entry is being written. -/
def entryBegun (x st : Nat) (e : GEntry) (s : State) : State :=
  modStream x st (fun z => { z with ph := .entryWr, new := e, changed := true }) s

theorem writeEntry_eq (agreed : Option Nat) (hf : (ctxOf s x).fold = some f) (hy : foldStream s x st = some y) :
    writeEntry x st agreed s = startWrite (.cmEntry x st) ((ctxOf s x).gran st) (GEntry.bytes st (y.entry f.step agreed))
      (entryBegun x st (y.entry f.step agreed) s) := by
  unfold writeEntry
  simp only [hf, hy]
  rfl

theorem afterPlan_own (hf : (ctxOf s x).fold = some f) (hy : foldStream s x st = some y) (hshared : (Recipe.mk y.rcp).shared = false) :
    afterPlan x st s = writeEntry x st none s := by
  unfold afterPlan
  simp only [hf, hy, hshared]
  rfl

/-- A shared stream for which no agreed value waits awaits one. -/
theorem afterPlan_shared (hf : (ctxOf s x).fold = some f) (hy : foldStream s x st = some y) (hshared : (Recipe.mk y.rcp).shared = true)
    (hearly : ∀ sl, slotOf s x st = some sl → sl.early = none) : afterPlan x st s =
      agrLocal x st (BitVec.ofNat 32 f.step) y.own (modStream x st (fun z => { z with ph := .agree }) s) := by
  have honly := agrLocal_only x st (BitVec.ofNat 32 f.step) y.own (modStream x st (fun z => { z with ph := .agree }) s)
  unfold afterPlan
  simp only [hf, hy, hshared, if_true]
  generalize agrLocal x st (BitVec.ofNat 32 f.step) y.own (modStream x st (fun z => { z with ph := .agree }) s) = v at honly ⊢
  have hslot : slotOf v x st = slotOf s x st := by rw [honly]; rfl
  rw [hslot]
  cases hs : slotOf s x st with
  | none => rfl
  | some sl => simp [hearly sl hs]

/-- The entry that a stream commits without an agreed value (R124). -/
theorem commitStream_none (old : GEntry) (recs : List GRec) (corrs idx : Nat) (r : Recipe) (step : Nat) :
    commitStream old step recs corrs idx r none =
      let own := (foldSpan old recs r).2
      let hist := own :: (if old.valid then old.hist.take 15 else [])
      let hc := min ((if old.valid then old.hcount else 0) + 1) 16
      let hold := if overflowed recs r then r.hold else if old.valid then old.hold else 0
      { step := step, recipe := if old.valid then old.recipe else idx, valid := true, hcount := hc
        tnext := tensorScale (maxNat (hist.take (min r.window hc))) r (if 0 < hold then r.boost else 0)
          (if old.valid then old.tnext else r.tSeed)
        znext := (foldSpan old recs r).1, hist := hist.take hc, lastAmax := (maxOf (·.amax) recs).toNat, hold := hold - 1
        ovf := sat16 (old.ovf + b2n (overflowed recs r)), cold := sat16 (old.cold + b2n (recs.any GRec.cold))
        corr := sat16 (old.corr + corrs) } := by
  unfold commitStream
  cases r.shared <;> rfl

/-! ## COMMIT_FOLD (R124, R141) -/

theorem modFold_congr {g h : Fold → Fold} (hf : (ctxOf s x).fold = some f) (hgh : g f = h f) : modFold x g s = modFold x h s := by
  have hmod : modAt s.ctxs x (fun y => { y with fold := y.fold.map g }) = modAt s.ctxs x (fun y => { y with fold := y.fold.map h }) := by
    refine modAt_congr_at Ctx.reset ?_
    rw [show (s.ctxs.getD x Ctx.reset).fold = some f from hf, Option.map_some, Option.map_some, hgh]
  rw [modFold, modFold, modCtx, modCtx, hmod]

theorem keepRcp_fold (hf : (ctxOf s x).fold = some f) (i : Nat) : ∃ rcps, keepRcp x i s = modFold x (fun g => { g with rcps := rcps }) s := by
  by_cases h : f.hasRcp i = true
  · exact ⟨f.rcps, modFold_congr hf (if_pos h)⟩
  · exact ⟨f.rcps ++ [(i, (recipeOf s i).w)], modFold_congr hf (if_neg h)⟩

theorem foldStream_modFold {g : Fold → Fold} (hf : (ctxOf s x).fold = some f) (hg : (g f).streams = f.streams) :
    foldStream (modFold x g s) x st = foldStream s x st := by
  rw [foldStream, ctxOf_modFold_same hf, foldStream_of_fold hf, ← hg]
  rfl

/-- What the fold reads of a stream of a slot. -/
def CommitStream.folded (sl : Slot) (step i : Nat) (r : Recipe) (y : CommitStream) : CommitStream :=
  { y with
    old := sl.entry, recs := (commitRecs sl step).1, corrs := (commitRecs sl step).2, rcpIdx := i, rcp := r.w
    overflow := overflowed (commitRecs sl step).1 r, own := (foldSpan sl.entry (commitRecs sl step).1 r).2 }

/-- The state once a stream has been folded. -/
def foldTaken (c : Nat) (sl : Slot) (step i : Nat) (r : Recipe) (s : State) : State :=
  modStream c sl.stream (CommitStream.folded sl step i r) (keepRcp c i s)

theorem commitStart_folds {sl : Slot} (hrecs : (commitRecs sl f.step).1 ≠ []) (hold : sl.entry.valid = false ∨ sl.entry.step ≠ f.step)
    (hstore : s.health.wedgedRecipes = false) (hvalid : (f.rcp s (foldRecipe sl.entry (commitRecs sl f.step).1)).valid = true) :
    let i := foldRecipe sl.entry (commitRecs sl f.step).1
    let u := foldTaken x sl f.step i (f.rcp s i) s
    (ctxOf u x).oplan = 0 → commitStart x f sl s = afterPlan x sl.stream u := by
  intro i u hplan
  refine (if_neg ?_).trans ((if_neg (by simp [hstore])).trans ((if_neg (by rw [hvalid]; simp)).trans (if_pos hplan)))
  rcases hold with h | h <;> simp [hrecs, h]

theorem foldTaken_spec {sl : Slot} {i : Nat} {r : Recipe} (hf : (ctxOf s x).fold = some f) (hy : foldStream s x sl.stream = some y) :
    let u := foldTaken x sl f.step i r s
    u = { s with ctxs := u.ctxs } ∧ foldStream u x sl.stream = some (y.folded sl f.step i r) ∧
    (∃ g, (ctxOf u x).fold = some g ∧ g.step = f.step ∧ ctxOf u x = { ctxOf s x with fold := some g }) ∧
    ∀ d, d ≠ x → ctxOf u d = ctxOf s d := by
  intro u
  obtain ⟨rcps, hkeep⟩ := keepRcp_fold hf i
  have hctx : ctxOf (keepRcp x i s) x = { ctxOf s x with fold := some { f with rcps := rcps } } := by
    rw [hkeep, ctxOf_modFold_same hf]
  have hstream : foldStream (keepRcp x i s) x sl.stream = some y := by
    rw [hkeep, foldStream_modFold hf rfl]
    exact hy
  have hkept := congrArg Ctx.fold hctx
  have hmod := ctxOf_modStream_same (stream := sl.stream) (g := CommitStream.folded sl f.step i r) hkept
  refine ⟨rfl, foldStream_modStream_same (g := CommitStream.folded sl f.step i r) (fun _ => rfl) hkept hstream, ⟨_, congrArg Ctx.fold hmod, rfl, hmod.trans ?_⟩, fun d hd => ?_⟩
  · rw [hctx]
  · exact (ctxOf_modStream_other hd).trans (ctxOf_modFold_other hd)

/-- The entry of a stream that has been folded. -/
theorem folded_entry (sl : Slot) (step i : Nat) (r : Recipe) (y : CommitStream) : (y.folded sl step i r).entry step none =
    commitStream sl.entry step (commitRecs sl step).1 (commitRecs sl step).2 i r none := rfl

theorem commitRecs_eq (sl : Slot) (step : Nat) : commitRecs sl step =
    (sl.recs.filter (fun r => r.step == step && r.tracked), (sl.recs.filter (fun r => r.step == step && r.corrects)).length) := by
  unfold commitRecs
  dsimp only
  rw [List.filter_filter, List.filter_filter]
  simp only [Bool.and_comm]

end Sys2Proof.Machine
end

section
/-! PROOFS. The plan, the entry and the header of a commit at the answers of the control island. -/

namespace Sys2Proof.Machine

variable {s t u : State} {c tag id x st : Nat} {q : Req} {j : Job} {f : Fold} {y : CommitStream}

/-! ## The last answer of an access -/

/-- The state in which a request has been answered and its access is over. -/
def accessOver (c id : Nat) (q : Req) (s : State) : State := jobGone id (dropReq c q s)

section Last
variable (hrun : s.rst = .run) (howner : q.burst.owner = .ctl id) (hj : jobOf s id = some j) (hleft : j.left ≤ 1) (hfail : j.fail = none)
include hrun howner hj hleft hfail

theorem exec_lastData {words : List GWord} (hq : reqOf s c tag false = some q) (hwr : j.wr = false) (htries : q.burst.tries = 0)
    (hcorr : (takeBeat words (q.burst.addr % 256) q.burst.len).corrected = []) (hbad : (takeBeat words (q.burst.addr % 256) q.burst.len).bad = [])
    (hu : readDone j.kind none (patch j.buf q.burst.off (takeBeat words (q.burst.addr % 256) q.burst.len).bytes) (accessOver c id q s) = u)
    (hbuild : u.build = s.build) :
    exec (.cpiRdata c tag false words none) s = .next (drainCtl (drainRegion (s.build.regionOf c) u)) := by
  have hlast := ctlReply_readLast (c := c) (s := dropReq c q s) (reqOf_wr hq) htries (by exact hj) hleft hwr hcorr hbad
  rw [hfail] at hlast
  exact (exec_cpiRdata hrun hq).trans (congrArg _ (reply_ctl_presents howner (hlast.trans hu) hbuild))

theorem exec_lastAck (hq : reqOf s c tag true = some q) (hwr : j.wr = true) (hu : writeEnd j.kind none (accessOver c id q s) = u)
    (hbuild : u.build = s.build) : exec (.cpiWriteAck c tag false) s = .next (drainCtl (drainRegion (s.build.regionOf c) u)) := by
  have hlast := ctlReply_writeLast (c := c) (s := dropReq c q s) (reqOf_wr hq) (by exact hj) hleft hwr
  rw [hfail] at hlast
  exact (exec_cpiWriteAck hrun hq).trans (congrArg _ (reply_ctl_presents howner (hlast.trans hu) hbuild))

end Last

/-! ## The plan entry and its list (R160 to R162) -/

/-- What the commit of a stream's plan makes of its context. -/
def Ctx.planned (r : PlanCommit) (x : Ctx) : Ctx := { x with
  fbChange := x.fbChange || r.fbChange, spilled := x.spilled || r.spilled, arenaShort := x.arenaShort || r.short
  fbEntered := cntSat x.fbEntered (b2n r.entered) }

/-- The stream's request of fallback has been used. -/
def reqUsed (x st : Nat) (s : State) : State :=
  modTrk (fun t => { t with fbReqs := t.fbReqs.filter (fun q => q.ctx != x || q.stream != st) }) s

/-- The stream whose plan entry and list are being written. -/
def planBegun (x st : Nat) (r : PlanCommit) (s : State) : State :=
  modStream x st (fun z => { z with plan := r.plan, ph := .planWr }) (modCtx x (Ctx.planned r) (reqUsed x st s))

theorem cmVecRead_eq {buf : List OByte} {bs : List Byte} (hf : (ctxOf s x).fold = some f) (hy : foldStream s x st = some y)
    (hbs : sound buf = some bs) :
    let r := commitPlan y.plan f.step y.overflow ((List.range y.plan.chans).map (fun i => fld bs (2 * i) 2)) (fbReqOf s x st)
    cmVecRead x st buf s = startWrites (.cmPlanWr x st) [((ctxOf s x).oplan + 64 * st, r.plan.raw), (r.plan.area, listBytes r.plan.list)]
      (planBegun x st r s) := by
  intro r
  have hplan : (ctxOf (modCtx x (Ctx.planned r) (reqUsed x st s)) x).oplan = (ctxOf s x).oplan := by
    rw [ctxOf_modCtx_same (by exact built_of_fold hf)]
    rfl
  have hread : cmVecRead x st buf s = startWrites (.cmPlanWr x st)
      [((ctxOf (modCtx x (Ctx.planned r) (reqUsed x st s)) x).oplan + 64 * st, r.plan.raw), (r.plan.area, listBytes r.plan.list)]
      (planBegun x st r s) := by
    unfold cmVecRead
    simp only [hf, hy, hbs]
    rfl
  rw [hread, hplan]

theorem planBegun_spec {r : PlanCommit} (hf : (ctxOf s x).fold = some f) (hy : foldStream s x st = some y) :
    let u := planBegun x st r s
    u = { s with ctxs := u.ctxs, trk := { s.trk with fbReqs := s.trk.fbReqs.filter (fun a => a.ctx != x || a.stream != st) } } ∧
    foldStream u x st = some { y with plan := r.plan, ph := .planWr } ∧
    (∃ g, ctxOf u x = { (ctxOf s x).planned r with fold := some g }) ∧ ∀ d, d ≠ x → ctxOf u d = ctxOf s d := by
  intro u
  have hctx : ctxOf (modCtx x (Ctx.planned r) (reqUsed x st s)) x = (ctxOf s x).planned r := ctxOf_modCtx_same (by exact built_of_fold hf)
  have hfold : (ctxOf (modCtx x (Ctx.planned r) (reqUsed x st s)) x).fold = some f := by rw [hctx]; exact hf
  have hstream : foldStream (modCtx x (Ctx.planned r) (reqUsed x st s)) x st = some y := by
    rw [foldStream_of_fold hfold, ← foldStream_of_fold hf]
    exact hy
  have hmod := ctxOf_modStream_same (stream := st) (g := fun z => { z with plan := r.plan, ph := .planWr }) hfold
  rw [hctx] at hmod
  exact ⟨rfl, foldStream_modStream_same (fun _ => rfl) hfold hstream, ⟨_, hmod⟩,
    fun d hd => (ctxOf_modStream_other hd).trans (ctxOf_modCtx_other hd)⟩

/-! ## A granary entry that has been acknowledged (R140) -/

/-- What the acknowledgement of its entry makes of a stream's slot. -/
def Slot.committed (e : GEntry) (step : Nat) (z : Slot) : Slot := { z with
  entry := e
  corr := none
  early := match z.early with
    | some v => if v.1 = step then none else some v
    | none => none }

theorem entryWritten_ready {sl : Slot} (hf : (ctxOf s x).fold = some f) (hy : foldStream s x st = some y) (hslot : slotOf s x st = some sl)
    (hready : sl.ph = .ready) : entryWritten x st s =
      modSlotAt sl.idx (Slot.committed y.new f.step) (modStream x st (fun z => { z with ph := .done }) s) := by
  have hslot' : slotOf (modStream x st (fun z => { z with ph := .done }) s) x st = some sl := hslot
  unfold entryWritten
  simp only [hf, hy, hslot', hready]
  rfl

/-- The slot of a stream after an update of the slot with its index. -/
theorem slotOf_modSlotAt {sl : Slot} {g : Slot → Slot} (hctx : ∀ z, (g z).ctx = z.ctx) (hname : ∀ z, (g z).stream = z.stream)
    (h : slotOf s x st = some sl) : slotOf (modSlotAt sl.idx g s) x st = some (g sl) := by
  show (s.trk.slots.map (fun z => if z.idx = sl.idx then g z else z)).find? (fun z => z.ctx == x && z.stream == st) = some (g sl)
  have hpred : ((fun z : Slot => z.ctx == x && z.stream == st) ∘ fun z => if z.idx = sl.idx then g z else z) =
      fun z => z.ctx == x && z.stream == st := by
    funext z
    dsimp only [Function.comp]
    split
    · rw [hctx, hname]
    · rfl
  rw [List.find?_map, hpred, show s.trk.slots.find? (fun z => z.ctx == x && z.stream == st) = some sl from h, Option.map_some, if_pos rfl]

/-! ## The answers of a commit, access by access -/

/-- A stream of a commit whose access has ended. -/
theorem accessOver_modStream (g : CommitStream → CommitStream) : let u := modStream x st g (accessOver c id q s)
    u.ports = modAt s.ports c (fun p => { p with out := p.out.erase q }) ∧ u.jobs = s.jobs.filter (fun k => k.id != id) ∧
    (∀ d, d ≠ x → ctxOf u d = ctxOf s d) ∧ u = { s with ports := u.ports, jobs := u.jobs, ctxs := u.ctxs } :=
  ⟨rfl, rfl, fun _ hd => ctxOf_modStream_other hd, rfl⟩

section Answers
variable (hrun : s.rst = .run) (howner : q.burst.owner = .ctl id) (hj : jobOf s id = some j) (hleft : j.left ≤ 1) (hfail : j.fail = none)
  (hf : (ctxOf s x).fold = some f) (hy : foldStream s x st = some y)
include hrun howner hj hleft hfail hf hy

theorem exec_vectorRead {words : List GWord} {bs : List Byte} (hq : reqOf s c tag false = some q) (hkind : j.kind = .cmVec x st)
    (hwr : j.wr = false) (htries : q.burst.tries = 0)
    (hcorr : (takeBeat words (q.burst.addr % 256) q.burst.len).corrected = []) (hbad : (takeBeat words (q.burst.addr % 256) q.burst.len).bad = [])
    (hbs : sound (patch j.buf q.burst.off (takeBeat words (q.burst.addr % 256) q.burst.len).bytes) = some bs) :
    let r := commitPlan y.plan f.step y.overflow ((List.range y.plan.chans).map (fun i => fld bs (2 * i) 2)) (fbReqOf s x st)
    exec (.cpiRdata c tag false words none) s = .next (drainCtl (drainRegion (s.build.regionOf c) (startWrites (.cmPlanWr x st)
      [((ctxOf s x).oplan + 64 * st, r.plan.raw), (r.plan.area, listBytes r.plan.list)] (planBegun x st r (accessOver c id q s))))) := by
  intro r
  have hread : cmVecRead x st _ (accessOver c id q s) = startWrites (.cmPlanWr x st)
    [((ctxOf s x).oplan + 64 * st, r.plan.raw), (r.plan.area, listBytes r.plan.list)] (planBegun x st r (accessOver c id q s)) :=
    cmVecRead_eq (s := accessOver c id q s) (f := f) hf hy hbs
  have hbuild : (planBegun x st r (accessOver c id q s)).build = s.build := by
    rw [(planBegun_spec (s := accessOver c id q s) hf hy).1]
    rfl
  generalize planBegun x st r (accessOver c id q s) = v at hread hbuild ⊢
  exact exec_lastData hrun howner hj hleft hfail hq hwr htries hcorr hbad (by rw [hkind]; exact hread) (startWrites_build.trans hbuild)

omit hf in
theorem exec_planWritten (hq : reqOf s c tag true = some q) (hkind : j.kind = .cmPlanWr x st) (hwr : j.wr = true) :
    exec (.cpiWriteAck c tag false) s = .next (drainCtl (drainRegion (s.build.regionOf c) (startWrite (.cmZero x st)
      (y.plan.area + 512) (zeros (vecBytes y.plan)) (modStream x st (fun z => { z with ph := .zeroWr }) (accessOver c id q s))))) := by
  refine exec_lastAck hrun howner hj hleft hfail hq hwr ?_ startWrite_build
  rw [hkind]
  exact zeroVector_eq (s := accessOver c id q s) hy

theorem exec_vectorZeroed (hq : reqOf s c tag true = some q) (hkind : j.kind = .cmZero x st) (hwr : j.wr = true)
    (hshared : (Recipe.mk y.rcp).shared = false) : exec (.cpiWriteAck c tag false) s = .next (drainCtl (drainRegion (s.build.regionOf c)
      (startWrite (.cmEntry x st) ((ctxOf s x).gran st) (GEntry.bytes st (y.entry f.step none))
        (entryBegun x st (y.entry f.step none) (accessOver c id q s))))) := by
  refine exec_lastAck hrun howner hj hleft hfail hq hwr ?_ startWrite_build
  rw [hkind]
  exact (afterPlan_own (s := accessOver c id q s) hf hy hshared).trans (writeEntry_eq (s := accessOver c id q s) none hf hy)

/-- A shared stream then awaits its agreed value. -/
theorem exec_vectorZeroed_shared (hcheck : f.check = false) (hq : reqOf s c tag true = some q) (hkind : j.kind = .cmZero x st)
    (hwr : j.wr = true) (hshared : (Recipe.mk y.rcp).shared = true) (hearly : ∀ sl, slotOf s x st = some sl → sl.early = none) :
    ∃ t, exec (.cpiWriteAck c tag false) s = .next t ∧ awaits t x st = some f.step ∧
      t = { s.withTraffic t with ctxs := t.ctxs, exch := t.exch } := by
  have hlocal := agrLocal_only x st (BitVec.ofNat 32 f.step) y.own (modStream x st (fun z => { z with ph := .agree }) (accessOver c id q s))
  have hplan := afterPlan_shared (s := accessOver c id q s) hf hy hshared hearly
  generalize agrLocal x st (BitVec.ofNat 32 f.step) y.own (modStream x st (fun z => { z with ph := .agree }) (accessOver c id q s)) = v
    at hlocal hplan
  have hexec := exec_lastAck (c := c) (u := v) hrun howner hj hleft hfail hq hwr (by rw [hkind]; exact hplan) (by rw [hlocal]; rfl)
  have hquiet := drainCtl_quiet (drainRegion_quiet (r := s.build.regionOf c) (.refl v))
  generalize drainCtl (drainRegion (s.build.regionOf c) v) = t at hexec hquiet
  have hctxs : t.ctxs = (modStream x st (fun z => { z with ph := .agree }) (accessOver c id q s)).ctxs := by rw [hquiet, hlocal]; rfl
  refine ⟨t, hexec, ?_, ?_⟩
  · rw [awaits_congr hctxs]
    have hstream : foldStream (modStream x st (fun z => { z with ph := .agree }) (accessOver c id q s)) x st = some { y with ph := .agree } :=
      foldStream_modStream_same (s := accessOver c id q s) (fun _ => rfl) hf hy
    exact (awaits_iff hstream).2 ⟨_, congrArg Ctx.fold (ctxOf_modStream_same (s := accessOver c id q s) hf), hcheck, rfl, rfl⟩
  · rw [hquiet, hlocal]
    rfl

theorem exec_entryWritten {sl : Slot} (hq : reqOf s c tag true = some q) (hkind : j.kind = .cmEntry x st) (hwr : j.wr = true)
    (hslot : slotOf s x st = some sl) (hready : sl.ph = .ready) : ∃ t, exec (.cpiWriteAck c tag false) s = .next t ∧
      t = { s.withTraffic t with ctxs := t.ctxs, trk := t.trk } ∧ foldStream t x st = some { y with ph := .done } ∧
      slotOf t x st = some (sl.committed y.new f.step) := by
  have hstream : foldStream (modStream x st (fun z => { z with ph := .done }) (accessOver c id q s)) x st = some { y with ph := .done } :=
    foldStream_modStream_same (s := accessOver c id q s) (fun _ => rfl) hf hy
  have hend := entryWritten_ready (s := accessOver c id q s) hf hy hslot hready
  have hframe : modSlotAt sl.idx (Slot.committed y.new f.step) (modStream x st (fun z => { z with ph := .done }) (accessOver c id q s)) =
    { s.withTraffic (accessOver c id q s) with
      ctxs := (modStream x st (fun z => { z with ph := .done }) (accessOver c id q s)).ctxs
      trk := (modSlotAt sl.idx (Slot.committed y.new f.step) s).trk } := rfl
  generalize modSlotAt sl.idx (Slot.committed y.new f.step) (modStream x st (fun z => { z with ph := .done }) (accessOver c id q s)) = v
    at hend hframe
  have hexec := exec_lastAck (c := c) (u := v) hrun howner hj hleft hfail hq hwr (by rw [hkind]; exact hend) (by rw [hframe]; rfl)
  have hquiet := drainCtl_quiet (drainRegion_quiet (r := s.build.regionOf c) (.refl v))
  generalize drainCtl (drainRegion (s.build.regionOf c) v) = t at hexec hquiet
  have hctxs : t.ctxs = (modStream x st (fun z => { z with ph := .done }) (accessOver c id q s)).ctxs := by rw [hquiet, hframe]; rfl
  have htrk : t.trk = (modSlotAt sl.idx (Slot.committed y.new f.step) s).trk := by rw [hquiet, hframe]; rfl
  refine ⟨t, hexec, ?_, (foldStream_congr hctxs).trans hstream, ?_⟩
  · rw [hquiet, hframe]
    rfl
  · rw [slotOf, htrk]
    exact slotOf_modSlotAt (fun _ => rfl) (fun _ => rfl) hslot

end Answers

/-! ## The header (R139) -/

theorem exec_commitHeaderWrite (hrun : s.rst = .run) (hf : (ctxOf s c).fold = some f) (hcheck : f.check = false) (hreading : f.reading = false)
    (hheader : f.header = false) (hdone : ∀ y ∈ f.streams, y.ph = .done) : exec (.commitHeaderWrite c) s =
      .next (startWrite (.cmHeader c) ((ctxOf s c).gran 0xFFFF)
        (headerBytes (BitVec.ofNat 32 f.step) (cntMod (ctxOf s c).commits 1) (ctxOf s c).glnWrite)
        (modFold c (fun y => { y with header := true }) s)) := by
  refine (inRun_of_run hrun).trans ?_
  rw [hf]
  exact if_neg (by simpa [hcheck, hreading, hheader] using hdone)

theorem headerBytes_eq (step : Nat) (commits write : Word) : headerBytes (BitVec.ofNat 32 step) (cntMod commits 1) write =
    withCrc (leBytes 4 (step % 2 ^ 32) ++ leBytes 2 0xFFFF ++ zeros 2 ++ leBytes 4 ((commits.toNat + 1) % 2 ^ 32) ++
      leBytes 4 write.toNat ++ zeros 44) := by
  rw [headerBytes, cntMod, BitVec.toNat_ofNat, BitVec.toNat_ofNat]

end Sys2Proof.Machine

namespace Sys2Proof.Proofs
open Sys2Proof.Machine

variable {s : State} {c tag id x st : Nat} {q : Req} {j : Job} {f : Fold} {y : CommitStream}

/-- Settles O34. -/
theorem commitHeader : Obligations.CommitHeader := by
  unfold Obligations.CommitHeader
  intro folded
  refine ⟨fun s c f sl y hf hy => ?_, fun s c tag x st id q j f y hrun hc howner hj hleft hfail hf hcheck hy => ?_,
    fun s c f hrun hc hf hcheck hreading hheader hdone => ?_⟩
  · intro recs ri r hrecs hold hstore hvalid hplan hshared e
    have hri : foldRecipe sl.entry (commitRecs sl f.step).1 = ri := by rw [commitRecs_eq]; rfl
    obtain ⟨hframe, hstream, ⟨g, hg, hstep, hctx⟩, hother⟩ := foldTaken_spec (i := ri) (r := r) hf hy
    have hentry : (y.folded sl f.step ri r).entry g.step none = e := by
      rw [hstep, folded_entry, commitRecs_eq, commitStream_none]
    have hstart : commitStart c f sl s = afterPlan c sl.stream (foldTaken c sl f.step ri r s) := by
      have := commitStart_folds (x := c) (f := f) (sl := sl) (by rw [commitRecs_eq]; exact hrecs) hold hstore (by rw [hri]; exact hvalid)
      rw [hri] at this
      exact this (by rw [show f.rcp s ri = r from rfl, hctx]; exact hplan)
    generalize foldTaken c sl f.step ri r s = v at *
    refine ⟨entryBegun c sl.stream e v, ?_, ?_, ⟨_, foldStream_modStream_same (fun _ => rfl) hg hstream, rfl, rfl⟩, fun d hd => ?_⟩
    · rw [hstart, afterPlan_own hg hstream (by exact hshared), writeEntry_eq none hg hstream, hentry, hctx]
      rfl
    · rw [hframe]
      rfl
    · exact (ctxOf_modStream_other hd).trans (hother d hd)
  · intro ends presents
    refine ⟨?_, ?_⟩
    · intro words bs hq hkind hwr htries k hcorr hbad hbs r
      obtain ⟨hframe, hstream, ⟨g, hctx⟩, hother⟩ := planBegun_spec (s := accessOver c id q s) (r := r) hf hy
      refine ⟨_, exec_vectorRead hrun howner hj hleft hfail hf hy hq hkind hwr htries hcorr hbad hbs, ⟨rfl, rfl, hother⟩, rfl, hstream, ?_⟩
      rw [hctx]
      exact ⟨rfl, rfl, rfl, rfl⟩
    intro hq hwr r e
    refine ⟨fun hkind => ?_, fun hkind hshared => ?_, fun hkind hshared hearly => ?_, fun hkind sl hslot hready => ?_⟩
    · obtain ⟨hports, hjobs, hother, hframe⟩ := accessOver_modStream (s := s) (c := c) (id := id) (q := q) (x := x) (st := st)
        (fun z => { z with ph := .zeroWr })
      exact ⟨_, exec_planWritten hrun howner hj hleft hfail hy hq hkind hwr, ⟨hports, hjobs, hother⟩, hframe,
        foldStream_modStream_same (s := accessOver c id q s) (fun _ => rfl) hf hy⟩
    · have hentry : y.entry f.step none = e := commitStream_none ..
      have hexec := exec_vectorZeroed hrun howner hj hleft hfail hf hy hq hkind hwr hshared
      rw [hentry] at hexec
      obtain ⟨hports, hjobs, hother, hframe⟩ := accessOver_modStream (s := s) (c := c) (id := id) (q := q) (x := x) (st := st)
        (fun z => { z with ph := .entryWr, new := e, changed := true })
      exact ⟨_, hexec, ⟨hports, hjobs, hother⟩, hframe, foldStream_modStream_same (s := accessOver c id q s) (fun _ => rfl) hf hy⟩
    · exact exec_vectorZeroed_shared hrun howner hj hleft hfail hf hy hcheck hq hkind hwr hshared hearly
    · obtain ⟨t, hexec, hframe, hstream, hslot'⟩ := exec_entryWritten hrun howner hj hleft hfail hf hy hq hkind hwr hslot hready
      exact ⟨t, _, hexec, hframe, hstream, hslot', rfl, rfl, rfl, rfl⟩
  · refine (exec_commitHeaderWrite hrun hf hcheck hreading hheader hdone).trans (congrArg Host.Outcome.next ?_)
    have hmod : modFold c (fun y => { y with header := true }) s =
        { s with ctxs := modAt s.ctxs c (fun x => { x with fold := some { f with header := true } }) } := by
      rw [modFold, modCtx, modAt_congr_at (g := fun x => { x with fold := some { f with header := true } }) Ctx.reset
        (by rw [show (s.ctxs.getD c Ctx.reset).fold = some f from hf]; rfl)]
    rw [headerBytes_eq, hmod]
    rfl

end Sys2Proof.Proofs
end

section
/-! PROOFS. What is counted and logged as requests are answered (R328, R329, R348). -/

namespace Sys2Proof.Machine

variable {s t u : State} {o : Option Nat}

/-! ## Accesses as the log adds its own -/

theorem drainCore_jobs (k c : Nat) : ∀ s : State, (drainCore k c s).jobs = s.jobs := by
  induction k with
  | zero => exact fun _ => rfl
  | succ k ih =>
    intro s
    rw [drainCore]
    split
    · rw [ih, modPort_jobs, present_jobs, modPort_jobs]
    · split
      · rw [ih, modPort_jobs, present_jobs]
      · rfl

theorem drainBeats_jobs (k c : Nat) : ∀ s : State, (drainBeats k c s).jobs = s.jobs := by
  induction k with
  | zero => exact fun _ => rfl
  | succ k ih =>
    intro s
    rw [drainBeats]
    split
    · rfl
    · split
      · rw [ih, emit_jobs, modPort_jobs]
      · rfl

theorem drainRegion_jobs (r : Nat) (s : State) : (drainRegion r s).jobs = s.jobs := by
  unfold drainRegion
  generalize regionPorts s r = l
  induction l generalizing s with
  | nil => rfl
  | cons c l ih => rw [List.foldl_cons, ih, drainPort, drainBeats_jobs, drainCore_jobs]

theorem startWrites_adds (kind : JobKind) (segs : List (Nat × List Byte)) (s : State) : ∃ l, (startWrites kind segs s).jobs = s.jobs ++ l :=
  ⟨_, drainCtl_jobs _⟩

theorem logPump_adds (s : State) : ∃ l, (logPump s).jobs = s.jobs ++ l := by
  have hsame : ∃ l, s.jobs = s.jobs ++ l := ⟨[], (List.append_nil _).symm⟩
  unfold logPump
  dsimp only
  split
  · exact hsame
  · split
    · exact hsame
    · split
      · exact hsame
      · exact startWrites_adds ..

theorem logEvent_adds (code kind reg unit ctx d0 a : Nat) (s : State) : ∃ l, (logEvent code kind reg unit ctx d0 a s).jobs = s.jobs ++ l := by
  unfold logEvent
  dsimp only
  split
  · exact logPump_adds _
  · exact ⟨[], (List.append_nil _).symm⟩

/-- An access goes on as others are begun after it. -/
theorem jobOf_append {id : Nat} {j : Job} {l : List Job} (h : jobOf s id = some j) (ht : t.jobs = s.jobs ++ l) : jobOf t id = some j := by
  rw [jobOf, ht, List.find?_append, show s.jobs.find? (fun j => j.id == id) = some j from h, Option.some_or]

/-! ## Counting and logging -/

/-- Of the regions no more than the counters of one of them have changed, of none where no region is named. -/
def RegionCounts (o : Option Nat) (s t : State) : Prop :=
  match o with
  | none => t.regions = s.regions
  | some r => ∃ ce ue, t.regions = modAt s.regions r (fun x => { x with ce := ce, ue := ue })

theorem RegionCounts.of_eq (h : t.regions = s.regions) : RegionCounts o s t := by
  cases o with
  | none => exact h
  | some r =>
    refine ⟨(region s r).ce, (region s r).ue, h.trans (modAt_eq_self fun x hx => ?_).symm⟩
    rw [region, List.getD_eq_getElem?_getD, hx, Option.getD_some]

theorem RegionCounts.trans (h : RegionCounts o s t) (k : RegionCounts o t u) : RegionCounts o s u := by
  cases o with
  | none => exact Eq.trans k h
  | some r =>
    obtain ⟨ce, ue, h⟩ := h
    obtain ⟨ce', ue', k⟩ := k
    exact ⟨ce', ue', by rw [k, h, modAt_modAt]⟩

/-- From `s` to `t` words of a source have been counted and logged. -/
structure Noted (o : Option Nat) (s t : State) : Prop where
  frame : t = { s.withTraffic t with regions := t.regions }
  adds : ∃ l, t.jobs = s.jobs ++ l
  retry : t.health.retry = s.health.retry
  counts : RegionCounts o s t

theorem Noted.refl (s : State) : Noted o s s := ⟨rfl, ⟨[], (List.append_nil _).symm⟩, rfl, .of_eq rfl⟩

theorem Noted.trans (h : Noted o s t) (k : Noted o t u) : Noted o s u where
  frame := by
    have hu := k.frame
    rw [h.frame] at hu
    exact hu
  adds := by
    obtain ⟨l, hl⟩ := h.adds
    obtain ⟨m, hm⟩ := k.adds
    exact ⟨l ++ m, by rw [hm, hl, List.append_assoc]⟩
  retry := k.retry.trans h.retry
  counts := h.counts.trans k.counts

theorem Noted.quiet (h : Noted none s t) : s.Quiet t := by
  have hregions : t.regions = s.regions := h.counts
  rw [State.Quiet, ← show { s.withTraffic t with regions := s.regions } = s.withTraffic t from rfl, ← hregions]
  exact h.frame

theorem logEvent_noted (code kind reg unit ctx d0 a : Nat) : Noted o s (logEvent code kind reg unit ctx d0 a s) where
  frame := by
    have hquiet := logEvent_quiet (code := code) (kind := kind) (reg := reg) (unit := unit) (ctx := ctx) (d0 := d0) (a := a) (State.Quiet.refl s)
    obtain ⟨ports, ctlWait, jobs, nextJob, health, outs, h⟩ := hquiet.exists
    rw [h]
    rfl
  adds := logEvent_adds ..
  retry := by
    obtain ⟨queue, logLost, phase, h⟩ := logEvent_health code kind reg unit ctx d0 a s
    rw [h]
    rfl
  counts := .of_eq (logEvent_quiet (.refl s)).regions_eq

theorem logFrom_noted (code : Nat) (src : Src) (ctx d0 a : Nat) : Noted o s (logFrom code src ctx d0 a s) := logEvent_noted ..

theorem foldl_noted {α : Type} {f : State → α → State} (hf : ∀ s a, Noted o s (f s a)) (l : List α) : ∀ s, Noted o s (l.foldl f s) := by
  induction l with
  | nil => exact Noted.refl
  | cons a l ih => exact fun s => (hf s a).trans (ih _)

theorem modHealth_noted {f : Health → Health} (hf : ∀ h, (f h).retry = h.retry) : Noted o s (modHealth f s) :=
  ⟨rfl, ⟨[], (List.append_nil _).symm⟩, hf _, .of_eq rfl⟩

theorem modRegion_noted {r : Nat} {f : Region → Region} (hf : ∀ x, ∃ ce ue, f x = { x with ce := ce, ue := ue }) :
    Noted (some r) s (modRegion r f s) := by
  obtain ⟨ce, ue, h⟩ := hf (s.regions.getD r (Region.reset 0))
  exact ⟨rfl, ⟨[], (List.append_nil _).symm⟩, rfl, ⟨ce, ue, modAt_congr_at (Region.reset 0) h⟩⟩

theorem noteCorrected_noted (store : Nat) (src : Src) (addrs : List Nat) (s : State) : Noted (srcRegion src) s (noteCorrected store src addrs s) := by
  have hlogs (u : State) : Noted (srcRegion src) u
      (if u.health.logCe then addrs.foldl (fun s a => logFrom 0x01 src noCtx store a s) u else u) := by
    split
    · exact foldl_noted (fun _ _ => logFrom_noted ..) addrs u
    · exact .refl u
  have hcount : Noted (srcRegion src) s (modHealth (fun h => { h with ceCount := cntSat h.ceCount addrs.length }) s) := modHealth_noted fun _ => rfl
  unfold noteCorrected
  dsimp only
  refine Noted.trans ?_ (hlogs _)
  cases hr : srcRegion src with
  | none => rwa [hr] at hcount
  | some r =>
    rw [hr] at hcount
    exact hcount.trans (modRegion_noted fun x => ⟨_, x.ue, rfl⟩)

theorem countUe_noted (n : Nat) (o : Option Nat) (s : State) : Noted o s (countUe n o s) := by
  have hcount : Noted o s (modHealth (fun h => { h with ueCount := cntSat h.ueCount n }) s) := modHealth_noted fun _ => rfl
  cases o with
  | none => exact hcount
  | some r => exact hcount.trans (modRegion_noted fun x => ⟨x.ce, _, rfl⟩)

theorem noteWords_noted (c : Nat) (addr : Option Nat) (src : Src) (ctx : Nat) (k : Taken) (s : State) :
    Noted (srcRegion src) s (noteWords c addr src ctx k s) :=
  (noteCorrected_noted ..).trans (foldl_noted (fun _ _ => (countUe_noted ..).trans (logFrom_noted ..)) _ _)

theorem noteWords_nil {c : Nat} {addr : Option Nat} {src : Src} {ctx : Nat} {k : Taken} (hcorr : k.corrected = []) (hbad : k.bad = []) :
    noteWords c addr src ctx k s = s := by
  unfold noteWords
  dsimp only
  rw [hbad, hcorr, List.map_nil, noteCorrected_nil]
  rfl

/-! ## What stays as words are counted -/

theorem Noted.jobOf {id : Nat} {j : Job} (h : Noted o s t) (hj : jobOf s id = some j) : jobOf t id = some j := by
  obtain ⟨l, hl⟩ := h.adds
  exact jobOf_append hj hl

theorem RegionCounts.region_other {r e : Nat} (h : RegionCounts (some r) s t) (he : e ≠ r) : region t e = region s e := by
  obtain ⟨ce, ue, h⟩ := h
  exact region_modAt_other he h

theorem RegionCounts.region_same {r : Nat} (h : RegionCounts (some r) s t) : ∃ ce ue, region t r = { region s r with ce := ce, ue := ue } := by
  obtain ⟨ce, ue, h⟩ := h
  by_cases hr : r < s.regions.length
  · exact ⟨ce, ue, region_modAt_same hr h⟩
  · have hsame : region t r = region s r := by
      rw [region, region, List.getD_eq_default _ _ (Nat.not_lt.1 hr), List.getD_eq_default _ _ (by rw [h]; exact (List.length_modify ..).trans_le (Nat.not_lt.1 hr))]
    exact ⟨(region s r).ce, (region s r).ue, hsame⟩

theorem RegionCounts.length {r : Nat} (h : RegionCounts (some r) s t) : t.regions.length = s.regions.length := by
  obtain ⟨ce, ue, h⟩ := h
  rw [h]
  exact List.length_modify ..

theorem RegionCounts.dma {r : Nat} (h : RegionCounts (some r) s t) : (region t r).dma = (region s r).dma := by
  obtain ⟨ce, ue, h⟩ := h.region_same
  rw [h]

/-- Positions keep their epochs, whatever is counted. -/
theorem RegionCounts.epochHolds {r e : Nat} (h : RegionCounts (some r) s t) (p : Nat) (epoch : BitVec 16) :
    epochHolds t e p epoch = epochHolds s e p epoch := by
  have hpos : posOf t e p = posOf s e p := by
    by_cases he : e = r
    · subst he
      obtain ⟨ce, ue, h⟩ := h.region_same
      rw [posOf, h]
      rfl
    · rw [posOf, h.region_other he]
      rfl
  rw [Machine.epochHolds, hpos]
  rfl

end Sys2Proof.Machine
end

section
/-! PROOFS. Answers to the bursts of the control island (R330 to R332, R387). -/

namespace Sys2Proof.Machine

variable {s t u v : State} {c tag id : Nat} {b : Burst} {q : Req} {j : Job}

/-! ## A burst that waits stays in sight -/

/-- A burst waits for a credit, or is outstanding on a port. -/
def BurstHeld (b : Burst) (s : State) : Prop := b ∈ s.ctlWait ∨ ∃ a, ∃ q ∈ (port s a).out, q.burst = b

theorem present_ctlWait (c : Nat) (b : Burst) (s : State) : (present c b s).ctlWait = s.ctlWait := by
  unfold present
  split <;> rfl

/-- A burst that can be presented is outstanding once it has been. -/
theorem present_held {p : Nat} (h : canPresent s p b.wr = true) : ∃ q ∈ (port (present p b s) p).out, q.burst = b := by
  obtain ⟨hp, tag, htag⟩ := canPresent_spec h
  exact ⟨_, present_request hp htag, rfl⟩

theorem drainCtlAux_held (k : Nat) : ∀ (kept rest : List Burst) (s : State), (b ∈ kept ++ rest ∨ ∃ a, ∃ q ∈ (port s a).out, q.burst = b) →
    BurstHeld b (drainCtlAux k kept rest s) := by
  induction k with
  | zero => exact fun kept rest s h => h
  | succ k ih =>
    intro kept rest s h
    cases rest with
    | nil => rwa [drainCtlAux, BurstHeld, ← List.append_nil kept]
    | cons d rest =>
      have hkept : b ∈ (kept ++ [d]) ++ rest ∨ ∃ a, ∃ q ∈ (port s a).out, q.burst = b := by simpa using h
      rw [drainCtlAux]
      split
      · exact ih _ _ _ hkept
      · split
        · next p hp =>
          refine ih _ _ _ ?_
          rcases h with h | ⟨a, q, hq, hb⟩
          · by_cases hd : d = b
            · subst hd
              exact .inr ⟨p, present_held (bestPort_canPresent hp)⟩
            · refine .inl ?_
              simp only [List.mem_append, List.mem_cons] at h ⊢
              rcases h with h | h | h
              · exact .inl h
              · exact absurd h.symm hd
              · exact .inr h
          · exact .inr ⟨a, q, present_outKept _ _ _ _ _ hq, hb⟩
        · exact ih _ _ _ hkept

theorem drainCtl_held (h : BurstHeld b s) : BurstHeld b (drainCtl s) := drainCtlAux_held _ _ _ _ h

theorem BurstHeld.of_outKept (h : BurstHeld b s) (hwait : t.ctlWait = s.ctlWait) (hout : OutKept s t) : BurstHeld b t := by
  rcases h with h | ⟨a, q, hq, hb⟩
  · exact .inl (hwait ▸ h)
  · exact .inr ⟨a, q, hout a q hq, hb⟩

theorem modPort_held {p : Nat} {f : Port → Port} (hf : ∀ x, ∀ q ∈ x.out, q ∈ (f x).out) (h : BurstHeld b s) : BurstHeld b (modPort p f s) :=
  h.of_outKept rfl (modPort_outKept f hf)

theorem drainCore_held (k c : Nat) : ∀ s : State, BurstHeld b s → BurstHeld b (drainCore k c s) := by
  induction k with
  | zero => exact fun _ h => h
  | succ k ih =>
    intro s h
    rw [drainCore]
    split
    · next d hd =>
      have herased : BurstHeld b (modPort c (fun p => { p with wait := p.wait.erase d }) s) := modPort_held (fun _ _ hq => hq) h
      generalize modPort c (fun p => { p with wait := p.wait.erase d }) s = u at herased ⊢
      refine ih _ (modPort_held (fun x q hq => by rwa [grant_out]) ?_)
      exact herased.of_outKept (present_ctlWait ..) (present_outKept _ _ _)
    · split
      · next d hd =>
        refine ih _ (modPort_held (fun x q hq => by rwa [grant_out]) ?_)
        have hport : canPresent s c d.wr = true := by
          have hfind := List.find?_some hd
          simp only [Bool.and_eq_true, beq_iff_eq] at hfind
          exact bestPort_canPresent hfind.2
        rcases h with h | ⟨a, q, hq, hb⟩
        · by_cases hdb : d = b
          · subst hdb
            exact .inr ⟨c, present_held (s := { s with ctlWait := s.ctlWait.erase d }) (by exact hport)⟩
          · refine .inl ?_
            rw [present_ctlWait]
            exact (List.mem_erase_of_ne (Ne.symm hdb)).2 h
        · exact .inr ⟨a, q, present_outKept c d { s with ctlWait := s.ctlWait.erase d } a q hq, hb⟩
      · exact h

theorem drainBeats_ctlWait (k c : Nat) : ∀ s : State, (drainBeats k c s).ctlWait = s.ctlWait := by
  induction k with
  | zero => exact fun _ => rfl
  | succ k ih =>
    intro s
    rw [drainBeats]
    split
    · rfl
    · split
      · rw [ih]
        rfl
      · rfl

theorem drainRegion_held (r : Nat) (h : BurstHeld b s) : BurstHeld b (drainRegion r s) := by
  unfold drainRegion
  generalize regionPorts s r = l
  induction l generalizing s with
  | nil => exact h
  | cons c l ih =>
    exact ih ((drainCore_held _ c s h).of_outKept (drainBeats_ctlWait ..) (drainBeats_outKept _ _ _))

/-- A burst that is outstanding is so on a port that is built. -/
theorem BurstHeld.ports (h : BurstHeld b s) : b ∈ s.ctlWait ∨ ∃ p ∈ s.ports, ∃ r ∈ p.out, r.burst = b := by
  rcases h with h | ⟨a, q, hq, hb⟩
  · exact .inl h
  · refine .inr ⟨port s a, ?_, q, hq, hb⟩
    by_cases ha : a < s.ports.length
    · rw [port, List.getD_eq_getElem _ _ ha]
      exact List.getElem_mem ha
    · rw [port, List.getD_eq_default _ _ (Nat.not_lt.1 ha)] at hq
      cases hq

/-! ## Answers that settle a burst -/

theorem settle_more (h : jobOf s id = some j) (hleft : 2 ≤ j.left) : settle id s = (modJob id (fun x => { x with left := x.left - 1 }) s, none) := by
  unfold settle
  simp only [h]
  exact if_neg (by omega)

/-- The good answer to one of several bursts of an access. -/
theorem ctlGood_more (bytes : List OByte) (htries : b.tries = 0 ∨ b.wr = true) (hj : jobOf s id = some j) (hleft : 2 ≤ j.left) :
    ctlGood b id bytes s = (modJob id (fun x => { x with left := x.left - 1 }) (modJob id (Job.answered b bytes) s), none) := by
  have hgood : ctlGood b id bytes s = settle id (modJob id (Job.answered b bytes) s) := by
    unfold ctlGood
    rw [if_neg (by rcases htries with h | h <;> simp [h])]
    rfl
  rw [hgood, settle_more (jobOf_modJob (f := Job.answered b bytes) (fun _ => rfl) hj) hleft]

/-- How an answer says that a burst of the control island has failed. -/
def Reply.fails : Reply → Option BurstFail
  | .data t => if t.bad.isEmpty then none else some .ue
  | .ack => none
  | .err => some .err
  | .timeout => some .timeout

theorem ctlReply_fails {x : Reply} {f : BurstFail} (c : Nat) (s : State) (h : x.fails = some f) : ∃ u, Noted none s u ∧
    ctlReply c id b x s = jobEnd (ctlBad b id c f u) := by
  cases x with
  | data k =>
    by_cases hbad : k.bad.isEmpty = true
    · rw [Reply.fails, if_pos hbad] at h
      cases h
    · rw [Reply.fails, if_neg hbad] at h
      cases h
      exact ⟨_, (noteCorrected_noted 0 .control _ s).trans (countUe_noted 1 none _), if_neg hbad⟩
  | ack => cases h
  | err => cases h; exact ⟨s, .refl s, rfl⟩
  | timeout => cases h; exact ⟨s, .refl s, rfl⟩

/-- A burst that may be retried is presented again. -/
def retriedBurst (b : Burst) : Burst := { b with tries := b.tries + 1 }

theorem ctlBad_again (f : BurstFail) (hj : jobOf s id = some j) (hretried : j.kind.retried = true) (htries : b.tries < s.health.retry) :
    ctlBad b id c f s = (drainCtl { s with ctlWait := s.ctlWait ++ [retriedBurst b] }, none) := by
  unfold ctlBad
  simp only [hj]
  exact if_pos (by simp [hretried, htries])

/-- The code under which an access fails with a burst. -/
def burstCode (b : Burst) (f : BurstFail) : Nat := if b.wr && f != .timeout then 0x05 else f.code

/-- What the log entry of a failed burst holds: the cluster of an uncorrectable word, the direction of a time-out. -/
def BurstFail.detail (c : Nat) (b : Burst) : BurstFail → Nat
  | .ue => c
  | .timeout => b2n b.wr
  | .err => 0

theorem ctlBad_final (f : BurstFail) (hj : jobOf s id = some j) (htries : s.health.retry ≤ b.tries) (hleft : 2 ≤ j.left) : ∃ u, Noted none s u ∧
    ctlBad b id c f s = (modJob id (fun x => { x with left := x.left - 1 })
      (modJob id (fun x => { x with fail := some (x.fail.getD (burstCode b f, b.addr)) }) u), none) := by
  have hlog (quiet : Bool) (d0 : Nat) : Noted none s (if quiet || j.fail.isSome then s
      else logEvent (burstCode b f) 0 0 0 (jobCtx s j.kind) d0 b.addr s) := by
    split
    · exact .refl s
    · exact logEvent_noted ..
  refine ⟨_, hlog (b.wr && !(f == .timeout && j.kind.endsTask)) (f.detail c b), ?_⟩
  have hjob := (hlog (b.wr && !(f == .timeout && j.kind.endsTask)) (f.detail c b)).jobOf hj
  refine Eq.trans ?_ (settle_more (jobOf_modJob (f := fun x => { x with fail := some (x.fail.getD (burstCode b f, b.addr)) }) (fun _ => rfl) hjob) hleft)
  have hcond : ¬ (j.kind.retried && decide (b.tries < s.health.retry)) = true := by simp [htries]
  unfold ctlBad
  simp only [hj]
  exact if_neg hcond

end Sys2Proof.Machine
end

section
/-! PROOFS. What a request's answer makes of an access of the control island or of a core. -/

namespace Sys2Proof.Machine

variable {s t u v w y : State} {c tag id : Nat} {b : Burst} {q : Req} {j : Job} {x : Reply}

/-! ## A request that is being answered -/

/-- From `s` to `v` nothing but the ports has changed: a request has been taken off its port. -/
def Answering (s v : State) : Prop := v = { s with ports := v.ports }

theorem Answering.quiet (h : Answering s v) : s.Quiet v := by
  rw [h]
  rfl

theorem Answering.jobs (h : Answering s v) : v.jobs = s.jobs := by rw [h]

theorem Answering.jobOf (h : Answering s v) (hj : jobOf s id = some j) : jobOf v id = some j := by
  rw [Machine.jobOf, h.jobs]
  exact hj

theorem dropReq_answering (c : Nat) (q : Req) (s : State) : Answering s (dropReq c q s) := rfl

/-- The state in which a request has timed out: its tag is set aside. -/
def setAside (c tag : Nat) (wr : Bool) (q : Req) (s : State) : State :=
  modPort c (fun p => { p with late := p.late ++ [(wr, tag)] }) (dropReq c q s)

theorem setAside_answering (c tag : Nat) (wr : Bool) (q : Req) (s : State) : Answering s (setAside c tag wr q s) := rfl

theorem exec_memResponseTimeout {wr : Bool} (hrun : s.rst = .run) (h : reqOf s c tag wr = some q) : exec (.memResponseTimeout c tag wr) s =
    .next (reply c q.burst .timeout (setAside c tag wr q s)) := by
  refine (inRun_of_run hrun).trans ?_
  rw [h]
  rfl

theorem exec_cpiRdata_none {err : Bool} {words : List GWord} (hrun : s.rst = .run) (h : reqOf s c tag false = none) :
    exec (.cpiRdata c tag err words none) s = .next (lateAnswer c tag false s) := by
  refine (inRun_of_run hrun).trans ?_
  dsimp only [applyUpsets]
  rw [h]

theorem exec_cpiWriteAck_none {err : Bool} (hrun : s.rst = .run) (h : reqOf s c tag true = none) :
    exec (.cpiWriteAck c tag err) s = .next (lateAnswer c tag true s) := by
  refine (inRun_of_run hrun).trans ?_
  rw [h]

theorem exec_memResponseTimeout_none {wr : Bool} (hrun : s.rst = .run) (h : reqOf s c tag wr = none) :
    exec (.memResponseTimeout c tag wr) s = .next s := by
  refine (inRun_of_run hrun).trans ?_
  rw [h]

/-! ## What the ports present then -/

/-- The ports present what they can: nothing but traffic changes, no access ends, and a burst stays in sight. -/
theorem presents_spec (r : Nat) (u : State) : let t := drainCtl (drainRegion r u)
    u.Quiet t ∧ t.jobs = u.jobs ∧ ∀ d, BurstHeld d u → BurstHeld d t :=
  ⟨drainCtl_quiet (drainRegion_quiet (.refl u)), (drainCtl_jobs _).trans (drainRegion_jobs r u), fun _ h => drainCtl_held (drainRegion_held r h)⟩

/-- An answer to the control island leaves what `ctlReply` does, and traffic. -/
theorem reply_ctl_spec (howner : b.owner = .ctl id) (hu : ctlReply c id b x v = u) (hquiet : s.Quiet u) : ∃ t, reply c b x v = t ∧
    t = s.withTraffic t ∧ t.jobs = u.jobs ∧ ∀ d, BurstHeld d u → BurstHeld d t := by
  obtain ⟨hpresents, hjobs, hheld⟩ := presents_spec (u.build.regionOf c) u
  refine ⟨drainCtl (drainRegion (u.build.regionOf c) u), ?_, hquiet.trans hpresents, hjobs, hheld⟩
  unfold reply
  simp only [howner]
  rw [hu]

theorem jobOf_of_jobs (h : t.jobs = u.jobs) : jobOf t id = jobOf u id := by rw [jobOf, jobOf, h]

theorem taskAt_isSome {r : NodeRef} {tk : Task} {task : Nat} (h : taskOf s r = some tk) (hid : tk.id = task) : (taskAt s r task).isSome = true := by
  obtain ⟨n, hn, hk⟩ := Option.bind_eq_some_iff.1 h
  unfold taskAt
  simp [hn, hk, hid]

/-! ## Accesses of the control island -/

section Control
variable (howner : b.owner = .ctl id) (hv : Answering s v) (hj : jobOf s id = some j)
include howner hv hj

/-- A good answer places its bytes and leaves one burst less. -/
theorem reply_good (bytes : List OByte) (hx : ctlReply c id b x v = jobEnd (ctlGood b id bytes v)) (htries : b.tries = 0 ∨ b.wr = true)
    (hleft : 2 ≤ j.left) : ∃ t, reply c b x v = t ∧ t = s.withTraffic t ∧
      jobOf t id = some { j.answered b bytes with left := j.left - 1 } := by
  rw [ctlGood_more bytes htries (hv.jobOf hj) hleft] at hx
  have hjob : jobOf (modJob id (fun x => { x with left := x.left - 1 }) (modJob id (Job.answered b bytes) v)) id =
      some { j.answered b bytes with left := j.left - 1 } :=
    jobOf_modJob (f := fun x => { x with left := x.left - 1 }) (fun _ => rfl) (jobOf_modJob (f := Job.answered b bytes) (fun _ => rfl) (hv.jobOf hj))
  obtain ⟨t, ht, hframe, hjobs, -⟩ := reply_ctl_spec (s := s) howner hx (hv.quiet.trans rfl)
  exact ⟨t, ht, hframe, (jobOf_of_jobs hjobs).trans hjob⟩

/-- A burst that fails and may be retried is presented again, or waits for a port. -/
theorem reply_again {f : BurstFail} (hfails : x.fails = some f) (hretried : j.kind.retried = true) (htries : b.tries < s.health.retry) :
    ∃ t, reply c b x v = t ∧ t = s.withTraffic t ∧ jobOf t id = some j ∧ BurstHeld (retriedBurst b) t := by
  obtain ⟨w, hnoted, hreply⟩ := ctlReply_fails (b := b) (id := id) c v hfails
  have hjob := hnoted.jobOf (hv.jobOf hj)
  have hretry : w.health.retry = s.health.retry := by rw [hnoted.retry, hv]
  rw [ctlBad_again f hjob hretried (by rw [hretry]; exact htries)] at hreply
  have hheld : BurstHeld (retriedBurst b) (drainCtl { w with ctlWait := w.ctlWait ++ [retriedBurst b] }) :=
    drainCtl_held (.inl (List.mem_append_right _ (List.mem_singleton_self _)))
  have hquiet : s.Quiet (drainCtl { w with ctlWait := w.ctlWait ++ [retriedBurst b] }) :=
    drainCtl_quiet ((hv.quiet.trans hnoted.quiet).trans rfl)
  obtain ⟨t, ht, hframe, hjobs, hkeeps⟩ := reply_ctl_spec howner hreply hquiet
  exact ⟨t, ht, hframe, (jobOf_of_jobs (hjobs.trans (drainCtl_jobs _))).trans hjob, hkeeps _ hheld⟩

/-- A burst that fails for good is the failure of its access. -/
theorem reply_final {f : BurstFail} (hfails : x.fails = some f) (htries : s.health.retry ≤ b.tries) (hleft : 2 ≤ j.left) (hfail : j.fail = none) :
    ∃ t, reply c b x v = t ∧ t = s.withTraffic t ∧ jobOf t id = some { j with left := j.left - 1, fail := some (burstCode b f, b.addr) } := by
  obtain ⟨w, hnoted, hreply⟩ := ctlReply_fails (b := b) (id := id) c v hfails
  have hjob := hnoted.jobOf (hv.jobOf hj)
  have hretry : w.health.retry = s.health.retry := by rw [hnoted.retry, hv]
  obtain ⟨y, hnoted', hbad⟩ := ctlBad_final (c := c) f hjob (by rw [hretry]; exact htries) hleft
  rw [hbad] at hreply
  have hend := jobOf_modJob (f := fun x => { x with left := x.left - 1 }) (fun _ => rfl)
    (jobOf_modJob (f := fun x => { x with fail := some (x.fail.getD (burstCode b f, b.addr)) }) (fun _ => rfl) (hnoted'.jobOf hjob))
  obtain ⟨t, ht, hframe, hjobs, -⟩ := reply_ctl_spec (s := s) howner hreply (((hv.quiet.trans hnoted.quiet).trans hnoted'.quiet).trans rfl)
  refine ⟨t, ht, hframe, (jobOf_of_jobs hjobs).trans (hend.trans ?_)⟩
  rw [hfail]
  rfl

end Control

/-! ## Accesses of a core -/

section Core
variable {r p phys : Nat} {epoch : BitVec 16}

/-- An answer to a core, and what the ports present then. -/
theorem reply_core_spec (howner : b.owner = .core r p epoch phys id) (hu : coreReply c r p epoch id b x v = u) : ∃ t, reply c b x v = t ∧
    u.Quiet t ∧ t.jobs = u.jobs := by
  obtain ⟨hpresents, hjobs, -⟩ := presents_spec (u.build.regionOf c) u
  refine ⟨drainCtl (drainRegion (u.build.regionOf c) u), ?_, hpresents, hjobs⟩
  unfold reply
  simp only [howner]
  rw [hu]

/-- The answer to one of several bursts of an access of a core. -/
theorem coreReply_more (hstop : coreStop id b x (coreNote c b x v) = w) (hepoch : epochHolds w r p epoch = true ∨ b.wr = true)
    (hput : corePut id b x w = y) (hj : jobOf y id = some j) (hleft : 2 ≤ j.left) (hwr : epochHolds w r p epoch = false → y = w) :
    coreReply c r p epoch id b x v = modJob id (fun k => { k with left := k.left - 1 }) y := by
  subst hstop hput
  unfold coreReply
  dsimp only
  by_cases he : epochHolds (coreStop id b x (coreNote c b x v)) r p epoch = true
  · rw [if_pos he, settle_more hj hleft]
    rfl
  · rw [if_neg he, if_pos (hepoch.resolve_left he)]
    rw [hwr (Bool.eq_false_iff.2 he)] at hj ⊢
    rw [settle_more hj hleft]

/-- A core's read that fails stops no task. -/
theorem coreStop_read (hwr : b.wr = false) (s : State) : coreStop id b x s = s := by
  unfold coreStop
  cases x <;> simp [hwr]

/-- What `coreNote` makes of a state. -/
theorem coreNote_noted (howner : b.owner = .core r p epoch phys id) (s : State) : Noted (some r) s (coreNote c b x s) := by
  have hsrc : srcRegion (reqSrc b) = some r := by
    unfold reqSrc
    rw [howner]
    rfl
  cases x with
  | data k =>
    rw [← hsrc]
    exact noteWords_noted ..
  | timeout => exact logFrom_noted ..
  | ack => exact .refl s
  | err => exact .refl s

section Read
variable (howner : b.owner = .core r p epoch phys id) (hv : Answering s v) (hwr : b.wr = false)
include howner hv hwr

/-- A read from before a fence has no effect. -/
theorem reply_fenced {k : Taken} (hepoch : epochHolds s r p epoch = false) (hcorr : k.corrected = []) (hbad : k.bad = []) :
    ∃ t, reply c b (.data k) v = t ∧ t = s.withTraffic t ∧ t.jobs = s.jobs := by
  have hepoch' : epochHolds v r p epoch = false := by rw [hv]; exact hepoch
  have hreply : coreReply c r p epoch id b (.data k) v = v := by
    unfold coreReply
    dsimp only
    rw [coreStop_read hwr, show coreNote c b (.data k) v = v from noteWords_nil hcorr hbad, if_neg (by simp [hepoch']), if_neg (by simp [hwr])]
  obtain ⟨t, ht, hquiet, hjobs⟩ := reply_core_spec howner hreply
  exact ⟨t, ht, hv.quiet.trans hquiet, hjobs.trans hv.jobs⟩

variable (hepoch : epochHolds s r p epoch = true) (hj : jobOf s id = some j) (hleft : 2 ≤ j.left)
include hepoch hj hleft

/-- Data of a core's read are put in their places. -/
theorem reply_coreData (k : Taken) : ∃ t, reply c b (.data k) v = t ∧ t = { s.withTraffic t with regions := t.regions } ∧
    jobOf t id = some { j with left := j.left - 1, buf := patch j.buf b.off k.bytes } := by
  have hnoted : Noted (some r) v (coreNote c b (.data k) v) := coreNote_noted howner v
  have hepoch' : epochHolds (coreNote c b (.data k) v) r p epoch = true := by
    rw [hnoted.counts.epochHolds, hv]
    exact hepoch
  have hput := jobOf_modJob (f := fun j => { j with buf := patch j.buf b.off k.bytes }) (fun _ => rfl) (hnoted.jobOf (hv.jobOf hj))
  have hreply := coreReply_more (coreStop_read hwr (coreNote c b (.data k) v)) (.inl hepoch') rfl hput hleft (fun h => by rw [hepoch'] at h; cases h)
  obtain ⟨t, ht, hquiet, hjobs⟩ := reply_core_spec howner hreply
  refine ⟨t, ht, ?_, (jobOf_of_jobs hjobs).trans (jobOf_modJob (f := fun k => { k with left := k.left - 1 }) (fun _ => rfl) hput)⟩
  have hframe := hnoted.frame
  generalize coreNote c b (.data k) v = w at hframe hquiet
  rw [hquiet, show corePut id b (.data k) w = modJob id (fun j => { j with buf := patch j.buf b.off k.bytes }) w from rfl, hframe, hv]
  rfl

/-- A core's read that fails leaves its bytes in doubt. -/
theorem reply_coreFailed (hx : x = .err ∨ x = .timeout) : ∃ t, reply c b x v = t ∧ t = s.withTraffic t ∧
    jobOf t id = some { j with left := j.left - 1 } := by
  have hnoted : Noted none v (coreNote c b x v) := by
    rcases hx with rfl | rfl
    · exact .refl v
    · exact logFrom_noted ..
  have hepoch' : epochHolds (coreNote c b x v) r p epoch = true := by
    rw [(RegionCounts.of_eq (o := some r) hnoted.quiet.regions_eq).epochHolds, hv]
    exact hepoch
  have hput : corePut id b x (coreNote c b x v) = coreNote c b x v := by rcases hx with rfl | rfl <;> rfl
  have hjob := hnoted.jobOf (hv.jobOf hj)
  have hreply := coreReply_more (coreStop_read hwr (coreNote c b x v)) (.inl hepoch') hput hjob hleft (fun _ => rfl)
  obtain ⟨t, ht, hquiet, hjobs⟩ := reply_core_spec howner hreply
  exact ⟨t, ht, (modJob_quiet (hv.quiet.trans hnoted.quiet)).trans hquiet,
    (jobOf_of_jobs hjobs).trans (jobOf_modJob (f := fun k => { k with left := k.left - 1 }) (fun _ => rfl) hjob)⟩

end Read

section Write
variable (howner : b.owner = .core r p epoch phys id) (hv : Answering s v) (hwr : b.wr = true) (hj : jobOf s id = some j) (hleft : 2 ≤ j.left)
include howner hv hwr hj hleft

/-- An acknowledgement of a core's write leaves one burst less, also from before a fence. -/
theorem reply_coreAck : ∃ t, reply c b .ack v = t ∧ t = s.withTraffic t ∧ jobOf t id = some { j with left := j.left - 1 } := by
  have hreply : coreReply c r p epoch id b .ack v = modJob id (fun k => { k with left := k.left - 1 }) v :=
    coreReply_more (w := v) rfl (.inr hwr) rfl (hv.jobOf hj) hleft (fun _ => rfl)
  obtain ⟨t, ht, hquiet, hjobs⟩ := reply_core_spec howner hreply
  exact ⟨t, ht, (modJob_quiet hv.quiet).trans hquiet,
    (jobOf_of_jobs hjobs).trans (jobOf_modJob (f := fun k => { k with left := k.left - 1 }) (fun _ => rfl) (hv.jobOf hj))⟩

/-- A failed write of a core stops its task. -/
theorem reply_coreStops {cause k : Nat} {node : NodeRef} {task : Nat} {tk : Task} (hx : (x = .err ∧ cause = 0x41) ∨ (x = .timeout ∧ cause = 0x43))
    (hkind : j.kind = .swathWr k node task) (htask : taskOf s node = some tk) (hid : tk.id = task) : ∃ t, reply c b x v = t ∧
      t = { s.withTraffic t with ctxs := t.ctxs } ∧ taskOf t node = some { tk with stop := some (min (tk.stop.getD cause) cause) } ∧
      ∀ d, d ≠ node.ctx → ctxOf t d = ctxOf s d := by
  have hnoted : Noted none v (coreNote c b x v) := by
    rcases hx with ⟨rfl, rfl⟩ | ⟨rfl, rfl⟩
    · exact .refl v
    · exact logFrom_noted ..
  have hjob := hnoted.jobOf (hv.jobOf hj)
  have hctxs : (coreNote c b x v).ctxs = s.ctxs := by rw [hnoted.quiet.ctxs_eq, hv]
  have htask' : taskOf (coreNote c b x v) node = some tk := by rw [taskOf_congr hctxs]; exact htask
  have hquiet' : s.Quiet (coreNote c b x v) := hv.quiet.trans hnoted.quiet
  generalize hw : coreNote c b x v = w at hjob hctxs htask' hquiet'
  have hstop : coreStop id b x (coreNote c b x v) = taskStop node cause w := by
    have hat : (taskAt w node task).isSome = true := taskAt_isSome htask' hid
    have hjt : jobTask w id = some (node, task) := by
      unfold jobTask
      simp only [hjob, hkind]
    rw [hw]
    rcases hx with ⟨rfl, rfl⟩ | ⟨rfl, rfl⟩ <;> simp [coreStop, hwr, hjt, hat]
  have hput : corePut id b x (taskStop node cause w) = taskStop node cause w := by rcases hx with ⟨rfl, -⟩ | ⟨rfl, -⟩ <;> rfl
  have hreply := coreReply_more (r := r) (p := p) (epoch := epoch) hstop (.inr hwr) hput (j := j) hjob hleft (fun _ => rfl)
  obtain ⟨t, ht, hquiet, -⟩ := reply_core_spec howner hreply
  have hctxs' : t.ctxs = (taskStop node cause w).ctxs := by rw [hquiet]; rfl
  refine ⟨t, ht, ?_, ?_, fun d hd => ?_⟩
  · rw [hquiet, hquiet']
    rfl
  · rw [taskOf_congr hctxs', taskStop, taskOf_modTask _ htask']
  · rw [ctxOf_congr hctxs', taskStop, ctxOf_modTask_other hd]
    exact ctxOf_congr hctxs d

end Write

end Core

end Sys2Proof.Machine
end

section
/-! PROOFS. Answers to the bursts of a DMA channel (R291, R297, R298). -/

namespace Sys2Proof.Machine

variable {s t u v w : State} {c r ch id : Nat} {b : Burst} {fl : Flight} {x : Reply} {res : DmaRes}

/-! ## What an answer to a channel can change -/

/-- From `s` to `t` nothing but a channel, its engine's own state, the region's counters and traffic has changed. -/
structure ChannelOnly (r ch : Nat) (s t : State) : Prop where
  only : RegionOnly r s t
  other : ∀ e, e ≠ ch → chan t r e = chan s r e

theorem ChannelOnly.trans (h : ChannelOnly r ch s t) (k : ChannelOnly r ch t u) : ChannelOnly r ch s u :=
  ⟨h.only.trans k.only, fun e he => (k.other e he).trans (h.other e he)⟩

theorem ChannelOnly.of_quiet (h : s.Quiet t) : ChannelOnly r ch s t := ⟨.of_quiet h, fun e _ => chan_congr h.regions_eq r e⟩

theorem modChan_channelOnly (f : Chan → Chan) : ChannelOnly r ch s (modChan r ch f s) := ⟨modRegion_only _, fun _ he => chan_modChan_other he f⟩

/-- What is counted and logged leaves the engine alone. -/
theorem Noted.channelOnly (h : Noted (some r) s t) : ChannelOnly r ch s t :=
  ⟨⟨h.frame, fun _ he => h.counts.region_other he⟩, fun e _ => chan_congr_region (by rw [h.counts.dma]) e⟩

/-! ## A flight of a channel -/

/-- The flights of a channel but one. -/
def Chan.landed (id : Nat) (x : Chan) : Chan := { x with flights := x.flights.filter (fun y => y.id != id) }

section Flight
variable (hfl : (chan s r ch).flights.find? (fun y => y.id == id) = some fl)
include hfl

theorem flight_chan : ch < (region s r).dma.chans.length := by
  by_contra hch
  rw [chan, List.getD_eq_default _ _ (Nat.not_lt.1 hch)] at hfl
  cases hfl

theorem flight_region : r < s.regions.length := by
  by_contra hr
  have hch := flight_chan hfl
  rw [region, List.getD_eq_default _ _ (Nat.not_lt.1 hr)] at hch
  rw [chan, region, List.getD_eq_default _ _ (Nat.not_lt.1 hr)] at hfl
  rw [show (Region.reset 0).dma.chans = List.replicate 32 Chan.reset from rfl, List.getD_eq_getElem?_getD,
    List.getElem?_getD_replicate_default_eq] at hfl
  cases hfl

/-! ## An answer settles a flight -/

/-- A channel with the data of a burst in its buffer. -/
def Chan.buffered (fl : Flight) (bytes : List Byte) (x : Chan) : Chan :=
  { x with buf := x.buf ++ [(fl.pos, orderUnits fl.desc fl.width bytes)] }

theorem dmaSettle_read (addr : Nat) {bytes : List Byte} (hkind : fl.kind = .read) (hblock : fl.block = (chan s r ch).block)
    (hact : (chan s r ch).state = .active) : dmaSettle r ch id addr (.good bytes) s =
      modChan r ch (fun x => (x.landed id).buffered fl bytes) s := by
  unfold dmaSettle
  dsimp only
  rw [hfl]
  dsimp only
  rw [hkind]
  dsimp only
  rw [if_pos (by simp [hact, hblock]), modChan_modChan]
  rfl

/-- A channel whose run has advanced by an acknowledged burst (R301). -/
def Chan.advanced (fl : Flight) (x : Chan) : Chan :=
  let a := x.acked ++ [(fl.pos, fl.len)]
  let p := advancePos a.length x.pos a
  { x with pos := p, acked := a.filter (fun y => p < y.1 + y.2) }

theorem dmaSettle_write (addr : Nat) (bytes : List Byte) (hkind : fl.kind = .write) (hblock : fl.block = (chan s r ch).block) :
    dmaSettle r ch id addr (.good bytes) s = modChan r ch (fun x => (x.landed id).advanced fl) s := by
  unfold dmaSettle
  dsimp only
  rw [hfl]
  dsimp only
  rw [hkind]
  dsimp only
  rw [if_pos (by simp [hblock]), modChan_modChan]
  rfl

/-- A channel of whose block a burst has failed. -/
def Chan.struck (fl : Flight) (x : Chan) : Chan := { x with badBlocks := if fl.kind == .fetch then x.badBlocks else x.badBlocks ++ [fl.block] }

theorem dmaSettle_fails (addr : Nat) (hres : ∀ bytes, res ≠ .good bytes) : dmaSettle r ch id addr res s =
    dmaFail r ch (dmaCause fl.kind res) addr (modChan r ch (fun x => (x.landed id).struck fl) s) := by
  unfold dmaSettle
  dsimp only
  rw [hfl]
  dsimp only
  cases res with
  | good bytes => exact absurd rfl (hres bytes)
  | ue => exact congrArg (dmaFail r ch _ addr) (modChan_modChan ..)
  | err => exact congrArg (dmaFail r ch _ addr) (modChan_modChan ..)
  | timeout => exact congrArg (dmaFail r ch _ addr) (modChan_modChan ..)

end Flight

/-- An engine that a burst of a channel has failed. -/
def Dma.failed (ch cause addr : Nat) (d : Dma) : Dma := { d with
  draining := true
  culprits := if d.culprits.any (fun c => c.chan == ch) then
      d.culprits.map (fun c => if c.chan = ch then { c with low := min c.low cause } else c)
    else d.culprits ++ [⟨ch, cause, addr, cause⟩] }

theorem dmaFail_eq (r ch cause addr : Nat) (s : State) : dmaFail r ch cause addr s = drainRegion r (modDma r (Dma.failed ch cause addr) s) := rfl

/-- A failed burst makes its channel a culprit and stops the engine. -/
theorem dmaFail_spec (hr : r < s.regions.length) (cause addr : Nat) : let t := dmaFail r ch cause addr s
    ChannelOnly r ch s t ∧ chan t r ch = chan s r ch ∧ (region t r).dma = (region s r).dma.failed ch cause addr := by
  have hquiet := drainRegion_quiet (r := r) (.refl (modDma r (Dma.failed ch cause addr) s))
  rw [← dmaFail_eq] at hquiet
  have hchan (e : Nat) : chan (dmaFail r ch cause addr s) r e = chan s r e :=
    (chan_congr hquiet.regions_eq r e).trans (chan_modDma (f := Dma.failed ch cause addr) hr (fun _ => rfl) e)
  refine ⟨⟨RegionOnly.trans (modRegion_only _) (.of_quiet hquiet), fun e _ => hchan e⟩, hchan ch, ?_⟩
  rw [region_congr hquiet.regions_eq, dma_modDma hr]

/-! ## Answers to a channel -/

section Answers
variable (howner : b.owner = .dma r ch id)
include howner

theorem reply_dma_spec (hu : dmaReply c r ch id b x v = u) : ∃ t, reply c b x v = t ∧ u.Quiet t := by
  refine ⟨drainCtl (drainRegion (u.build.regionOf c) u), ?_, (presents_spec _ u).1⟩
  unfold reply
  simp only [howner]
  rw [hu]

/-- The words of an answer are counted and logged before the flight settles. -/
theorem dmaReply_data (k : Taken) (v : State) : ∃ w, Noted (some r) v w ∧ dmaReply c r ch id b (.data k) v =
    match sound k.bytes with
    | some bytes => dmaSettle r ch id b.addr (.good bytes) w
    | none => dmaSettle r ch id b.addr .ue w := by
  refine ⟨noteWords c (some b.addr) (reqSrc b) (reqCtx v b) k v, ?_, rfl⟩
  rw [← show srcRegion (reqSrc b) = some r from by rw [reqSrc, howner]; rfl]
  exact noteWords_noted ..

variable (hv : Answering s v) (hfl : (chan s r ch).flights.find? (fun y => y.id == id) = some fl)
include hv hfl

omit howner in
/-- Before the flight settles the channel is as it was. -/
theorem noted_flight (h : Noted (some r) v w) : ChannelOnly r ch s w ∧ chan w r ch = chan s r ch ∧ (region w r).dma = (region s r).dma ∧
    (chan w r ch).flights.find? (fun y => y.id == id) = some fl := by
  have hdma : (region w r).dma = (region s r).dma := by
    rw [h.counts.dma, hv]
    rfl
  have hchan : chan w r ch = chan s r ch := chan_congr_region (by rw [hdma]) ch
  refine ⟨(ChannelOnly.of_quiet hv.quiet).trans h.channelOnly, hchan, hdma, ?_⟩
  rw [hchan]
  exact hfl

/-- A burst that fails. -/
theorem reply_dmaFails (hres : ∀ bytes, res ≠ .good bytes)
    (hx : ∃ w, Noted (some r) v w ∧ dmaReply c r ch id b x v = dmaSettle r ch id b.addr res w) : ∃ t, reply c b x v = t ∧
      ChannelOnly r ch s t ∧ (chan t r ch).flights = ((chan s r ch).landed id).flights ∧
      (region t r).dma.draining = true ∧ (region t r).dma.culprits = ((region s r).dma.failed ch (dmaCause fl.kind res) b.addr).culprits := by
  obtain ⟨w, hnoted, hreply⟩ := hx
  obtain ⟨honly, hchan, hdma, hfl'⟩ := noted_flight hv hfl hnoted
  have hr := flight_region hfl'
  have hch := flight_chan hfl'
  have hsettle := dmaSettle_fails hfl' b.addr hres
  have hlen : r < (modChan r ch (fun x => (x.landed id).struck fl) w).regions.length := by rwa [modChan_regions_length]
  obtain ⟨hfails, hsame, hfailed⟩ := dmaFail_spec (ch := ch) hlen (dmaCause fl.kind res) b.addr
  obtain ⟨t, ht, hquiet⟩ := reply_dma_spec howner (hreply.trans hsettle)
  refine ⟨t, ht, ((honly.trans (modChan_channelOnly _)).trans hfails).trans (.of_quiet hquiet), ?_, ?_, ?_⟩
  · rw [chan_congr hquiet.regions_eq, hsame, chan_modChan_same hr hch, hchan]
    rfl
  · rw [region_congr hquiet.regions_eq, hfailed]
    rfl
  · rw [region_congr hquiet.regions_eq, hfailed, dma_modChan hr, hdma]
    rfl

/-- A burst whose flight settles well. -/
theorem reply_dmaGood {f : Chan → Chan} (hnoted : Noted (some r) v w) (hreply : dmaReply c r ch id b x v = modChan r ch f w) :
    ∃ t, reply c b x v = t ∧ ChannelOnly r ch s t ∧ chan t r ch = f (chan s r ch) := by
  obtain ⟨honly, hchan, -, hfl'⟩ := noted_flight hv hfl hnoted
  obtain ⟨t, ht, hquiet⟩ := reply_dma_spec howner hreply
  refine ⟨t, ht, (honly.trans (modChan_channelOnly _)).trans (.of_quiet hquiet), ?_⟩
  rw [chan_congr hquiet.regions_eq, chan_modChan_same (flight_region hfl') (flight_chan hfl'), hchan]

/-- Data of a read of the current block join the buffer. -/
theorem reply_dmaRead {k : Taken} {bytes : List Byte} (hkind : fl.kind = .read) (hblock : fl.block = (chan s r ch).block)
    (hact : (chan s r ch).state = .active) (hbytes : sound k.bytes = some bytes) : ∃ t, reply c b (.data k) v = t ∧ ChannelOnly r ch s t ∧
      chan t r ch = ((chan s r ch).landed id).buffered fl bytes := by
  obtain ⟨w, hnoted, hreply⟩ := dmaReply_data (c := c) howner k v
  obtain ⟨-, hchan, -, hfl'⟩ := noted_flight hv hfl hnoted
  rw [hbytes] at hreply
  exact reply_dmaGood howner hv hfl hnoted
    (hreply.trans (dmaSettle_read hfl' b.addr hkind (by rw [hchan]; exact hblock) (by rw [hchan]; exact hact)))

/-- An acknowledgement of a write of the current block advances the run. -/
theorem reply_dmaWritten (hkind : fl.kind = .write) (hblock : fl.block = (chan s r ch).block) : ∃ t, reply c b .ack v = t ∧
    ChannelOnly r ch s t ∧ chan t r ch = ((chan s r ch).landed id).advanced fl := by
  obtain ⟨-, hchan, -, hfl'⟩ := noted_flight hv hfl (.refl v)
  exact reply_dmaGood (c := c) (x := .ack) howner hv hfl (.refl v) (dmaSettle_write hfl' b.addr [] hkind (by rw [hchan]; exact hblock))

/-- An error response and a time-out. -/
theorem reply_dmaErr : ∃ t, reply c b .err v = t ∧ ChannelOnly r ch s t ∧ (chan t r ch).flights = ((chan s r ch).landed id).flights ∧
    (region t r).dma.draining = true ∧ (region t r).dma.culprits = ((region s r).dma.failed ch (dmaCause fl.kind .err) b.addr).culprits :=
  reply_dmaFails howner hv hfl (fun _ h => by cases h) ⟨v, .refl v, rfl⟩

theorem reply_dmaTimeout : ∃ t, reply c b .timeout v = t ∧ ChannelOnly r ch s t ∧ (chan t r ch).flights = ((chan s r ch).landed id).flights ∧
    (region t r).dma.draining = true ∧ (region t r).dma.culprits = ((region s r).dma.failed ch 0x43 b.addr).culprits :=
  reply_dmaFails (res := .timeout) howner hv hfl (fun _ h => by cases h) ⟨_, logFrom_noted .., rfl⟩

theorem reply_dmaUe {k : Taken} (hbytes : sound k.bytes = none) : ∃ t, reply c b (.data k) v = t ∧ ChannelOnly r ch s t ∧
    (chan t r ch).flights = ((chan s r ch).landed id).flights ∧ (region t r).dma.draining = true ∧
    (region t r).dma.culprits = ((region s r).dma.failed ch 0x44 b.addr).culprits := by
  obtain ⟨w, hnoted, hreply⟩ := dmaReply_data (c := c) howner k v
  rw [hbytes] at hreply
  exact reply_dmaFails (res := .ue) howner hv hfl (fun _ h => by cases h) ⟨w, hnoted, hreply⟩

end Answers

end Sys2Proof.Machine
end

section
/-! PROOFS. Answers, errors and time-outs at the cluster ports (R329 to R332, R387). -/

namespace Sys2Proof.Machine

variable {s : State} {c tag : Nat} {q : Req}

/-- What an outstanding read's answers are. -/
theorem exec_readAnswers (hrun : s.rst = .run) (h : reqOf s c tag false = some q) :
    (∀ words, exec (.cpiRdata c tag false words none) s =
      .next (reply c q.burst (.data (takeBeat words (q.burst.addr % 256) q.burst.len)) (dropReq c q s))) ∧
    exec (.cpiRdata c tag true [] none) s = .next (reply c q.burst .err (dropReq c q s)) ∧
    exec (.memResponseTimeout c tag false) s = .next (reply c q.burst .timeout (setAside c tag false q s)) :=
  ⟨fun _ => exec_cpiRdata hrun h, exec_cpiRdata hrun h, exec_memResponseTimeout hrun h⟩

/-- What an outstanding write's answers are. -/
theorem exec_writeAnswers (hrun : s.rst = .run) (h : reqOf s c tag true = some q) :
    exec (.cpiWriteAck c tag false) s = .next (reply c q.burst .ack (dropReq c q s)) ∧
    exec (.cpiWriteAck c tag true) s = .next (reply c q.burst .err (dropReq c q s)) ∧
    exec (.memResponseTimeout c tag true) s = .next (reply c q.burst .timeout (setAside c tag true q s)) :=
  ⟨exec_cpiWriteAck hrun h, exec_cpiWriteAck hrun h, exec_memResponseTimeout hrun h⟩

/-- Data with a word that cannot be corrected are a failure. -/
theorem Reply.fails_data {k : Taken} (h : k.bad ≠ []) : (Reply.data k).fails = some .ue := if_neg (by simpa using h)

theorem ctlReply_data {b : Burst} {k : Taken} {id : Nat} (hcorr : k.corrected = []) (hbad : k.bad = []) (v : State) :
    ctlReply c id b (.data k) v = jobEnd (ctlGood b id k.bytes v) := by
  unfold ctlReply
  dsimp only
  rw [hcorr, List.map_nil, noteCorrected_nil, if_pos (by simp [hbad])]

end Sys2Proof.Machine

namespace Sys2Proof.Proofs
open Sys2Proof.Machine

/-- Settles O41. -/
theorem portAnswers : Obligations.PortAnswers := by
  unfold Obligations.PortAnswers
  intro s c tag hrun hc late
  refine ⟨fun err words h => exec_cpiRdata_none hrun h, fun err h => exec_cpiWriteAck_none hrun h,
    fun wr h => exec_memResponseTimeout_none hrun h, fun q hq => ?_, fun q hq => ?_⟩
  · intro rdata failed timedOut taken
    obtain ⟨hdata, herr, htimeout⟩ := exec_readAnswers hrun hq
    have hwr := reqOf_wr hq
    have hdrop := dropReq_answering c q s
    have haside := setAside_answering c tag false q s
    refine ⟨fun id j howner hj => ?_, fun r p e phys id howner => ⟨?_, fun j hepoch hj hleft => ⟨fun words => ?_, ?_⟩⟩,
      fun r ch fid fl howner hfl => ?_⟩
    · intro again ends
      refine ⟨fun words hleft htries hcorr hbad => ?_, fun hretried htries => ?_, fun hretried htries hleft hfail => ?_⟩
      · obtain ⟨t, ht, hframe, hjob⟩ := reply_good howner hdrop hj _ (ctlReply_data hcorr hbad _) (.inl htries) hleft
        refine ⟨t, (hdata words).trans (congrArg _ ht), hframe, hjob.trans ?_⟩
        rw [Job.answered, hwr]
        rfl
      · have hagain {a : Answer} {x : Reply} {v : State} {f : BurstFail} (ha : a = .next (reply c q.burst x v)) (hv : Answering s v)
            (hfails : x.fails = some f) : again a := by
          obtain ⟨t, ht, hframe, hjob, hheld⟩ := reply_again howner hv hj hfails hretried htries
          exact ⟨t, ha.trans (congrArg _ ht), hframe, hjob, hheld.ports⟩
        exact ⟨hagain herr hdrop rfl, hagain htimeout haside rfl, fun words hbad => hagain (hdata words) hdrop (Reply.fails_data hbad)⟩
      · have hends {a : Answer} {x : Reply} {v : State} {f : BurstFail} (ha : a = .next (reply c q.burst x v)) (hv : Answering s v)
            (hfails : x.fails = some f) : ends a f.code := by
          obtain ⟨t, ht, hframe, hjob⟩ := reply_final howner hv hj hfails htries hleft hfail
          refine ⟨t, ha.trans (congrArg _ ht), hframe, hjob.trans ?_⟩
          rw [burstCode, hwr]
          rfl
        exact ⟨hends herr hdrop rfl, hends htimeout haside rfl, fun words hbad => hends (hdata words) hdrop (Reply.fails_data hbad)⟩
    · intro hepoch words hcorr hbad
      obtain ⟨t, ht, hframe, hjobs⟩ := reply_fenced howner hdrop hwr hepoch hcorr hbad
      exact ⟨t, (hdata words).trans (congrArg _ ht), hframe, hjobs⟩
    · obtain ⟨t, ht, hframe, hjob⟩ := reply_coreData howner hdrop hwr hepoch hj hleft (taken words)
      exact ⟨t, (hdata words).trans (congrArg _ ht), hframe, hjob⟩
    · rintro x (rfl | rfl)
      · obtain ⟨t, ht, hframe, hjob⟩ := reply_coreFailed howner hdrop hwr hepoch hj hleft (.inl rfl)
        exact ⟨t, herr.trans (congrArg _ ht), hframe, hjob⟩
      · obtain ⟨t, ht, hframe, hjob⟩ := reply_coreFailed howner haside hwr hepoch hj hleft (.inr rfl)
        exact ⟨t, htimeout.trans (congrArg _ ht), hframe, hjob⟩
    · intro rest only stops
      refine ⟨fun words bytes hkind hblock hact hbytes => ?_, fun words hbytes => ?_, fun hkind => ⟨?_, ?_⟩⟩
      · obtain ⟨t, ht, ⟨⟨hframe, hregions⟩, hchans⟩, hchan⟩ := reply_dmaRead howner hdrop hfl hkind hblock hact hbytes
        exact ⟨t, (hdata words).trans (congrArg _ ht), ⟨hframe, hregions, hchans⟩, hchan⟩
      · obtain ⟨t, ht, ⟨⟨hframe, hregions⟩, hchans⟩, hstop⟩ := reply_dmaUe howner hdrop hfl hbytes
        exact ⟨t, (hdata words).trans (congrArg _ ht), ⟨hframe, hregions, hchans⟩, hstop⟩
      · obtain ⟨t, ht, ⟨⟨hframe, hregions⟩, hchans⟩, hstop⟩ := reply_dmaErr (c := c) howner hdrop hfl
        have hcause : dmaCause fl.kind .err = if fl.kind = .fetch then 0x42 else 0x40 := by
          cases hk : fl.kind with
          | read => rfl
          | fetch => rfl
          | write => exact absurd hk hkind
        rw [hcause] at hstop
        exact ⟨t, herr.trans (congrArg _ ht), ⟨hframe, hregions, hchans⟩, hstop⟩
      · obtain ⟨t, ht, ⟨⟨hframe, hregions⟩, hchans⟩, hstop⟩ := reply_dmaTimeout (c := c) howner haside hfl
        exact ⟨t, htimeout.trans (congrArg _ ht), ⟨hframe, hregions, hchans⟩, hstop⟩
  · intro acked failed timedOut
    obtain ⟨hack, herr, htimeout⟩ := exec_writeAnswers hrun hq
    have hwr := reqOf_wr hq
    have hdrop := dropReq_answering c q s
    have haside := setAside_answering c tag true q s
    refine ⟨fun id j howner hj hleft => ⟨?_, fun hretried htries hfail => ?_⟩, fun r p e phys id j k node task howner hj hkind hleft => ⟨?_, ?_⟩,
      fun r ch fid fl howner hfl hkind => ?_⟩
    · obtain ⟨t, ht, hframe, hjob⟩ := reply_good howner hdrop hj (x := .ack) (c := c) [] rfl (.inr hwr) hleft
      refine ⟨t, hack.trans (congrArg _ ht), hframe, hjob.trans ?_⟩
      rw [Job.answered, hwr]
      rfl
    · obtain ⟨t, ht, hframe, hjob⟩ := reply_final (x := .err) (c := c) howner hdrop hj rfl htries hleft hfail
      refine ⟨t, herr.trans (congrArg _ ht), hframe, hjob.trans ?_⟩
      rw [burstCode, hwr]
      rfl
    · obtain ⟨t, ht, hframe, hjob⟩ := reply_coreAck (c := c) howner hdrop hwr hj hleft
      exact ⟨t, hack.trans (congrArg _ ht), hframe, hjob⟩
    · intro tk htask hid stops
      obtain ⟨t, ht, hstop⟩ := reply_coreStops (c := c) howner hdrop hwr hj hleft (.inl ⟨rfl, rfl⟩) hkind htask hid
      obtain ⟨t', ht', hstop'⟩ := reply_coreStops (c := c) howner haside hwr hj hleft (.inr ⟨rfl, rfl⟩) hkind htask hid
      exact ⟨⟨t, herr.trans (congrArg _ ht), hstop⟩, ⟨t', htimeout.trans (congrArg _ ht'), hstop'⟩⟩
    · intro rest only
      refine ⟨fun hblock => ?_, ?_⟩
      · obtain ⟨t, ht, ⟨⟨hframe, hregions⟩, hchans⟩, hchan⟩ := reply_dmaWritten (c := c) howner hdrop hfl hkind hblock
        exact ⟨t, hack.trans (congrArg _ ht), ⟨hframe, hregions, hchans⟩, hchan⟩
      · rintro x cause (⟨rfl, rfl⟩ | ⟨rfl, rfl⟩)
        · obtain ⟨t, ht, ⟨⟨hframe, hregions⟩, hchans⟩, hstop⟩ := reply_dmaErr (c := c) howner hdrop hfl
          rw [show dmaCause fl.kind .err = 0x41 from by rw [hkind]; rfl] at hstop
          exact ⟨t, herr.trans (congrArg _ ht), ⟨hframe, hregions, hchans⟩, hstop⟩
        · obtain ⟨t, ht, ⟨⟨hframe, hregions⟩, hchans⟩, hstop⟩ := reply_dmaTimeout (c := c) howner haside hfl
          exact ⟨t, htimeout.trans (congrArg _ ht), ⟨hframe, hregions, hchans⟩, hstop⟩

end Sys2Proof.Proofs
end

section
/-! PROOFS. SWITCH of a codebook bank, and what each slice makes of it (R77, R78, R218). -/

namespace Sys2Proof.Machine

variable {s u : State} {n w i : Nat} {sl : Slice} {side : Side} {no : Bool}

/-! ## A slice meets a switch -/

/-- A slice that keeps the new side of a bank for its open emission. -/
def Slice.keepsSide (n : Nat) (sl : Slice) : Prop := ∃ w e, sl.winOf n = some w ∧ sl.inReset = false ∧ sl.lost = false ∧
  (sl.win w).loaded = true ∧ sl.em = some e ∧ e.fmt.bank = n

theorem sliceMeets_away (h : sl.winOf n = none) : sliceMeets sl n side no = (sl, false) := by
  unfold sliceMeets
  simp only [h]

theorem sliceMeets_reloads (hw : sl.winOf n = some w) (h : sl.inReset = true ∨ sl.lost = true ∨ (sl.win w).loaded = false) :
    sliceMeets sl n side no = ({ sl with wins := modAt sl.wins w (fun x => { x with loaded := false }) }, false) := by
  unfold sliceMeets
  simp only [hw]
  exact if_pos (by simpa [or_assoc] using h)

theorem sliceMeets_keeps (hw : sl.winOf n = some w) (h : sl.keepsSide n) :
    sliceMeets sl n side no = ({ sl with wins := modAt sl.wins w (fun x => { x with next := some side }) }, true) := by
  obtain ⟨w', e, hw', hreset, hlost, hloaded, hem, hbank⟩ := h
  cases hw.symm.trans hw'
  unfold sliceMeets
  simp only [hw]
  rw [if_neg (by simp [hreset, hlost, hloaded])]
  simp only [hem]
  exact if_pos (by simp [hbank])

theorem sliceMeets_takes (hw : sl.winOf n = some w) (hreset : sl.inReset = false) (hlost : sl.lost = false) (hloaded : (sl.win w).loaded = true)
    (h : ¬ sl.keepsSide n) : sliceMeets sl n side no =
      ({ sl with wins := modAt sl.wins w (fun x => { x with sideNo := no, side := side, next := none }) }, false) := by
  unfold sliceMeets
  simp only [hw]
  rw [if_neg (by simp [hreset, hlost, hloaded])]
  cases hem : sl.em with
  | none => rfl
  | some e => exact if_neg fun hbank => h ⟨w, e, hw, hreset, hlost, hloaded, hem, by simpa using hbank⟩

/-- The slices that a switch waits for are those that keep the new side. -/
theorem sliceMeets_late : (sliceMeets sl n side no).2 = true ↔ sl.keepsSide n := by
  constructor
  · intro hlate
    by_contra hkeeps
    cases hw : sl.winOf n with
    | none => rw [sliceMeets_away hw] at hlate; cases hlate
    | some w =>
      by_cases h : sl.inReset = true ∨ sl.lost = true ∨ (sl.win w).loaded = false
      · rw [sliceMeets_reloads hw h] at hlate; cases hlate
      · simp only [not_or, Bool.not_eq_true, Bool.not_eq_false] at h
        obtain ⟨hreset, hlost, hloaded⟩ := h
        rw [sliceMeets_takes hw hreset hlost hloaded hkeeps] at hlate; cases hlate
  · intro hkeeps
    obtain ⟨w, e, hw, hrest⟩ := id hkeeps
    rw [sliceMeets_keeps hw hkeeps]

theorem mem_lateSlices {c : Consumer} : c ∈ lateSlices n s ↔ ∃ i sl, s.slices[i]? = some sl ∧ sl.keepsSide n ∧ c = .slice i := by
  simp only [lateSlices, slicesMet, List.mem_map, List.mem_filter, List.mem_zipIdx_iff_getElem?, List.getElem?_map, Option.map_eq_some_iff]
  constructor
  · rintro ⟨⟨m, i⟩, ⟨⟨sl, hsl, rfl⟩, hlate⟩, rfl⟩
    exact ⟨i, sl, hsl, sliceMeets_late.1 hlate, rfl⟩
  · rintro ⟨i, sl, hsl, hkeeps, rfl⟩
    exact ⟨(_, i), ⟨⟨sl, hsl, rfl⟩, sliceMeets_late.2 hkeeps⟩, rfl⟩

theorem lateSlices_none (h : ∀ sl ∈ s.slices, ¬ sl.keepsSide n) : lateSlices n s = [] := by
  refine List.eq_nil_iff_forall_not_mem.2 fun c hc => ?_
  obtain ⟨i, sl, hsl, hkeeps, -⟩ := mem_lateSlices.1 hc
  exact h sl (List.mem_of_getElem? hsl) hkeeps

/-! ## SWITCH -/

theorem runActs_switch {after : Bool} (h : (bank s n).state = .valid) :
    runActs n [.switch] after s = modBank n (fun b => { b with todo := [] }) (switchStart n none s) := by
  rw [runActs]
  rw [if_pos (by simp [h]), runActs]

/-- SWITCH in another state than VALID sets SEQ_ERR alone. -/
theorem runActs_switch_ignored (h : (bank s n).state ≠ .valid) :
    runActs n [.switch] false s = modBank n (fun b => { b with seqErr := true, todo := [] }) s := by
  rw [runActs]
  rw [if_neg (by simpa using h), if_neg (by simp), runActs, modBank_modBank]

/-- The last consumer of a switch that no node started and none waits for. -/
theorem switchDone_alone (hn : n < s.banks.length) (hnode : (bank s n).node = none) (hwaits : (bank s n).waits = []) :
    switchDone n s = modBank n Bank.switched s := by
  have hwaits' : (bank (modBank n (fun b => { b with live := !b.live, gen := (b.gen + 1) % 256, state := .opn, flip := [], node := none }) s) n).waits = [] := by
    rw [bank_modBank_same hn]
    exact hwaits
  unfold switchDone bankTurnAway
  simp only [hnode, hwaits']
  exact modBank_modBank ..

/-- A bank whose switch waits for some consumers, or has ended where it waits for none. -/
def Bank.met (flip : List Consumer) (b : Bank) : Bank :=
  if flip = [] then { ({ b with state := .switching, flip := flip, node := none, waits := [] } : Bank).switched with todo := [] }
  else { b with state := .switching, flip := flip, node := none, waits := [], todo := [] }

/-- What SWITCH leaves: the slices have met the new side, and the switch has ended or waits for those consumers that are left. -/
def switchLeft (n : Nat) (s : State) : State :=
  modBank n (Bank.met (busyCores s ++ lateSlices n s)) { s with slices := (slicesMet n s).map (·.1) }

theorem switchStart_left (hn : n < s.banks.length) : modBank n (fun b => { b with todo := [] }) (switchStart n none s) = switchLeft n s := by
  have hbegun := bank_switchBegun hn none
  have hlen : n < (switchBegun n none s).banks.length := (List.length_modify ..).trans_gt hn
  have hmet : Bank.met (busyCores s ++ lateSlices n s) = fun b =>
      if busyCores s ++ lateSlices n s = [] then
        { ({ b with state := .switching, flip := busyCores s ++ lateSlices n s, node := none, waits := [] } : Bank).switched with todo := [] }
      else { b with state := .switching, flip := busyCores s ++ lateSlices n s, node := none, waits := [], todo := [] } := rfl
  rw [switchStart_eq, switchLeft, hmet]
  by_cases h : busyCores s ++ lateSlices n s = []
  · rw [if_pos h, switchDone_alone hlen (by rw [hbegun]) (by rw [hbegun]), switchBegun, modBank_modBank, modBank_modBank]
    simp only [if_pos h]
  · rw [if_neg h, switchBegun, modBank_modBank]
    simp only [if_neg h]

theorem liftSlice_switchLeft (h : s.slices[i]? = some sl) :
    liftSlice (switchLeft n s) i = (sliceMeets sl n ((bank s n).side (!(bank s n).live)) (!(bank s n).live)).1 := by
  show ((slicesMet n s).map (·.1)).getD i Slice.reset = _
  rw [List.getD_eq_getElem?_getD, List.getElem?_map, slicesMet, List.getElem?_map, h]
  rfl

theorem bank_switchLeft (hn : n < s.banks.length) : bank (switchLeft n s) n = (bank s n).met (busyCores s ++ lateSlices n s) :=
  bank_modBank_same (s := { s with slices := (slicesMet n s).map (·.1) }) hn

theorem bank_switchLeft_other {m : Nat} (h : m ≠ n) : bank (switchLeft n s) m = bank s m :=
  bank_modBank_other (s := { s with slices := (slicesMet n s).map (·.1) }) h

section Switch
variable {p : BitVec 4} (hrun : s.rst = .run) (hn : n < 16) (hlen : n < s.banks.length) (hheld : bankHeld s n = false)
  (hwedged : (bank s n).wedged = false)
include hrun hn hlen hheld hwedged

/-- SWITCH of a bank that is free, once PRESET_ID has been stored. -/
theorem exec_cbSwitch_free (hfree : cbFree (bank s n) = true) : exec (.cbSwitch n p none) s =
    .next (runActs n [.switch] false (modBank n (fun b => b.asked p) (emit (.cpAck false) s))) := by
  refine (inRun_of_run hrun).trans ((if_pos hn).trans (congrArg Host.Outcome.next ?_))
  exact cbCtrlWrite_free (s := emit (.cpAck false) s) (load := false) (commit := false) (switch := true) hheld hwedged hlen (by simp [actsOf]) hfree

theorem exec_cbSwitch_busy (hbusy : cbFree (bank s n) = false) : exec (.cbSwitch n p none) s =
    .next (modBank n (fun b => { b with presetId := p.toNat, seqErr := true }) (emit (.cpAck false) s)) := by
  refine (inRun_of_run hrun).trans ((if_pos hn).trans (congrArg Host.Outcome.next ?_))
  exact cbCtrlWrite_busy (s := emit (.cpAck false) s) (load := false) (commit := false) (switch := true) hheld hwedged hlen (by simp [actsOf]) hbusy

theorem exec_cbSwitch_valid (hstate : (bank s n).state = .valid) : exec (.cbSwitch n p none) s =
    .next (switchLeft n (modBank n (fun b => b.asked p) (emit (.cpAck false) s))) := by
  have hbank : bank (modBank n (fun b => b.asked p) (emit (.cpAck false) s)) n = (bank s n).asked p := bank_modBank_same (by exact hlen)
  have hlen' : n < (modBank n (fun b => b.asked p) (emit (.cpAck false) s)).banks.length := (List.length_modify ..).trans_gt hlen
  rw [exec_cbSwitch_free hrun hn hlen hheld hwedged (cbFree_iff.2 (.inr (.inl hstate))), runActs_switch (by rw [hbank]; exact hstate),
    switchStart_left hlen']

theorem exec_cbSwitch_ignored (hstate : (bank s n).state = .opn ∨ (bank s n).state = .rejected) : exec (.cbSwitch n p none) s =
    .next (modBank n (fun b => { b with presetId := p.toNat, user := .sw, seqErr := true, todo := [] }) (emit (.cpAck false) s)) := by
  have hbank : bank (modBank n (fun b => b.asked p) (emit (.cpAck false) s)) n = (bank s n).asked p := bank_modBank_same (by exact hlen)
  have hvalid : (bank (modBank n (fun b => b.asked p) (emit (.cpAck false) s)) n).state ≠ .valid := by
    rw [hbank]
    rcases hstate with h | h <;> simp [Bank.asked, h]
  rw [exec_cbSwitch_free hrun hn hlen hheld hwedged (cbFree_iff.2 (hstate.imp_right .inr)), runActs_switch_ignored hvalid, modBank_modBank]
  rfl

end Switch

end Sys2Proof.Machine
end

section
/-! PROOFS. A beat whose furrows find their scale bytes is lifted, and a pending side comes into use with the first of them (R208 to R218). -/

namespace Sys2Proof.Machine

variable {x y : LiftRun} {sl : Slice} {n w k sb : Nat} {sd : Side} {em : Emission} {b : BufBeat} {byte : Nat → Nat}

/-! ## A pending side comes into use -/

/-- A window that takes its pending side into use. -/
def Window.flipped (sd : Side) (y : Window) : Window := { y with sideNo := !y.sideNo, side := sd, next := none }

theorem flipWin_pending (hw : x.sl.winOf n = some w) (hnext : (x.sl.win w).next = some sd) : flipWin n x =
    ⟨{ x.sl with wins := modAt x.sl.wins w (Window.flipped sd) }, { x.eff with flips := x.eff.flips ++ [n] }⟩ := by
  unfold flipWin
  simp only [hw, hnext]
  rfl

theorem flipWin_none (hw : x.sl.winOf n = some w) (hnext : (x.sl.win w).next = none) : flipWin n x = x := by
  unfold flipWin
  simp only [hw, hnext]

theorem win_built (hnext : (sl.win w).next = some sd) : w < sl.wins.length := by
  by_contra hlen
  rw [Slice.win, List.getD_eq_default _ _ (Nat.not_lt.1 hlen)] at hnext
  cases hnext

theorem win_modAt {wins : List Window} {f : Window → Window} (h : w < wins.length) : (modAt wins w f).getD w Window.reset = f (wins.getD w Window.reset) := by
  rw [getD_modAt, if_pos ⟨rfl, h⟩]

/-- A window that has no side pending stays as it is. -/
theorem flipWin_win (a : Nat) (h : (x.sl.win w).next = none) : (flipWin a x).sl.win w = x.sl.win w := by
  unfold flipWin
  split
  · rfl
  · next v hv =>
    split
    · rfl
    · next sd hsd =>
      have hne : v ≠ w := by
        rintro rfl
        rw [h] at hsd
        cases hsd
      show (modAt x.sl.wins v _).getD w Window.reset = _
      rw [getD_modAt, if_neg fun h => hne h.1]
      rfl

theorem flipAll_win (h : (x.sl.win w).next = none) : (flipAll x).sl.win w = x.sl.win w := by
  unfold flipAll
  generalize List.range 4 = l
  induction l generalizing x with
  | nil => rfl
  | cons a l ih =>
    have hkept := flipWin_win (x.sl.bank a) h
    rw [List.foldl_cons, ih (by rw [hkept]; exact h), hkept]

/-- What follows the last beat of an emission leaves such a window, and the output pipeline, as they are. -/
theorem close_spec (last : Bool) (h : (x.sl.win w).next = none) : ∃ z flips, (if last then endEmission x else x) = z ∧
    z.sl.win w = x.sl.win w ∧ z.sl.out = x.sl.out ∧ z.eff = { x.eff with flips := x.eff.flips ++ flips } := by
  have hsame : x.eff = { x.eff with flips := x.eff.flips ++ [] } := by rw [List.append_nil]
  cases last with
  | false => exact ⟨x, [], rfl, rfl, rfl, hsame⟩
  | true =>
    cases hem : x.sl.em with
    | none =>
      refine ⟨x, [], ?_, rfl, rfl, hsame⟩
      rw [if_pos rfl, endEmission]
      simp only [hem]
    | some em =>
      obtain ⟨wins, flips, hflip, -⟩ := flipAll_exists ⟨{ x.sl with em := none, emitCnt := cntMod x.sl.emitCnt 1 }, x.eff⟩
      have hwin := flipAll_win (x := ⟨{ x.sl with em := none, emitCnt := cntMod x.sl.emitCnt 1 }, x.eff⟩) (w := w) h
      refine ⟨_, flips, ?_, hwin, ?_, ?_⟩
      · rw [if_pos rfl, endEmission]
        simp only [hem]
      · rw [hflip]
      · rw [hflip]

/-! ## A furrow that finds its scale byte -/

/-- Where a furrow finds its scale byte: none is needed under NONE, else it is in a line. -/
def lookFor (f : Nat) (em : Emission) (x : LiftRun) : LiftRun × Found × Nat :=
  if em.fmt.mode = .unscaled then (flipNone em.fmt x, Found.byte 0, 0) else scaleFor f x

/-- The lanes of a furrow. -/
def furrowLanes (sd : Side) (em : Emission) (b : CodeBeat) (g sb : Nat) : List (BitVec 20) :=
  (beatCodes sd.width em.fmt.furrow b g).map (liftLane sd em.fmt.mode sb false)

/-- The lanes of furrow `g` join those of the beat. -/
def laneDone (g : Nat) (lanes : List (BitVec 20)) (k : Nat) (x : LiftRun) : LiftRun :=
  let sl := if lanes.any (· == l20Poison) then x.sl.poisoned 1 else x.sl
  { x with sl := { sl with part := { sl.part with
    lanes := sl.part.lanes ++ lanes, done := g + 1, k := max sl.part.k k, waitFrom := none } } }

theorem laneDone_eq (g : Nat) (lanes : List (BitVec 20)) (k : Nat) (x : LiftRun) : ∃ cnt part, laneDone g lanes k x =
    ⟨{ x.sl with poisonCnt := cnt, part := part }, x.eff⟩ ∧ part.lanes = x.sl.part.lanes ++ lanes ∧ part.done = g + 1 := by
  unfold laneDone
  dsimp only
  split
  · exact ⟨cntSat x.sl.poisonCnt 1, _, rfl, rfl, rfl⟩
  · exact ⟨x.sl.poisonCnt, _, rfl, rfl, rfl⟩

theorem liftFurrows_byte {em' : Emission} (fuel : Nat) (hem : x.sl.em = some em) (hrefused : em.refused = false)
    (hdone : x.sl.part.done < b.beat.nfur) (hue : b.beat.ue = false) (hlook : lookFor (b.beat.fidx + x.sl.part.done) em x = (y, .byte sb, k))
    (hem' : y.sl.em = some em') (hfmt : em'.fmt = em.fmt) (hside : furrowSide y.sl em' = sd) :
    liftFurrows b (fuel + 1) x = liftFurrows b fuel (laneDone x.sl.part.done (furrowLanes sd em b.beat x.sl.part.done sb) k y) := by
  rw [liftFurrows]
  simp only [hem]
  rw [if_neg (Nat.not_le.2 hdone), if_neg (by simp [hrefused])]
  rw [show (if em.fmt.mode = .unscaled then (flipNone em.fmt x, Found.byte 0, 0) else scaleFor (b.beat.fidx + x.sl.part.done) x) = (y, .byte sb, k)
    from hlook]
  simp only [hem', Option.getD_some, hside, hue, hfmt, Bool.false_eq_true, if_false]
  rfl

/-- Once every furrow has been lifted the beat is finished. -/
theorem liftFurrows_end (fuel : Nat) (hem : x.sl.em = some em) (hdone : b.beat.nfur ≤ x.sl.part.done) : liftFurrows b fuel x = (x, true) := by
  cases fuel with
  | zero => rfl
  | succ fuel =>
    rw [liftFurrows]
    simp only [hem]
    rw [if_pos hdone]

/-! ## The furrows after the first -/

/-- An emission whose furrows of a beat find their bytes without changing anything: under NONE a side is in use and none is pending; else
the line held covers them all. -/
structure Settled (b : CodeBeat) (sd : Side) (byte : Nat → Nat) (em : Emission) (sl : Slice) : Prop where
  opened : sl.em = some em
  refused : em.refused = false
  look : (em.fmt.mode = .unscaled ∧ (∀ g, byte g = 0) ∧ ∃ w, sl.winOf em.fmt.bank = some w ∧ (sl.win w).next = none ∧ (sl.win w).side = sd) ∨
    (em.fmt.mode ≠ .unscaled ∧ ∃ c, em.cur = some c ∧ c.bad = false ∧ c.side = sd ∧
      ∀ g, g < b.nfur → c.first = 56 * ((b.fidx + g) / 56) ∧ byte g = c.bytes.getD (b.fidx + g - c.first) 0)

theorem Settled.lookFor {g : Nat} (h : Settled b.beat sd byte em x.sl) (hg : g < b.beat.nfur) :
    lookFor (b.beat.fidx + g) em x = (x, .byte (byte g), 0) := by
  unfold Machine.lookFor
  rcases h.look with ⟨hmode, hbyte, w, hw, hnext, -⟩ | ⟨hmode, c, hcur, hbad, -, hcover⟩
  · have hflip : flipNone em.fmt x = x := by
      unfold flipNone
      rw [flipWin_none hw hnext]
      split <;> rfl
    rw [if_pos hmode, hflip, hbyte]
  · obtain ⟨hfirst, hbyte⟩ := hcover g hg
    rw [if_neg hmode, scaleFor]
    simp only [h.opened, Option.bind_some, hcur, hbad, if_pos hfirst]
    rw [hbyte, hfirst]
    rfl

theorem Settled.side (h : Settled b.beat sd byte em sl) : furrowSide sl em = sd := by
  unfold furrowSide
  rcases h.look with ⟨hmode, -, w, hw, hnext, hside⟩ | ⟨hmode, c, hcur, -, hside, -⟩
  · simp only [hmode, nextSide, hw, hnext]
    exact hside
  · rw [hcur]
    cases hm : em.fmt.mode with
    | unscaled => exact absurd hm hmode
    | ue5m3 => exact hside
    | e8m0 => exact hside

/-- The furrows of such an emission are lifted one after the other. -/
theorem Settled.liftFurrows (hue : b.beat.ue = false) (fuel m : Nat) : ∀ {x : LiftRun}, Settled b.beat sd byte em x.sl → x.sl.part.done + m = b.beat.nfur →
    ∃ cnt part, liftFurrows b (m + fuel) x = (⟨{ x.sl with poisonCnt := cnt, part := part }, x.eff⟩, true) ∧
      part.lanes = x.sl.part.lanes ++ (List.range' x.sl.part.done m).flatMap (fun g => furrowLanes sd em b.beat g (byte g)) := by
  induction m with
  | zero =>
    intro x h hm
    exact ⟨x.sl.poisonCnt, x.sl.part, liftFurrows_end _ h.opened (by omega), by simp⟩
  | succ m ih =>
    intro x h hm
    have hdone : x.sl.part.done < b.beat.nfur := by omega
    obtain ⟨cnt, part, hlane, hlanes, hnext⟩ := laneDone_eq x.sl.part.done (furrowLanes sd em b.beat x.sl.part.done (byte x.sl.part.done)) 0 x
    have hsettled : Settled b.beat sd byte em (laneDone x.sl.part.done (furrowLanes sd em b.beat x.sl.part.done (byte x.sl.part.done)) 0 x).sl := by
      rw [hlane]
      exact ⟨h.opened, h.refused, h.look⟩
    have hpart : (laneDone x.sl.part.done (furrowLanes sd em b.beat x.sl.part.done (byte x.sl.part.done)) 0 x).sl.part = part := by rw [hlane]
    obtain ⟨cnt', part', hrest, hlanes'⟩ := ih hsettled (by rw [hpart, hnext]; omega)
    refine ⟨cnt', part', ?_, ?_⟩
    · rw [Nat.add_right_comm, liftFurrows_byte (m + fuel) h.opened h.refused hdone hue (h.lookFor hdone) h.opened rfl h.side, hrest, hlane]
    · rw [hlanes', hpart, hnext, hlanes, List.range'_succ, List.flatMap_cons, List.append_assoc]

end Sys2Proof.Machine
end

section
/-! PROOFS. The switch of a codebook bank, and its consumers (R78, R218). -/

namespace Sys2Proof.Machine

variable {x y z : LiftRun} {n w i k : Nat} {sd : Side} {em em' : Emission} {b : BufBeat} {byte : Nat → Nat} {s v : State}

/-! ## The first furrow takes the pending side into use -/

/-- The slice once the pending side of a bank is in use. -/
def sideTaken (n w : Nat) (sd : Side) (x : LiftRun) : LiftRun :=
  ⟨{ x.sl with wins := modAt x.sl.wins w (Window.flipped sd) }, { x.eff with flips := x.eff.flips ++ [n] }⟩

theorem sideTaken_win (hnext : (x.sl.win w).next = some sd) : (sideTaken n w sd x).sl.win w = (x.sl.win w).flipped sd :=
  win_modAt (win_built hnext)

theorem takeLine_pending {h : LiftLine} (need : Nat) (bad : Bool) (hem : x.sl.em = some em) (hw : x.sl.winOf n = some w)
    (hnext : (x.sl.win w).next = some sd) : takeLine h need bad n x =
      ⟨{ (sideTaken n w sd x).sl with
        lines := x.sl.lines.drop 1, em := some { em with cur := some ⟨need, h.scales, bad, h.tag, sd⟩ } }, (sideTaken n w sd x).eff⟩ := by
  have hflip : flipWin n { x with sl := { x.sl with lines := x.sl.lines.drop 1 } } =
      sideTaken n w sd { x with sl := { x.sl with lines := x.sl.lines.drop 1 } } := flipWin_pending hw hnext
  have hside : (nextSide (sideTaken n w sd { x with sl := { x.sl with lines := x.sl.lines.drop 1 } }).sl n).1 = sd := by
    have hw' : (sideTaken n w sd { x with sl := { x.sl with lines := x.sl.lines.drop 1 } }).sl.winOf n = some w := hw
    have hwin : (sideTaken n w sd { x with sl := { x.sl with lines := x.sl.lines.drop 1 } }).sl.win w = (x.sl.win w).flipped sd :=
      sideTaken_win hnext
    simp only [nextSide, hw', hwin, Window.flipped]
  unfold takeLine
  rw [hflip]
  dsimp only
  rw [hside]
  show LiftRun.mk { (sideTaken n w sd x).sl with lines := x.sl.lines.drop 1, em := x.sl.em.map _ } _ = _
  rw [hem]
  rfl

section First
variable (hem : x.sl.em = some em) (hw : x.sl.winOf em.fmt.bank = some w) (hnext : (x.sl.win w).next = some sd)
include hem hw hnext

/-- Under NONE a furrow that starts takes the pending side into use. -/
theorem lookFor_none (f : Nat) (hrefused : em.refused = false) (hcode : em.fmt.scaleCode = 0) :
    lookFor f em x = (sideTaken em.fmt.bank w sd x, .byte 0, 0) ∧ Settled b.beat sd (fun _ => 0) em (sideTaken em.fmt.bank w sd x).sl := by
  have hmode : em.fmt.mode = .unscaled := by simp [FmtWord.mode, hcode]
  have hwin := sideTaken_win (n := em.fmt.bank) hnext
  refine ⟨?_, ⟨hem, hrefused, .inl ⟨hmode, fun _ => rfl, w, hw, ?_, ?_⟩⟩⟩
  · rw [lookFor, if_pos hmode, flipNone, if_pos hcode, flipWin_pending hw hnext]
    rfl
  · rw [hwin]
    rfl
  · rw [hwin]
    rfl

/-- The emission once it holds a line. -/
def Emission.holding (need : Nat) (h : LiftLine) (sd : Side) (em : Emission) : Emission :=
  { em with tookFirst := true, cur := some ⟨need, h.scales, false, h.tag, sd⟩ }

/-- The slice once the head line has been taken, and the pending side with it. -/
def lineTaken (need w : Nat) (sd : Side) (h : LiftLine) (em : Emission) (x : LiftRun) : LiftRun :=
  ⟨{ (sideTaken em.fmt.bank w sd x).sl with lines := x.sl.lines.drop 1, em := some (em.holding need h sd) },
    (sideTaken em.fmt.bank w sd x).eff⟩

/-- A scale line that fits is taken, and the pending side comes into use with it. -/
theorem lookFor_line {f : Nat} {h : LiftLine} (hmode : em.fmt.mode ≠ .unscaled) (hcur : ∀ c, em.cur = some c → c.first ≠ 56 * (f / 56))
    (hlines : x.sl.lines = [h]) (hfirst : h.first = !em.tookFirst) (hue : h.ue = false) (htag : h.tag = em.tag)
    (hfurrow : h.furrow = 56 * (f / 56)) (hcheck : lineCheck h.raw em.fmt.bank (b2n (!(x.sl.win w).sideNo)) = fld h.raw 6 2) : ∃ k,
    lookFor f em x = (lineTaken (56 * (f / 56)) w sd h em x, .byte (h.scales.getD (f - 56 * (f / 56)) 0), k) := by
  have hsearch : scaleFor f x = searchLine f (56 * (f / 56)) 4 0 x := by
    unfold scaleFor
    simp only [hem, Option.bind_some]
    cases hc : em.cur with
    | none => rfl
    | some c => exact if_neg (hcur c hc)
  have hnextSide : nextSide x.sl em.fmt.bank = (sd, !(x.sl.win w).sideNo) := by simp only [nextSide, hw, hnext]
  have hgood : (h.tag != em.tag || h.furrow % 56 != 0 || lineCheck h.raw em.fmt.bank (b2n (!(x.sl.win w).sideNo)) != fld h.raw 6 2) = false := by
    simp [htag, hfurrow, hcheck]
  have htake := takeLine_pending (x := ⟨{ x.sl with em := some { em with tookFirst := true } }, x.eff⟩) (h := h) (56 * (f / 56)) false rfl hw hnext
  rw [lookFor, if_neg hmode, hsearch, searchLine]
  simp only [hem, hlines]
  rw [← hlines, if_neg (by simp [hfirst]), if_neg (by simp [hfirst]), if_neg (by simp [hue])]
  have hside : nextSide { x.sl with em := some { em with tookFirst := true } } em.fmt.bank = (sd, !(x.sl.win w).sideNo) := hnextSide
  rw [hside, if_neg (by rw [hgood]; simp), if_neg (by rw [hfurrow]; exact lt_irrefl _), if_neg (by rw [hfurrow]; exact lt_irrefl _), htake]
  exact ⟨_, rfl⟩

omit hem hw hnext in
/-- The line held covers every furrow of a beat that does not pass its end. -/
theorem lineTaken_settled {c : CodeBeat} {h : LiftLine} (hmode : em.fmt.mode ≠ .unscaled) (hrefused : em.refused = false)
    (hcover : c.fidx % 56 + c.nfur ≤ 56) : Settled c sd (fun g => h.scales.getD (c.fidx + g - 56 * (c.fidx / 56)) 0)
      (em.holding (56 * (c.fidx / 56)) h sd) (lineTaken (56 * (c.fidx / 56)) w sd h em x).sl :=
  ⟨rfl, hrefused, .inr ⟨hmode, _, rfl, rfl, rfl, fun g hg => ⟨by show 56 * (c.fidx / 56) = _; omega, rfl⟩⟩⟩

end First

/-! ## The beat goes to the output -/

/-- The lanes of a beat, padded. -/
def beatLanes (sd : Side) (em : Emission) (byte : Nat → Nat) (c : CodeBeat) : List (BitVec 20) :=
  let l := (List.range c.nfur).flatMap (fun g => furrowLanes sd em c g (byte g))
  l ++ List.replicate (64 - l.length) 0

/-- A beat of an emission whose first furrow settles where the others find their bytes. -/
structure Begins (b : BufBeat) (sd : Side) (byte : Nat → Nat) (em em' : Emission) (x y : LiftRun) : Prop where
  opened : x.sl.em = some em
  refused : em.refused = false
  going : b.beat.opn = false ∨ x.sl.part.waitFrom.isSome = true
  sound : b.beat.ue = false
  furrows : b.beat.nfur ≠ 0 ∧ b.beat.nfur ≤ 64 / em.fmt.furrow
  ahead : em.endF ≤ b.beat.fidx
  fresh : x.sl.part.lanes = [] ∧ x.sl.part.done = 0
  look : ∃ k, lookFor b.beat.fidx em x = (y, .byte (byte 0), k)
  settled : Settled b.beat sd byte em' y.sl
  format : em'.fmt = em.fmt
  kept : y.sl.part = x.sl.part

theorem Begins.liftFurrows (h : Begins b sd byte em em' x y) : ∃ cnt part, Machine.liftFurrows b (b.beat.nfur + 1) x =
    (⟨{ y.sl with poisonCnt := cnt, part := part }, y.eff⟩, true) ∧
    part.lanes = (List.range b.beat.nfur).flatMap (fun g => furrowLanes sd em b.beat g (byte g)) := by
  obtain ⟨k, hlook⟩ := h.look
  obtain ⟨hnone, hdone⟩ := h.fresh
  obtain ⟨hn, -⟩ := h.furrows
  have hlanesFmt (g : Nat) : furrowLanes sd em' b.beat g (byte g) = furrowLanes sd em b.beat g (byte g) := by
    rw [furrowLanes, furrowLanes, h.format]
  obtain ⟨m, hm⟩ := Nat.exists_eq_succ_of_ne_zero hn
  have hfirst := liftFurrows_byte (b := b) (b.beat.nfur) h.opened h.refused (by omega) h.sound (by rw [hdone]; exact hlook) h.settled.opened h.format
    h.settled.side
  rw [hdone] at hfirst
  obtain ⟨cnt, part, hlane, hlanes, hnext⟩ := laneDone_eq 0 (furrowLanes sd em b.beat 0 (byte 0)) k y
  have hsettled : Settled b.beat sd byte em' (laneDone 0 (furrowLanes sd em b.beat 0 (byte 0)) k y).sl := by
    rw [hlane]
    exact ⟨h.settled.opened, h.settled.refused, h.settled.look⟩
  have hpart : (laneDone 0 (furrowLanes sd em b.beat 0 (byte 0)) k y).sl.part = part := by rw [hlane]
  obtain ⟨cnt', part', hrest, hlanes'⟩ := hsettled.liftFurrows h.sound 1 m (by rw [hpart, hnext]; omega)
  refine ⟨cnt', part', ?_, ?_⟩
  · rw [hfirst, hm, Nat.succ_eq_add_one, hrest, hlane]
  · rw [hlanes', hpart, hnext, hlanes, h.kept, hnone, hm, List.range_eq_range', List.range'_succ, List.flatMap_cons, List.nil_append]
    simp only [hlanesFmt]

theorem liftBeat1_begins (h : Begins b sd byte em em' x y) (hnext : (y.sl.win w).next = none) : ∃ z flips o, liftBeat1 b x = (z, true) ∧
    z.sl.win w = y.sl.win w ∧ z.sl.out = y.sl.out ++ [o] ∧ o.lanes = beatLanes sd em byte b.beat ∧
    z.eff = { y.eff with flips := y.eff.flips ++ flips } := by
  obtain ⟨cnt, part, hlift, hlanes⟩ := h.liftFurrows
  have hopn : (b.beat.opn && decide (x.sl.part.done = 0) && x.sl.part.waitFrom.isNone) = false := by
    rcases h.going with h | h
    · simp [h]
    · simp [Option.isNone_eq_false_iff.2 h]
  obtain ⟨hn, hroom⟩ := h.furrows
  have hbeat : ∃ u : LiftRun, liftBeat1 b x = (if b.beat.last then endEmission u else u, true) ∧ u.eff = y.eff ∧ u.sl.wins = y.sl.wins ∧
      ∃ o, u.sl.out = y.sl.out ++ [o] ∧ o.lanes = beatLanes sd em byte b.beat := by
    unfold liftBeat1
    simp only [hopn, h.opened, Bool.false_eq_true, if_false]
    rw [if_neg (by simp [hn]; exact hroom), if_neg (Nat.not_lt.2 h.ahead), hlift]
    refine ⟨_, rfl, rfl, rfl, _, rfl, ?_⟩
    rw [beatLanes, ← hlanes]
  obtain ⟨u, hu, heff, hwins, o, hout, hbeatLanes⟩ := hbeat
  have hwin : u.sl.win w = y.sl.win w := by rw [Slice.win, hwins]; rfl
  obtain ⟨z, flips, hz, hzwin, hzout, hzeff⟩ := close_spec (x := u) (w := w) b.beat.last (by rw [hwin]; exact hnext)
  refine ⟨z, flips, o, by rw [hu, hz], hzwin.trans hwin, hzout.trans hout, hbeatLanes, by rw [hzeff, heff]⟩

/-- The beat in front leaves the code buffer empty. -/
theorem liftWork_one (hbeats : x.sl.beats = [b]) (hue : b.beat.ue = false) (h : liftBeat1 b x = (z, true)) :
    liftWork 5 x = ⟨{ z.sl with beats := [] }, z.eff⟩ := by
  rw [liftWork]
  simp only [hbeats, h, if_true, hue]
  rw [liftWork]
  rfl

/-- A slice that lifts its only beat, and the banks whose switch then counts it off. -/
theorem liftRun_begins (hi : i < v.slices.length) (hbeats : (liftSlice v i).beats = [b]) (h : Begins b sd byte em em' ⟨liftSlice v i, ⟨[], [], 0⟩⟩ y)
    (hnext : (y.sl.win w).next = none) (heff : y.eff = ⟨[n], [], 0⟩) : let t := liftRun i v
    (liftSlice t i).win w = y.sl.win w ∧ bank t n = (bank v n).counted (.slice i) ∧
    ∃ o, (liftSlice t i).out = y.sl.out ++ [o] ∧ o.lanes = beatLanes sd em byte b.beat := by
  obtain ⟨z, flips, o, hbeat, hwin, hout, hlanes, hzeff⟩ := liftBeat1_begins h hnext
  have hwork := liftWork_one (x := ⟨liftSlice v i, ⟨[], [], 0⟩⟩) hbeats h.sound hbeat
  have hrun : liftRun i v = cbFlips (.slice i) ([n] ++ flips) (modSlice i (fun _ => { z.sl with beats := [] }) v) := by
    rw [liftRun, hwork, hzeff, heff]
    exact liftCommit_flips _ _ v
  have hslice : liftSlice (liftRun i v) i = { z.sl with beats := [] } := by
    rw [hrun, cbFlips_frame]
    exact liftSlice_modSlice_same hi
  refine ⟨?_, ?_, o, ?_, hlanes⟩
  · rw [hslice]
    exact hwin
  · rw [hrun, bank_cbFlips, if_pos (by simp)]
    rfl
  · rw [hslice]
    exact hout

/-- The last consumer of a switch ends it. -/
theorem Bank.counted_only {c : Consumer} {a : Bank} (hstate : a.state = .switching) (hflip : a.flip = [c]) :
    (a.counted c).state = .opn ∧ (a.counted c).live = !a.live := by
  rw [Bank.counted_of_last ⟨hstate, by simp [hflip], by simp [hflip]⟩]
  exact ⟨rfl, rfl⟩

/-! ## Beats and lines that come -/

theorem modSlice_congr {f g : Slice → Slice} (h : f (liftSlice s i) = g (liftSlice s i)) : modSlice i f s = modSlice i g s := by
  rw [modSlice_const i f, h, ← modSlice_const]

/-- A slice with a code beat that it has taken. -/
def Slice.beatIn (c : CodeBeat) (sl : Slice) : Slice :=
  let at' := max sl.time (sl.lastBeat + 1)
  { sl with beats := sl.beats ++ [⟨c, at'⟩], time := at', lastBeat := at' }

/-- A slice with a scale line that it has taken. -/
def Slice.lineIn (l : List Byte) (first ue : Bool) (sl : Slice) : Slice :=
  let at' := max sl.time (sl.lastLine + 1)
  { sl with lines := sl.lines ++ [⟨l.take 64 ++ zeros (64 - l.length), first, ue, at'⟩], time := at', lastLine := at' }

theorem exec_liftCodeBeat (hrun : s.rst = .run) (hbuilt : sliceBuilt s i = true) (hready : (liftSlice s i).ready = true)
    (hroom : (liftSlice s i).beats.length < 4) (c : CodeBeat) : exec (.liftCodeBeat i c) s = .next (liftRun i (modSlice i (Slice.beatIn c) s)) := by
  refine (inRun_of_run hrun).trans ((if_neg ?_).trans ?_)
  · simp only [hbuilt, hready, Bool.not_true, Bool.false_or, decide_eq_true_eq]
    omega
  · exact congrArg (fun u => Host.Outcome.next (liftRun i u)) (modSlice_congr rfl)

theorem exec_liftScaleLine (hrun : s.rst = .run) (hbuilt : sliceBuilt s i = true) (hready : (liftSlice s i).ready = true)
    (hroom : (liftSlice s i).lines.length < 2) (l : List Byte) (first ue : Bool) : exec (.liftScaleLine i l first ue) s =
      .next (liftRun i (modSlice i (Slice.lineIn l first ue) s)) := by
  refine (inRun_of_run hrun).trans ((if_neg ?_).trans ?_)
  · simp only [hbuilt, hready, Bool.not_true, Bool.false_or, decide_eq_true_eq]
    exact Nat.not_le.2 hroom
  · exact congrArg (fun u => Host.Outcome.next (liftRun i u)) (modSlice_congr rfl)

/-! ## A slice takes the pending side into use -/

/-- With a beat the slice has taken the pending side of a bank into use: the codes are lifted with it, and the last consumer ends the
switch. -/
def TookSide (s : State) (i w : Nat) (em : Emission) (sd : Side) (c : CodeBeat) (byte : Nat → Nat) (t : State) : Prop :=
  (liftSlice t i).win w = ((liftSlice s i).win w).flipped sd ∧
  ((bank s em.fmt.bank).state = .switching → (bank s em.fmt.bank).flip = [.slice i] →
    (bank t em.fmt.bank).state = .opn ∧ (bank t em.fmt.bank).live = !(bank s em.fmt.bank).live) ∧
  ∃ o, (liftSlice t i).out = (liftSlice s i).out ++ [o] ∧ o.lanes = beatLanes sd em byte c

theorem liftRun_tookSide (hv : v.banks = s.banks) (hi : i < v.slices.length) (hbeats : (liftSlice v i).beats = [b])
    (h : Begins b sd byte em em' ⟨liftSlice v i, ⟨[], [], 0⟩⟩ y) (hwin : y.sl.win w = ((liftSlice s i).win w).flipped sd)
    (hout : y.sl.out = (liftSlice s i).out) (heff : y.eff = ⟨[em.fmt.bank], [], 0⟩) : TookSide s i w em sd b.beat byte (liftRun i v) := by
  obtain ⟨hwin', hcounted, o, hout', hlanes⟩ := liftRun_begins (n := em.fmt.bank) (w := w) hi hbeats h (by rw [hwin]; rfl) heff
  have hbank : bank v em.fmt.bank = bank s em.fmt.bank := by rw [bank, hv]; rfl
  refine ⟨hwin'.trans hwin, fun hstate hflip => ?_, o, by rw [hout', hout], hlanes⟩
  rw [hcounted, hbank]
  exact Bank.counted_only hstate hflip

section Took
variable {c : CodeBeat} (hrun : s.rst = .run) (hbuilt : sliceBuilt s i = true) (hready : (liftSlice s i).ready = true)
  (hem : (liftSlice s i).em = some em) (hw : (liftSlice s i).winOf em.fmt.bank = some w) (hnext : ((liftSlice s i).win w).next = some sd)
  (hrefused : em.refused = false) (hue : c.ue = false) (hfur : c.nfur ≠ 0 ∧ c.nfur ≤ 64 / em.fmt.furrow) (hend : em.endF ≤ c.fidx)
include hrun hbuilt hready hem hw hnext hrefused hue hfur hend

/-- Under NONE the slice takes the side with its next furrow. -/
theorem exec_liftCodeBeat_tookSide (hcode : em.fmt.scaleCode = 0) (hopn : c.opn = false) (hbeats : (liftSlice s i).beats = [])
    (hpart : (liftSlice s i).part = { Partial.empty with prev := (liftSlice s i).part.prev }) :
    ∃ t, exec (.liftCodeBeat i c) s = .next t ∧ TookSide s i w em sd c (fun _ => 0) t := by
  have hi := sliceBuilt_slices hbuilt
  have hin : liftSlice (modSlice i (Slice.beatIn c) s) i = (liftSlice s i).beatIn c := liftSlice_modSlice_same hi
  refine ⟨_, exec_liftCodeBeat hrun hbuilt hready (by rw [hbeats]; decide) c, ?_⟩
  obtain ⟨hlook, hsettled⟩ := lookFor_none (x := ⟨(liftSlice s i).beatIn c, ⟨[], [], 0⟩⟩)
    (b := ⟨c, max (liftSlice s i).time ((liftSlice s i).lastBeat + 1)⟩) hem hw hnext c.fidx hrefused hcode
  refine liftRun_tookSide (b := ⟨c, max (liftSlice s i).time ((liftSlice s i).lastBeat + 1)⟩) (em' := em)
    (y := sideTaken em.fmt.bank w sd ⟨(liftSlice s i).beatIn c, ⟨[], [], 0⟩⟩) rfl ((List.length_modify ..).trans_gt hi) ?_ ?_
    (sideTaken_win (x := ⟨(liftSlice s i).beatIn c, ⟨[], [], 0⟩⟩) hnext) rfl rfl
  · rw [hin, Slice.beatIn, hbeats]
    rfl
  · rw [hin]
    have hpart' : ((liftSlice s i).beatIn c).part = { Partial.empty with prev := (liftSlice s i).part.prev } := hpart
    refine ⟨hem, hrefused, .inl hopn, hue, hfur, hend, ?_, ⟨0, hlook⟩, hsettled, rfl, rfl⟩
    rw [hpart']
    exact ⟨rfl, rfl⟩

/-- With scale lines it takes the side with the next line that it takes. -/
theorem exec_liftScaleLine_tookSide {at' since : Nat} {l : List Byte} (hmode : em.fmt.mode ≠ .unscaled)
    (hbeats : (liftSlice s i).beats = [⟨c, at'⟩]) (hlines : (liftSlice s i).lines = [])
    (hpart : (liftSlice s i).part = { Partial.empty with waitFrom := some since, prev := (liftSlice s i).part.prev })
    (hcur : ∀ cl, em.cur = some cl → cl.first ≠ 56 * (c.fidx / 56)) (hcover : c.fidx % 56 + c.nfur ≤ 56) (hl : l.length = 64) :
    let L : LiftLine := ⟨l, !em.tookFirst, false, max (liftSlice s i).time ((liftSlice s i).lastLine + 1)⟩
    L.tag = em.tag → L.furrow = 56 * (c.fidx / 56) →
    lineCheck l em.fmt.bank (b2n (!((liftSlice s i).win w).sideNo)) = fld l 6 2 →
    ∃ t, exec (.liftScaleLine i l (!em.tookFirst) false) s = .next t ∧
      TookSide s i w em sd c (fun g => L.scales.getD (c.fidx + g - 56 * (c.fidx / 56)) 0) t := by
  intro L htag hfurrow hcheck
  have hi := sliceBuilt_slices hbuilt
  have hin : liftSlice (modSlice i (Slice.lineIn l (!em.tookFirst) false) s) i = (liftSlice s i).lineIn l (!em.tookFirst) false :=
    liftSlice_modSlice_same hi
  have hheld : ((liftSlice s i).lineIn l (!em.tookFirst) false).lines = [L] := by
    rw [Slice.lineIn, hlines, hl, List.take_of_length_le (Nat.le_of_eq hl), Nat.sub_self, show zeros 0 = [] from rfl, List.append_nil]
    rfl
  obtain ⟨k, hlook⟩ := lookFor_line (x := ⟨(liftSlice s i).lineIn l (!em.tookFirst) false, ⟨[], [], 0⟩⟩) (f := c.fidx) (h := L) hem hw hnext hmode
    hcur hheld rfl rfl htag hfurrow hcheck
  have hsettled := lineTaken_settled (x := ⟨(liftSlice s i).lineIn l (!em.tookFirst) false, ⟨[], [], 0⟩⟩) (w := w) (sd := sd) (h := L) hmode
    hrefused hcover
  refine ⟨_, exec_liftScaleLine hrun hbuilt hready (by rw [hlines]; decide) l (!em.tookFirst) false, ?_⟩
  refine liftRun_tookSide (b := ⟨c, at'⟩) (em' := em.holding (56 * (c.fidx / 56)) L sd)
    (y := lineTaken (56 * (c.fidx / 56)) w sd L em ⟨(liftSlice s i).lineIn l (!em.tookFirst) false, ⟨[], [], 0⟩⟩) rfl
    ((List.length_modify ..).trans_gt hi) ?_ ?_ (sideTaken_win (n := em.fmt.bank) (x := ⟨(liftSlice s i).lineIn l (!em.tookFirst) false, ⟨[], [], 0⟩⟩) hnext) rfl rfl
  · rw [hin]
    exact hbeats
  · rw [hin]
    have hpart' : ((liftSlice s i).lineIn l (!em.tookFirst) false).part =
        { Partial.empty with waitFrom := some since, prev := (liftSlice s i).part.prev } := hpart
    refine ⟨hem, hrefused, .inr ?_, hue, hfur, hend, ?_, ⟨k, hlook⟩, hsettled, rfl, rfl⟩
    · rw [hpart']
      rfl
    · rw [hpart']
      exact ⟨rfl, rfl⟩

end Took

/-! ## What SWITCH leaves of its bank -/

/-- A switch that waits for no one has ended. -/
theorem switchLeft_ended (hn : n < v.banks.length) (hbusy : busyCores v = []) (hnone : ∀ sl ∈ v.slices, ¬ sl.keepsSide n) :
    bank (switchLeft n v) n = (bank v n).met [] := by
  rw [bank_switchLeft hn, hbusy, lateSlices_none hnone]
  rfl

/-- A switch that waits for a core or a slice goes on with its live side. -/
theorem switchLeft_waits (hn : n < v.banks.length) (h : busyCores v ++ lateSlices n v ≠ []) : (bank (switchLeft n v) n).state = .switching ∧
    (bank (switchLeft n v) n).live = (bank v n).live ∧ (bank (switchLeft n v) n).gen = (bank v n).gen ∧
    (bank (switchLeft n v) n).flip = busyCores v ++ lateSlices n v := by
  rw [bank_switchLeft hn, Bank.met, if_neg h]
  exact ⟨rfl, rfl, rfl, rfl⟩

theorem busyCores_idle (h : s.swaths = []) : busyCores s = [] := by simp [busyCores, coreBusy, h]

end Sys2Proof.Machine

namespace Sys2Proof.Proofs
open Sys2Proof.Machine

/-- Settles O22. -/
theorem codebookSwitch : Obligations.CodebookSwitch := by
  unfold Obligations.CodebookSwitch
  refine ⟨?_, fun s n p hrun hn hlen hheld hwedged => ?_⟩
  · intro s i n w em sd hrun hbuilt sl hready hw hnext hem hbank hrefused flips b hue hn0 hroom hend
    subst hbank
    exact ⟨fun hcode hopn hbeats hpart => exec_liftCodeBeat_tookSide hrun hbuilt hready hem hw hnext hrefused hue ⟨hn0, hroom⟩ hend hcode hopn
        hbeats hpart,
      fun at' since l hmode hbeats hlines hpart hcur hcover hl => exec_liftScaleLine_tookSide hrun hbuilt hready hem hw hnext hrefused hue
        ⟨hn0, hroom⟩ hend hmode hbeats hlines hpart hcur hcover hl⟩
  · intro b keeps
    refine ⟨fun hstate => ?_, fun hstate => ?_⟩
    · have hexec := exec_cbSwitch_valid (p := p) hrun hn hlen hheld hwedged hstate
      have hbank : bank (modBank n (fun b => b.asked p) (emit (.cpAck false) s)) n = (bank s n).asked p := bank_modBank_same (by exact hlen)
      have hother (m : Nat) (hm : m ≠ n) : bank (modBank n (fun b => b.asked p) (emit (.cpAck false) s)) m = bank s m :=
        bank_modBank_other (s := emit (.cpAck false) s) hm
      have hlen' : n < (modBank n (fun b => b.asked p) (emit (.cpAck false) s)).banks.length := (List.length_modify ..).trans_gt hlen
      have hframe : switchLeft n (modBank n (fun b => b.asked p) (emit (.cpAck false) s)) = { s with
        outs := s.outs ++ [.cpAck false]
        banks := (switchLeft n (modBank n (fun b => b.asked p) (emit (.cpAck false) s))).banks
        slices := (switchLeft n (modBank n (fun b => b.asked p) (emit (.cpAck false) s))).slices } := rfl
      have hslices : (modBank n (fun b => b.asked p) (emit (.cpAck false) s)).slices = s.slices := rfl
      have hbusy : busyCores (modBank n (fun b => b.asked p) (emit (.cpAck false) s)) = busyCores s := rfl
      generalize modBank n (fun b => b.asked p) (emit (.cpAck false) s) = v at *
      have hlate {i : Nat} {sl : Slice} (hsl : s.slices[i]? = some sl) (hk : keeps sl) : Consumer.slice i ∈ busyCores v ++ lateSlices n v :=
        List.mem_append_right _ (mem_lateSlices.2 ⟨i, sl, by rw [hslices]; exact hsl, hk, rfl⟩)
      refine ⟨_, hexec, hframe, fun hidle hnone => ?_, fun hsome => ?_, fun i sl hsl => ?_, fun m hm => (bank_switchLeft_other hm).trans (hother m hm)⟩
      · rw [switchLeft_ended hlen' (hbusy.trans (busyCores_idle hidle)) (by rw [hslices]; exact hnone), hbank]
        rfl
      · have hflip : busyCores v ++ lateSlices n v ≠ [] := by
          rcases hsome with h | ⟨sl, hsl, hk⟩
          · simp [hbusy, h]
          · obtain ⟨i, hi⟩ := List.mem_iff_getElem?.1 hsl
            exact List.ne_nil_of_mem (hlate hi hk)
        obtain ⟨hswitching, hlive, hgen, hfl⟩ := switchLeft_waits hlen' hflip
        rw [hbank] at hlive hgen
        exact ⟨hswitching, hlive, hgen, fun x hx => by rw [hfl, hbusy]; exact List.mem_append_left _ hx⟩
      · have hslice := liftSlice_switchLeft (n := n) (s := v) (i := i) (sl := sl) (by rw [hslices]; exact hsl)
        rw [hbank] at hslice
        refine ⟨fun hw => by rw [hslice, sliceMeets_away hw], fun hk => ?_, fun w hw => ⟨fun h => ?_, fun hk => ?_, fun hreset hlost hloaded hk => ?_⟩⟩
        · rw [(switchLeft_waits hlen' (List.ne_nil_of_mem (hlate hsl hk))).2.2.2]
          exact hlate hsl hk
        · rw [hslice, sliceMeets_reloads hw h]
        · rw [hslice, sliceMeets_keeps hw hk]
          rfl
        · rw [hslice, sliceMeets_takes hw hreset hlost hloaded hk]
          rfl
    · cases hfree : cbFree (bank s n) with
      | true =>
        have hidle : (bank s n).state = .opn ∨ (bank s n).state = .rejected := by
          rcases cbFree_iff.1 hfree with h | h | h
          · exact .inl h
          · exact absurd h hstate
          · exact .inr h
        refine ⟨_, exec_cbSwitch_ignored (p := p) hrun hn hlen hheld hwedged hidle, rfl, fun _ => bank_modBank_same (s := emit (.cpAck false) s) hlen,
          fun h => ?_, fun m hm => bank_modBank_other hm⟩
        rw [not_cbFree_iff.2 h] at hfree
        cases hfree
      | false =>
        refine ⟨_, exec_cbSwitch_busy (p := p) hrun hn hlen hheld hwedged hfree, rfl, fun h => ?_,
          fun _ => bank_modBank_same (s := emit (.cpAck false) s) hlen, fun m hm => bank_modBank_other hm⟩
        rw [cbFree_iff.2 (h.imp_right .inr)] at hfree
        cases hfree

end Sys2Proof.Proofs
end
